-- ==== Sys2Proof/Word.lean ====
section
/-!
DEFINITION. The word types of the A16 and the shape of its sparse tables.

`Table α` is a finite map from keys to entries as plain data: keys strictly rising, and no entry
equal to the value an unlisted key reads as. Its operations are in Machine/Table.lean.
-/

namespace Sys2Proof

/-- One byte (R6). -/
abbrev Byte := BitVec 8

/-- A 32-bit register or structure word. -/
abbrev Word := BitVec 32

/-- A 64-bit register pair (R7). -/
abbrev DWord := BitVec 64

/-- A sparse table: entries by rising key. What an unlisted key reads as is said by the reader. -/
abbrev Table (α : Type) := List (Nat × α)

/-- A memory: a table of bytes, in the host's cells. -/
abbrev Memory := List (Nat × BitVec 8)

end Sys2Proof
end

