-- ==== Sys2Proof/Syntax.lean ====
section
/-!
DEFINITION. The commands the die takes: one constructor for each of the 214 rows of
spec/opcode_table.json, with the operands the row's event carries. The rows of the table have no bit
fields, so the operands are plain data. What the outside world knows and the die does not (bytes a
host read returns, levels of pins, the verdict on a keying message) enters as an operand.
-/

namespace Sys2Proof

/-- The five masters of the bus matrix (R325). -/
inductive Master where
  | hif | goose | dbg | icpHub | soundGw
  deriving DecidableEq, Repr

/-- One access of the bus matrix: its master, the host function that issued it (0 PF, 1 to 16 VF), the
BAR and offset, the length in bytes and the byte enables within the request (R334). For the masters inside the die an
offset from 2^26 up stands for the device address that is 2^26 less, outside register space (R326, port 12). -/
structure Acc where
  master : Master
  fn     : Nat
  bar    : Nat
  off    : Nat
  size   : Nat
  en     : Nat
  deriving DecidableEq, Repr

/-- A keying message as it arrives (R303): the fields of a hello, its certificate chain and signature or MAC as `proof`, and what this
die's checks of these answer (`verified`, DESIGN CHOICE, log entry 4). -/
structure KeyMsg where
  serial   : BitVec 64
  die      : BitVec 6
  port     : Nat
  secVer   : BitVec 7
  epoch    : BitVec 64
  nonce    : List Byte
  pub      : List Byte
  proof    : List Byte
  verified : Bool
  deriving DecidableEq, Repr

/-- A CREDIT_SYNC as it arrives (R308), with the verdict of its MAC. -/
structure SyncMsg where
  epoch    : BitVec 64
  granted  : List Nat
  returned : List Nat
  lastSeq  : BitVec 32
  macOk    : Bool
  deriving DecidableEq, Repr

/-- A window grant as the GRANT flit carries it (R316). -/
structure GrantMsg where
  die     : Nat
  part    : Nat
  window  : Nat
  srcPart : Nat
  scratch : Bool
  base    : Nat
  size    : Nat
  limit   : Nat
  deriving DecidableEq, Repr

/-- What another die of the product reports to the machine lead (R46). -/
structure RemoteDie where
  die       : Nat
  serial    : BitVec 64
  reachable : Bool
  secVer    : BitVec 7
  holdsPart : Bool
  deriving DecidableEq, Repr

/-- Die sections of R390 that other dies supplied for a report: die number and 224 bytes (R391). -/
abbrev Sections := List (Nat × List Byte)

/-- Which outstanding host read a host-link event concerns: the poll or fetch of a queue, or a read
of the `i`-th started command of a queue at a host address. -/
inductive ReadTarget where
  | poll (q : Nat)
  | fetch (q : Nat)
  | command (q i addr : Nat)
  deriving DecidableEq, Repr

/-- What a configuration request writes of a function's configuration space that the manual's rules turn on (R226, R430): Bus Master
Enable, MSI-X Enable with the function mask, the D state of a VF, PME Enable; or nothing of these. -/
inductive ConfigAct where
  | other
  | command (busMaster : Bool)
  | msix (enable mask : Bool)
  | power (d3hot : Bool)
  | pme (enable : Bool)
  deriving DecidableEq, Repr

/-- The two error answers of PCI Express to a read (R526). -/
inductive ReadError where
  | unsupportedRequest | completerAbort
  deriving DecidableEq, Repr

/-- What the machine lead must know of a queue of another die to poll and fetch for it (R227): its ring and doorbell record, the function
whose memory they are in, GEN, whether it is enabled, parked, halted or discarding and up to where, the next entry its die expects, the
first that it has no room for yet, its consumer index, and whether it was kicked. -/
structure QueueInfo where
  base       : BitVec 64
  db         : BitVec 64
  sizeLog2   : BitVec 5
  fn         : Nat
  gen        : Word
  enable     : Bool
  park       : Bool
  halted     : Bool
  discarding : Bool
  discardTo  : Option Word
  fetched    : Word
  room       : Word
  cons       : Word
  kick       : Bool
  deriving DecidableEq, Repr

/-- What a FWD flit carries (R227 to R229, R250). To the die that owns a queue: an entry with its ring index, what a poll read, a poll or
fetch that failed, bytes that a command's host read returned, or its failure. To the machine lead: what it must know of a queue, and for the
host a write, a read or a message. BAR2 accesses and their answers, and how many writes the lead has passed on. To any die: that it has been
admitted to a machine (R46), the state of a partition on the sender and a tenant command that the lead takes to it (R379: 0 TENANT_BEGIN,
1 TENANT_END, 2 PART_DESTROY), a partition under ledger halt (R469), and a die that has been reset (R311). -/
inductive FwdMsg where
  | entry (q : Nat) (index : Word) (bytes : List Byte)
  | polled (q : Nat) (prod gen : Word) (idle : Bool)
  | pollFailed (q : Nat)
  | data (q i addr : Nat) (bytes : List Byte)
  | readFailed (q i addr kind : Nat)
  | queueIs (q : Nat) (k : QueueInfo)
  | hostWrite (fn addr : Nat) (bytes : List Byte)
  | hostRead (fn addr len : Nat)
  | message (fn v : Nat)
  | passed (n : Nat)
  | write (fn off : Nat) (data : Nat) (size : Nat)
  | read (fn off size : Nat)
  | answer (fn : Nat) (data : BitVec 64)
  | halt (p : Nat)
  | ended (d : Nat)
  | join (mask : BitVec 64) (dies : List RemoteDie)
  | part (p state : Nat)
  | act (op p : Nat) (ide : Bool)
  deriving DecidableEq, Repr

/-- The commands: one constructor per row of the table, in the table's order. `q` is a queue number
(R202), `i` a position among the started commands of a queue, `n` an Islet, `p` a Strait port. -/
inductive Instr where
  -- common commands
  | nop (q : Nat)
  | signal (q : Nat)
  | wait (q : Nat)
  | fence (q : Nat)
  | tagSet (q : Nat)
  | tagCheck (q : Nat)
  -- Matrix engine
  | mxMatmul (n : Nat)
  -- Vector engine
  | vxConvert (n : Nat)
  | vxAdd (n : Nat)
  | vxSub (n : Nat)
  | vxMul (n : Nat)
  | vxDiv (n : Nat)
  | vxAxpy (n : Nat)
  | vxMin (n : Nat)
  | vxMax (n : Nat)
  | vxFunc (n : Nat)
  | vxReduce (n : Nat)
  | vxTree (n : Nat)
  | vxPackAct (n : Nat)
  | vxUnpackAct (n : Nat)
  | vxDropout (n : Nat)
  | vxMask (n : Nat)
  | vxNorm (n : Nat)
  | vxClip (n : Nat)
  | vxOptStep (n : Nat)
  -- Move engine
  | mvCopy (n i : Nat)
  | mvFill (n i : Nat)
  | mvTdescLoad (n i : Nat)
  | mvGatherReq (n i : Nat)
  -- management commands
  | partCreate
  | partDestroy
  | tenantBegin
  | tenantEnd (q : Nat)
  | domainSet
  | wakeArm
  | paceSet
  | voltSet
  | aonLp
  | attest (q : Nat) (sections : Sections)
  | sessionExchange (q : Nat) (request : List Byte) (ok : Bool) (sections : Sections)
  | weightLoad (q : Nat)
  | windowOpen (q : Nat)
  | windowClose (q : Nat)
  | selftest (q : Nat)
  | calibrate
  | ledgerAudit (q : Nat)
  | debugOpen
  | debugClose
  | operatorKeyFuse
  | gpioOwn
  | fwStage
  | fwCommit
  | randGet (q : Nat)
  | machineJoin (dies : List RemoteDie)
  | scrubConfig
  | exportSeal (q : Nat)
  -- the life of a command
  | commandStart (q : Nat)
  | tagWaitPoint (q i : Nat)
  | commandComplete (q i : Nat)
  | completionPost (c : Nat)
  | waitTimeout (q : Nat)
  | refusalComplete (q i : Nat)
  | squareStall (n : Nat)
  -- rings
  | doorbellPoll (q : Nat)
  | pollReadComplete (q : Nat) (prod gen : Word)
  | queueIdle (q : Nat)
  | entryFetchComplete (q : Nat) (bytes : List Byte)
  | hostReadTimeout (t : ReadTarget)
  | hostReadError (t : ReadTarget) (e : ReadError)
  | hifKick (fn q : Nat)
  | queueEnable (fn q : Nat) (park : Bool)
  | queueDisable (fn q : Nat)
  | queuePark (fn q : Nat)
  | queueUnpark (fn q : Nat)
  | resume (fn q : Nat)
  | discard (fn q : Nat)
  | cqEnable (fn : Nat) (event : Bool) (c : Nat) (cfg : Word)
  | cqDisable (fn : Nat) (event : Bool) (c : Nat) (cfg : Word)
  | cqHeadWrite (fn c : Nat) (head : Word)
  | eqHeadWrite (fn e : Nat) (head : Word)
  -- register writes with rows of their own
  | islQabort (fn n : Nat) (bits : BitVec 3)
  | ldgReleaseSnapshot (fn : Nat)
  | ldgReleasePort (fn : Nat) (ports : BitVec 10)
  | dbgRelease (m : Master) (fn : Nat) (masters : BitVec 5)
  | keyRetry (fn p : Nat)
  | trayFanDutyWrite (fn k : Nat) (duty : BitVec 8)
  | gpioOutWrite (m : Master) (fn : Nat) (v : BitVec 24)
  | gpioSetWrite (m : Master) (fn : Nat) (v : BitVec 24)
  | gpioClrWrite (m : Master) (fn : Nat) (v : BitVec 24)
  | gpioTglWrite (m : Master) (fn : Nat) (v : BitVec 24)
  | gpioCfgWrite (m : Master) (fn k : Nat) (v : Word)
  | dbgMemAccess (m : Master) (fn : Nat) (write : Bool) (data : Word)
  | dbgLogRead (m : Master) (fn k : Nat)
  | registerWrite (a : Acc) (data : BitVec 64)
  -- host link
  | heldRequestTimeout (a : Acc)
  | bar2Forward (fn : Nat) (write : Bool) (off : Nat) (data : Word)
  | pcieConfigRequest (fn : Nat) (c : ConfigAct)
  | earlyMemoryRequest (fn : Nat)
  -- Strait links
  | flitSlot (p : Nat)
  | idleReceive (p : Nat) (raw : List Byte)
  | probeSend (p : Nat)
  | probeReceive (p : Nat) (raw : List Byte)
  | probeEchoReceive (p : Nat) (raw : List Byte) (ns : Nat)
  | silenceTimeout (p : Nat)
  | probeTimeout (p : Nat)
  | creditDeadline (p vc : Nat)
  | nakReceive (p : Nat) (raw : List Byte)
  | fecLockLoss (p : Nat)
  | partnerTraining (p : Nat)
  | trainingDone (p : Nat) (ok : Bool)
  | holdReceive (p : Nat)
  | portEnable (p : Nat)
  | helloI (p : Nat) (raws : List (List Byte)) (m : KeyMsg)
  | helloR (p : Nat) (raws : List (List Byte)) (m : KeyMsg)
  | finishI (p : Nat) (raws : List (List Byte)) (m : KeyMsg)
  | finishR (p : Nat) (raws : List (List Byte)) (m : KeyMsg)
  | keyRefused (p : Nat) (raws : List (List Byte))
  | helloResend (p : Nat)
  | creditSync (p : Nat) (raw : List Byte) (m : SyncMsg)
  | lostNotice (p : Nat) (raw : List Byte) (xfer bytes die port : Nat)
  | grant (p : Nat) (raw : List Byte) (g : GrantMsg)
  | revoke (p : Nat) (raw : List Byte) (die part window : Nat)
  | revokeAck (p : Nat) (raw : List Byte) (part window sent : Nat)
  | winDataReceive (p : Nat) (raw : List Byte)
  | winAck (p : Nat) (raw : List Byte) (xfer bytes : Nat)
  | gatherReqReceive (p : Nat) (raw : List Byte)
  | gatherServiceStart (n k : Nat)
  | xferVerdict (p : Nat) (raw : List Byte) (xfer : Nat) (refused poisoned : Bool) (sent info : Nat)
  | fwdReceive (p : Nat) (raw : List Byte) (m : FwdMsg)
  | sleepReq (p : Nat) (raw : List Byte) (off : Bool)
  | sleepAck (p : Nat) (raw : List Byte)
  | wakePatternSend (p : Nat)
  | wakePatternDetect (p : Nat)
  | wakeTimeout (p : Nat)
  -- coherence
  | readShared (agent line : Nat)
  | readOwn (agent line : Nat)
  | upgrade (agent line : Nat)
  | writeback (agent line : Nat)
  | evictClean (agent line : Nat)
  | invalidate (agent line : Nat)
  | recallShare (agent line : Nat)
  | recallOwn (agent line : Nat)
  | recallAck (agent line : Nat)
  | nonCachingAccess (addr len : Nat) (write : Option (List Byte))
  | invalidationApply (agent line : Nat)
  -- memory upkeep
  | hbmPatrolRead (stack : Nat) (upsets : List (Nat × Nat)) (late : Bool)
  | spPatrolRead (n : Nat) (upsets : List (Nat × Nat))
  | scrubTally
  | refusalTally
  | firmwareRebuild (block : Nat)
  | fillRunDone
  | weightLoadChunk (q : Nat)
  | hbmRefresh (stack pc : Nat) (mult : BitVec 2)
  | hbmPhyCalibration (stack : Nat)
  -- power
  | quiesceDone (q : Nat)
  | quiesceTimeout (q : Nat)
  | domainTransitionDone (d : Nat)
  | pinWake (k : Nat)
  | pfD3hot
  | aonLpExitTlp
  | pfD0Return
  | vfFlr (fn : Nat)
  | pfFlr
  -- IDE and SPDM
  | ideStreamEnable (k : Nat)
  | ideIntegrityFail (k : Nat)
  | getVersion (fn : Nat) (request : List Byte)
  | getCapabilities (fn : Nat) (request : List Byte)
  | negotiateAlgorithms (fn : Nat) (request : List Byte)
  | getDigests (fn : Nat) (request : List Byte)
  | getCertificate (fn : Nat) (request : List Byte)
  | challenge (fn : Nat) (request : List Byte)
  | getMeasurements (fn : Nat) (request : List Byte) (sections : Sections)
  | keyExchange (fn : Nat) (request : List Byte)
  | finish (fn : Nat) (request : List Byte) (ok : Bool)
  | endSession (fn : Nat) (request : List Byte)
  -- regulator, temperature, fans
  | voutPoll (mv : Nat) (status : BitVec 16)
  | voltSetTimeout
  | pmbusTelemetryRead (mv ma : Nat) (tempC : Int)
  | pmbusAlert (status : BitVec 16)
  | paceShortfall
  | powerLimitCheck (avgW : Nat)
  | thermalAlert (avgC : Int)
  | telemetryUpdate (avgW : Nat) (avgC : Int)
  | thermalTrip (sensorC : Int)
  | brownout (slot tray : BitVec 3) (xtal : Bool)
  | fanTachUpdate (k : Nat)
  | fanStall (k : Nat)
  -- pins
  | gpioLevelAccept (k : Nat) (level : Bool)
  | captureEdge (f : Nat)
  | tachSecond
  | syncOutPulse
  | pwmPeriodStart (k : Nat)
  -- randomness, reset and boot
  | trngSample
  | trngTestFail
  | powerOnReset (slot tray : BitVec 3) (xtal : Bool)
  | warmReset (lowUs : Nat) (xtal : Bool)
  | perstReset (xtal : Bool)
  | firmwareVerified
  | hbmTrainingDone (stack : Nat) (ok : Bool)
  | gooseReady
  | bootDeadline
  | porNLow (lowUs : Nat)
  | perstNRise
  -- the rest
  | registerRead (a : Acc)
  | flitCrcFailure (p : Nat) (raw : List Byte)
  | tachRisingEdge (k : Nat)
  | jtagInstruction (code : BitVec 8)
  | selftestEnd (n : Nat) (passed : Bool) (failing : Nat)
  | calibrationEnd
  | auditCreditExchange (p : Nat) (raw : List Byte) (returned : List Nat)
  | auditWaitTimeout (q : Nat)
  | hostReadReturn (q i addr : Nat) (bytes : List Byte)
  | flashProgramDone
  | fuseBlowDone (readBackOk : Bool)
  deriving DecidableEq, Repr

end Sys2Proof
end

