-- ==== Sys2Proof/WellFormed.lean ====
section
/-!
DEFINITION. Which commands are well formed: every operand names something the die has. Islets are 0 to 15, Strait ports 0 to 9
and HBM stacks 0 and 1 (the die's table of chapter 1), partitions 0 to 15 with functions 0 to 16 (R17), queues 0 to 64,
completion rings 0 to 64 and event rings 0 to 16 (R202), pins 0 to 23 (chapter 18). The machine runs on an ill-formed command
as on one whose object is absent.
-/

namespace Sys2Proof

/-- A queue number (R202): 48 engine queues, 16 tenant rings, the operator ring. -/
def validQueue (q : Nat) : Bool := decide (q < 65)

/-- Queue `q` of die `d`, as 128 × d + q: the machine lead serves the queues of every die (R45, R227). -/
def leadQueue (q : Nat) : Bool := decide (q / 128 < 64) && validQueue (q % 128)

/-- The 256 bytes of a flit (R290). -/
def flitLong (raw : List Byte) : Bool := decide (raw.length = 256)

/-- The flits of a message. -/
def flits (raws : List (List Byte)) : Bool := !raws.isEmpty && raws.all flitLong

/-- An engine queue number. -/
def validEngineQueue (q : Nat) : Bool := decide (q < 48)

/-- A ring of management commands: 48 to 64. -/
def validMgmtQueue (q : Nat) : Bool := decide (48 ≤ q) && decide (q < 65)

/-- An Islet number. -/
def validIslet (n : Nat) : Bool := decide (n < 16)

/-- A Strait port number. -/
def validPort (p : Nat) : Bool := decide (p < 10)

/-- A host function: the PF or a VF. -/
def validFn (f : Nat) : Bool := decide (f < 17)

/-- A coherent agent: the Vector engines 0 to 15 and the Goose (R256). -/
def validAgent (a : Nat) : Bool := decide (a < 17)

/-- An outstanding host read names a queue of the die. -/
def ReadTarget.valid : ReadTarget → Bool
  | .poll q => leadQueue q
  | .fetch q => leadQueue q
  | .command q _ _ => leadQueue q

/-- What a FWD flit names is something of the die, or on the machine lead of a die of the machine. -/
def FwdMsg.valid : FwdMsg → Bool
  | .entry q _ b => validQueue q && decide (b.length = 64)
  | .polled q _ _ _ => validQueue q
  | .pollFailed q => validQueue q
  | .data q i _ _ => validQueue q && decide (i < 8)
  | .readFailed q i _ k => validQueue q && decide (i < 8) && decide (1 ≤ k) && decide (k ≤ 3)
  | .queueIs q k => validQueue q && validFn k.fn
  | .hostWrite f _ _ => validFn f
  | .hostRead f _ _ => validFn f
  | .message f v => validFn f && decide (v < if f = 0 then 128 else 8)
  | .passed _ => true
  | .write f _ _ _ => validFn f
  | .read f _ _ => validFn f
  | .answer f _ => validFn f
  | .halt p => decide (p < 16)
  | .ended d => decide (d < 64)
  | .join _ _ => true
  | .part p c => decide (p < 16) && decide (c < 5)
  | .act op p _ => decide (op < 3) && decide (p < 16)

/-- The operands of a command name things the die has. -/
def Instr.wellFormed : Instr → Bool
  | .nop q => validQueue q
  | .signal q => validQueue q
  | .wait q => validQueue q
  | .fence q => validEngineQueue q
  | .tagSet q => validEngineQueue q
  | .tagCheck q => validEngineQueue q
  | .mxMatmul n => validIslet n
  | .vxConvert n => validIslet n
  | .vxAdd n => validIslet n
  | .vxSub n => validIslet n
  | .vxMul n => validIslet n
  | .vxDiv n => validIslet n
  | .vxAxpy n => validIslet n
  | .vxMin n => validIslet n
  | .vxMax n => validIslet n
  | .vxFunc n => validIslet n
  | .vxReduce n => validIslet n
  | .vxTree n => validIslet n
  | .vxPackAct n => validIslet n
  | .vxUnpackAct n => validIslet n
  | .vxDropout n => validIslet n
  | .vxMask n => validIslet n
  | .vxNorm n => validIslet n
  | .vxClip n => validIslet n
  | .vxOptStep n => validIslet n
  | .mvCopy n i => validIslet n && decide (i < 8)
  | .mvFill n i => validIslet n && decide (i < 8)
  | .mvTdescLoad n i => validIslet n && decide (i < 8)
  | .mvGatherReq n i => validIslet n && decide (i < 8)
  | .tenantEnd q => validMgmtQueue q
  | .attest q _ => validMgmtQueue q
  | .sessionExchange q _ _ _ => validMgmtQueue q
  | .weightLoad q => validMgmtQueue q
  | .windowOpen q => validMgmtQueue q
  | .windowClose q => validMgmtQueue q
  | .selftest q => validMgmtQueue q
  | .ledgerAudit q => validMgmtQueue q
  | .randGet q => validMgmtQueue q
  | .exportSeal q => validMgmtQueue q
  | .weightLoadChunk q => validMgmtQueue q
  | .commandStart q => validQueue q
  | .tagWaitPoint q i => validEngineQueue q && decide (i < 8)
  | .commandComplete q i => validQueue q && decide (i < 8)
  | .completionPost c => decide (c < 65)
  | .waitTimeout q => validQueue q
  | .refusalComplete q i => validQueue q && decide (i < 8)
  | .squareStall n => validIslet n
  | .doorbellPoll q => leadQueue q
  | .pollReadComplete q _ _ => leadQueue q
  | .queueIdle q => leadQueue q
  | .entryFetchComplete q b => leadQueue q && decide (b.length % 64 = 0) && decide (b.length ≤ 512)
  | .hostReadTimeout t => t.valid
  | .hostReadError t _ => t.valid
  | .hifKick f q => validFn f && validQueue q
  | .queueEnable f q _ => validFn f && validQueue q
  | .queueDisable f q => validFn f && validQueue q
  | .queuePark f q => validFn f && validQueue q
  | .queueUnpark f q => validFn f && validQueue q
  | .resume f q => validFn f && validQueue q
  | .discard f q => validFn f && validQueue q
  | .cqEnable f e c _ => validFn f && decide (c < if e then 17 else 65)
  | .cqDisable f e c _ => validFn f && decide (c < if e then 17 else 65)
  | .cqHeadWrite f c _ => validFn f && decide (c < 65)
  | .eqHeadWrite f e _ => validFn f && decide (e < 17)
  | .islQabort f n _ => validFn f && validIslet n
  | .ldgReleaseSnapshot f => validFn f
  | .ldgReleasePort f _ => validFn f
  | .dbgRelease _ f _ => validFn f
  | .keyRetry f p => validFn f && validPort p
  | .trayFanDutyWrite f k _ => validFn f && decide (k < 4)
  | .gpioOutWrite _ f _ => validFn f
  | .gpioSetWrite _ f _ => validFn f
  | .gpioClrWrite _ f _ => validFn f
  | .gpioTglWrite _ f _ => validFn f
  | .gpioCfgWrite _ f k _ => validFn f && decide (k < 24)
  | .dbgMemAccess _ f _ _ => validFn f
  | .dbgLogRead _ f k => validFn f && decide (k < 8)
  | .registerWrite a _ => validFn a.fn
  | .registerRead a => validFn a.fn
  | .heldRequestTimeout a => validFn a.fn
  | .bar2Forward f _ _ _ => validFn f
  | .pcieConfigRequest f _ => validFn f
  | .earlyMemoryRequest f => validFn f
  | .flitSlot p => validPort p
  | .idleReceive p r => validPort p && flitLong r
  | .probeSend p => validPort p
  | .probeReceive p r => validPort p && flitLong r
  | .probeEchoReceive p r _ => validPort p && flitLong r
  | .silenceTimeout p => validPort p
  | .probeTimeout p => validPort p
  | .creditDeadline p v => validPort p && decide (v < 4)
  | .nakReceive p r => validPort p && flitLong r
  | .fecLockLoss p => validPort p
  | .partnerTraining p => validPort p
  | .trainingDone p _ => validPort p
  | .holdReceive p => validPort p
  | .portEnable p => validPort p
  | .helloI p r _ => validPort p && flits r
  | .helloR p r _ => validPort p && flits r
  | .finishI p r _ => validPort p && flits r
  | .finishR p r _ => validPort p && flits r
  | .keyRefused p r => validPort p && flits r
  | .helloResend p => validPort p
  | .creditSync p r m => validPort p && flitLong r && decide (m.granted.length = 4) && decide (m.returned.length = 4)
  | .lostNotice p r _ _ d _ => validPort p && flitLong r && decide (d < 64)
  | .winAck p r _ _ => validPort p && flitLong r
  | .xferVerdict p r _ _ _ _ _ => validPort p && flitLong r
  | .grant p r g => validPort p && flitLong r && decide (g.part < 16) && decide (g.window < 16) && decide (g.srcPart < 16)
  | .revoke k r _ p w => validPort k && flitLong r && decide (p < 16) && decide (w < 16)
  | .revokeAck k r p w _ => validPort k && flitLong r && decide (p < 16) && decide (w < 16)
  | .winDataReceive p r => validPort p && flitLong r
  | .gatherReqReceive p r => validPort p && flitLong r
  | .gatherServiceStart n _ => validIslet n
  | .fwdReceive p r m => validPort p && flitLong r && m.valid
  | .sleepReq p r _ => validPort p && flitLong r
  | .sleepAck p r => validPort p && flitLong r
  | .wakePatternSend p => validPort p
  | .wakePatternDetect p => validPort p
  | .wakeTimeout p => validPort p
  | .readShared a _ => validAgent a
  | .readOwn a _ => validAgent a
  | .upgrade a _ => validAgent a
  | .writeback a _ => validAgent a
  | .evictClean a _ => validAgent a
  | .invalidate a _ => validAgent a
  | .recallShare a _ => validAgent a
  | .recallOwn a _ => validAgent a
  | .recallAck a _ => validAgent a
  | .invalidationApply a _ => validAgent a
  | .hbmPatrolRead k u _ => decide (k < 2) && u.all (fun x => decide (x.2 < 3))
  | .spPatrolRead n _ => validIslet n
  | .hbmRefresh k c _ => decide (k < 2) && decide (c < 32)
  | .hbmPhyCalibration k => decide (k < 2)
  | .quiesceDone q => validQueue q
  | .quiesceTimeout q => validQueue q
  | .domainTransitionDone d => decide (d < 35)
  | .pinWake k => decide (k < 24)
  | .vfFlr f => validFn f && decide (0 < f)
  | .ideStreamEnable k => validFn k
  | .ideIntegrityFail k => validFn k
  | .getVersion f _ => validFn f
  | .getCapabilities f _ => validFn f
  | .negotiateAlgorithms f _ => validFn f
  | .getDigests f _ => validFn f
  | .getCertificate f _ => validFn f
  | .challenge f _ => validFn f
  | .getMeasurements f _ _ => validFn f
  | .keyExchange f _ => validFn f
  | .finish f _ _ => validFn f
  | .endSession f _ => validFn f
  | .fanTachUpdate k => decide (k < 4)
  | .fanStall k => decide (k < 4)
  | .gpioLevelAccept k _ => decide (k < 24)
  | .captureEdge f => decide (f < 64)
  | .pwmPeriodStart k => decide (k < 4)
  | .hbmTrainingDone k _ => decide (k < 2)
  | .flitCrcFailure p r => validPort p && flitLong r
  | .tachRisingEdge k => decide (k < 24)
  | .selftestEnd n _ f => validIslet n && decide (f < 1024)
  | .auditCreditExchange p r l => validPort p && flitLong r && decide (l.length = 4)
  | .auditWaitTimeout q => validQueue q
  | .hostReadReturn q i _ _ => leadQueue q && decide (i < 8)
  | .partCreate | .partDestroy | .tenantBegin | .domainSet | .wakeArm | .paceSet | .voltSet | .aonLp | .calibrate | .debugOpen | .debugClose
  | .operatorKeyFuse | .gpioOwn | .fwStage | .fwCommit | .machineJoin _ | .scrubConfig | .nonCachingAccess _ _ _
  | .scrubTally | .refusalTally | .firmwareRebuild _ | .fillRunDone | .pfD3hot | .aonLpExitTlp | .pfD0Return | .pfFlr
  | .voutPoll _ _ | .voltSetTimeout | .pmbusTelemetryRead _ _ _ | .pmbusAlert _ | .paceShortfall | .powerLimitCheck _
  | .thermalAlert _ | .telemetryUpdate _ _ | .thermalTrip _ | .brownout _ _ _ | .tachSecond | .syncOutPulse
  | .trngSample | .trngTestFail | .powerOnReset _ _ _ | .warmReset _ _ | .perstReset _ | .firmwareVerified | .gooseReady
  | .bootDeadline | .porNLow _ | .perstNRise | .jtagInstruction _ | .calibrationEnd | .flashProgramDone
  | .fuseBlowDone _ => true

end Sys2Proof
end

