-- ==== Sys2Proof/Decode.lean ====
section
/-!
DEFINITION. Decoding of table words. No row of spec/opcode_table.json gives a bit of an encoding (every
row's list of fields is empty: the rows are events of the die), so no word spells a command. The one
encoding the spec gives, the 64-byte submission entry, is read by Machine/Entry.lean.
-/

namespace Sys2Proof

/-- The command a word spells by the table's bits: the table gives none. -/
def decodeTableWord (_nbits _w : Nat) : Option Instr := none

end Sys2Proof
end

