-- ==== Sys2Proof/Machine/Table.lean ====
section
/-!
DEFINITION. Sparse tables in one canonical form: keys strictly rising, no entry equal to what an
unlisted key reads as. Memory is the table of bytes whose unlisted address reads as 0 (DESIGN CHOICE, log entry 2).
-/

namespace Sys2Proof.Machine

/-- The entry of key `k`, or `d` where none is listed. -/
def Table.get {α : Type} (d : α) : Table α → Nat → α
  | [], _ => d
  | (j, v) :: t, k => if k = j then v else Table.get d t k

/-- The table without its entry at `k`. -/
def Table.drop {α : Type} : Table α → Nat → Table α
  | [], _ => []
  | (j, v) :: t, k => if k = j then Table.drop t k else (j, v) :: Table.drop t k

/-- The table with an entry `v` at `k`, in rising order. -/
def Table.put {α : Type} : Table α → Nat → α → Table α
  | [], k, v => [(k, v)]
  | (j, w) :: t, k, v =>
    if k < j then (k, v) :: (j, w) :: t
    else if k = j then (k, v) :: t
    else (j, w) :: Table.put t k v

/-- Store `v` at `k`: an entry, or none where `v` is what an unlisted key reads as. -/
def Table.set {α : Type} [DecidableEq α] (d : α) (t : Table α) (k : Nat) (v : α) : Table α :=
  if v = d then Table.drop t k else Table.put t k v

/-- The keys listed. -/
def Table.keys {α : Type} (t : Table α) : List Nat := t.map Prod.fst

/-- Every key is above `lo`, keys rise strictly, and no entry equals `d`. -/
def Table.wfFrom {α : Type} [DecidableEq α] (d : α) : Option Nat → Table α → Bool
  | _, [] => true
  | lo, (j, v) :: t =>
    (match lo with
      | none => true
      | some l => decide (l < j)) && decide (v ≠ d) && Table.wfFrom d (some j) t

/-- The canonical form. -/
def Table.wf {α : Type} [DecidableEq α] (d : α) (t : Table α) : Bool := Table.wfFrom d none t

/-- The entries whose key is outside `[lo, hi)`. -/
def Table.clear {α : Type} (t : Table α) (lo hi : Nat) : Table α :=
  t.filter (fun e => decide (e.1 < lo) || decide (hi ≤ e.1))

/-! ### Memory -/

/-- The canonical form of a memory. -/
def Memory.wf (m : Memory) : Bool := Table.wf (0 : Byte) m

/-- The byte at an address. -/
def Memory.byte (m : Memory) (a : Nat) : Byte := Table.get 0 m a

/-- Store one byte. -/
def Memory.setByte (m : Memory) (a : Nat) (v : Byte) : Memory := Table.set 0 m a v

/-- `n` bytes from an address upward. -/
def Memory.bytes (m : Memory) (a : Nat) : Nat → List Byte
  | 0 => []
  | n + 1 => Memory.byte m a :: Memory.bytes m (a + 1) n

/-- Store bytes from an address upward. -/
def Memory.write (m : Memory) (a : Nat) : List Byte → Memory
  | [] => m
  | b :: bs => Memory.write (Memory.setByte m a b) (a + 1) bs

/-- Zero `n` bytes from an address. -/
def Memory.zero (m : Memory) (a n : Nat) : Memory := Table.clear m a (a + n)

/-! ### Little-endian values (R6) -/

/-- The value of little-endian bytes. -/
def leNat : List Byte → Nat
  | [] => 0
  | b :: bs => b.toNat + 256 * leNat bs

/-- `n` little-endian bytes of a value. -/
def leBytes : Nat → Nat → List Byte
  | 0, _ => []
  | n + 1, v => BitVec.ofNat 8 v :: leBytes n (v / 256)

/-- `n` bytes of a list from position `i`; absent bytes read as 0. -/
def slice (l : List Byte) (i n : Nat) : List Byte :=
  let s := (l.drop i).take n
  s ++ List.replicate (n - s.length) 0

/-- The little-endian value of `n` bytes at position `i`. -/
def leAt (l : List Byte) (i n : Nat) : Nat := leNat (slice l i n)

/-- Bits `hi..lo` of a value. -/
def bits (v hi lo : Nat) : Nat := v / 2 ^ lo % 2 ^ (hi + 1 - lo)

/-- Bit `i` of a value. -/
def bit (v i : Nat) : Bool := decide (v / 2 ^ i % 2 = 1)

/-- A Bool as a number. -/
def b2n (b : Bool) : Nat := if b then 1 else 0

/-- The lowest number of `0..n-1` that has the property. -/
def firstBelow (n : Nat) (p : Nat → Bool) : Option Nat := (List.range n).find? p

/-- Insert before the first element that `x` may precede. -/
def insertBy {α : Type} (le : α → α → Bool) (x : α) : List α → List α
  | [] => [x]
  | y :: t => if le x y then x :: y :: t else y :: insertBy le x t

/-- A stable sort. -/
def sortBy {α : Type} (le : α → α → Bool) (l : List α) : List α := l.foldr (insertBy le) []

/-- Set bit `i` of a bit vector to `b`. -/
def setBit {w : Nat} (v : BitVec w) (i : Nat) (b : Bool) : BitVec w :=
  if b then v ||| (1#w <<< i) else v &&& ~~~(1#w <<< i)

/-- A counter that stops at its largest value. -/
def satInc {w : Nat} (c : BitVec w) : BitVec w := if c = BitVec.allOnes w then c else c + 1

/-- A counter raised by `n`, stopping at its largest value. -/
def satAdd {w : Nat} (c : BitVec w) (n : Nat) : BitVec w :=
  if c.toNat + n < 2 ^ w then c + BitVec.ofNat w n else BitVec.allOnes w

end Sys2Proof.Machine
end

