-- ==== Sys2Proof/Machine/Num.lean ====
section
/-!
DEFINITION. The arithmetic formats and their rounding (03). A value is exact: a sign, a natural
mantissa and a power of two. Every operation forms its exact result (or a truncation of it with a
sticky bit) and rounds once.
-/

namespace Sys2Proof.Machine

/-! ### Flags (R81): bit 0 INVALID, 1 DIVZERO, 2 OVERFLOW, 3 UNDERFLOW, 4 INEXACT -/

/-- The five flags. -/
abbrev FpFlags := BitVec 5

/-- No flag raised. -/
def fNone : FpFlags := 0
/-- INVALID. -/
def fInvalid : FpFlags := 0x01
/-- DIVZERO. -/
def fDivZero : FpFlags := 0x02
/-- OVERFLOW. -/
def fOverflow : FpFlags := 0x04
/-- UNDERFLOW. -/
def fUnderflow : FpFlags := 0x08
/-- INEXACT. -/
def fInexact : FpFlags := 0x10

/-! ### Format codes (R56) -/

/-- FP32. -/
def fmtFP32 : Nat := 0
/-- FP64. -/
def fmtFP64 : Nat := 1
/-- T16. -/
def fmtT16 : Nat := 2
/-- H16. -/
def fmtH16 : Nat := 3
/-- E8A. -/
def fmtE8A : Nat := 4
/-- E8B. -/
def fmtE8B : Nat := 5
/-- E6. -/
def fmtE6 : Nat := 6
/-- E4. -/
def fmtE4 : Nat := 7
/-- I8. -/
def fmtI8 : Nat := 8
/-- I4. -/
def fmtI4 : Nat := 9
/-- ACT8. -/
def fmtACT8 : Nat := 0xA
/-- ACT6. -/
def fmtACT6 : Nat := 0xB
/-- MOM8S. -/
def fmtMOM8S : Nat := 0xC
/-- MOM8U. -/
def fmtMOM8U : Nat := 0xD
/-- PAIR32. -/
def fmtPAIR32 : Nat := 0xE

/-- An arithmetic format: codes 0x0 to 0x9. -/
def isArith (f : Nat) : Bool := decide (f < 10)

/-- An integer format. -/
def isInt (f : Nat) : Bool := f == fmtI8 || f == fmtI4

/-- Bits of one value (R56). -/
def fmtBits (f : Nat) : Nat :=
  match f with
  | 0 => 32 | 1 => 64 | 2 => 16 | 3 => 16 | 4 => 8 | 5 => 8 | 6 => 6 | 7 => 4 | 8 => 8 | 9 => 4
  | 0xE => 64
  | _ => 0

/-- What specials a floating format has: infinities and NaNs, the one NaN of E8A, or none (R57). -/
inductive Specials where
  | ieee | oneNan | none
  deriving DecidableEq, Repr

/-- The layout of a floating format (R57). -/
structure FloatFmt where
  exp  : Nat
  frac : Nat
  bias : Nat
  spec : Specials
  deriving DecidableEq, Repr

/-- The layouts of R57. An integer format has no layout here; its row is never used. -/
def floatFmt (f : Nat) : FloatFmt :=
  match f with
  | 1 => ⟨11, 52, 1023, .ieee⟩
  | 2 => ⟨8, 7, 127, .ieee⟩
  | 3 => ⟨6, 9, 31, .ieee⟩
  | 4 => ⟨4, 3, 6, .oneNan⟩
  | 5 => ⟨5, 2, 15, .ieee⟩
  | 6 => ⟨3, 2, 3, .none⟩
  | 7 => ⟨2, 1, 1, .none⟩
  | _ => ⟨8, 23, 127, .ieee⟩

/-- The code of the largest finite magnitude (R57). -/
def FloatFmt.maxCode (l : FloatFmt) : Nat :=
  match l.spec with
  | .ieee => (2 ^ l.exp - 1) * 2 ^ l.frac - 1
  | .oneNan => 2 ^ (l.exp + l.frac) - 2
  | .none => 2 ^ (l.exp + l.frac) - 1

/-- The code of the canonical quiet NaN; 0 where the format has none (R57, R66). -/
def FloatFmt.nanCode (l : FloatFmt) : Nat :=
  match l.spec with
  | .ieee => (2 ^ l.exp - 1) * 2 ^ l.frac + 2 ^ (l.frac - 1)
  | .oneNan => 2 ^ (l.exp + l.frac) - 1
  | .none => 0

/-- The code of +infinity, for the formats that have one. -/
def FloatFmt.infCode (l : FloatFmt) : Nat := (2 ^ l.exp - 1) * 2 ^ l.frac

/-- The sign bit's weight. -/
def FloatFmt.signBit (l : FloatFmt) : Nat := 2 ^ (l.exp + l.frac)

/-! ### Values -/

/-- A decoded value. `fin neg m e` is (-1)^neg × m × 2^e. -/
inductive Val where
  | nan (signalling : Bool)
  | inf (neg : Bool)
  | fin (neg : Bool) (m : Nat) (e : Int)
  deriving DecidableEq, Repr

/-- +0. -/
def Val.zero : Val := .fin false 0 0

/-- 1. -/
def Val.one : Val := .fin false 1 0

/-- Is it a NaN. -/
def Val.isNan : Val → Bool
  | .nan _ => true
  | _ => false

/-- Is it a zero of either sign. -/
def Val.isZero : Val → Bool
  | .fin _ m _ => m == 0
  | _ => false

/-- Is it infinite. -/
def Val.isInf : Val → Bool
  | .inf _ => true
  | _ => false

/-- Its sign. -/
def Val.neg : Val → Bool
  | .nan _ => false
  | .inf n => n
  | .fin n _ _ => n

/-- The negation. -/
def Val.negate : Val → Val
  | .nan q => .nan q
  | .inf n => .inf (!n)
  | .fin n m e => .fin (!n) m e

/-- The value of an integer. -/
def Val.ofInt (i : Int) : Val := .fin (decide (i < 0)) i.natAbs 0

/-- The value a floating code stands for (R57). -/
def decodeFloat (l : FloatFmt) (c : Nat) : Val :=
  let neg := bit c (l.exp + l.frac)
  let e := c / 2 ^ l.frac % 2 ^ l.exp
  let f := c % 2 ^ l.frac
  let finite : Val :=
    if e = 0 then .fin neg f (1 - (l.bias : Int) - l.frac)
    else .fin neg (2 ^ l.frac + f) ((e : Int) - l.bias - l.frac)
  match l.spec with
  | .ieee =>
    if e = 2 ^ l.exp - 1 then
      if f = 0 then .inf neg else .nan (!(bit f (l.frac - 1)))
    else finite
  | .oneNan => if c % 2 ^ (l.exp + l.frac) = 2 ^ (l.exp + l.frac) - 1 then .nan false else finite
  | .none => finite

/-- The value of a code of an arithmetic format; `sgn` is the operand's signedness bit (R58). -/
def decodeVal (f : Nat) (sgn : Bool) (c : Nat) : Val :=
  if isInt f then
    let w := fmtBits f
    let c := c % 2 ^ w
    if sgn && decide (2 ^ (w - 1) ≤ c) then .fin true (2 ^ w - c) 0 else .fin false c 0
  else decodeFloat (floatFmt f) (c % 2 ^ fmtBits f)

/-! ### Rounding (R64 to R68) -/

/-- A rounding mode; STOCH carries the 32-bit random number of R68. -/
inductive Rnd where
  | rne | rtz | rup | rdn
  | stoch (r : Nat)
  deriving DecidableEq, Repr

/-- The mode of a 3-bit code below STOCH (R64). -/
def rndOf (c : Nat) : Rnd :=
  match c with
  | 1 => .rtz
  | 2 => .rup
  | 3 => .rdn
  | _ => .rne

/-- An exact magnitude with its sign: m × 2^e, and a non-zero part below one unit of it where
`sticky`. -/
structure Mag where
  neg    : Bool
  m      : Nat
  e      : Int
  sticky : Bool := false
  deriving DecidableEq, Repr

/-- The exponent of the leading bit. -/
def Mag.top (x : Mag) : Int := (Nat.log2 x.m : Int) + x.e

/-- Floor of `m × 2^e` in units of `2^q`, whether something was cut off, whether the cut part is at
least half a unit, whether more than half, and the cut part as a 32-bit fraction (R68). -/
structure Cut where
  k     : Nat
  rest  : Bool
  half  : Bool
  above : Bool
  f32   : Nat
  deriving DecidableEq, Repr

/-- Cut a magnitude at a unit of `2^q`. -/
def Mag.cut (x : Mag) (q : Int) : Cut :=
  if q ≤ x.e then ⟨x.m * 2 ^ (x.e - q).toNat, x.sticky, false, false, 0⟩
  else
    let d := (q - x.e).toNat
    let k := x.m / 2 ^ d
    let r := x.m % 2 ^ d
    ⟨k, r != 0 || x.sticky, decide (2 ^ (d - 1) ≤ r), decide (2 ^ (d - 1) < r) || (x.sticky && decide (2 ^ (d - 1) ≤ r)),
      r * 2 ^ 32 / 2 ^ d⟩

/-- The rounded number of units (R64, R68). -/
def Cut.round (c : Cut) (rm : Rnd) (neg : Bool) : Nat :=
  let up := match rm with
    | .rne => c.above || (c.half && decide (c.k % 2 = 1))
    | .rtz => false
    | .rup => c.rest && !neg
    | .rdn => c.rest && neg
    | .stoch r => decide (r < c.f32)
  if up then c.k + 1 else c.k

/-- Code and flags. -/
abbrev Coded := Nat × FpFlags

/-- The result of an overflowed conversion (R66). -/
def overflowCode (l : FloatFmt) (rm : Rnd) (neg nanOnOvf : Bool) : Coded :=
  let s := if neg then l.signBit else 0
  let fl := fOverflow ||| fInexact
  match l.spec with
  | .ieee =>
    let toMax := match rm with
      | .rne => false
      | .stoch _ => false
      | .rtz => true
      | .rup => neg
      | .rdn => !neg
    (s + (if toMax then l.maxCode else l.infCode), fl)
  | .oneNan => if nanOnOvf then (l.nanCode, fl) else (s + l.maxCode, fl)
  | .none => (s + l.maxCode, fl)

/-- Round a magnitude to a floating format (R65 to R68). -/
def roundFloat (l : FloatFmt) (rm : Rnd) (nanOnOvf : Bool) (x : Mag) : Coded :=
  let s := if x.neg then l.signBit else 0
  if x.m = 0 ∧ x.sticky = false then (s, fNone)
  else
    let qmin : Int := 1 - (l.bias : Int) - l.frac
    let qtop : Int := x.top - l.frac
    let q := if qtop < qmin then qmin else qtop
    let c := x.cut q
    let k := c.round rm x.neg
    let code := ((q + l.frac + l.bias - 1).toNat) * 2 ^ l.frac + k
    if l.maxCode < code then overflowCode l rm x.neg nanOnOvf
    else
      -- tininess (R67): after rounding with an unbounded exponent, or of the stochastic result
      let tiny := match rm with
        | .stoch _ => decide (code < 2 ^ l.frac)
        | _ =>
          decide (qtop < qmin) &&
            (let ku := (x.cut qtop).round rm x.neg
             -- ku × 2^qtop is below 2^(qmin + frac)
             decide (qtop + 1 < qmin) || decide (ku < 2 ^ (l.frac + 1)))
      let fl := if c.rest then (if tiny then fUnderflow ||| fInexact else fInexact) else fNone
      (s + code, fl)

/-- Round a magnitude to an integer format (R66, R67). -/
def roundIntFmt (f : Nat) (sgn : Bool) (rm : Rnd) (x : Mag) : Coded :=
  let w := fmtBits f
  let c := x.cut 0
  let k := c.round rm x.neg
  if x.neg then
    let lim := if sgn then 2 ^ (w - 1) else 0
    if lim < k then ((2 ^ w - lim) % 2 ^ w, fInvalid)
    else ((2 ^ w - k) % 2 ^ w, if c.rest then fInexact else fNone)
  else
    let lim := if sgn then 2 ^ (w - 1) - 1 else 2 ^ w - 1
    if lim < k then (lim, fInvalid) else (k, if c.rest then fInexact else fNone)

/-- Convert a value to an arithmetic format (R63 to R68). -/
def convertTo (f : Nat) (sgn : Bool) (rm : Rnd) (nanOnOvf : Bool) (v : Val) : Coded :=
  if isInt f then
    match v with
    | .nan _ => (0, fInvalid)
    | .inf neg =>
      let w := fmtBits f
      (if neg then (if sgn then 2 ^ (w - 1) else 0) else (if sgn then 2 ^ (w - 1) - 1 else 2 ^ w - 1), fInvalid)
    | .fin neg m e => roundIntFmt f sgn rm ⟨neg, m, e, false⟩
  else
    let l := floatFmt f
    match v with
    | .nan sig =>
      (match l.spec with
        | .none => (0, fInvalid)
        | _ => (l.nanCode, if sig then fInvalid else fNone))
    | .inf neg =>
      (match l.spec with
        | .ieee => ((if neg then l.signBit else 0) + l.infCode, fNone)
        | _ => overflowCode l rm neg nanOnOvf)
    | .fin neg m e => roundFloat l rm nanOnOvf ⟨neg, m, e, false⟩

/-- The code of a NaN that an operation writes (R63). -/
def nanOf (f : Nat) : Nat := (floatFmt f).nanCode

/-! ### Exact sums and IEEE operations (R69, R70) -/

/-- A result: its value, exact and ready to be rounded, or special. -/
inductive Exact where
  | nan
  | inf (neg : Bool)
  | mag (x : Mag)
  deriving DecidableEq, Repr

/-- A signed integer multiple of `2^e` as a magnitude; a zero takes the sign given. -/
def magOfInt (i : Int) (e : Int) (zeroNeg : Bool) : Mag :=
  if i = 0 then ⟨zeroNeg, 0, 0, false⟩ else ⟨decide (i < 0), i.natAbs, e, false⟩

/-- The signed mantissa at a lower exponent. -/
def signedAt (neg : Bool) (m : Nat) (e q : Int) : Int :=
  let k : Nat := m * 2 ^ (e - q).toNat
  if neg then -(k : Int) else k

/-- The exact sum of two finite values; an exact zero of opposite signs is +0, or -0 under RDN. -/
def addFin (rm : Rnd) (n1 : Bool) (m1 : Nat) (e1 : Int) (n2 : Bool) (m2 : Nat) (e2 : Int) : Mag :=
  if m1 = 0 ∧ m2 = 0 then ⟨if n1 = n2 then n1 else rm == .rdn, 0, 0, false⟩
  else if m1 = 0 then ⟨n2, m2, e2, false⟩
  else if m2 = 0 then ⟨n1, m1, e1, false⟩
  else
    let q := if e1 < e2 then e1 else e2
    magOfInt (signedAt n1 m1 e1 q + signedAt n2 m2 e2 q) q (rm == .rdn)

/-- Do any of the operands signal (R63). -/
def sigFlags (l : List Val) : FpFlags := if l.any (· == .nan true) then fInvalid else fNone

/-- The exact sum and the flags of forming it. -/
def exAdd (rm : Rnd) (a b : Val) : Exact × FpFlags :=
  let sg := sigFlags [a, b]
  match a, b with
  | .nan _, _ => (.nan, sg)
  | _, .nan _ => (.nan, sg)
  | .inf n1, .inf n2 => if n1 = n2 then (.inf n1, fNone) else (.nan, fInvalid)
  | .inf n1, _ => (.inf n1, fNone)
  | _, .inf n2 => (.inf n2, fNone)
  | .fin n1 m1 e1, .fin n2 m2 e2 => (.mag (addFin rm n1 m1 e1 n2 m2 e2), fNone)

/-- The exact product and the flags of forming it. -/
def exMul (a b : Val) : Exact × FpFlags :=
  let sg := sigFlags [a, b]
  match a, b with
  | .nan _, _ => (.nan, sg)
  | _, .nan _ => (.nan, sg)
  | .inf n1, b => if b.isZero then (.nan, fInvalid) else (.inf (n1 != b.neg), fNone)
  | a, .inf n2 => if a.isZero then (.nan, fInvalid) else (.inf (a.neg != n2), fNone)
  | .fin n1 m1 e1, .fin n2 m2 e2 => (.mag ⟨n1 != n2, m1 * m2, e1 + e2, false⟩, fNone)

/-- The exact a × b + c and the flags of forming it; 0 × infinity is INVALID whatever c is (R63). -/
def exFma (rm : Rnd) (a b c : Val) : Exact × FpFlags :=
  let sg := sigFlags [a, b, c]
  match exMul a b with
  | (.nan, fl) => (.nan, sg ||| fl)
  | (.inf n, _) =>
    (match c with
      | .nan _ => (.nan, sg)
      | .inf n2 => if n = n2 then (.inf n, fNone) else (.nan, fInvalid)
      | _ => (.inf n, fNone))
  | (.mag x, _) =>
    (match c with
      | .nan _ => (.nan, sg)
      | .inf n2 => (.inf n2, fNone)
      | .fin n2 m2 e2 => (.mag (addFin rm x.neg x.m x.e n2 m2 e2), fNone))

/-- A quotient of naturals to at least `p` bits with a sticky rest. -/
def divMag (neg : Bool) (m1 : Nat) (e1 : Int) (m2 : Nat) (e2 : Int) (p : Nat) : Mag :=
  let k := p + Nat.log2 m2 + 2
  let n := m1 * 2 ^ k
  ⟨neg, n / m2, e1 - e2 - k, n % m2 != 0⟩

/-- The quotient, to 70 bits and a sticky rest, and the flags of forming it. -/
def exDiv (a b : Val) : Exact × FpFlags :=
  let sg := sigFlags [a, b]
  match a, b with
  | .nan _, _ => (.nan, sg)
  | _, .nan _ => (.nan, sg)
  | .inf n1, .inf _ => let _ := n1; (.nan, fInvalid)
  | .inf n1, b => (.inf (n1 != b.neg), fNone)
  | .fin n1 _ _, .inf n2 => (.mag ⟨n1 != n2, 0, 0, false⟩, fNone)
  | .fin n1 m1 e1, .fin n2 m2 e2 =>
    if m2 = 0 then (if m1 = 0 then (.nan, fInvalid) else (.inf (n1 != n2), fDivZero))
    else if m1 = 0 then (.mag ⟨n1 != n2, 0, 0, false⟩, fNone)
    else (.mag (divMag (n1 != n2) m1 e1 m2 e2 70), fNone)

/-- One Newton step of the integer square root from above, `fuel` times at most. -/
def isqrtLoop : Nat → Nat → Nat → Nat
  | 0, _, x => x
  | fuel + 1, n, x =>
    let y := (x + n / x) / 2
    if y < x then isqrtLoop fuel n y else x

/-- Floor of the square root. -/
def isqrt (n : Nat) : Nat := if n = 0 then 0 else isqrtLoop (Nat.log2 n + 2) n (2 ^ (Nat.log2 n / 2 + 1))

/-- Square root of `m × 2^e` to at least 70 bits with a sticky rest. -/
def sqrtMag (m : Nat) (e : Int) : Mag :=
  let k : Nat := 140 + (if (e - 140) % 2 = 0 then 0 else 1)
  let n := m * 2 ^ k
  let r := isqrt n
  ⟨false, r, (e - k) / 2, r * r != n⟩

/-- The square root and the flags of forming it. -/
def exSqrt (a : Val) : Exact × FpFlags :=
  match a with
  | .nan s => (.nan, if s then fInvalid else fNone)
  | .inf false => (.inf false, fNone)
  | .inf true => (.nan, fInvalid)
  | .fin n m e => if m = 0 then (.mag ⟨n, 0, 0, false⟩, fNone)
      else if n then (.nan, fInvalid) else (.mag (sqrtMag m e), fNone)

/-- Round an exact result to FP32 or FP64 (`f`): code and flags. -/
def roundExact (f : Nat) (rm : Rnd) (r : Exact × FpFlags) : Coded :=
  let l := floatFmt f
  match r with
  | (.nan, fl) => (l.nanCode, fl)
  | (.inf n, fl) => ((if n then l.signBit else 0) + l.infCode, fl)
  | (.mag x, fl) =>
    let (c, g) := roundFloat l rm false x
    (c, fl ||| g)

/-- A value with flags. -/
abbrev Flagged := Val × FpFlags

/-- Round an exact result to a working format and read it back. -/
def roundVal (f : Nat) (rm : Rnd) (r : Exact × FpFlags) : Flagged :=
  let (c, fl) := roundExact f rm r
  (decodeVal f true c, fl)

/-- Rounded sum in format `f`. -/
def fpAdd (f : Nat) (rm : Rnd) (a b : Val) : Flagged := roundVal f rm (exAdd rm a b)
/-- Rounded difference. -/
def fpSub (f : Nat) (rm : Rnd) (a b : Val) : Flagged := roundVal f rm (exAdd rm a b.negate)
/-- Rounded product. -/
def fpMul (f : Nat) (rm : Rnd) (a b : Val) : Flagged := roundVal f rm (exMul a b)
/-- Rounded quotient. -/
def fpDiv (f : Nat) (rm : Rnd) (a b : Val) : Flagged := roundVal f rm (exDiv a b)
/-- Fused multiply-add. -/
def fpFma (f : Nat) (rm : Rnd) (a b c : Val) : Flagged := roundVal f rm (exFma rm a b c)
/-- Rounded square root. -/
def fpSqrt (f : Nat) (rm : Rnd) (a : Val) : Flagged := roundVal f rm (exSqrt a)

/-- rne32 of an exact value. -/
def rne32 (v : Val) : Flagged :=
  match v with
  | .nan s => (.nan false, if s then fInvalid else fNone)
  | .inf n => (.inf n, fNone)
  | .fin n m e => roundVal fmtFP32 .rne (.mag ⟨n, m, e, false⟩, fNone)

/-- Order of two values that are no NaN: -1, 0 or 1; -0 equals +0 (R61). -/
def Val.cmp (a b : Val) : Int :=
  let key : Val → Int → Int := fun v q => match v with
    | .nan _ => 0
    | .inf _ => 0
    | .fin n m e => signedAt n m e q
  match a, b with
  | .inf n1, .inf n2 => if n1 = n2 then 0 else if n1 then -1 else 1
  | .inf n1, _ => if n1 then -1 else 1
  | _, .inf n2 => if n2 then 1 else -1
  | .fin _ m1 e1, .fin _ m2 e2 =>
    let q := if m1 = 0 then e2 else if m2 = 0 then e1 else if e1 < e2 then e1 else e2
    let x := if m1 = 0 then 0 else key a q
    let y := if m2 = 0 then 0 else key b q
    if x < y then -1 else if y < x then 1 else 0
  | _, _ => 0

/-- Less-than of IEEE 754: false with a NaN. -/
def Val.lt (a b : Val) : Bool := !a.isNan && !b.isNan && decide (a.cmp b = -1)

/-- Equality of IEEE 754: -0 equals +0, a NaN equals nothing. -/
def Val.eqv (a b : Val) : Bool := !a.isNan && !b.isNan && decide (a.cmp b = 0)

/-- minimumNumber or maximumNumber (R61): -0 is below +0, a NaN yields the other operand. -/
def fpMinMax (isMax : Bool) (a b : Val) : Flagged :=
  let sg := sigFlags [a, b]
  if a.isNan && b.isNan then (.nan false, sg)
  else if a.isNan then (b, sg)
  else if b.isNan then (a, sg)
  else
    let aLess := decide (a.cmp b = -1) || (decide (a.cmp b = 0) && a.neg && !b.neg)
    (if aLess == isMax then b else a, sg)

/-! ### Matrix accumulation (R72 to R79) -/

/-- The exact product of two operand values, with the INVALID of infinity × 0 (R77). -/
def exactProduct (a b : Val) : Flagged :=
  match exMul a b with
  | (.nan, fl) => (.nan false, fl)
  | (.inf n, fl) => (.inf n, fl)
  | (.mag x, fl) => (.fin x.neg x.m x.e, fl)

/-- One chunk of ALIGNED accumulation (R75, R77). Infinite products of both signs are INVALID also where a further
product is a NaN (R63, R77). -/
def chunkAligned (p : List Val) : Flagged :=
  if p.any (fun v => v.isInf && v.neg) && p.any (fun v => v.isInf && !v.neg) then (.nan false, fInvalid)
  else if p.any Val.isNan then (.nan false, fNone)
  else if p.any (fun v => v.isInf && v.neg) then (.inf true, fNone)
  else if p.any Val.isInf then (.inf false, fNone)
  else
    let tops := p.filterMap (fun v => match v with
      | .fin _ m e => if m = 0 then none else some ((Nat.log2 m : Int) + e)
      | _ => none)
    match tops with
    | [] => (.zero, fNone)
    | t :: ts =>
      let emax := ts.foldl (fun a b => if a < b then b else a) t
      let q := emax - 26
      let parts : List (Int × Bool) := p.map (fun v => match v with
        | .fin n m e =>
          let c := (⟨n, m, e, false⟩ : Mag).cut q
          ((if n then -(c.k : Int) else (c.k : Int)), c.rest)
        | _ => (0, false))
      let sum : Int := parts.foldl (fun a b => a + b.1) 0
      let cutFl : FpFlags := if parts.any (·.2) then fInexact else fNone
      let (v, fl) := roundVal fmtFP32 .rne (.mag (magOfInt sum q false), fNone)
      (v, fl ||| cutFl)

/-- A PAIR32 value. -/
structure Pair32 where
  hi : Val
  lo : Val
  deriving DecidableEq, Repr

/-- The pair (+0, +0). -/
def Pair32.zero : Pair32 := ⟨.zero, .zero⟩

/-- Is the value finite. -/
def Val.isFin : Val → Bool
  | .fin _ _ _ => true
  | _ => false

/-- add_pair of R78, with its flags; bp, e and t raise no INEXACT. -/
def addPair (x : Pair32) (v : Val) : Pair32 × FpFlags :=
  let f := fmtFP32
  let (s, fs) := fpAdd f .rne x.hi v
  if !s.isFin then (⟨s, .zero⟩, fs)
  else
    let (bp, f1) := fpSub f .rne s x.hi
    let (d1, f2) := fpSub f .rne s bp
    let (d2, f3) := fpSub f .rne x.hi d1
    let (d3, f4) := fpSub f .rne v bp
    let (e, f5) := fpAdd f .rne d2 d3
    let (t, f6) := fpAdd f .rne x.lo e
    let quiet := (f1 ||| f2 ||| f3 ||| f4 ||| f5 ||| f6) &&& ~~~fInexact
    let (hi2, f7) := fpAdd f .rne s t
    if !hi2.isFin then (⟨hi2, .zero⟩, fs ||| quiet ||| f7)
    else
      let (d4, f8) := fpSub f .rne hi2 s
      let (lo2, f9) := fpSub f .rne t d4
      (⟨hi2, lo2⟩, fs ||| quiet ||| f7 ||| f8 ||| f9)

/-- pair_add of R78. -/
def pairAdd (x y : Pair32) : Pair32 × FpFlags :=
  let (a, f1) := addPair x y.hi
  let (b, f2) := addPair a y.lo
  (b, f1 ||| f2)

/-- Split a list into pieces of `n`, given enough fuel. -/
def piecesOf {α : Type} (n : Nat) : Nat → List α → List (List α)
  | 0, _ => []
  | fuel + 1, l => if l.isEmpty then [] else l.take n :: piecesOf n fuel (l.drop n)

/-- The addends of one reduction block: rounded products, or chunk results (R74, R75). R72 says that a product of a class other
than FP32 never changes when it is rounded; a T16 product outside the range or grid of FP32 is rounded as R74 writes it, with
its flags (DESIGN CHOICE, log entry 69). -/
def blockAddends (aligned : Bool) (p : List Val) : List Val × FpFlags :=
  let rs := if aligned then (piecesOf 32 p.length p).map chunkAligned else p.map rne32
  (rs.map Prod.fst, rs.foldl (fun a r => a ||| r.2) fNone)

/-- A block with a scalar accumulator (R74, R75). -/
def blockScalar (aligned : Bool) (p : List Val) : Flagged :=
  let (vs, fl) := blockAddends aligned p
  vs.foldl (fun (acc : Flagged) v =>
    let (s, f) := fpAdd fmtFP32 .rne acc.1 v
    (s, acc.2 ||| f)) (.zero, fl)

/-- A block with a PAIR32 accumulator (R78). -/
def blockPair (aligned : Bool) (p : List Val) : Pair32 × FpFlags :=
  let (vs, fl) := blockAddends aligned p
  vs.foldl (fun (acc : Pair32 × FpFlags) v =>
    let (s, f) := addPair acc.1 v
    (s, acc.2 ||| f)) (Pair32.zero, fl)

/-! ### Element storage (R59, R60) -/

/-- Bytes that `n` values of a format take from element 0 (R59, R60). -/
def storedBytes (f n : Nat) : Nat :=
  match f with
  | 6 => (n + 15) / 16 * 12
  | 7 => (n + 1) / 2
  | 9 => (n + 1) / 2
  | 0xA => (n + 63) / 64 * 66
  | 0xB => (n + 63) / 64 * 50
  | 0xC => (n + 31) / 32 * 33
  | 0xD => (n + 31) / 32 * 33
  | _ => fmtBits f / 8 * n

/-- Bit position of value `i` within its tensor's bytes, as a byte offset and a bit in it, and its width
in bits; E6 values may cross bytes within their group (R59). -/
def elemBit (f i : Nat) : Nat :=
  match f with
  | 6 => i / 16 * 96 + i % 16 * 6
  | _ => i * fmtBits f

/-- The code of element `i` of stored bytes. -/
def codeAt (f : Nat) (b : List Byte) (i : Nat) : Nat :=
  let p := elemBit f i
  leAt b (p / 8) 9 / 2 ^ (p % 8) % 2 ^ fmtBits f

end Sys2Proof.Machine
end

