-- ==== Sys2Proof/Config.lean ====
section
/-!
DEFINITION. What one particular A16 fixes and the manual does not: fuse contents, the results of the
published cryptographic standards, and the free values (log entries 3, 4, 5). Every constant here is
opaque: no proof can see a value of it, so every claim holds for each.
-/

namespace Sys2Proof

/-- The fuse fields of R347. `secVersion` is the thermometer code, `slotHash` the four operator
slots, `revoked` one bit a slot. -/
structure Fuses where
  lot        : BitVec 36 := 0
  wafer      : BitVec 5  := 0
  dieX       : BitVec 8  := 0
  dieY       : BitVec 8  := 0
  serial     : BitVec 64 := 0
  revLetter  : BitVec 8  := 0
  revNumber  : BitVec 8  := 0
  deviceSeed : BitVec 512 := 0
  secVersion : BitVec 64 := 0
  slotHash   : List (BitVec 384) := []
  revoked    : BitVec 4 := 0
  deriving DecidableEq, Repr, Inhabited

/-- The fuse contents with which the die was manufactured (R347, UNVERIFIED, log entry 5). -/
opaque Config.fuses : Fuses

/-- A free value of `w` bits: the `n`-th value that the manual leaves open (DESIGN CHOICE, log entry 3). -/
opaque Config.freeValue (w : Nat) (n : Nat) : BitVec w

/-- The hash of the firmware-signing key that the Goose ROM holds (R352, UNVERIFIED, log entry 5). -/
opaque Config.romKey : BitVec 384

/-- The ICP firmware that a decrypted firmware image holds (R354; DESIGN CHOICE, log entry 4): the manual gives the body no layout. -/
opaque Config.icpFirmware : List Byte → List Byte

/-- The 10 SECDED check bits over a block's 256 ciphertext bits (R278; DESIGN CHOICE, log entry 4): the manual names no code. -/
opaque Config.secded : BitVec 256 → BitVec 10

/-- The export master secret and the session keys of SPDM 1.2's key schedule, from a function, the messages so far, the KEY_EXCHANGE request
and the index of the fresh random value behind the ephemeral key (R393; the standard's own, DESIGN CHOICE, log entry 4). -/
opaque Config.spdmSecret (fn : Nat) (transcript request : List Byte) (fresh : Nat) : List Byte
opaque Config.spdmKeys (fn : Nat) (transcript request : List Byte) (fresh : Nat) : List Byte

/-- A message the SPDM responder forms under SPDM 1.2: the function, the request code, the messages
so far, the request and the report it carries give the response bytes (R393; DESIGN CHOICE, log entry 4). -/
opaque Config.spdmResponse : Nat → Nat → List Byte → List Byte → List Byte → List Byte

/-- Byte `n` of conditioned TRNG output drawn for the `k`-th request (R372; DESIGN CHOICE, log entry 3). -/
opaque Config.trngByte : Nat → Nat → Byte

/-- The bytes of a keying message: its number from 1 to 4, or 5 for a refusal, its fields and its proof (R303, R305; DESIGN CHOICE, log
entry 11). -/
opaque Config.keyBytes (step : Nat) (fields : List Nat) (proof : List Byte) : List Byte

/-- The key-confirmation MAC of FINISH_R, and the MAC of a CREDIT_SYNC, under a secret (R303, R308; DESIGN CHOICE, log entry 4): the manual
names no algorithm. -/
opaque Config.linkMac (secret : List Byte) (fields : List Nat) : List Byte

/-- The epoch of a link, from the hash of its keying's transcript (R308; DESIGN CHOICE, log entry 11): the manual does not say which of
its bits. -/
opaque Config.linkEpoch (digest : List Byte) : BitVec 64

/-- The body of a CTRL, WIN_ACK, XFER_VERDICT, FWD or CREDIT_SYNC flit: what it says and its arguments (R291; DESIGN CHOICE, log entry
11). -/
opaque Config.noteBody (code : Nat) (args : List Nat) : List Byte

end Sys2Proof
end

