-- ==== Sys2Proof/Machine/State.lean ====
section
/-!
DEFINITION. The state of one A16 die as plain data, the reasons a step can stop, and the state after
reset. Every structure's default values are its reset values; a table's unlisted key reads as the
default of its entry type. Registers whose value is a view of other state (tag words, FULL counts,
queue status, ...) are not stored: Machine/Regs.lean computes them.
-/

namespace Sys2Proof.Machine

/-! ### Named states -/

/-- Polling state of a queue (R210), with DISABLED; the numbers of HIF_QSTATUS.STATE are in Regs. -/
inductive QState where
  | disabled | idle | active | parked
  deriving DecidableEq, Repr

/-- State of a power domain (R415): OFF, RET, ON. A domain in transition also has a target. -/
inductive DomState where
  | off | ret | on
  deriving DecidableEq, Repr

/-- State of a partition on this die (14 Picture). -/
inductive PartState where
  | none | created | active | clearing
  deriving DecidableEq, Repr

/-- Link state of a Strait port (R300). -/
inductive LinkState where
  | off | sleep | down | training | quiet | keying | up
  deriving DecidableEq, Repr

/-- Line state of a caching agent (R256). -/
inductive Mesi where
  | invalid | shared | exclusive | modified
  deriving DecidableEq, Repr

/-- Boot stage of the Goose (MGT_GOOSE_STATUS.STAGE, R374). -/
inductive Stage where
  | rom | fwLoad | ready | recovery
  deriving DecidableEq, Repr

/-- Kind of the last reset (R453). -/
inductive ResetKind where
  | cold | brownout | warmPin | perst
  deriving DecidableEq, Repr

/-- Tag mode of an operand (R95). -/
inductive TagMode where
  | readKeep | readTake | writeFill | writeOver
  deriving DecidableEq, Repr

/-- JTAG instruction in force (R519). -/
inductive JtagInstr where
  | extest | sample | highz | clamp | bypass | dbgAccess
  deriving DecidableEq, Repr

/-! ### Entries of the tables -/

/-- A tensor descriptor (R116, R145). -/
structure TDesc where
  format : BitVec 4  := 0
  mem    : Bool      := false
  valid  : Bool      := false
  scale  : Word      := 0x3F800000
  tid    : BitVec 31 := 0
  lcols  : Word      := 0
  rowOrg : Word      := 0
  colOrg : Word      := 0
  base   : BitVec 48 := 0
  stride : Word      := 0
  deriving DecidableEq, Repr

/-- A wait point that a started command has still to pass (R95, R97). -/
structure WaitPoint where
  square : Nat
  mode   : TagMode
  deriving DecidableEq, Repr

/-- Where a started command stands. -/
inductive Phase where
  /-- Started; its row has not run yet. -/
  | started
  /-- Refused; its completion is due 16 µs after its start (R384). -/
  | refused
  /-- Its row has run and waits for something else (a fill, a reader, an acknowledgement). -/
  | busy
  /-- Its work is done and its status decided; its completion is to be posted. -/
  | done
  deriving DecidableEq, Repr

/-- The results of an engine command that has still to pass wait points of its outputs: the runs to write in order, each with
whether it lies in memory, then the flags, the produced NaN of lowest index, and whether it read a sealed square. -/
structure Pending where
  outs  : List (Bool × List (Nat × List Byte))
  /-- The scratchpad runs that the whole command writes (R103). -/
  all   : List (Nat × Nat)
  flags : BitVec 5
  trap  : Option (Nat × Nat)
  hidden : Bool
  deriving DecidableEq, Repr

/-- A command that has started and not yet posted its completion (R113, R139), with what it sampled
at its start. `steps` counts what a multi-step command has done. -/
structure Run where
  entry   : List Byte
  start   : Nat
  phase   : Phase
  tds     : Table TDesc := []
  free    : BitVec 1024 := 0
  trapEn  : Bool := false
  waits   : List WaitPoint := []
  claims  : List WaitPoint := []
  holds   : List Nat := []
  /-- Squares of its outputs that it has written whole when it stops early (R95, R98). -/
  wroteSq : List Nat := []
  status  : BitVec 8 := 0
  info    : BitVec 64 := 0
  flags   : BitVec 5 := 0
  trap    : Option (Nat × Nat) := none
  hostBuf : Table (Option Byte) := []
  hostErr : Option (Nat × Nat) := none
  xfer    : Option Nat := none
  owed    : Nat := 0
  signalled : Bool := false
  halts   : Bool := false
  steps   : Nat := 0
  aux     : List Nat := []
  /-- When it reached the wait point at which it stands (R109). -/
  waitAt  : Nat := 0
  /-- Its host reads have been issued (R239). -/
  asked   : Bool := false
  /-- Squares whose last read it has made while it waits at a later wait point (R95), and the bytes that it read there. -/
  readSq  : List Nat := []
  early   : Memory := []
  /-- Results still to be written to squares whose wait points lie ahead (R95). -/
  pend    : Option Pending := none
  deriving DecidableEq, Repr

/-- A submission queue (R200, R210, R230). -/
structure Queue where
  base        : DWord := 0
  db          : DWord := 0
  sizeLog2    : BitVec 5 := 6
  cqSel       : BitVec 2 := 0
  enable      : Bool := false
  park        : Bool := false
  gen         : Word := 0
  st          : QState := .disabled
  genMismatch : Bool := false
  genCount    : BitVec 16 := 0
  cons        : Word := 0
  /-- Completions written for this queue since it was enabled (R467). -/
  written     : Word := 0
  prod        : Word := 0
  cause       : BitVec 8 := 0
  halted      : Bool := false
  haltSeq     : Word := 0
  unchanged   : Nat := 0
  interval    : Nat := 1
  /-- When the data of the last poll returned (R211). -/
  polledAt    : Nat := 0
  pollOut     : Bool := false
  pollDue     : Bool := false
  kickHeld    : Bool := false
  fetchOut    : Nat := 0
  fetched     : Word := 0
  entries     : List (List Byte) := []
  headOk      : Bool := false
  passed      : Bool := false
  headTime    : Nat := 0
  discardTo   : Option Word := none
  discarding  : Bool := false
  ringFault   : Nat := 0
  run         : List Run := []
  /-- Since when the queue has had no command started and none at its head (R109). -/
  idleAt      : Nat := 0
  /-- Of a queue of another die, as the machine lead knows it (R227): the function whose memory its ring is in, the entries that its die has
  taken, and the first that it has no room for. -/
  fn          : Nat := 0
  taken       : Word := 0
  room        : Word := 0
  deriving DecidableEq, Repr

/-- A completion as generated and not yet written (R220). -/
structure Completion where
  queue  : Nat
  seq    : Word
  status : BitVec 8
  info   : BitVec 64
  irq    : Bool
  deriving DecidableEq, Repr

/-- A completion or event ring (R214 to R226, R230). -/
structure Ring where
  base      : DWord := 0
  sizeLog2  : BitVec 5 := 6
  vector    : Option (BitVec 7) := none
  enable    : Bool := false
  head      : Word := 0
  tail      : Word := 0
  fullSeen  : Bool := false
  fullCount : BitVec 16 := 0
  fullTold  : Bool := false
  waiting   : List Completion := []
  generated : Word := 0
  written   : Word := 0
  raised    : Word := 0
  coalesced : Word := 0
  coalesce  : Bool := false
  classes   : Table Nat := []
  since     : Nat := 0
  deriving DecidableEq, Repr

/-- An event as raised (R223). -/
structure Event where
  ring  : Nat
  code  : BitVec 16
  queue : BitVec 7
  seq   : Word
  time  : Nat
  data  : List Byte
  deriving DecidableEq, Repr

/-- A gather push in a service slot or waiting for one (R167, R322). -/
structure Push where
  die     : Nat
  part    : Nat
  window  : Nat
  xfer    : Nat
  qos     : BitVec 4
  scratch : Bool
  src     : Nat
  off     : Nat
  len     : Nat
  served  : Bool := false
  deriving DecidableEq, Repr

/-- An Islet: scratchpad tags, tensor table, ISL registers, engine-side buffers (R94 to R112). -/
structure Islet where
  stallLimit : BitVec 20 := 0x3E8
  stall      : Bool := false
  corrected  : Bool := false
  uncorr     : Bool := false
  stallCount : BitVec 16 := 0
  corrCount  : BitVec 16 := 0
  uncorrCount : BitVec 16 := 0
  stallSq0   : Word := 0
  stallSq1   : Word := 0
  tags       : BitVec 1024 := 0
  free       : BitVec 1024 := 0
  sealed     : BitVec 1024 := 0
  claimed    : BitVec 1024 := 0
  tds        : Table TDesc := []
  fills      : Word := 0
  takes      : Word := 0
  stallTold  : Bool := false
  quiesce    : Bool := false
  testing    : Bool := false
  patrolPos  : Nat := 0
  pushes     : List Push := []
  storeBuf   : Table (Option Byte) := []
  deriving DecidableEq, Repr

/-- The NUM record of an engine queue (R85). Flag order: INVALID, DIVZERO, OVERFLOW, UNDERFLOW,
INEXACT in bits 0 to 4. -/
structure Num where
  trapEn  : Bool := false
  flags   : BitVec 5 := 0
  trapped : Bool := false
  cInv    : BitVec 16 := 0
  cDivz   : BitVec 16 := 0
  cOvf    : BitVec 16 := 0
  cUnf    : BitVec 16 := 0
  cInx    : BitVec 16 := 0
  cTrap   : BitVec 16 := 0
  seq     : Word := 0
  opcode  : BitVec 8 := 0
  queue   : BitVec 7 := 0
  offset  : Word := 0
  index   : Word := 0
  deriving DecidableEq, Repr

/-- A window (R314, R324). `sent` counts the bytes its sources have reported, `revoked` says that the grant
of a DIE_PART window has been given back (R320). -/
structure Window where
  isOpen    : Bool := false
  binding   : Bool := false
  scratch   : Bool := false
  closing   : Bool := false
  srcDie    : BitVec 6 := 0
  srcPart   : BitVec 4 := 0
  base      : BitVec 48 := 0
  size      : BitVec 48 := 0
  limit     : BitVec 48 := 0
  count     : DWord := 0
  committed : BitVec 48 := 0
  sent      : Nat := 0
  revoked   : Bool := false
  deriving DecidableEq, Repr

/-- A grant held by this die as a source (R316, R317). -/
structure Grant where
  present : Bool := false
  srcPart : Nat := 0
  scratch : Bool := false
  base    : Nat := 0
  size    : Nat := 0
  limit   : Nat := 0
  started : Nat := 0
  sent    : Nat := 0
  revoking : Bool := false
  deriving DecidableEq, Repr

/-- The SPDM responder of a function (R393): the messages since GET_VERSION, on which SPDM's responses depend, its session, and the
session's export master secret and keys as the SPDM key schedule gives them (R349, R395). -/
structure Session where
  transcript : List Byte := []
  opening    : Bool := false
  live       : Bool := false
  secret     : List Byte := []
  keys       : List Byte := []
  deriving DecidableEq, Repr

/-- What the rules take from a function's PCI Express configuration space (R226, R430): Bus Master Enable, MSI-X Enable and Function
Mask, and whether a VF is in D3hot. All are clear after reset, as the standard has them (PRESUMED, log entry 39). -/
structure Pcie where
  busMaster : Bool := false
  msixOn    : Bool := false
  msixMask  : Bool := false
  d3hot     : Bool := false
  pmeOn     : Bool := false
  deriving DecidableEq, Repr

/-- A partition on this die (14; 13 R374 for the package). -/
structure Part where
  state      : PartState := .none
  observed   : Bool := false
  localRoute : Bool := false
  ideReq     : Bool := false
  ideSecure  : Bool := false
  islets     : BitVec 16 := 0
  reportSeq  : Word := 0
  clearTime  : Word := 0
  pkgId      : DWord := 0
  pkgDst     : BitVec 48 := 0
  pkgFrames  : BitVec 16 := 0
  loaded     : Bool := false
  binding    : List (BitVec 64) := []
  bindCount  : BitVec 7 := 0
  pkgDigest  : BitVec 384 := 0
  perf       : Table DWord := []
  cues       : Table Word := []
  windows    : Table Window := []
  wayMask    : BitVec 16 := 0xFFFF
  /-- State of the partition on other dies of the machine, by die (R379): 0 NONE, 1 CREATED, 2 ACTIVE, 3 CLEARING, 4 being created. -/
  others     : Table Nat := []
  refSec     : Nat := 0
  refTotal   : Nat := 0
  halted     : Bool := false
  scrubs     : Nat := 0
  scrubAddr  : Nat := 0
  deriving DecidableEq, Repr

/-- A tenant switch that is running (R396). `issuer` is the ring whose command started it, `took` is the measured time of a switch whose
last granule has been filled. -/
structure Switch where
  start     : Nat
  issuer    : Option Nat
  destroy   : Bool
  took      : Option Nat
  deriving DecidableEq, Repr

/-- Credits of one virtual channel (R295 to R297, R308): as a sender, what the partner granted, what is held and the
running total of returned credits received; as a receiver, the slots whose credit has not been returned, those of
them that are free and since when, and the running total of credits returned. -/
structure Credit where
  granted : Nat := 0
  held    : Nat := 0
  retSeen : Nat := 0
  taken   : Nat := 0
  back    : Nat := 0
  freedAt : Nat := 0
  retSent : Nat := 0
  deriving DecidableEq, Repr

/-- How far keying has gone at this end (R303, R304). -/
inductive KeyStep where
  | idle | sentHello | sentReply | sentFinish | keyed
  deriving DecidableEq, Repr

/-- A flit as its header fields and plaintext body (R290, R291). -/
structure Flit where
  typ     : BitVec 8
  vc      : BitVec 2
  frozen  : Bool
  keyed   : Bool
  qos     : BitVec 4
  dst     : BitVec 6
  src     : BitVec 6
  crVc    : BitVec 2
  crCount : BitVec 8
  seq     : BitVec 32
  ack     : BitVec 32
  body    : List Byte
  deriving DecidableEq, Repr

/-- A credited flit that waits to be sent and the flit slots it has lost (R296, R328). -/
structure Waiting where
  flit : Flit
  lost : Nat := 0
  /-- The transfer of this die whose bytes it carries, or the key of its push. -/
  key  : Option Nat := none
  /-- Of a flit that is only passed on: the port and the channel whose receive-buffer slot it holds (R43, R296). -/
  hop  : Option (Nat × Nat) := none
  /-- A message of the sleep negotiation, which goes while nothing else new does (R312). -/
  sleep : Bool := false
  deriving DecidableEq, Repr

/-- The keying of a link (R303, R304): how far it has gone, the KEY flits of the exchange with numbering and MGT credits of their own
(DEDUCED, log entry 87), the messages so far, this end's ephemeral key, the partner's hello, and whether this end has still to send its
CREDIT_SYNC or has sent it (R308). -/
structure Keying where
  step   : KeyStep := .idle
  txSeq  : Word := 0
  rxSeq  : Word := 0
  credit : Credit := { granted := 16, held := 16 }
  txq    : List Flit := []
  replay : List Flit := []
  resend : List Flit := []
  talk   : List Byte := []
  secret : Nat := 0
  peer   : Option KeyMsg := none
  syncDue : Bool := false
  syncSent : Bool := false
  sentAt : Nat := 0
  deriving DecidableEq, Repr

/-- A Strait port (11). `heard` is when the last valid flit came, `lastProbe` when the last PROBE left, `wakeAt` when
the last wake pattern did. -/
structure Port where
  st          : LinkState := .off
  enabled     : Bool := false
  asleep      : Bool := false
  asleepOff   : Bool := false
  cause       : BitVec 4 := 0
  partnerDie  : BitVec 6 := 0
  partnerSerial : DWord := 0
  wakeSend    : Bool := false
  lostLimit   : BitVec 10 := 0x32
  creditLate  : Bool := false
  synced      : Bool := false
  rxDiscard   : Bool := false
  retrained   : Bool := false
  lateCount   : BitVec 16 := 0
  syncCount   : BitVec 16 := 0
  discCount   : BitVec 16 := 0
  retrCount   : BitVec 16 := 0
  syncLast    : Word := 0
  credits     : Table Credit := []
  rtt         : BitVec 16 := 0
  verified    : Bool := false
  /-- The link keys of the two directions, their IV constants and the resume secret (R293, R303). -/
  txKey       : List Byte := []
  rxKey       : List Byte := []
  txIv        : List Byte := []
  rxIv        : List Byte := []
  resume      : List Byte := []
  keying      : Keying := {}
  /-- A HELLO_I that came before this end could answer (R304). -/
  hello       : Option KeyMsg := none
  refused     : Bool := false
  /-- No link has come up since the port left OFF (R308). -/
  fresh       : Bool := true
  epoch       : DWord := 0
  /-- The hash of the last keying's transcript (R308). -/
  digest      : List Byte := []
  /-- A resumption has been lost: the link keys again and takes a new epoch, and the flits that were discarded wait to be reported (R309). -/
  lost        : Bool := false
  gone        : List Waiting := []
  /-- Counts of flits sent and accepted; SEQ is the low half (R290, R293, R298). -/
  txSeq       : DWord := 0
  rxSeq       : DWord := 0
  txq         : List Waiting := []
  ctl         : List Flit := []
  replay      : List Waiting := []
  resend      : List Waiting := []
  nakSeq      : Word := 0
  nakCount    : Nat := 0
  heard       : Nat := 0
  lastProbe   : Nat := 0
  probeAt     : Option Nat := none
  wakeAt      : Option Nat := none
  leftUp      : Nat := 0
  held        : Bool := false
  sleepTo     : Option DomState := none
  sleepAcked  : Bool := false
  /-- The partner asks to sleep, OFF or RET, and this end drains the link (R312). -/
  draining    : Option Bool := none
  /-- Its SLEEP_ACK waits to be sent. -/
  acking      : Bool := false
  /-- A port that the ledger held takes the lost path (R471). -/
  forceLost   : Bool := false
  holdSeen    : Bool := false
  deriving DecidableEq, Repr

/-- A transfer or push into a window that waits for its acknowledgements (R310, R318), or a gather of this
die that waits for its bytes and its verdict (R168, R322). `die` is the other end, `part` and `window` the
window's; `status` and `info` are what the transfer ends with when no byte is lost, `ended` says that a
gather's verdict has come, `islet` is where a push of this die is served. -/
structure Xfer where
  queue   : Option Nat := none
  die     : Nat := 0
  part    : Nat := 0
  window  : Nat := 0
  total   : Nat := 0
  acked   : Nat := 0
  lost    : Nat := 0
  gather  : Bool := false
  ended   : Bool := false
  status  : BitVec 8 := 0
  info    : Nat := 0
  lostInfo : Nat := 0
  islet   : Nat := 0
  grantKey : Option Nat := none
  /-- Its queue has stopped it: it ends with `status` whatever is lost (R140). -/
  stopped : Bool := false
  deriving DecidableEq, Repr

/-- A line held by a caching agent (R256). -/
structure CacheLine where
  st   : Mesi := .invalid
  data : Memory := []
  deriving DecidableEq, Repr

/-- A Lagoon line's directory and transaction state (R256, R259, R269). The data of a line not held
Modified is the memory's. -/
structure LagLine where
  present : Bool := false
  way     : BitVec 4 := 0
  /-- The partition that owns its granule, 0xFE or 0xFF as the partition table has it (R269). -/
  part    : Nat := 0
  dirty   : Bool := false
  sharers : BitVec 17 := 0
  owner   : Option Nat := none
  poison  : BitVec 4 := 0
  txn     : Option (Nat × Bool) := none
  waitInv : BitVec 17 := 0
  recalling : Option (Nat × Bool) := none
  waiters : List (Nat × Bool) := []
  deriving DecidableEq, Repr

/-- A power domain (R415, R421): its state, the state it is moving to, the cause of R422, when its transition
began, whether a running command waits for it, and the cause of a wake that follows a lowering (R427). -/
structure Domain where
  st     : DomState := .off
  target : Option DomState := none
  cause  : Nat := 0
  began  : Nat := 0
  told   : Bool := false
  wake   : Option Nat := none
  /-- Since when it has been in its state. -/
  since  : Nat := 0
  deriving DecidableEq, Repr

/-- A GPIO pin (18). -/
structure Pin where
  owner    : BitVec 8 := 0
  func     : BitVec 6 := 0
  oe       : Bool := false
  drive    : BitVec 2 := 1
  slew     : Bool := false
  od       : Bool := false
  pull     : BitVec 2 := 0
  irq      : BitVec 3 := 0
  debounce : BitVec 8 := 2
  sleep    : BitVec 2 := 2
  configured : Bool := false
  riseCount : BitVec 16 := 0
  fallCount : BitVec 16 := 0
  /-- Drive kept in RET under SLEEP = HOLD (R499): output on, level. -/
  heldOn   : Bool := false
  heldLevel : Bool := false
  /-- An armed pin whose PENDING rose and whose wake has not been served (R497). -/
  fired    : Bool := false
  deriving DecidableEq, Repr

/-- A run of the fill engine (R284). -/
structure FillRun where
  granules : List Nat
  /-- 1 PART_CREATE, 2 a tenant switch, 3 a stack that left OFF (R288), 4 the boot fill of the idle granules (R440).
  `raised` are the domains raised from RET for it (R425). -/
  purpose  : Nat
  part     : Nat
  key      : Nat
  start    : Nat
  raised   : List Nat := []
  deriving DecidableEq, Repr

/-- An entry of the sealed log (13 Picture, R405). -/
structure LogEntry where
  time   : Nat
  master : BitVec 8
  part   : BitVec 8
  queue  : BitVec 8
  reason : BitVec 8
  seq    : Word
  addr   : DWord
  deriving DecidableEq, Repr

/-- Something an outside observer sees: host-memory traffic, messages, answers to accesses, link and
regulator traffic, pins. The all-ones answer of a refused read is given at the time `due` (R384). -/
inductive Out where
  | hostWrite (fn addr : Nat) (bytes : List Byte)
  | hostRead (fn addr len : Nat)
  | msix (fn vector : Nat)
  | readAnswer (fn : Nat) (data : BitVec 64)
  | refusedAnswer (fn due : Nat)
  | configAnswer (fn : Nat) (crs : Bool)
  | unsupported (fn : Nat)
  | decodeError (m : Master)
  | jtagFault
  | flit (p : Nat) (bytes : List Byte)
  | hold (p : Nat)
  | wakePattern (p : Nat)
  | pmbus (command : Nat) (value : Nat)
  | pme
  | spdm (fn : Nat) (bytes : List Byte)
  deriving DecidableEq, Repr

/-! ### The stop reasons -/

/-- Why a step stops the machine. -/
inductive Fault where
  /-- Raised by POR_N_LOW and WARM_RESET when the reset pulse is shorter than R438 and R453 require of
  the board: the manual leaves the die's behaviour undefined (R516). Safe: the model stops where the
  manual promises nothing. -/
  | resetTooShort
  deriving DecidableEq, Repr

/-- Why a command has no meaning. -/
inductive Refusal where
  /-- The command is not modelled yet; its arm of the dispatch says so by name. Safe. -/
  | notModelled (mnemonic : String)
  deriving DecidableEq, Repr

/-! ### The state -/

/-- Board record values the Goose read at boot (R36). -/
structure Board where
  product : BitVec 2 := 0
  fans    : Nat := 0
  limitW  : Nat := 150
  deriving DecidableEq, Repr

/-- Goose, boot, identity, regulator, temperature and machine registers (02, 13, 14, 15, 16, 17). -/
structure Mgt where
  stage       : Stage := .rom
  trngReady   : Bool := false
  slotRunning : Bool := false
  staged      : BitVec 2 := 0
  activeSlot  : Bool := false
  trngFail    : Bool := false
  trngFailCount : BitVec 16 := 0
  nonce       : DWord := 0
  cfgReady    : Bool := false
  bootDone    : Bool := false
  hbmFail     : BitVec 2 := 0
  resetKind   : ResetKind := .cold
  prevTrip    : Bool := false
  recoveryCause : BitVec 2 := 0
  readyT      : BitVec 16 := 0
  doneT       : BitVec 16 := 0
  fusedSv     : BitVec 7 := 0
  runningSv   : BitVec 7 := 0
  product     : BitVec 2 := 0
  machineMode : Bool := false
  machineLead : Bool := false
  machineMask : BitVec 64 := 0
  portWired   : BitVec 10 := 0
  slot        : BitVec 3 := 0
  tray        : BitVec 3 := 0
  islFail     : BitVec 16 := 0
  /-- Device reports since cold reset (R389). -/
  devReports  : Word := 0
  deriving DecidableEq, Repr

/-- Boot progress (R438 to R455): POR_N is high; the firmware runs and has derived its keys (R349, R354); conditioned samples since the last failed test (R370); stacks that have finished training and the
attempts that each has failed (R442); the origin of the times after a reset (R439); PERST_N is high; the boot follows a
cold reset; XTAL32K_IN toggled at step 3 (R494); the two postings of R455 are still to be made. -/
structure Boot where
  porHigh    : Bool := false
  fwDone     : Bool := false
  trngRun    : Nat := 0
  stackDone  : BitVec 2 := 0
  attempts0  : Nat := 0
  attempts1  : Nat := 0
  origin     : Nat := 0
  perstHigh  : Bool := false
  cold       : Bool := true
  board      : Board := {}
  xtal       : Bool := false
  bootEvents : Bool := true
  deriving DecidableEq, Repr

/-- Power, pace, regulator and temperature (15). -/
structure Power where
  paceCap     : BitVec 8 := 0x5A
  volt        : BitVec 10 := 0x2EE
  shortfall   : Bool := false
  pmbusFault  : Bool := false
  shortCount  : BitVec 16 := 0
  pmbusCount  : BitVec 16 := 0
  pmbusLast   : BitVec 16 := 0
  shortTold   : Option Nat := none
  wakePorts   : BitVec 10 := 0
  wakePins    : BitVec 8 := 0
  wakeTargets : Table (List Nat) := []
  lp          : Bool := false
  loadUa      : BitVec 12 := 0x12C
  brownout    : Bool := false
  trip        : Bool := false
  inLp        : Bool := false
  brownCount  : BitVec 16 := 0
  tripCount   : BitVec 16 := 0
  tripped     : Bool := false
  tripPin     : Bool := false
  thresholdC  : BitVec 8 := 0x5F
  hystC       : BitVec 4 := 5
  alert       : Bool := false
  alertSeen   : Bool := false
  alertCount  : BitVec 16 := 0
  powerW      : BitVec 10 := 0
  tempC       : BitVec 8 := 0
  limitW      : BitVec 9 := 0x96
  overLimit   : Bool := false
  aonLp       : Bool := false
  d3hot       : Bool := false
  heldEvents  : List Event := []
  linear16    : Bool := true
  exponent    : Int := -9
  voltGoal    : Option Nat := none
  voltGood    : Nat := 0
  voltPrev    : Nat := 0
  voltStart   : Nat := 0
  lastMv      : Nat := 0
  lastMa      : Nat := 0
  lastTemp    : Int := 0
  deriving DecidableEq, Repr

/-- HBM and Lagoon registers, fill engine, scrubber and ledger registers (10, 17). -/
structure Upkeep where
  refresh     : Table (BitVec 2) := []
  corrected   : Bool := false
  uncorr      : Bool := false
  corrCount   : BitVec 16 := 0
  uncorrCount : BitVec 16 := 0
  eccLast     : BitVec 48 := 0
  fill        : List FillRun := []
  lastCal     : Table Nat := []
  hbmPassS    : BitVec 17 := 0xE10
  hbmEn       : Bool := true
  spPassMs    : BitVec 16 := 0x3E8
  spEn        : Bool := true
  scrubCorr   : Bool := false
  scrubUncorr : Bool := false
  scrubLate   : Bool := false
  scrubCorrCount : BitVec 16 := 0
  scrubUncorrCount : BitVec 16 := 0
  scrubLateCount : BitVec 16 := 0
  pos0        : Nat := 0
  pos1        : Nat := 0x000600000000
  passes0     : BitVec 16 := 0
  passes1     : BitVec 16 := 0
  poisonLog   : Table DWord := []
  poisonHead  : BitVec 4 := 0
  poisonTotal : BitVec 16 := 0
  opScrubs    : Nat := 0
  opScrubAddr : Nat := 0
  breach      : Bool := false
  breachCount : BitVec 16 := 0
  frozen      : Bool := false
  breachKind  : BitVec 3 := 0
  breachObj   : BitVec 8 := 0
  breachSub   : BitVec 8 := 0
  breachPart  : BitVec 8 := 0
  snap        : Table Word := []
  recSync     : BitVec 16 := 0
  recLost     : BitVec 16 := 0
  recMachine  : BitVec 16 := 0
  recTenant   : BitVec 16 := 0
  recSelftest : BitVec 16 := 0
  fwBlocks    : List Nat := []
  fwFailed    : Bool := false
  deriving DecidableEq, Repr

/-- The held access of a master (R332, R333): the byte enables in its aligned 8 bytes that are left to do, whether it
writes, its data or what it has read so far. -/
structure HeldAcc where
  acc   : Acc
  left  : Nat
  write : Bool
  data  : BitVec 64
  deriving DecidableEq, Repr

/-- Bus matrix, access-fault log, debug (12, 14). -/
structure Bus where
  roundRobin : BitVec 16 := 0
  hold       : BitVec 16 := 0
  parkBit    : BitVec 16 := 0
  hifQos     : Table (BitVec 4) := []
  held       : BitVec 5 := 0
  holdAddr   : BitVec 26 := 0
  holdMaster : BitVec 3 := 0
  holdWrite  : Bool := false
  holdFn     : BitVec 5 := 0
  holdPort   : BitVec 4 := 0
  /-- An access has been captured since the last release (R332). -/
  captured   : Bool := false
  /-- The held access of each held master other than HIF, and whether it writes (R333). -/
  heldAccs   : Table (Option HeldAcc) := []
  loss       : Table Word := []
  logged     : Bool := false
  logCount   : BitVec 16 := 0
  logCause   : BitVec 4 := 0
  logWrite   : Bool := false
  logFn      : BitVec 5 := 0
  logFwd     : Bool := false
  logEn      : BitVec 8 := 0
  logDie     : BitVec 6 := 0
  logOff     : Word := 0
  logBar     : BitVec 2 := 0
  dbgOpen    : Bool := false
  dbgJtag    : Bool := false
  dbgMask    : BitVec 16 := 0
  dbgAddr    : BitVec 48 := 0
  dbgData    : Word := 0
  dbgIndex   : BitVec 12 := 0
  sealedLog  : List LogEntry := []
  pfRefSec   : Nat := 0
  pfRefTotal : Nat := 0
  jtag       : JtagInstr := .bypass
  deriving DecidableEq, Repr

/-- The GPIO block and tray management (02, 18). Bit k belongs to GPIO_k. -/
structure Gpio where
  level    : BitVec 24 := 0
  out      : BitVec 24 := 0
  rise     : BitVec 24 := 0
  fall     : BitVec 24 := 0
  deny     : BitVec 16 := 0
  pstat    : BitVec 16 := 0x3210
  pins     : Table Pin := []
  isel     : Table (BitVec 8) := []
  pwm      : Table Word := []
  pwmNow   : Table Word := []
  tach     : Table (BitVec 16) := []
  pwmStart : Table Nat := []
  pulses   : Table Nat := []
  capt     : Table DWord := []
  syncHigh : Bool := false
  syncAt   : Nat := 0
  wakeOut  : Bool := false
  fanDuty  : Table (BitVec 8) := []
  fanRpm   : Table (BitVec 16) := []
  fanStalled : BitVec 4 := 0
  fanPulse : Table Nat := []
  deriving DecidableEq, Repr

/-- The key store (R349): each key as its standard lays it out, none where there is none. A private key is the number it stands for,
big-endian; an XTS pair is 64 bytes. `atRest` is by partition, `content` by the partition whose WEIGHT_LOAD runs. -/
structure KeyStore where
  identity : List Byte := []
  binding  : List Byte := []
  firmware : List Byte := []
  region   : List Byte := []
  idle     : List Byte := []
  atRest   : Table (List Byte) := []
  content  : Table (List Byte) := []
  deriving DecidableEq, Repr

/-- The state of the die. -/
structure State where
  /-- The commands that wait, first in, first out (the model's queue). -/
  pending  : List Instr := []
  /-- What outside observers have seen, newest first (the model's own record). -/
  out      : List Out := []
  /-- Index of the next free value (the model's own, DESIGN CHOICE, log entry 3). -/
  freeCtr  : Nat := 0
  /-- Time base in units of 10 ns (R405, R439). -/
  time     : Nat := 0
  /-- The last whole second of the time base at which each of the four once-a-second events has happened: pulses of
  the TACH functions 0, SYNC_OUT 1, SCRUB_CORRECTED 2, REFUSAL_TALLY 3. -/
  secDone  : Table Nat := []
  fuses    : Fuses
  flash    : Memory := []
  mgt      : Mgt := {}
  boot     : Boot := {}
  power    : Power := {}
  domains  : Table Domain := []
  up       : Upkeep := {}
  bus      : Bus := {}
  gpio     : Gpio := {}
  /-- Queues 0 to 64; on the machine lead queue `q` of die `d` at 128 × d + q (R227). -/
  queues   : Table Queue := []
  /-- The queues whose host writes the machine lead has still to pass on, oldest first; 0x7F for what no command wrote (R250). -/
  hostFifo : List Nat := []
  /-- Completion rings 0 to 64 and event ring e at 128 + e. -/
  rings    : Table Ring := []
  islets   : Table Islet := []
  nums     : Table Num := []
  parts    : Table Part := []
  /-- Owner of a granule: partition 0 to 15, 0xFE firmware region, 0xFF none (R405). -/
  owners   : Table Nat := []
  /-- Frozen frames (R146). -/
  frozen   : Table Bool := []
  /-- The XTS pair under which a granule is encrypted (R275); none where the key no longer exists (R350). -/
  keys     : Table (List Byte) := []
  store    : KeyStore := {}
  /-- Hash of the firmware-signing key in the Goose ROM (R352). -/
  romKey   : BitVec 384
  hbm      : Memory := []
  scratch  : Memory := []
  hbmPoison : Table Bool := []
  spPoison : Table Bool := []
  /-- Bits in error standing in an HBM block or scratchpad word: 1 or 2. -/
  hbmErr   : Table Nat := []
  spErr    : Table Nat := []
  switches : Table (Option Switch) := []
  ports    : Table Port := []
  grants   : Table Grant := []
  xfers    : Table Xfer := []
  nextXfer : Nat := 0
  remotes  : Table (Option RemoteDie) := []
  caches   : Table CacheLine := []
  invQueue : Table (List Nat) := []
  lagoon   : Table LagLine := []
  /-- Tree of pseudo-least-recent use of each set, key 4096 × slice + set (R269). -/
  plru     : Table (BitVec 15) := []
  /-- MSI-X tables of the functions (R226): words 0 to 2 of each vector, whether it is unmasked, and its pending
  bit. Key of a vector: function × 128 + vector. -/
  msixWord : Table Word := []
  msixOpen : Table Bool := []
  msixPend : Table Bool := []
  /-- Configuration of the PF (0) and the VFs. -/
  pcie     : Table Pcie := []
  sessions : Table Session := []
  ideOn    : Table Bool := []
  /-- The six keys of IDE stream k, while it is Secure (R395). -/
  ideKeys  : Table (List (List Byte)) := []
  /-- Ring that the Goose served last (R194). -/
  lastRing : Nat := 48
  deriving DecidableEq, Repr

/-- The state right after reset: POR_N still low, every register at its reset value, domains as R436
gives them (32 to 34 ON), granule 191 owned by the firmware region (R405), nothing in memory. The revision is that of this manual's die
(R347, R374). -/
def State.reset : State :=
  { fuses := { Config.fuses with revLetter := 0x41, revNumber := 0 }
    romKey := Config.romKey
    domains := [(32, { st := .on }), (33, { st := .on }), (34, { st := .on })]
    owners := [(191, 0xFE)] }

end Sys2Proof.Machine
end

