-- ==== Sys2Proof/Machine/Entry.lean ====
section
/-!
DEFINITION. The 64-byte submission entry: the common header (R171), the operand descriptor (R119), the
queues and the opcodes they accept (R173, R199, R202), and the checks of an entry at the head of its
queue (R174).
-/

namespace Sys2Proof.Machine

/-! ### Queues (R202) -/

/-- What kind of queue a number names. -/
inductive QKind where
  | mx | vx | mv | tenant | operator
  deriving DecidableEq, Repr

/-- The kind of queue `q`. -/
def qKind (q : Nat) : QKind :=
  if q < 48 then
    (if q % 3 = 0 then .mx else if q % 3 = 1 then .vx else .mv)
  else if q < 64 then .tenant else .operator

/-- An engine queue. -/
def QKind.engine : QKind → Bool
  | .mx => true
  | .vx => true
  | .mv => true
  | .tenant => false
  | .operator => false

/-! ### Status codes (R215) and MALFORMED sub-codes (R219, R373, R380 and others) -/

def stDone : BitVec 8 := 0x00
def stNanTrap : BitVec 8 := 0x01
def stPoison : BitVec 8 := 0x02
def stMalformed : BitVec 8 := 0x03
def stStallTimeout : BitVec 8 := 0x04
def stLinkLost : BitVec 8 := 0x05
def stAborted : BitVec 8 := 0x06
def stLedgerHalt : BitVec 8 := 0x07
def stPaceOrder : BitVec 8 := 0x08
def stBusy : BitVec 8 := 0x09
def stNotReady : BitVec 8 := 0x0A
def stHostFault : BitVec 8 := 0x0B
def stRefused : BitVec 8 := 0x0F

def subOpcode : Nat := 0x01
def subHeader : Nat := 0x02
def subFormat : Nat := 0x03
def subDesc : Nat := 0x04
def subExtent : Nat := 0x05
def subTag : Nat := 0x06
def subRing : Nat := 0x07

/-- A MALFORMED report: sub-code and detail (R218). -/
abbrev Malformed := Nat × Nat

/-- INFO of a MALFORMED completion (R218). -/
def malformedInfo (m : Malformed) : BitVec 64 := BitVec.ofNat 64 (m.1 + m.2 * 2 ^ 32)

/-- Does a completion with this status halt its queue (R195). ABORTED halts only where a rule says so. -/
def haltsQueue (st : BitVec 8) : Bool :=
  st == stNanTrap || st == stPoison || st == stMalformed || st == stStallTimeout || st == stLinkLost
    || st == stLedgerHalt || st == stHostFault || st == stRefused

/-! ### The common header (R171) -/

/-- OPCODE. -/
def eOpcode (e : List Byte) : Nat := leAt e 0 1
/-- IRQ. -/
def eIrq (e : List Byte) : Bool := bit (leAt e 1 1) 0
/-- WAIT_KIND. -/
def eWaitKind (e : List Byte) : Nat := leAt e 2 1 % 16
/-- SIG_KIND. -/
def eSigKind (e : List Byte) : Nat := leAt e 2 1 / 16
/-- QOS. -/
def eQos (e : List Byte) : Nat := leAt e 3 1 % 16
/-- SEQ. -/
def eSeq (e : List Byte) : Word := BitVec.ofNat 32 (leAt e 4 4)
/-- WAIT_OP. -/
def eWaitOp (e : List Byte) : Nat := leAt e 8 8
/-- SIG_OP. -/
def eSigOp (e : List Byte) : Nat := leAt e 16 8

/-- Is a queue of this kind marked Yes for an opcode (R173, R199). -/
def opcodeOn (k : QKind) (op : Nat) : Bool :=
  let operatorOnly := op == 0x80 || op == 0x81 || op == 0x82 || decide (0x84 ≤ op ∧ op ≤ 0x88)
    || op == 0x8F || decide (0x91 ≤ op ∧ op ≤ 0x96) || op == 0x98 || op == 0x99
  let tenantOnly := op == 0x8B || op == 0x8C || op == 0x8D || op == 0x9A
  match k with
  | .mx => decide (op ≤ 0x05) || decide (0x10 ≤ op ∧ op ≤ 0x1F)
  | .vx => decide (op ≤ 0x05) || decide (0x20 ≤ op ∧ op ≤ 0x5F)
  | .mv => decide (op ≤ 0x05) || decide (0x60 ≤ op ∧ op ≤ 0x7F)
  | .tenant => decide (op ≤ 0x02) || (decide (0x80 ≤ op ∧ op ≤ 0x9A) && !operatorOnly)
  | .operator => op == 0 || (decide (0x80 ≤ op ∧ op ≤ 0x9A) && !tenantOnly)

/-- Is a wait kind allowed on a queue of this kind (R177). -/
def waitKindOn (k : QKind) (w : Nat) : Bool :=
  match w with
  | 0 => true
  | 1 => k.engine || k == .tenant
  | 2 => k.engine || k == .tenant
  | 3 => k.engine
  | 4 => k.engine
  | _ => false

/-- Is a signal kind allowed on a queue of this kind (R181). -/
def sigKindOn (k : QKind) (w : Nat) : Bool :=
  match w with
  | 0 => true
  | 1 => k != .operator
  | 2 => k != .operator
  | _ => false

/-- Bits of a wait operand outside the fields of its kind are zero (R177). -/
def waitOpClean (w op : Nat) : Bool :=
  match w with
  | 0 => op == 0
  | 1 => decide (op < 2 ^ 38)
  | 2 => decide (op < 2 ^ 56)
  | 3 => decide (op < 1024)
  | 4 => decide (op < 1024)
  | _ => true

/-- Bits of a signal operand outside the fields of its kind are zero (R181). -/
def sigOpClean (k op : Nat) : Bool :=
  match k with
  | 0 => op == 0
  | 1 => decide (op < 2 ^ 38)
  | 2 => decide (op < 2 ^ 38)
  | _ => true

/-- COUNTER of a CUE wait or a signal. -/
def opCounter (op : Nat) : Nat := bits op 37 32
/-- THRESHOLD of a CUE wait, or VALUE of a signal. -/
def opValue (op : Nat) : Word := BitVec.ofNat 32 op
/-- WINDOW of a WINDOW wait. -/
def opWindow (op : Nat) : Nat := bits op 55 48
/-- THRESHOLD of a WINDOW wait. -/
def opWinThreshold (op : Nat) : Nat := op % 2 ^ 48
/-- SQUARE of a tag wait. -/
def opSquare (op : Nat) : Nat := op % 1024

/-- The least of the offsets whose check failed. -/
def firstBad : List (Nat × Bool) → Option Nat
  | [] => none
  | (o, b) :: t =>
    match firstBad t with
    | none => if b then some o else none
    | some m => if b && decide (o ≤ m) then some o else some m

/-- The header checks of R174. `winOpen` says whether the partition has window w open; the detail of
HEADER is the byte offset of the first field of R171 that failed (R219). -/
def headCheck (k : QKind) (winOpen : Nat → Bool) (e : List Byte) : Option Malformed :=
  let op := eOpcode e
  if !opcodeOn k op then some (subOpcode, op)
  else
    let w := eWaitKind e
    let g := eSigKind e
    let bad := firstBad
      [ (1, decide (leAt e 1 1 / 2 ≠ 0)),
        (2, !waitKindOn k w || !sigKindOn k g || (op == 2 && w == 0) || (op == 1 && g == 0)),
        (3, decide (leAt e 3 1 / 16 ≠ 0) || (!k.engine && decide (eQos e ≠ 0))),
        (8, !waitOpClean w (eWaitOp e)
              || (w == 2 && (decide (16 ≤ opWindow (eWaitOp e)) || !winOpen (opWindow (eWaitOp e))))),
        (16, !sigOpClean g (eSigOp e)) ]
    bad.map (fun o => (subHeader, o))

/-! ### Operand descriptors (R119) -/

/-- An operand descriptor with its byte offset in the entry. -/
structure Opnd where
  off    : Nat
  tensor : Nat
  signed : Bool
  tag    : TagMode
  trans  : Bool
  nanOvf : Bool
  row0   : Nat
  col0   : Nat
  rows   : Nat
  cols   : Nat
  deriving DecidableEq, Repr

/-- The tag mode of a 2-bit code (R95). -/
def tagModeOf (c : Nat) : TagMode :=
  match c with
  | 0 => .readKeep
  | 1 => .readTake
  | 2 => .writeFill
  | _ => .writeOver

/-- The descriptor at a byte offset of an entry. -/
def opndAt (e : List Byte) (off : Nat) : Opnd :=
  let w0 := leAt e off 4
  { off := off, tensor := bits w0 6 0, signed := bit w0 7, tag := tagModeOf (bits w0 9 8), trans := bit w0 10,
    nanOvf := bit w0 11, row0 := bits w0 21 12, col0 := bits w0 31 22,
    rows := leAt e (off + 4) 2, cols := leAt e (off + 6) 2 }

/-- A check of the reserved bytes `lo` to `hi - 1`: the detail names the first byte of the reserved field
(R125). -/
def reservedBad (e : List Byte) (lo hi : Nat) : Nat × Bool :=
  (lo, (List.range (hi - lo)).any (fun i => decide (leAt e (lo + i) 1 ≠ 0)))

/-- A check of the reserved bits from bit `lo` of the `n` bytes at `off`: the detail names the byte in which
the reserved field starts (R125). -/
def reservedFrom (e : List Byte) (off n lo : Nat) : Nat × Bool :=
  (off + lo / 8, decide (leAt e off n / 2 ^ lo ≠ 0))

end Sys2Proof.Machine
end

