-- ==== Sys2Proof/Machine/Flits.lean ====
section
/-!
DEFINITION. Routes between dies (R38 to R42) and the flits and notes that a die sends of its own (R290, R291).
-/

namespace Sys2Proof.Machine

/-! ### Routes (R38 to R42) -/

/-- The die that a flit from `a` to `b` reaches next (R42). -/
def nextDie (a b : Nat) : Nat :=
  let ta := a / 8
  let tb := b / 8
  if ta = tb then b
  else
    let x := ta ^^^ tb
    let d := if x % 2 = 1 then 1 else if x / 2 % 2 = 1 then 2 else 4
    8 * (ta ^^^ d) + a % 8

/-- The dies that a flit from `a` reaches on its way to `b`, `b` among them (R42). -/
def routeGo : Nat → Nat → Nat → List Nat
  | 0, _, _ => []
  | fuel + 1, a, b => if a = b then [] else nextDie a b :: routeGo fuel (nextDie a b) b

/-- The dies of the route from `a` to `b`. -/
def routeDies (a b : Nat) : List Nat := routeGo 4 a b

/-- The port on which die `a` sends to die `b` (R38, R39); on a bridged pair, port `seg mod 2` (R40). -/
def portToward (product : Nat) (a b seg : Nat) : Nat :=
  if product = 1 then seg % 2
  else
    let n := nextDie a b
    if a / 8 = n / 8 then (a % 8 ^^^ n % 8) - 1
    else
      let x := a / 8 ^^^ n / 8
      7 + (if x = 1 then 0 else if x = 2 then 1 else 2)

/-! ### Flits (R290, R291) -/

/-- A flit of this die before its link numbers and encrypts it. -/
def mkFlit (typ vc qos dst src : Nat) (frozen : Bool) (body : List Byte) : Flit :=
  { typ := BitVec.ofNat 8 typ, vc := BitVec.ofNat 2 vc, frozen := frozen, keyed := decide (8 < typ) && decide (typ ≠ 0x7F), qos := BitVec.ofNat 4 qos,
    dst := BitVec.ofNat 6 dst, src := BitVec.ofNat 6 src, crVc := 0, crCount := 0, seq := 0, ack := 0, body := body }

/-- The port holds link keys from R303. -/
def Port.hasKey (t : Port) : Bool := !t.txKey.isEmpty

/-- What a FWD flit says (R46, R227 to R229, R250, R311, R379, R469): its first number (DEDUCED, log entry 91). -/
inductive Fwd where
  | access | hostWrite | hostRead | message | queueIs | answer | entry | polled | pollFailed | data | readFailed | passed | join | part | act | halt
  | ended
  deriving DecidableEq, Repr

/-- Number of what a FWD flit says. -/
def Fwd.code : Fwd → Nat
  | .access => 0
  | .hostWrite => 1
  | .hostRead => 2
  | .message => 3
  | .queueIs => 4
  | .answer => 5
  | .entry => 6
  | .polled => 7
  | .pollFailed => 8
  | .data => 9
  | .readFailed => 10
  | .passed => 11
  | .join => 12
  | .part => 13
  | .act => 14
  | .halt => 15
  | .ended => 16

/-- What a CTRL, WIN_ACK, XFER_VERDICT, FWD or CREDIT_SYNC flit says. The manual gives these flits no body layout: the body
is opaque (DESIGN CHOICE, log entry 11). -/
inductive Note where
  | grant | granted | revoke | revokeAck | lost | winAck | verdict | audit | forward | sleepReq | sleepAck | sync
  deriving DecidableEq, Repr

/-- Code byte, flit type and virtual channel of a note. -/
def Note.code : Note → Nat × Nat × Nat
  | .grant => (0, 0x09, 3)
  | .granted => (1, 0x09, 3)
  | .revoke => (2, 0x09, 3)
  | .revokeAck => (3, 0x09, 3)
  | .lost => (4, 0x09, 3)
  | .winAck => (5, 0x18, 1)
  | .verdict => (6, 0x19, 1)
  | .audit => (7, 0x09, 3)
  | .forward => (8, 0x0A, 3)
  | .sleepReq => (10, 0x09, 3)
  | .sleepAck => (11, 0x09, 3)
  | .sync => (12, 0x04, 0)

end Sys2Proof.Machine
end

