-- ==== Sys2Proof/Machine/Ops.lean ====
section
/-!
DEFINITION. The named operations over the state that every family shares: accessors, time, free values,
events and completions, halts, refusals, the access log, the sealed log, breaches and waits.
-/

namespace Sys2Proof.Machine

/-- The outcome of a command. -/
abbrev Outcome := Host.Outcome State Fault Refusal

/-! ### Accessors -/

def State.queue (s : State) (q : Nat) : Queue := Table.get {} s.queues q
def State.setQueue (s : State) (q : Nat) (v : Queue) : State := { s with queues := Table.set {} s.queues q v }
def State.ring (s : State) (c : Nat) : Ring := Table.get {} s.rings c
def State.setRing (s : State) (c : Nat) (v : Ring) : State := { s with rings := Table.set {} s.rings c v }
def State.islet (s : State) (n : Nat) : Islet := Table.get {} s.islets n
def State.setIslet (s : State) (n : Nat) (v : Islet) : State := { s with islets := Table.set {} s.islets n v }
def State.num (s : State) (q : Nat) : Num := Table.get {} s.nums q
def State.setNum (s : State) (q : Nat) (v : Num) : State := { s with nums := Table.set {} s.nums q v }
def State.part (s : State) (p : Nat) : Part := Table.get {} s.parts p
def State.setPart (s : State) (p : Nat) (v : Part) : State := { s with parts := Table.set {} s.parts p v }
def State.port (s : State) (p : Nat) : Port := Table.get {} s.ports p
def State.setPort (s : State) (p : Nat) (v : Port) : State := { s with ports := Table.set {} s.ports p v }
def State.domain (s : State) (d : Nat) : Domain := Table.get {} s.domains d
def State.setDomain (s : State) (d : Nat) (v : Domain) : State := { s with domains := Table.set {} s.domains d v }
def State.win (s : State) (p w : Nat) : Window := Table.get {} (s.part p).windows w
def State.setWin (s : State) (p w : Nat) (v : Window) : State :=
  s.setPart p { s.part p with windows := Table.set {} (s.part p).windows w v }
def State.cue (s : State) (p k : Nat) : Word := Table.get 0 (s.part p).cues k
def State.xfer (s : State) (x : Nat) : Xfer := Table.get {} s.xfers x
def State.setXfer (s : State) (x : Nat) (v : Xfer) : State := { s with xfers := Table.set {} s.xfers x v }
def State.pin (s : State) (k : Nat) : Pin := Table.get {} s.gpio.pins k
def State.setPin (s : State) (k : Nat) (v : Pin) : State :=
  { s with gpio := { s.gpio with pins := Table.set {} s.gpio.pins k v } }
def State.owner (s : State) (g : Nat) : Nat := Table.get 0xFF s.owners g
def State.setOwner (s : State) (g v : Nat) : State := { s with owners := Table.set 0xFF s.owners g v }
def State.switchOf (s : State) (p : Nat) : Option Switch := Table.get none s.switches p
def State.setSwitch (s : State) (p : Nat) (v : Option Switch) : State :=
  { s with switches := Table.set none s.switches p v }
def State.session (s : State) (f : Nat) : Session := Table.get {} s.sessions f
def State.setSession (s : State) (f : Nat) (v : Session) : State :=
  { s with sessions := Table.set {} s.sessions f v }
def Port.credit (p : Port) (v : Nat) : Credit := Table.get {} p.credits v
def Port.setCredit (p : Port) (v : Nat) (c : Credit) : Port := { p with credits := Table.set {} p.credits v c }

/-- Key of event ring `e` in `rings`. -/
def evRing (e : Nat) : Nat := 128 + e

/-- This die's number (R35, R37): eight dies a tray. -/
def State.die (s : State) : Nat := 8 * s.mgt.tray.toNat + s.mgt.slot.toNat

/-- What the outside sees. -/
def State.emit (s : State) (o : Out) : State := { s with out := o :: s.out }

/-- Several outputs in order. -/
def State.emits (s : State) (l : List Out) : State := l.foldl State.emit s

/-- Time base in µs (R405). -/
def State.us (s : State) : Nat := s.time / 100

/-- Let the time base reach at least `t` (10 ns units). -/
def State.advanceTo (s : State) (t : Nat) : State := if s.time < t then { s with time := t } else s

/-- The time base runs from POR_N high (R439). -/
def State.timeRuns (s : State) : Bool := s.boot.porHigh && !s.power.tripped

/-- An idle tick: 10 ns of the time base (DESIGN CHOICE, log entry 1). -/
def State.idle (s : State) : State := if s.timeRuns then { s with time := s.time + 1 } else s

/-- Whole seconds are multiples of this many ticks of the time base. -/
def second : Nat := 100000000

/-- The time base reaches the next whole second at which event `k` has not happened yet. -/
def State.atSecond (s : State) (k : Nat) : State :=
  let n := Nat.max (Table.get 0 s.secDone k + 1) ((s.time + second - 1) / second)
  { s.advanceTo (n * second) with secDone := Table.set 0 s.secDone k n }

/-- The next free value (DESIGN CHOICE, log entry 3). -/
def State.freeValue (s : State) (w : Nat) : BitVec w := Config.freeValue w s.freeCtr

/-- The state after one free value has been taken. -/
def State.freeTaken (s : State) : State := { s with freeCtr := s.freeCtr + 1 }

/-! ### Flits that the die sends (R42, R290) -/

/-- Queue a flit on the port towards its destination (R42); `seg` is the 4 KiB segment of R40, `key` the transfer or push of
this die whose bytes it carries. -/
def State.queueFlit (s : State) (f : Flit) (seg : Nat) (key : Option Nat) : State :=
  let p := portToward s.mgt.product.toNat s.die f.dst.toNat seg
  let t := s.port p
  s.setPort p { t with txq := t.txq ++ [{ flit := f, key := key }] }

/-- Queue a flit that carries no bytes of a transfer. -/
def State.sendFlit (s : State) (f : Flit) (seg : Nat) : State := s.queueFlit f seg none

/-- Send a note to another die. -/
def State.sendNote (s : State) (dst : Nat) (w : Note) (args : List Nat) : State :=
  let c := w.code
  s.sendFlit (mkFlit c.2.1 c.2.2 0 dst s.die false (Config.noteBody c.1 args)) 0

/-- Send a FWD flit to another die (R227 to R229). -/
def State.forward (s : State) (dst : Nat) (w : Fwd) (args : List Nat) : State := s.sendNote dst .forward (w.code :: args)

/-- The other dies of this die's machine (R46). -/
def State.otherDies (s : State) : List Nat :=
  if s.mgt.machineMode then (List.range 64).filter (fun d => s.mgt.machineMask.getLsbD d && decide (d ≠ s.die)) else []

/-- The partition owns resources on another die as well (R321, R379). -/
def Part.wide (t : Part) : Bool := t.others.any (fun e => e.2 != 0)

/-- Take the flits of a transfer that have not left yet back from the ports' queues (R140): the bytes that they carried. -/
def State.recallFlits (s : State) (key : Nat) : Nat × State :=
  (List.range 10).foldl (fun c p =>
    let t := c.2.port p
    let mine := t.txq.filter (fun w => w.key == some key)
    if mine.isEmpty then c
    else (c.1 + (mine.map (fun w => leAt w.flit.body 4 1)).sum, c.2.setPort p { t with txq := t.txq.filter (fun w => w.key != some key) }))
    (0, s)

/-! ### What reaches the host through the machine lead (R227, R228, R250) -/

/-- This die is in a machine and not its lead (R46, R379): the lead polls and fetches for it (R227). -/
def State.follower (s : State) : Bool := s.mgt.machineMode && !s.mgt.machineLead

/-- Function number of the feeder host behind an auxiliary port (R48, R49). -/
def feeder : Nat := 17

/-- Something of queue `q` for the host: from a die that is not the lead of its machine it goes to the lead (R228, R49), and a write of it
counts as passed on once the lead says so (R250). What the feeder host gets goes out at this die. -/
def State.toHost (s : State) (q : Nat) (o : Out) : State :=
  if !s.follower then s.emit o
  else match o with
    | .hostWrite fn addr bytes =>
      if fn = feeder then s.emit o
      else ({ s with hostFifo := s.hostFifo ++ [q] } : State).forward 0 .hostWrite (fn :: addr :: bytes.map BitVec.toNat)
    | .hostRead fn addr len => if fn = feeder then s.emit o else s.forward 0 .hostRead [q, fn, addr, len]
    | .msix fn v => s.forward 0 .message [fn, v]
    | _ => s.emit o

/-- Every host write of the commands of queue `q` is visible at SYSTEM scope (R250). -/
def State.passedOn (s : State) (q : Nat) : Bool := !s.hostFifo.contains q

/-- Key under which the machine lead keeps queue `q` of die `d`. -/
def remoteQueue (d q : Nat) : Nat := 128 * d + q

/-! ### Owners -/

/-- The partition that owns Islet `n` (R18). -/
def State.isletOwner (s : State) (n : Nat) : Option Nat :=
  firstBelow 16 (fun p => bit (s.part p).islets.toNat n && decide (n < 16))

/-- The partition that queue `q` belongs to (R202); none for queue 64 and for an unowned Islet. -/
def State.queueOwner (s : State) (q : Nat) : Option Nat :=
  if q < 48 then s.isletOwner (q / 3)
  else if q < 64 then some (q - 48) else none

/-- The event ring of a queue's owner: its partition's, or the operator's (R195). -/
def State.queueEvent (s : State) (q : Nat) : Nat := (s.queueOwner q).getD 16

/-- The completion ring of queue `q` (R203). -/
def State.queueRing (s : State) (q : Nat) : Nat :=
  if q = 64 then 64
  else match s.queueOwner q with
    | some p => 4 * p + (s.queue q).cqSel.toNat
    | none => 64

/-- The queues that belong to partition `p`. -/
def State.queuesOf (s : State) (p : Nat) : List Nat :=
  (List.range 64).filter (fun q => decide (s.queueOwner q = some p))

/-- The Islets of partition `p`. -/
def State.isletsOf (s : State) (p : Nat) : List Nat :=
  (List.range 16).filter (fun n => bit (s.part p).islets.toNat n)

/-- The granules of partition `p` on this die. -/
def State.granulesOf (s : State) (p : Nat) : List Nat :=
  (List.range 192).filter (fun g => decide (s.owner g = p))

/-- The function that serves partition `p` (R17), or the PF. -/
def fnOf (o : Option Nat) : Nat :=
  match o with
  | some p => p + 1
  | none => 0

/-- Raise performance counter `k` of partition `p` (R397). -/
def State.perfAdd (s : State) (p k n : Nat) : State :=
  let t := s.part p
  s.setPart p { t with perf := Table.set 0 t.perf k (Table.get 0 t.perf k + BitVec.ofNat 64 n) }

/-- Where a partition's host memory aperture leads (R49): to its function's host memory, or, with HOST_ROUTE LOCAL, to
the feeder host, here function 17. -/
def State.apertureFn (s : State) (p : Nat) : Nat := if (s.part p).localRoute then feeder else p + 1

/-- The partition requires an IDE stream and it is not Secure (R395): its host traffic waits. A partition that has
no tenant waits for nothing (DEDUCED, log entry 27). -/
def State.ideWaits (s : State) (o : Option Nat) : Bool :=
  match o with
  | some p => (s.part p).ideReq && !(s.part p).ideSecure && (s.part p).state == .active
  | none => false

/-- The partition-relative form of an HBM address owned by `p` (R267). -/
def State.relAddr (s : State) (p a : Nat) : Nat :=
  let g := a / 0x10000000
  let k := ((s.granulesOf p).filter (fun h => decide (h < g))).length
  k * 0x10000000 + a % 0x10000000 + s.die * 2 ^ 42

/-! ### Completion and event rings (R214 to R226) -/

/-- Entries of a ring. -/
def Ring.size (r : Ring) : Nat := 2 ^ r.sizeLog2.toNat

/-- Entries written and not yet consumed. -/
def Ring.used (r : Ring) : Nat := (r.tail - r.head).toNat

/-- The ring is full (R220): (tail − head) equals its size. -/
def Ring.full (r : Ring) : Bool := decide (r.used = r.size)

/-- Free slots. -/
def Ring.freeSlots (r : Ring) : Nat := r.size - r.used

/-- PHASE of the entry with ring index `n` (R216). -/
def Ring.phase (r : Ring) : Nat := 1 - r.tail.toNat / 2 ^ r.sizeLog2.toNat % 2

/-- The reset value of VECTOR (R226). -/
def resetVector (die c : Nat) : BitVec 7 :=
  if c < 64 then BitVec.ofNat 7 (c % 4)
  else if c = 64 then BitVec.ofNat 7 (2 * die)
  else if c = evRing 16 then BitVec.ofNat 7 (2 * die + 1)
  else 4

/-- VECTOR of a ring. -/
def State.ringVector (s : State) (c : Nat) : BitVec 7 := ((s.ring c).vector).getD (resetVector s.die c)

/-- The function that owns a ring. -/
def ringFn (c : Nat) : Nat :=
  if c < 64 then c / 4 + 1
  else if evRing 0 ≤ c ∧ c < evRing 16 then c - evRing 0 + 1
  else 0

/-- Configuration of function `fn`. -/
def State.config (s : State) (fn : Nat) : Pcie := Table.get {} s.pcie fn

/-- Function `fn` of this die issues no requests (R48, R430): the PF is in D3hot, the PF or the function has Bus Master Enable clear, a VF
is in D3hot, or the port is an auxiliary one. A die of a machine reaches the host through the lead. -/
def State.fnHeld (s : State) (fn : Nat) : Bool :=
  if s.follower then false
  else decide (s.die ≠ 0) || s.power.d3hot || !(s.config 0).busMaster || (fn != 0 && (!(s.config fn).busMaster || (s.config fn).d3hot))

/-- Nothing is written to ring `c` now: its function issues no requests (R430), or the ring's partition waits for its IDE stream
(R395). -/
def State.hostHeld (s : State) (c : Nat) : Bool :=
  s.fnHeld (ringFn c) || s.ideWaits (if ringFn c = 0 then none else some (ringFn c - 1))

/-- The 32 bytes of an event entry (R223). -/
def eventBytes (code phase queue : Nat) (seq : Word) (timeUs : Nat) (data : List Byte) : List Byte :=
  leBytes 2 code ++ leBytes 1 phase ++ leBytes 1 queue ++ leBytes 4 seq.toNat ++ leBytes 8 timeUs ++ slice data 0 16

/-- Ask for the message of a vector: one that its own mask or the function mask holds becomes pending, and a function whose MSI-X is not
enabled sends none (R226, PRESUMED, log entry 39). The machine lead sends the messages of every die and holds their masks (R228);
another die hands its request to it. -/
def State.message (s : State) (fn v : Nat) : State :=
  if s.follower then s.toHost 0x7F (.msix fn v)
  else if !(s.config fn).msixOn then s
  else if Table.get false s.msixOpen (fn * 128 + v) && !(s.config fn).msixMask then s.emit (.msix fn v)
  else { s with msixPend := Table.set false s.msixPend (fn * 128 + v) true }

/-- Write one entry at the tail of a ring and send its message if asked (R217, R226). -/
def State.writeEntry (s : State) (c : Nat) (bytes : List Byte) (msix : Bool) : State :=
  let r := s.ring c
  let w := bytes.length
  let a := r.base.toNat + r.tail.toNat % r.size * w
  let s := s.toHost 0x7F (.hostWrite (ringFn c) a bytes)
  let s := if msix then s.message (ringFn c) (s.ringVector c).toNat else s
  s.setRing c { r with tail := r.tail + 1, written := r.written + 1 }

/-- Count an event as coalesced (R224, R225). -/
def Ring.coalesceEvent (r : Ring) (code : Nat) : Ring :=
  let cl := code / 256
  { r with coalesced := r.coalesced + 1, since := r.since + 1,
           classes := Table.set 0 r.classes cl (Table.get 0 r.classes cl + 1) }

/-- Reserve the last free slot for the marker (R224, R230). -/
def Ring.reserve (r : Ring) : Ring :=
  if r.enable && !r.coalesce && decide (r.freeSlots = 1) then
    { r with coalesce := true, fullSeen := true, fullCount := satInc r.fullCount }
  else r

/-- Post an event to its ring, or coalesce it (R224, R225). -/
def State.deliverEvent (s : State) (ev : Event) : State :=
  let c := evRing ev.ring
  let r := s.ring c
  if !r.enable || r.coalesce || decide (r.freeSlots ≤ 1) || decide (0 < r.since) then
    s.setRing c (r.coalesceEvent ev.code.toNat)
  else
    let s := s.writeEntry c
      (eventBytes ev.code.toNat r.phase ev.queue.toNat ev.seq ev.time ev.data) true
    s.setRing c (s.ring c).reserve

/-- Raise an event on event ring `e`, before the ledger's check. While the PF is in D3hot it waits (R430). -/
def State.raiseRaw (s : State) (e code queue : Nat) (seq : Word) (data : List Byte) : State :=
  let ev : Event := { ring := e, code := BitVec.ofNat 16 code, queue := BitVec.ofNat 7 queue, seq := seq,
                      time := s.us, data := data }
  let r := s.ring (evRing e)
  let s := s.setRing (evRing e) { r with raised := r.raised + 1 }
  if s.hostHeld (evRing e) then { s with power := { s.power with heldEvents := s.power.heldEvents ++ [ev] } }
  else s.deliverEvent ev

/-- QUEUE value for none. -/
def noQueue : Nat := 0x7F

/-- Counts of the marker per class, 1 to 8 (R225). -/
def markerData (r : Ring) : List Byte :=
  (List.range 8).flatMap (fun i => leBytes 2 (Nat.min 0xFFFF (Table.get 0 r.classes (i + 1))))

/-- Write the overflow marker where one is due, and end the reservation (R224, R225). A ring whose last slot is reserved coalesces,
whether or not an event has been raised since: its marker counts 0 then (DEDUCED, log entry 20). -/
def State.markerDue (s : State) (e : Nat) : State :=
  let c := evRing e
  let r := s.ring c
  if !r.enable || r.full || s.hostHeld c || (r.coalesce && decide (r.freeSlots ≤ 1)) then s
  else
    let s := if r.coalesce || decide (0 < r.since) then
        let s := s.writeEntry c
          (eventBytes 0x0FFF r.phase noQueue (BitVec.ofNat 32 r.since) s.us (markerData r)) true
        let r' := s.ring c
        -- a marker is neither raised nor posted under the invariant of R25
        s.setRing c { r' with written := r'.written - 1 }
      else s
    let r := s.ring c
    s.setRing c ({ r with coalesce := false, since := 0, classes := [] } : Ring).reserve

/-- The 16 bytes of a completion entry (R214). -/
def completionBytes (k : Completion) (phase : Nat) : List Byte :=
  leBytes 4 k.seq.toNat ++ leBytes 1 k.status.toNat ++ leBytes 1 (phase + 2 * k.queue) ++ leBytes 2 0
    ++ leBytes 8 k.info.toNat

/-- The partition of a queue, of this die or, on the machine lead, of another. -/
def State.queuePart (s : State) (q : Nat) : Option Nat :=
  if q < 128 then s.queueOwner q else if (s.queue q).fn = 0 then none else some ((s.queue q).fn - 1)

/-- The function whose memory the ring of a queue is in. -/
def State.queueFn (s : State) (q : Nat) : Nat := fnOf (s.queuePart q)

/-- The host link serves queue `q` (R355, R395, R396, R430): the host interface is ON, the queue's function issues requests, the
queue's partition does not wait for its IDE stream and is not being cleared; in RECOVERY only queue 64 is served. In a machine the lead
serves the queues of every die (R45, R227). -/
def State.hostOpen (s : State) (q : Nat) : Bool :=
  let o := s.queuePart q
  (s.domain 33).st == .on && !s.follower && !s.fnHeld (fnOf o) && (decide (q < 128) || s.mgt.machineLead)
    && !s.ideWaits o && (q % 128 == 64 || s.mgt.stage != .recovery)
    && (match o with
      | some p => (s.part p).state != .clearing
      | none => q % 128 == 64)

/-- The queue's partition is under ledger halt (R470). -/
def State.underHalt (s : State) (q : Nat) : Bool :=
  match s.queueOwner q with
  | some p => (s.part p).halted
  | none => false

/-- The ICP of an engine queue is frozen with ICP_HUB's path (R331): it neither fetches, starts nor completes commands. -/
def State.icpHeld (s : State) (q : Nat) : Bool := decide (q < 48) && s.bus.held.getLsbD 3

/-- Entries of the queue's ring (R205). -/
def Queue.size (k : Queue) : Nat := 2 ^ k.sizeLog2.toNat

/-- What the machine lead must know of queue `q` of this die (R227), as the arguments of a note: the manual gives the message no layout
(DEDUCED, log entry 91). -/
def State.queueArgs (s : State) (q : Nat) : List Nat :=
  let k := s.queue q
  [q, k.base.toNat, k.db.toNat, k.sizeLog2.toNat, fnOf (s.queueOwner q), k.gen.toNat, b2n k.enable, b2n k.park,
    b2n (k.halted || s.underHalt q || s.icpHeld q), b2n k.discarding, b2n k.discardTo.isSome, (k.discardTo.getD 0).toNat, k.fetched.toNat,
    k.fetched.toNat + 8 - k.entries.length, k.cons.toNat, b2n k.pollDue]

/-- On a die that is not the lead of its machine, the lead hears of a queue's change, and of a poll that is due. -/
def State.tellLead (s : State) (q : Nat) : State :=
  if s.follower then (s.setQueue q { s.queue q with pollDue := false }).forward 0 .queueIs (s.queueArgs q) else s

/-- Entries of a queue for which there is room: the prefetch buffer holds 8 (R212); those of a queue of another die are in that die. -/
def Queue.space (k : Queue) (q : Nat) : Nat := if 128 ≤ q then (k.room - k.fetched).toNat else 8 - k.entries.length

/-- Fetch as many entries as may be fetched (R210, R212, R197): up to PROD, or up to where a DISCARD ends. For a die that is not the lead
of its machine the lead does so (R227). -/
def State.fetchMore (s : State) (q : Nat) : State :=
  let k := s.queue q
  let limit := k.discardTo.getD k.prod
  let slot := k.fetched.toNat % k.size
  let n := Nat.min (Nat.min (k.space q) (limit - k.fetched).toNat) (k.size - slot)
  if s.follower then s.tellLead q
  else if !k.enable || s.icpHeld q || s.underHalt q || !s.hostOpen q || k.fetchOut != 0 || n == 0 || (if k.discarding then k.discardTo.isNone else k.halted) then s
  else (s.setQueue q { k with fetchOut := n }).emit (.hostRead (s.queueFn q) (k.base.toNat + slot * 64) (n * 64))

/-- A halt ends (R197, R211): a KICK that was held is served, and fetching goes on. -/
def State.haltEnds (s : State) (q : Nat) : State :=
  let k := s.queue q
  (s.setQueue q { k with halted := false, discarding := false, discardTo := none, pollDue := k.pollDue || k.kickHeld, kickHeld := false }).fetchMore q

/-- A DISCARD that has consumed its last entry ends (R197). -/
def State.discardEnd (s : State) (q : Nat) : State :=
  let k := s.queue q
  if k.discarding && k.discardTo == some k.cons then s.haltEnds q else s

/-- A queue's consumer index passes the entry whose completion has been written (R209). -/
def State.consume (s : State) (q : Nat) : State :=
  let k := s.queue q
  ((s.setQueue q { k with cons := k.cons + 1, written := k.written + 1 }).discardEnd q).tellLead q

/-- Write the oldest waiting completion of a ring if there is one and room for it (R220), before the ledger's checks. -/
def State.postWaitingRaw (s : State) (c : Nat) : State :=
  let r := s.ring c
  match r.waiting with
  | [] => s
  | k :: rest =>
    if !r.enable || r.full || s.hostHeld c then s
    else
      let s := s.setRing c { r with waiting := rest }
      let s := s.writeEntry c (completionBytes k r.phase) k.irq
      s.consume k.queue

/-- Report a ring that has become full with a completion waiting for it, once an episode (R221), before the ledger's check. -/
def State.reportFullRaw (s : State) (c : Nat) : State :=
  let r := s.ring c
  if r.enable && r.full && !r.waiting.isEmpty && !r.fullTold then
    let s := s.setRing c { r with fullTold := true, fullSeen := true, fullCount := satInc r.fullCount }
    s.raiseRaw (if c < 64 then c / 4 else 16) 0x0204 noQueue 0 (leBytes 4 c)
  else s

/-- Post a completion, or let it wait for its ring (R217, R220), before the ledger's checks. -/
def State.postRaw (s : State) (k : Completion) : State :=
  let s := match s.queueOwner k.queue with
    | some p => s.perfAdd p 0 1
    | none => s
  let c := s.queueRing k.queue
  let r := s.ring c
  let first := r.waiting.isEmpty
  let s := s.setRing c { r with waiting := r.waiting ++ [k], generated := r.generated + 1 }
  let s := if first then s.postWaitingRaw c else s
  s.reportFullRaw c

/-- A queue is held by a completion that waits for its ring (R220). -/
def State.ringHeld (s : State) (q : Nat) : Bool :=
  (s.ring (s.queueRing q)).waiting.any (fun k => k.queue == q)

/-! ### Halts (R195) -/

/-- QUEUE_HALTED of a queue (R195, R223); a ring fault adds its sub-code and cause; before the ledger's check. -/
def State.haltEventRaw (s : State) (q : Nat) (status : Nat) (seq : Word) (ringCause : Nat) : State :=
  s.raiseRaw (s.queueEvent q) 0x0203 q seq
    (leBytes 2 status ++ leBytes 2 (if ringCause = 0 then 0 else subRing) ++ leBytes 4 ringCause)

/-- Record a halt (R195); what was fetched and not started is dropped (R196). -/
def State.recordHalt (s : State) (q : Nat) (status : BitVec 8) (seq : Word) : State :=
  let k := s.queue q
  (s.setQueue q { k with halted := true, cause := status, haltSeq := seq,
                         entries := [], fetched := k.fetched - BitVec.ofNat 32 k.entries.length, fetchOut := 0,
                         headOk := false, passed := false, idleAt := s.time }).tellLead q

/-! ### The sealed log and refusals (R383 to R388) -/

/-- Append an entry to the sealed log, which keeps 4,096 (13 Picture, R405). -/
def State.sealedEntry (s : State) (l : LogEntry) : State :=
  { s with bus := { s.bus with sealedLog := (l :: s.bus.sealedLog).take 4096 } }

/-- Count a refusal of partition `o`, or of the PF and the operator ring (R388). -/
def State.tally (s : State) (o : Option Nat) : State :=
  match o with
  | some p =>
    let t := s.part p
    s.setPart p { t with refSec := t.refSec + 1, refTotal := t.refTotal + 1 }
  | none => { s with bus := { s.bus with pfRefSec := s.bus.pfRefSec + 1, pfRefTotal := s.bus.pfRefTotal + 1 } }

/-- Number of a master in the sealed log (R325, R405). -/
def masterNum : Master → Nat
  | .hif => 0
  | .goose => 1
  | .dbg => 2
  | .icpHub => 3
  | .soundGw => 4

/-- A security refusal: the sealed log and the tally (R384, R388). -/
def State.refuse (s : State) (m : Nat) (o : Option Nat) (queue : Nat) (reason : Nat) (seq : Word) (addr : Nat) : State :=
  let s := s.sealedEntry { time := s.us, master := BitVec.ofNat 8 m, part := BitVec.ofNat 8 (o.getD 0xFF),
                           queue := BitVec.ofNat 8 queue, reason := BitVec.ofNat 8 reason, seq := seq,
                           addr := BitVec.ofNat 64 addr }
  s.tally o

/-! ### The access-fault log (R344, R346) -/

def causeNarrow : Nat := 1
def causeUnaligned : Nat := 2
def causeUndefined : Nat := 3
def causeWide : Nat := 4
def causeReserved : Nat := 5
def causeState : Nat := 6
def causeHeld : Nat := 7

/-- A fault of an access (R344): a host access is logged, the count always and the capture only while LOGGED is 0;
one of the Goose or an ICP goes to the sealed log, with a reason that no rule names (DESIGN CHOICE, log entry 3); one of DBG is
answered on the JTAG port. -/
def State.logAccess (s : State) (cause : Nat) (a : Acc) (write : Bool) : State :=
  let b := s.bus
  if a.master = .dbg then s.emit .jtagFault
  else if a.master = .goose ∨ a.master = .icpHub then
    s.freeTaken.sealedEntry { time := s.us, master := BitVec.ofNat 8 (masterNum a.master), part := 0xFF, queue := 0xFF,
                              reason := s.freeValue 8, seq := 0, addr := BitVec.ofNat 64 a.off }
  else
    let b := if b.logged then b else
      { b with logCause := BitVec.ofNat 4 cause, logWrite := write, logFn := BitVec.ofNat 5 a.fn,
               logFwd := a.master == .soundGw, logEn := BitVec.ofNat 8 (a.en * 2 ^ (a.off % 8)),
               logDie := if a.master == .soundGw then BitVec.ofNat 6 s.die else 0,
               logOff := BitVec.ofNat 32 (if a.master == .soundGw then a.off + s.die * (if a.fn = 0 then 2 ^ 26 else 2 ^ 20) else a.off), logBar := BitVec.ofNat 2 a.bar }
    { s with bus := { b with logged := true, logCount := satInc b.logCount } }

/-- The access of a 32-bit register write by function `fn` at a BAR0 offset. -/
def accAt (fn off : Nat) : Acc := { master := .hif, fn := fn, bar := 0, off := off, size := 4, en := 0xF }

/-! ### Poison log (R466) -/

/-- Write the poison log: address, Islet, scratchpad, demand (R466, R479). -/
def State.logPoison (s : State) (addr islet : Nat) (scratch demand : Bool) : State :=
  let u := s.up
  let first := u.poisonTotal == 0
  let h := if first then 0 else u.poisonHead + 1
  let v := addr % 2 ^ 48 + islet * 2 ^ 48 + b2n scratch * 2 ^ 52 + b2n demand * 2 ^ 53
  { s with up := { u with poisonHead := h, poisonTotal := satInc u.poisonTotal,
                          poisonLog := Table.set 0 u.poisonLog h.toNat (BitVec.ofNat 64 v) } }

/-! ### Tags (R94 to R100) -/

/-- A square's tag is FULL. -/
def Islet.tagFull (i : Islet) (sq : Nat) : Bool := i.tags.getLsbD sq

/-- A square is claimed. -/
def Islet.isClaimed (i : Islet) (sq : Nat) : Bool := i.claimed.getLsbD sq

/-- Change a tag, counting the fill or take (R100); a tag that already has the value is left alone. -/
def Islet.setTag (i : Islet) (sq : Nat) (full : Bool) : Islet :=
  if i.tagFull sq = full then i
  else
    { i with tags := setBit i.tags sq full, stallTold := false,
             fills := if full then i.fills + 1 else i.fills,
             takes := if full then i.takes else i.takes + 1 }

/-- Number of FULL squares. -/
def Islet.fullCount (i : Islet) : Nat := ((List.range 1024).filter (fun k => i.tagFull k)).length

/-- Every tag EMPTY, and the tag counts with them (R94). -/
def Islet.clearTags (i : Islet) : Islet := { i with tags := 0, fills := 0, takes := 0, claimed := 0, stallTold := false }

/-! ### Header waits (R175 to R179) -/

/-- Does the condition of an entry's header wait hold now (R177). A window that is not open is settled
against its final count. -/
def State.waitHolds (s : State) (q : Nat) (e : List Byte) : Bool :=
  let p := (s.queueOwner q).getD 0
  let op := eWaitOp e
  match eWaitKind e with
  | 1 => decide ((s.cue p (opCounter op) - opValue op).toNat < 2 ^ 31)
  | 2 => decide (opWinThreshold op ≤ (s.win p (opWindow op)).count.toNat)
  | 3 =>
    let i := s.islet (q / 3)
    i.tagFull (opSquare op) && !i.isClaimed (opSquare op)
  | 4 =>
    let i := s.islet (q / 3)
    !i.tagFull (opSquare op) && !i.isClaimed (opSquare op)
  | _ => true

/-- Evaluate the wait of the command at the head of a queue (R176). -/
def State.evalHead (s : State) (q : Nat) : State :=
  let k := s.queue q
  match k.entries with
  | [] => s
  | e :: _ =>
    if k.headOk && !k.passed && s.waitHolds q e then
      let s := s.setQueue q { k with passed := true }
      -- passing a header tag wait ends a stall episode (R110)
      if eWaitKind e = 3 ∨ eWaitKind e = 4 then s.setIslet (q / 3) { s.islet (q / 3) with stallTold := false } else s
    else s

/-- Evaluate every waiting head again: some object waited on has changed (R176). -/
def State.reevaluate (s : State) : State := (Table.keys s.queues).foldl State.evalHead s

/-- Change a cue counter by a signal (R181, R183). -/
def State.setCue (s : State) (p k : Nat) (v : Word) : State :=
  let t := s.part p
  (s.setPart p { t with cues := Table.set 0 t.cues k v }).reevaluate

/-- Apply the signal of an entry (R181, R182). -/
def State.signal (s : State) (q : Nat) (e : List Byte) : State :=
  match s.queueOwner q with
  | none => s
  | some p =>
    let op := eSigOp e
    match eSigKind e with
    | 1 => s.setCue p (opCounter op) (s.cue p (opCounter op) + opValue op)
    | 2 => s.setCue p (opCounter op) (opValue op)
    | _ => s

/-! ### Started commands and their end before their time (R140, R470) -/

/-- The `i`-th started command of a queue. -/
def State.runAt (s : State) (q i : Nat) : Option Run := (s.queue q).run[i]?

/-- Change the `i`-th started command. -/
def State.setRun (s : State) (q i : Nat) (r : Run) : State :=
  let k := s.queue q
  s.setQueue q { k with run := k.run.set i r }

/-- Where the command of an MX or VX queue or of a control ring that has still to act stands: behind those that have made their
last access and only await their completion (R114). -/
def State.liveIdx (s : State) (q : Nat) : Nat := (s.queue q).run.findIdx (fun r => r.phase != .done)

/-- The grant of a transfer counts bytes as sent, or takes lost ones off again (R320). -/
def State.grantSent (s : State) (key : Option Nat) (more less : Nat) : State :=
  match key with
  | none => s
  | some g =>
    let x : Grant := Table.get {} s.grants g
    if x.present then { s with grants := Table.set {} s.grants g { x with sent := x.sent + more - less } } else s

/-- A transfer into a window of another die sends nothing more, and ends with this status once what it has sent is counted or
lost (R140, R185): the state, and whether bytes are still open. A gather's bytes are not this die's to stop. -/
def State.stopXfer (s : State) (k : Nat) (status : BitVec 8) : State × Bool :=
  if (s.xfer k).gather then (s, false)
  else
    let (n, s) := s.recallFlits k
    let x := s.xfer k
    let s := s.grantSent x.grantKey 0 n
    if x.total ≤ x.acked + x.lost + n then ({ s with xfers := Table.set {} s.xfers k {} }, false)
    else (s.setXfer k { x with total := x.total - n, status := status, info := 0, stopped := true }, true)

/-- A started command is stopped: it releases its claims (R98) and ends with this status, at once, or once the bytes that it
has sent to another die are counted (R140, R185). -/
def State.stopRun (s : State) (q i : Nat) (status : BitVec 8) : State :=
  match s.runAt q i with
  | none => s
  | some r =>
    let s := if q < 48 then
        let j := s.islet (q / 3)
        s.setIslet (q / 3) { j with claimed := r.claims.foldl (fun m w => setBit m w.square false) j.claimed }
      else s
    let r := { r with claims := [], holds := [], waits := [], pend := none, halts := false }
    let done := { r with phase := .done, status := status, info := 0, xfer := none }
    match r.xfer with
    | none => s.setRun q i done
    | some k =>
      let (s, more) := s.stopXfer k status
      s.setRun q i (if more then r else done)

/-- Stop the started commands of a queue from the `i`-th on (R140). -/
def State.stopFrom (s : State) (q i : Nat) (status : BitVec 8) : State :=
  ((List.range (s.queue q).run.length).filter (fun j => decide (i ≤ j))).foldl (fun s j => s.stopRun q j status) s

/-! ### The ledger (R467 to R470) -/

/-- Kinds of breach (R480). -/
def brCredit : Nat := 0
def brTag : Nat := 1
def brWindow : Nat := 2
def brRing : Nat := 3
def brEvent : Nat := 4

/-- Stop a queue of a partition under ledger halt (R470): the oldest started command is to complete LEDGER_HALT, later ones
ABORTED (DEDUCED, log entry 72); a queue with none halts at once. -/
def State.ledgerHaltQueue (s : State) (q : Nat) : State :=
  let k := s.queue q
  if k.halted || !k.enable then s
  else if k.run.isEmpty then (s.recordHalt q stLedgerHalt 0xFFFFFFFF).haltEventRaw q 7 0 0
  else (s.stopRun q 0 stLedgerHalt).stopFrom q 1 stAborted

/-- Put a partition under ledger halt (R470). -/
def State.ledgerHalt (s : State) (p : Nat) : State :=
  let t := s.part p
  let s := s.setPart p { t with halted := true }
  (s.queuesOf p).foldl State.ledgerHaltQueue s

/-- The other dies that hold a partition learn of its halt (R469). No rule gives the message (DEDUCED, log entry 73). -/
def State.haltElsewhere (s : State) (p : Nat) : State :=
  if (s.part p).wide then s.otherDies.foldl (fun s d => s.forward d .halt [p]) s else s

/-- A breach (R469): the event, the snapshot if none is held, and the halt of the partition concerned. -/
def State.breach (s : State) (kind obj sub : Nat) (part : Option Nat) (snap : List Word) (diff : Int) : State :=
  let u := s.up
  let info := kind + obj * 2 ^ 8 + sub * 2 ^ 16 + (part.getD 0xFF) * 2 ^ 24
  let u := { u with breach := true, breachCount := satInc u.breachCount }
  let u := if u.frozen then u else
    { u with frozen := true, breachKind := BitVec.ofNat 3 kind, breachObj := BitVec.ofNat 8 obj,
             breachSub := BitVec.ofNat 8 sub, breachPart := BitVec.ofNat 8 (part.getD 0xFF),
             snap := (List.range 4).foldl (fun t k => Table.set 0 t k (snap.getD k 0)) [] }
  let s := { s with up := u }
  let data := leBytes 4 info ++ leBytes 8 (BitVec.ofInt 64 diff).toNat ++ leBytes 1 s.die
  let s := s.raiseRaw 16 0x0401 noQueue 0 data
  let s := match part with
    | some p => if kind = brCredit then s else s.raiseRaw p 0x0401 noQueue 0 data
    | none => s
  match part with
  | some p => (s.haltElsewhere p).ledgerHalt p
  | none => s

/-- What a check of the ledger found (R467): kind, object, sub, partition, snapshot words and difference. -/
structure Found where
  kind : Nat
  obj  : Nat
  sub  : Nat
  part : Option Nat
  snap : List Word
  diff : Int

/-- A difference of 32-bit counts, signed. -/
def wordDiff (a b : Word) : Int := (a - b).toInt

/-- TAG of Islet `n` (R467). -/
def State.checkTag (s : State) (n : Nat) : Option Found :=
  let i := s.islet n
  let full := BitVec.ofNat 32 i.fullCount
  if i.fills - i.takes = full then none
  else some ⟨brTag, n, 0, s.isletOwner n, [i.fills, i.takes, full, 0], wordDiff (i.fills - i.takes) full⟩

/-- RING of queue `q` (R467): entries consumed against completions written. -/
def State.checkQueue (s : State) (q : Nat) : Option Found :=
  let k := s.queue q
  if k.cons = k.written then none else some ⟨brRing, q, 0, s.queueOwner q, [k.cons, k.written, 0, 0], wordDiff k.cons k.written⟩

/-- RING of completion ring `c` (R467): generated against written and waiting. -/
def State.checkRing (s : State) (c : Nat) : Option Found :=
  let r := s.ring c
  let w := BitVec.ofNat 32 r.waiting.length
  if r.generated = r.tail + w then none
  else some ⟨brRing, c, 1, if c < 64 then some (c / 4) else none, [r.generated, r.tail, w, 0], wordDiff r.generated (r.tail + w)⟩

/-- EVENT of event ring `e` (R467). Events held back for the host count as posted. -/
def State.checkEvents (s : State) (e : Nat) : Option Found :=
  let r := s.ring (evRing e)
  let posted := r.written + BitVec.ofNat 32 (s.power.heldEvents.filter (fun x => x.ring == e)).length
  if posted + r.coalesced = r.raised then none
  else some ⟨brEvent, e, 0, if e < 16 then some e else none, [r.raised, posted, r.coalesced, 0], wordDiff (posted + r.coalesced) r.raised⟩

/-- A check found this: the breach, if there is one (R469). -/
def State.judge (s : State) (f : Option Found) : State :=
  match f with
  | none => s
  | some x => s.breach x.kind x.obj x.sub x.part x.snap x.diff

/-! ### Raising, posting and halting, with the checks of R467 -/

/-- Raise an event on event ring `e`. -/
def State.raiseEvent (s : State) (e code queue : Nat) (seq : Word) (data : List Byte) : State :=
  let s := s.raiseRaw e code queue seq data
  s.judge (s.checkEvents e)

/-- QUEUE_HALTED of a queue (R195, R223); a ring fault adds its sub-code and cause. -/
def State.haltEvent (s : State) (q : Nat) (status : Nat) (seq : Word) (ringCause : Nat) : State :=
  let s := s.haltEventRaw q status seq ringCause
  s.judge (s.checkEvents (s.queueEvent q))

/-- The RING checks after a completion of queue `q` on ring `c`. -/
def State.judgeRings (s : State) (q c : Nat) : State :=
  let s := s.judge (s.checkQueue q)
  s.judge (s.checkRing c)

/-- Report a ring that has become full with a completion waiting for it, once an episode (R221). -/
def State.reportFull (s : State) (c : Nat) : State :=
  let t := s.reportFullRaw c
  let e := if c < 64 then c / 4 else 16
  if (t.ring (evRing e)).raised = (s.ring (evRing e)).raised then t else t.judge (t.checkEvents e)

/-- Write the oldest waiting completion of a ring if there is one and room for it (R220). -/
def State.postWaiting (s : State) (c : Nat) : State :=
  match (s.ring c).waiting with
  | [] => s
  | k :: _ =>
    let t := s.postWaitingRaw c
    if (t.ring c).tail = (s.ring c).tail then t else t.judgeRings k.queue c

/-- Post a completion, or let it wait for its ring (R217, R220). -/
def State.postCompletion (s : State) (k : Completion) : State :=
  let c := s.queueRing k.queue
  let t := s.postRaw k
  let e := if c < 64 then c / 4 else 16
  let u := t.judgeRings k.queue c
  if (t.ring (evRing e)).raised = (s.ring (evRing e)).raised then u else u.judge (u.checkEvents e)

/-- A ring fault (R213). -/
def State.ringFaultAt (s : State) (q cause : Nat) : State :=
  let s := s.recordHalt q stMalformed 0xFFFFFFFF
  let s := s.setQueue q { s.queue q with ringFault := cause }
  s.haltEvent q 3 0 cause

/-! ### Debug observation (R400) -/

/-- Set DEBUG_OBSERVED of a partition and post DEBUG_OBSERVED when it was clear (R400); the event names the command that caused it
(R172, R223). -/
def State.observeBy (s : State) (p q : Nat) (seq : Word) : State :=
  let t := s.part p
  if t.observed || t.state == .none then s
  else (s.setPart p { t with observed := true }).raiseEvent p 0x0601 q seq (leBytes 1 s.die)

/-- A partition is observed by an access. -/
def State.observe (s : State) (p : Nat) : State := s.observeBy p noQueue 0

/-- Sequence tag of the command that runs on a control ring, which an event that it causes carries (R172, R223). -/
def State.ringSeq (s : State) (q : Nat) : Word := ((s.queue q).run.head?.map (fun r => eSeq r.entry)).getD 0

/-! ### Stutter -/

/-- The command's event cannot happen in this state: nothing changes (DESIGN CHOICE, log entry 10). -/
def stutter (s : State) : Outcome := .next s

/-- Run `f` where `b` holds, and nothing otherwise. -/
def whenB (b : Bool) (s : State) (f : State → State) : Outcome := .next (if b then f s else s)

end Sys2Proof.Machine
end

