-- ==== Sys2Proof/Machine/Flags.lean ====
section
/-!
DEFINITION. The NUM record of an engine queue: the five sticky flags with their counts, and the NaN trap
with its record (R81 to R85).
-/

namespace Sys2Proof.Machine

/-- OR a command's flags into the record; each flag raised raises its count (R81). -/
def Num.collect (n : Num) (fl : FpFlags) : Num :=
  { n with flags := n.flags ||| fl,
           cInv := if fl.getLsbD 0 then satInc n.cInv else n.cInv,
           cDivz := if fl.getLsbD 1 then satInc n.cDivz else n.cDivz,
           cOvf := if fl.getLsbD 2 then satInc n.cOvf else n.cOvf,
           cUnf := if fl.getLsbD 3 then satInc n.cUnf else n.cUnf,
           cInx := if fl.getLsbD 4 then satInc n.cInx else n.cInx }

/-- A NaN trap: counted always, recorded only while TRAPPED is 0 (R83). -/
def Num.takeTrap (n : Num) (q : Nat) (seq : Word) (opcode index offset : Nat) : Num :=
  let n := { n with cTrap := satInc n.cTrap }
  if n.trapped then n
  else { n with trapped := true, seq := seq, opcode := BitVec.ofNat 8 opcode, queue := BitVec.ofNat 7 q,
                offset := BitVec.ofNat 32 offset, index := BitVec.ofNat 32 index }

/-- Does a completion with this status contribute its flags (R81). -/
def contributesFlags (status : BitVec 8) : Bool := status != stMalformed && status != stRefused

/-- What a completing command leaves in its queue's NUM record (R81 to R83). Move queues raise no flags. -/
def State.numComplete (s : State) (q : Nat) (r : Run) : State :=
  if 48 ≤ q then s
  else
    let n := s.num q
    let n := if contributesFlags r.status then n.collect r.flags else n
    let n := match r.trap with
      | some (index, offset) =>
        if r.status = stNanTrap then n.takeTrap q (eSeq r.entry) (eOpcode r.entry) index offset else n
      | none => n
    s.setNum q n

/-- The produced NaN with the lowest canonical index (R83): index and offset. Of two with the same index the first in output
order is kept (DESIGN CHOICE, log entry 70). -/
def lowerTrap (a b : Option (Nat × Nat)) : Option (Nat × Nat) :=
  match a, b with
  | none, b => b
  | a, none => a
  | some x, some y => if y.1 < x.1 then some y else some x

end Sys2Proof.Machine
end

