-- ==== Sys2Proof/Machine/Crypto.lean ====
section
/-!
DEFINITION. The published standards that the A16 takes (R349, R352, R362 to R364, R404, 13 From the standard): SHA-384
(FIPS 180-4), AES-256 (FIPS 197) with GCM (SP 800-38D) and XTS, ECDSA and ECDH on P-384 (FIPS 186-5, SP 800-56A), the
one-step key derivation (SP 800-56C), and CRC-64 (R292). Arithmetic is on Nat, so that Lean's kernel evaluates it.
-/

namespace Sys2Proof.Machine

/-- `f n`, with `n` evaluated first. -/
def strict {α : Type} (n : Nat) (f : Nat → α) : α :=
  match n with
  | 0 => f 0
  | k + 1 => f (k + 1)

/-! ### Big-endian values -/

/-- The value of big-endian bytes. -/
def beNat (l : List Byte) : Nat := l.foldl (fun a b => a * 256 + b.toNat) 0

/-- `n` big-endian bytes of a value. -/
def beBytes (n v : Nat) : List Byte := (leBytes n v).reverse

/-- The value of `n` big-endian bytes at position `i`. -/
def beAt (l : List Byte) (i n : Nat) : Nat := beNat (slice l i n)

/-- The pieces of a list, each of `n` elements but the last, `fuel` of them at most. -/
def chunksGo {α : Type} (n : Nat) : Nat → List α → List (List α)
  | 0, _ => []
  | fuel + 1, l => if l.isEmpty then [] else l.take n :: chunksGo n fuel (l.drop n)

/-- The pieces of a list, each of `n` elements but the last. -/
def chunks {α : Type} (n : Nat) (l : List α) : List (List α) := chunksGo n ((l.length + n - 1) / n) l

/-! ### SHA-384 -/

/-- The constants of SHA-512 and SHA-384. -/
def shaK : List Nat :=
  [ 0x428a2f98d728ae22, 0x7137449123ef65cd, 0xb5c0fbcfec4d3b2f, 0xe9b5dba58189dbbc,
    0x3956c25bf348b538, 0x59f111f1b605d019, 0x923f82a4af194f9b, 0xab1c5ed5da6d8118,
    0xd807aa98a3030242, 0x12835b0145706fbe, 0x243185be4ee4b28c, 0x550c7dc3d5ffb4e2,
    0x72be5d74f27b896f, 0x80deb1fe3b1696b1, 0x9bdc06a725c71235, 0xc19bf174cf692694,
    0xe49b69c19ef14ad2, 0xefbe4786384f25e3, 0x0fc19dc68b8cd5b5, 0x240ca1cc77ac9c65 ] ++
  [ 0x2de92c6f592b0275, 0x4a7484aa6ea6e483, 0x5cb0a9dcbd41fbd4, 0x76f988da831153b5,
    0x983e5152ee66dfab, 0xa831c66d2db43210, 0xb00327c898fb213f, 0xbf597fc7beef0ee4,
    0xc6e00bf33da88fc2, 0xd5a79147930aa725, 0x06ca6351e003826f, 0x142929670a0e6e70,
    0x27b70a8546d22ffc, 0x2e1b21385c26c926, 0x4d2c6dfc5ac42aed, 0x53380d139d95b3df,
    0x650a73548baf63de, 0x766a0abb3c77b2a8, 0x81c2c92e47edaee6, 0x92722c851482353b ] ++
  [ 0xa2bfe8a14cf10364, 0xa81a664bbc423001, 0xc24b8b70d0f89791, 0xc76c51a30654be30,
    0xd192e819d6ef5218, 0xd69906245565a910, 0xf40e35855771202a, 0x106aa07032bbd1b8,
    0x19a4c116b8d2d0c8, 0x1e376c085141ab53, 0x2748774cdf8eeb99, 0x34b0bcb5e19b48a8,
    0x391c0cb3c5c95a63, 0x4ed8aa4ae3418acb, 0x5b9cca4f7763e373, 0x682e6ff3d6b2b8a3,
    0x748f82ee5defb2fc, 0x78a5636f43172f60, 0x84c87814a1f0ab72, 0x8cc702081a6439ec ] ++
  [ 0x90befffa23631e28, 0xa4506cebde82bde9, 0xbef9a3f7b2c67915, 0xc67178f2e372532b,
    0xca273eceea26619c, 0xd186b8c721c0c207, 0xeada7dd6cde0eb1e, 0xf57d4f7fee6ed178,
    0x06f067aa72176fba, 0x0a637dc5a2c898a6, 0x113f9804bef90dae, 0x1b710b35131c471b,
    0x28db77f523047d84, 0x32caab7b40c72493, 0x3c9ebe0a15c9bebc, 0x431d67c49c100d4c,
    0x4cc5d4becb3e42b6, 0x597f299cfc657e2a, 0x5fcb6fab3ad6faec, 0x6c44198c4a475817 ]

/-- The initial hash value of SHA-384. -/
def shaIv : List Nat :=
  [ 0xcbbb9d5dc1059ed8, 0x629a292a367cd507, 0x9159015a3070dd17, 0x152fecd8f70e5939,
    0x67332667ffc00b31, 0x8eb44a8768581511, 0xdb0c2e0d64f98fa7, 0x47b5481dbefa4fa4 ]

/-- A 64-bit word rotated right. -/
def ror64 (x n : Nat) : Nat := (x >>> n ||| x <<< (64 - n)) % 2 ^ 64

/-- The message schedule: `fuel` words beyond the 16 of the window, and the window's last 16. -/
def shaSchedule : Nat → List Nat → List Nat
  | 0, w => w
  | fuel + 1, w =>
    let a := w.getD 1 0
    let b := w.getD 14 0
    let s0 := ror64 a 1 ^^^ ror64 a 8 ^^^ a >>> 7
    let s1 := ror64 b 19 ^^^ ror64 b 61 ^^^ b >>> 6
    strict ((s1 + w.getD 9 0 + s0 + w.headD 0) % 2 ^ 64) (fun x => w.headD 0 :: shaSchedule fuel (w.drop 1 ++ [x]))

/-- The rounds over the schedule and the constants. -/
def shaRounds : List Nat → List Nat → Nat → Nat → Nat → Nat → Nat → Nat → Nat → Nat → List Nat
  | w :: ws, k :: ks, a, b, c, d, e, f, g, h =>
    let s1 := ror64 e 14 ^^^ ror64 e 18 ^^^ ror64 e 41
    let ch := (e &&& f) ^^^ ((e ^^^ (2 ^ 64 - 1)) &&& g)
    let s0 := ror64 a 28 ^^^ ror64 a 34 ^^^ ror64 a 39
    let maj := (a &&& b) ^^^ (a &&& c) ^^^ (b &&& c)
    strict ((h + s1 + ch + k + w) % 2 ^ 64) (fun t =>
      strict ((d + t) % 2 ^ 64) (fun e' => strict ((t + s0 + maj) % 2 ^ 64) (fun a' => shaRounds ws ks a' a b c e' e f g)))
  | _, _, a, b, c, d, e, f, g, h => [a, b, c, d, e, f, g, h]

/-- One block of 128 bytes. -/
def shaBlock (v : List Nat) (block : List Byte) : List Nat :=
  let w := shaSchedule 64 ((chunks 8 block).map beNat)
  let r := shaRounds w shaK (v.getD 0 0) (v.getD 1 0) (v.getD 2 0) (v.getD 3 0) (v.getD 4 0) (v.getD 5 0) (v.getD 6 0) (v.getD 7 0)
  List.zipWith (fun a b => (a + b) % 2 ^ 64) v r

/-- The padded message. -/
def shaPad (l : List Byte) : List Byte := l ++ [0x80] ++ List.replicate ((239 - l.length % 128) % 128) 0 ++ beBytes 16 (8 * l.length)

/-- SHA-384 of a byte string. -/
def sha384 (l : List Byte) : BitVec 384 :=
  BitVec.ofNat 384 (((((chunks 128 (shaPad l)).foldl shaBlock shaIv).take 6)).foldl (fun a w => a * 2 ^ 64 + w) 0)

/-- The 48 bytes of a SHA-384 digest. -/
def digestBytes (d : BitVec 384) : List Byte := beBytes 48 d.toNat

/-- SHA-384 of a byte string, as bytes. -/
def sha (l : List Byte) : List Byte := digestBytes (sha384 l)

/-- The one-step key derivation of SP 800-56C with SHA-384: `n` bytes at most 48 × 255. -/
def kdf (z info : List Byte) (n : Nat) : List Byte :=
  ((List.range ((n + 47) / 48)).flatMap (fun k => sha (beBytes 4 (k + 1) ++ z ++ info))).take n

/-! ### AES-256 -/

/-- The S-box: byte i is the substitute of i. -/
def aesBox : Nat :=
  0x16bb54b00f2d99416842e6bf0d89a18cdf2855cee9871e9b948ed9691198f8e19e1dc186b95735610ef6034866b53e708a8bbd4b1f74dde8c6b4a61c2e2578ba08ae7a65eaf4566ca94ed58d6d37c8e779e4959162acd3c25c2406490a3a32e0db0b5ede14b8ee4688902a22dc4f816073195d643d7ea7c41744975fec130ccdd2f3ff1021dab6bcf5389d928f40a351a89f3c507f02f94585334d43fbaaefd0cf584c4a39becb6a5bb1fc20ed00d153842fe329b3d63b52a05a6e1b1a2c830975b227ebe28012079a059618c323c7041531d871f1e5a534ccf73f362693fdb7c072a49cafa2d4adf04759fa7dc982ca76abd7fe2b670130c56f6bf27b777c63

/-- The substitute of a byte. -/
def subByte (b : Nat) : Nat := aesBox >>> (8 * b) &&& 255

/-- Byte `k` of a 32-bit word, 0 the most significant. -/
def wordByte (w k : Nat) : Nat := w >>> (24 - 8 * k) &&& 255

/-- A 32-bit word of four bytes. -/
def word4 (a b c d : Nat) : Nat := a <<< 24 ||| b <<< 16 ||| c <<< 8 ||| d

/-- The four bytes of a word substituted. -/
def subWord (w : Nat) : Nat := word4 (subByte (wordByte w 0)) (subByte (wordByte w 1)) (subByte (wordByte w 2)) (subByte (wordByte w 3))

/-- The key schedule, eight words at a time: what follows the window. -/
def keyGo : Nat → Nat → List Nat → List Nat
  | fuel + 1, rcon, [a, b, c, d, e, f, g, h] =>
    strict (a ^^^ subWord ((h <<< 8 ||| h >>> 24) % 2 ^ 32) ^^^ rcon <<< 24) (fun a => strict (a ^^^ b) (fun b => strict (b ^^^ c) (fun c =>
      strict (c ^^^ d) (fun d => strict (subWord d ^^^ e) (fun e => strict (e ^^^ f) (fun f => strict (f ^^^ g) (fun g =>
        strict (g ^^^ h) (fun h => [a, b, c, d, e, f, g, h] ++ keyGo fuel (2 * rcon) [a, b, c, d, e, f, g, h]))))))))
  | _, _, _ => []

/-- The 15 round keys, four words each. -/
def aesKeys (key : List Byte) : List (List Nat) :=
  let w := (chunks 4 (slice key 0 32)).map beNat
  chunks 4 ((w ++ keyGo 7 1 w).take 60)

/-- Twice a byte in the field of AES. -/
def xtime (b : Nat) : Nat := if b < 128 then 2 * b else 2 * b ^^^ 0x11B

/-- A column of MixColumns. -/
def mixWord (a b c d : Nat) : Nat :=
  word4 (xtime a ^^^ xtime b ^^^ b ^^^ c ^^^ d) (a ^^^ xtime b ^^^ xtime c ^^^ c ^^^ d) (a ^^^ b ^^^ xtime c ^^^ xtime d ^^^ d)
    (xtime a ^^^ a ^^^ b ^^^ c ^^^ xtime d)

/-- A column of a round: bytes of four columns, substituted and shifted, with or without MixColumns. -/
def aesCol (mix : Bool) (w x y z : Nat) : Nat :=
  strict (subByte (wordByte w 0)) (fun a => strict (subByte (wordByte x 1)) (fun b => strict (subByte (wordByte y 2)) (fun c =>
    strict (subByte (wordByte z 3)) (fun d => if mix then mixWord a b c d else word4 a b c d))))

/-- The rounds over the round keys. -/
def aesRounds : List (List Nat) → Nat → Nat → Nat → Nat → List Nat
  | [], w, x, y, z => [w, x, y, z]
  | k :: ks, w, x, y, z =>
    let mix := !ks.isEmpty
    strict (aesCol mix w x y z ^^^ k.getD 0 0) (fun w' => strict (aesCol mix x y z w ^^^ k.getD 1 0) (fun x' =>
      strict (aesCol mix y z w x ^^^ k.getD 2 0) (fun y' => strict (aesCol mix z w x y ^^^ k.getD 3 0) (fun z' => aesRounds ks w' x' y' z'))))

/-- One block under a key schedule, as a 128-bit big-endian number. -/
def aesBlock (ks : List (List Nat)) (b : Nat) : Nat :=
  let k := ks.headD []
  let r := aesRounds (ks.drop 1) (b >>> 96 ^^^ k.getD 0 0) ((b >>> 64) % 2 ^ 32 ^^^ k.getD 1 0) ((b >>> 32) % 2 ^ 32 ^^^ k.getD 2 0)
    (b % 2 ^ 32 ^^^ k.getD 3 0)
  r.foldl (fun a w => a * 2 ^ 32 + w) 0

/-! ### AES-GCM with 96-bit IVs -/

/-- The product in the field of GHASH: over the bits of `x` from `i` down, `v` shifted and the sum so far. -/
def ghashMul (x : Nat) : Nat → Nat → Nat → Nat
  | 0, _, z => z
  | i + 1, v, z =>
    strict (if v % 2 = 1 then v >>> 1 ^^^ 0xE1 <<< 120 else v >>> 1) (fun v' =>
      strict (if x.testBit i then z ^^^ v else z) (fun z' => ghashMul x i v' z'))

/-- GHASH over blocks. -/
def ghash (h : Nat) : List Nat → Nat → Nat
  | [], y => y
  | b :: bs, y => strict (ghashMul (y ^^^ b) 128 h 0) (fun y' => ghash h bs y')

/-- The 16-byte blocks of a string, the last filled with zero. -/
def blocks16 (l : List Byte) : List Nat := (chunks 16 l).map (fun c => beNat (slice c 0 16))

/-- The tag of a ciphertext. -/
def gcmTag (ks : List (List Nat)) (iv aad ct : List Byte) : List Byte :=
  let h := aesBlock ks 0
  let s := ghash h (blocks16 aad ++ blocks16 ct ++ [8 * aad.length * 2 ^ 64 + 8 * ct.length]) 0
  beBytes 16 (s ^^^ aesBlock ks (beNat (slice iv 0 12) * 2 ^ 32 + 1))

/-- The text under the counter's key stream: a plaintext's ciphertext, or back. -/
def gcmStream (ks : List (List Nat)) (iv : List Byte) (l : List Byte) : List Byte :=
  (((chunks 16 l).zipIdx).map (fun c =>
    (beBytes 16 (beNat (slice c.1 0 16) ^^^ aesBlock ks (beNat (slice iv 0 12) * 2 ^ 32 + (c.2 + 2) % 2 ^ 32))).take c.1.length)).flatten

/-- AES-256-GCM: ciphertext and 16-byte tag. -/
def gcmSeal (key iv aad plain : List Byte) : List Byte × List Byte :=
  let ks := aesKeys key
  let ct := gcmStream ks iv plain
  (ct, gcmTag ks iv aad ct)

/-- AES-256-GCM: the plaintext, or none where the tag fails. -/
def gcmOpen (key iv aad ct tag : List Byte) : Option (List Byte) :=
  let ks := aesKeys key
  if gcmTag ks iv aad ct == tag then some (gcmStream ks iv ct) else none

/-! ### AES-256-XTS -/

/-- The next tweak: times x, the number read little-endian. -/
def xtsNext (t : Nat) : Nat := if t < 2 ^ 127 then 2 * t else (2 * t) % 2 ^ 128 ^^^ 0x87

/-- The blocks of a data unit under the tweaks that follow `t`. -/
def xtsGo (ks : List (List Nat)) : List (List Byte) → Nat → List Byte
  | [], _ => []
  | b :: bs, t =>
    let x : List Byte := leBytes 16 t
    let c := beBytes 16 (aesBlock ks (beNat (slice b 0 16) ^^^ beNat x))
    beBytes 16 (beNat c ^^^ beNat x) ++ strict (xtsNext t) (fun t' => xtsGo ks bs t')

/-- AES-256-XTS of a data unit of whole blocks: a key pair of 64 bytes, and the tweak as a number that is laid out little-endian. -/
def xtsSeal (pair : List Byte) (tweak : Nat) (plain : List Byte) : List Byte :=
  let t := aesBlock (aesKeys (slice pair 32 32)) (beNat (leBytes 16 tweak))
  xtsGo (aesKeys (slice pair 0 32)) (chunks 16 plain) (leNat (beBytes 16 t))

/-! ### P-384 -/

/-- The field's prime. -/
def p384 : Nat := 0xfffffffffffffffffffffffffffffffffffffffffffffffffffffffffffffffeffffffff0000000000000000ffffffff
/-- The order of the group. -/
def n384 : Nat := 0xffffffffffffffffffffffffffffffffffffffffffffffffc7634d81f4372ddf581a0db248b0a77aecec196accc52973
/-- The curve's constant. -/
def b384 : Nat := 0xb3312fa7e23ee7e4988e056be3f82d19181d9c6efe8141120314088f5013875ac656398d8a2ed19d2a85c8edd3ec2aef
/-- The base point. -/
def gx384 : Nat := 0xaa87ca22be8b05378eb1c71ef320ad746e1d3b628ba79b9859f741e082542a385502f25dbf55296c3a545e3872760ab7
def gy384 : Nat := 0x3617de4a96262c6f5d9e98bf9292dc29f8f41dbd289a147ce9da3113b5f0b8c00a60b1ce1d7e819d7a431d7c90ea0e5f

/-- A point in Jacobian coordinates; Z = 0 is the point at infinity. -/
structure Point where
  x : Nat
  y : Nat
  z : Nat
  deriving DecidableEq, Repr

/-- A difference in the field. -/
def subP (a b : Nat) : Nat := (a + p384 - b) % p384

/-- A point whose coordinates are evaluated first. -/
def strictPoint {α : Type} (x y z : Nat) (f : Point → α) : α := strict x (fun x => strict y (fun y => strict z (fun z => f ⟨x, y, z⟩)))

/-- Twice a point. -/
def Point.dbl {α : Type} (a : Point) (f : Point → α) : α :=
  strict (a.z * a.z % p384) (fun d => strict (a.y * a.y % p384) (fun g => strict (a.x * g % p384) (fun b =>
    strict (3 * (subP a.x d * (a.x + d) % p384) % p384) (fun m => strict (subP (m * m % p384) (8 * b % p384)) (fun x =>
      strictPoint x (subP (m * subP (4 * b % p384) x % p384) (8 * (g * g % p384) % p384)) (2 * a.y * a.z % p384) f)))))

/-- The sum of two points. -/
def Point.add {α : Type} (a b : Point) (f : Point → α) : α :=
  if a.z = 0 then f b
  else if b.z = 0 then f a
  else
    strict (a.z * a.z % p384) (fun za => strict (b.z * b.z % p384) (fun zb =>
      strict (a.x * zb % p384) (fun ua => strict (b.x * za % p384) (fun ub =>
        strict (a.y * b.z % p384 * zb % p384) (fun sa => strict (b.y * a.z % p384 * za % p384) (fun sb =>
          if ua = ub then (if sa = sb then a.dbl f else f ⟨1, 1, 0⟩)
          else strict (subP ub ua) (fun h => strict (subP sb sa) (fun r => strict (h * h % p384) (fun hh =>
            strict (h * hh % p384) (fun hhh => strict (ua * hh % p384) (fun v =>
              strict (subP (subP (r * r % p384) hhh) (2 * v % p384)) (fun x =>
                strictPoint x (subP (r * subP v x % p384) (sa * hhh % p384)) (a.z * b.z % p384 * h % p384) f))))))))))))

/-- `j` times `a` and `k` times `b` added, over the lowest `i` bits of both, to twice the sum so far at each bit. -/
def mulGo (a b ab : Point) (j k : Nat) : Nat → Point → Point
  | 0, s => s
  | i + 1, s =>
    s.dbl (fun s =>
      match j.testBit i, k.testBit i with
      | false, false => mulGo a b ab j k i s
      | true, false => s.add a (fun s => mulGo a b ab j k i s)
      | false, true => s.add b (fun s => mulGo a b ab j k i s)
      | true, true => s.add ab (fun s => mulGo a b ab j k i s))

/-- j·a + k·b. -/
def mulPoints (j : Nat) (a : Point) (k : Nat) (b : Point) : Point := a.add b (fun ab => mulGo a b ab j k 384 ⟨1, 1, 0⟩)

/-- A power modulo `m`, over the lowest `i` bits of the exponent. -/
def powGo (a e m : Nat) : Nat → Nat → Nat
  | 0, r => r
  | i + 1, r => strict (r * r % m) (fun r => if e.testBit i then strict (r * a % m) (fun r => powGo a e m i r) else powGo a e m i r)

/-- The inverse modulo a prime of 384 bits. -/
def invMod (a m : Nat) : Nat := powGo (a % m) (m - 2) m 384 1

/-- The base point. -/
def basePoint : Point := ⟨gx384, gy384, 1⟩

/-- A point from its 96 bytes, X then Y; none where they are no point of the curve. -/
def pointOf (l : List Byte) : Option Point :=
  let x := beAt l 0 48
  let y := beAt l 48 48
  if x < p384 ∧ y < p384 ∧ y * y % p384 = ((x * x % p384 + p384 - 3) * x + b384) % p384 then some ⟨x, y, 1⟩ else none

/-- The affine coordinates of a point. -/
def Point.affine (a : Point) : Nat × Nat :=
  let i := invMod a.z p384
  let ii := i * i % p384
  (a.x * ii % p384, a.y * (ii * i % p384) % p384)

/-- The 96 bytes of a point, X then Y. -/
def Point.bytes (a : Point) : List Byte :=
  let c := a.affine
  beBytes 48 c.1 ++ beBytes 48 c.2

/-- The public key of a private key. -/
def publicKey (d : Nat) : List Byte := (mulPoints d basePoint 0 basePoint).bytes

/-- ECDSA: a signature of 96 bytes, r then s, over a digest verifies under a public key of 96 bytes. -/
def ecdsaVerify (key : List Byte) (digest : BitVec 384) (sig : List Byte) : Bool :=
  let r := beAt sig 0 48
  let s := beAt sig 48 48
  match pointOf key with
  | none => false
  | some q =>
    if r = 0 ∨ n384 ≤ r ∨ s = 0 ∨ n384 ≤ s then false
    else
      strict (invMod s n384) (fun w => strict (digest.toNat * w % n384) (fun u => strict (r * w % n384) (fun v =>
        let a := mulPoints u basePoint v q
        let zz := a.z * a.z % p384
        a.z != 0 && (a.x == r * zz % p384 || (decide (r + n384 < p384) && a.x == (r + n384) * zz % p384)))))

/-- ECDSA: the signature of a digest under private key `d` with the random number `k`. -/
def ecdsaSign (d k : Nat) (digest : BitVec 384) : List Byte :=
  let r := (mulPoints k basePoint 0 basePoint).affine.1 % n384
  beBytes 48 r ++ beBytes 48 (invMod k n384 * (digest.toNat + r * d) % n384)

/-- ECDH: the shared secret, the x coordinate of `d` times a point. -/
def ecdh (d : Nat) (q : Point) : List Byte := beBytes 48 (mulPoints d q 0 q).affine.1

/-- A private key from 48 bytes of derived or random bits. The standards take any uniform number from 1 to n − 1 (DEDUCED, log
entry 79). -/
def privateKey (l : List Byte) : Nat := beAt l 0 48 % (n384 - 1) + 1

/-! ### CRC-64 (R292) -/

/-- Eight steps of the register for one byte, most significant bit first. -/
def crcByte : Nat → Nat → Nat
  | 0, c => c
  | i + 1, c => strict (if 2 ^ 63 ≤ c then 2 * c % 2 ^ 64 ^^^ 0x42F0E1EBA9EA3693 else 2 * c) (fun c => crcByte i c)

/-- The CRC-64 of ECMA-182 from register value `c`. -/
def crcGo : List Byte → Nat → Nat
  | [], c => c
  | b :: bs, c => strict (crcByte 8 (c ^^^ b.toNat <<< 56)) (fun c => crcGo bs c)

/-- The CRC-64 of a byte string. -/
def crc64 (l : List Byte) : Nat := crcGo l 0

end Sys2Proof.Machine
end

