-- ==== Sys2Proof/Machine/Memory.lean ====
section
/-!
DEFINITION. HBM with its Lagoon and caches, and the scratchpads: placement (R266, R268), the directory
and the messages of coherence as completed transactions (R256 to R261), ECC and poison (R106, R107, R278
to R281, R463 to R466), and reads and writes of bytes that stop at the first poison.

`hbm` is the value at the point of coherence apart from lines some agent holds Modified, whose data stands
in that agent's cache until it is written back.
-/

namespace Sys2Proof.Machine

/-! ### Placement (R146, R266, R268) -/

/-- Line of an HBM address. -/
def lineOf (a : Nat) : Nat := a / 128
/-- 32-byte block of an HBM address. -/
def blockOf (a : Nat) : Nat := a / 32
/-- Frame of an HBM address (R146). -/
def frameOf (a : Nat) : Nat := a / 0x200000
/-- Granule of an HBM address (R266). -/
def granuleOf (a : Nat) : Nat := a / 0x10000000
/-- One past the last HBM address. -/
def hbmEnd : Nat := 0xC00000000
/-- Stack of an HBM address. -/
def stackOf (a : Nat) : Nat := if a < 0x600000000 then 0 else 1
/-- Offset in the stack. -/
def stackOff (a : Nat) : Nat := a - stackOf a * 0x600000000
/-- Lagoon slice (R268). -/
def sliceOf (a : Nat) : Nat := 2 * stackOf a + stackOff a / 128 % 2
/-- Lagoon set within the slice (R268). -/
def setOf (a : Nat) : Nat :=
  (stackOff a / 2 ^ 8) ^^^ (stackOff a / 2 ^ 20) |>.mod 4096
/-- Pseudo-channel of the stack (R268). -/
def pseudoChannel (a : Nat) : Nat :=
  let o := stackOff a
  ((o / 2 ^ 8) ^^^ (o / 2 ^ 13) ^^^ (o / 2 ^ 18) ^^^ (o / 2 ^ 23) ^^^ (o / 2 ^ 28) ^^^ (o / 2 ^ 33)) % 32

/-- A power domain is ON and not in transition (R415). -/
def State.on (s : State) (d : Nat) : Bool := (s.domain d).st == .on && (s.domain d).target.isNone

/-- A fill of the granule of an address runs or waits: only the fill engine reaches it (R277, R288). -/
def State.filling (s : State) (a : Nat) : Bool := s.up.fill.any (fun r => r.granules.contains (granuleOf a))

/-- The slice and stack of an address are ON (R274), and its granule is not being filled. -/
def State.hbmReady (s : State) (a : Nat) : Bool := s.on (16 + sliceOf a) && s.on (20 + stackOf a) && !s.filling a

/-- The frame of an address is frozen (R146). -/
def State.isFrozen (s : State) (a : Nat) : Bool := Table.get false s.frozen (frameOf a)

/-! ### Lines and caches (R256, R269) -/

def State.lag (s : State) (l : Nat) : LagLine := Table.get {} s.lagoon l
def State.setLag (s : State) (l : Nat) (v : LagLine) : State := { s with lagoon := Table.set {} s.lagoon l v }

/-- Number of the Goose cache among the caching agents. -/
def gooseAgent : Nat := 16

/-- Key of a cached line. -/
def cacheKey (agent line : Nat) : Nat := agent * 2 ^ 40 + line

def State.cached (s : State) (agent line : Nat) : CacheLine := Table.get {} s.caches (cacheKey agent line)
def State.setCached (s : State) (agent line : Nat) (v : CacheLine) : State :=
  { s with caches := Table.set {} s.caches (cacheKey agent line) v }
def State.invs (s : State) (agent : Nat) : List Nat := Table.get [] s.invQueue agent
def State.setInvs (s : State) (agent : Nat) (l : List Nat) : State :=
  { s with invQueue := Table.set [] s.invQueue agent l }

/-- The lines an agent holds, by line number. -/
def State.linesOf (s : State) (agent : Nat) : List Nat :=
  (Table.keys s.caches).filterMap (fun k => if k / 2 ^ 40 = agent then some (k % 2 ^ 40) else none)

/-- Data of a line at the point of coherence. -/
def State.lineData (s : State) (l : Nat) : Memory :=
  Memory.write [] 0 (Memory.bytes s.hbm (l * 128) 128)

/-- The Lagoon takes a Modified line's data (R257 WRITEBACK); the copy stays as it was. -/
def State.takeData (s : State) (agent line : Nat) : State :=
  let c := s.cached agent line
  if c.st == .modified then
    let s := { s with hbm := Memory.write s.hbm (line * 128) (Memory.bytes c.data 0 128) }
    s.setLag line { s.lag line with dirty := true }
  else s

/-- An agent's copy goes to a lower state after its data, if Modified, is taken. -/
def State.demote (s : State) (agent line : Nat) (dest : Mesi) : State :=
  let s := s.takeData agent line
  if dest == .invalid then s.setCached agent line {} else s.setCached agent line { s.cached agent line with st := dest }

/-- Serve RECALL_SHARE to the owner of a line, if it has one. -/
def State.recallShared (s : State) (line : Nat) : State :=
  match (s.lag line).owner with
  | none => s
  | some o =>
    let s := s.demote o line .shared
    let g := s.lag line
    s.setLag line { g with owner := none, sharers := setBit g.sharers o true }

/-- What a non-caching read asks of the owner of a line: RECALL_SHARE where it has the line Modified (R257). -/
def State.recallDirty (s : State) (line : Nat) : State :=
  match (s.lag line).owner with
  | none => s
  | some o => if (s.cached o line).st == .modified then s.recallShared line else s

/-- Serve RECALL_OWN to the owner of a line, if it has one. -/
def State.recallOwned (s : State) (line : Nat) : State :=
  match (s.lag line).owner with
  | none => s
  | some o =>
    let s := s.demote o line .invalid
    s.setLag line { s.lag line with owner := none }

/-- Apply the first pending invalidation of a line in an agent's cache. -/
def State.applyInv (s : State) (agent line : Nat) : State :=
  if (s.invs agent).contains line then
    (s.setCached agent line {}).setInvs agent ((s.invs agent).erase line)
  else s

/-- Accept an INVALIDATE (R258): the Goose applies it at once; a VE cache queues it, applying its oldest
entry first when 32 are queued. -/
def State.acceptInv (s : State) (agent line : Nat) : State :=
  if agent = gooseAgent then s.setCached agent line {}
  else
    let s := match s.invs agent with
      | [] => s
      | o :: _ => if 32 ≤ (s.invs agent).length then s.applyInv agent o else s
    s.setInvs agent (s.invs agent ++ [line])

/-- INVALIDATE to every sharer but `except`; the directory drops them (R257). -/
def State.invalidateSharers (s : State) (line : Nat) (except : Option Nat) : State :=
  let g := s.lag line
  let targets := (List.range 17).filter (fun a => g.sharers.getLsbD a && decide (some a ≠ except))
  let s := targets.foldl (fun s a => s.acceptInv a line) s
  let g := s.lag line
  s.setLag line { g with sharers := targets.foldl (fun m a => setBit m a false) g.sharers }

/-- Apply every invalidation pending in an agent's cache (R243). -/
def State.applyAllInvs (s : State) (agent : Nat) : State :=
  (s.invs agent).foldl (fun s l => s.applyInv agent l) s

/-! ### ECC and poison of HBM (R279 to R281) -/

/-- A demand read corrected a block (R279). -/
def State.hbmCorrected (s : State) : State :=
  { s with up := { s.up with corrected := true, corrCount := satInc s.up.corrCount } }

/-- A demand read found a block uncorrectable or poisoned (R280). -/
def State.hbmUncorrectable (s : State) (block : Nat) : State :=
  { s with up := { s.up with uncorr := true, uncorrCount := satInc s.up.uncorrCount,
                             eccLast := BitVec.ofNat 48 (block * 32) } }

/-- An uncorrectable block of the firmware region waits for the Goose to rebuild it (R356). -/
def State.needsRebuild (s : State) (block : Nat) : State :=
  if block / 0x800000 = 191 ∧ !s.up.fwBlocks.contains block then { s with up := { s.up with fwBlocks := s.up.fwBlocks ++ [block] } } else s

/-- Read one block of HBM: correct a single-bit error; a double-bit error or a set poison bit is counted, and the block is marked
poisoned (R279, R280). -/
def State.eccBlock (s : State) (block : Nat) : State :=
  let n := Table.get 0 s.hbmErr block
  let marked := Table.get false s.hbmPoison block
  let s := if n = 0 then s else { s with hbmErr := Table.set 0 s.hbmErr block 0 }
  let s := if n = 1 then s.hbmCorrected else s
  if n ≤ 1 ∧ !marked then s
  else
    let s := if marked then s else
      ({ s with hbmPoison := Table.set false s.hbmPoison block true } : State).logPoison (block * 32) 0 false true
    (s.hbmUncorrectable block).needsRebuild block

/-- Write a Lagoon line back to HBM when it leaves (R271, R273): copies are recalled, and each block
takes the poison bit the line holds. -/
def State.evictLag (s : State) (line : Nat) : State :=
  let s := (s.recallOwned line)
  let g := s.lag line
  let s := (List.range 17).foldl (fun s a => if g.sharers.getLsbD a then s.setCached a line {} else s) s
  let s := if g.dirty then
      (List.range 4).foldl (fun s b =>
        { s with hbmPoison := Table.set false s.hbmPoison (4 * line + b) (g.poison.getLsbD b),
                 hbmErr := Table.set 0 s.hbmErr (4 * line + b) 0 }) s
    else s
  s.setLag line { g with present := false, way := 0, part := 0, dirty := false, sharers := 0, owner := none, poison := 0 }

/-- Allocated lines of the set of an address, with their ways. -/
def State.setLines (s : State) (a : Nat) : List (Nat × Nat) :=
  s.lagoon.filterMap (fun e =>
    if e.2.present && sliceOf (e.1 * 128) == sliceOf a && setOf (e.1 * 128) == setOf a then some (e.1, e.2.way.toNat)
    else none)

/-- Ways in which a line may be allocated (R270): its partition's mask; any way for the firmware region. -/
def State.permittedWays (s : State) (a : Nat) : BitVec 16 :=
  let o := s.owner (granuleOf a)
  if o < 16 then (s.part o).wayMask else 0xFFFF

/-- Key of the set of an address among the sets of the four slices. -/
def setKey (a : Nat) : Nat := 4096 * sliceOf a + setOf a

/-- A use of way `w`: every node on its path points to the other half; `i` levels are left, the node is numbered from 1. -/
def plruTouch (w : Nat) : Nat → Nat → BitVec 15 → BitVec 15
  | 0, _, t => t
  | i + 1, node, t => let r := w.testBit i; plruTouch w i (2 * node + b2n r) (setBit t (node - 1) (!r))

/-- The way to which the nodes point, in the half that holds a permitted way where only one does (DEDUCED, log entry 80). -/
def plruVictim (t : BitVec 15) (mask : BitVec 16) : Nat → Nat → Nat → Nat
  | 0, _, lo => lo
  | i + 1, node, lo =>
    let has : Nat → Bool := fun b => (List.range (2 ^ i)).any (fun k => mask.getLsbD (b + k))
    let r := if t.getLsbD (node - 1) then has (lo + 2 ^ i) else !has lo
    plruVictim t mask i (2 * node + b2n r) (if r then lo + 2 ^ i else lo)

/-- Way `w` of a line's set has been used. -/
def State.touchWay (s : State) (a w : Nat) : State :=
  { s with plru := Table.set 0 s.plru (setKey a) (plruTouch w 4 1 (Table.get 0 s.plru (setKey a))) }

/-- Allocate a line in the Lagoon (R272): the lowest free permitted way, else the one that tree pseudo-least-recent use gives, whose
line is replaced (R269). A line that is there already is used. `fetch` reads the line from HBM. -/
def State.allocate (s : State) (line : Nat) (fetch : Bool) : State :=
  let a := line * 128
  if (s.lag line).present then s.touchWay a (s.lag line).way.toNat
  else
    let occ := s.setLines a
    let mask := s.permittedWays a
    let ways := (List.range 16).filter (fun w => mask.getLsbD w)
    let free := ways.find? (fun w => !(occ.any (fun e => e.2 == w)))
    let w := free.getD (plruVictim (Table.get 0 s.plru (setKey a)) mask 4 1 0)
    let s := match occ.find? (fun e => e.2 == w) with
      | some e => s.evictLag e.1
      | none => s
    let s := if fetch then (List.range 4).foldl (fun s b => s.eccBlock (4 * line + b)) s else s
    let o := State.owner s (granuleOf a)
    let s := if o < 16 then s.perfAdd o 6 1 else s
    let p : BitVec 4 := (List.range 4).foldl
      (fun m b => setBit m b (Table.get false s.hbmPoison (4 * line + b))) 0
    (s.setLag line { s.lag line with present := true, way := BitVec.ofNat 4 w, part := o, dirty := false, poison := p }).touchWay a w

/-- A read of a line takes it from HBM: it is not allocated, or frozen. -/
def State.fetches (s : State) (line : Nat) : Bool := s.isFrozen (line * 128) || !(s.lag line).present

/-- A read that fetches a poisoned block has counted it (R280); one that meets it in the Lagoon or a cache counts it (R463). -/
def State.meetsPoison (s : State) (fetched : Bool) (block : Nat) : State := if fetched then s else s.hbmUncorrectable block

/-- Is a block poisoned where a reader meets it: in its Lagoon line, else in HBM (R463). -/
def State.blockPoisoned (s : State) (block : Nat) : Bool :=
  let g := s.lag (block / 4)
  if g.present then g.poison.getLsbD (block % 4) else Table.get false s.hbmPoison block

/-- A full write of a block clears its poison in the line (R281). -/
def State.clearBlock (s : State) (block : Nat) : State :=
  let g := s.lag (block / 4)
  s.setLag (block / 4) { g with poison := setBit g.poison (block % 4) false }

/-! ### Transactions of a caching agent, completed at once (R257, R260) -/

/-- An agent gives up a line (WRITEBACK or EVICT_CLEAN of R257). -/
def State.dropLine (s : State) (agent line : Nat) : State :=
  let s := s.takeData agent line
  let g := s.lag line
  let s := s.setLag line { g with owner := if g.owner = some agent then none else g.owner,
                                  sharers := setBit g.sharers agent false }
  s.setCached agent line {}

/-- Make room in a VE cache set of 4 ways (R256): the lowest line of a full set is evicted. -/
def State.makeRoom (s : State) (agent line : Nat) : State :=
  if agent = gooseAgent then s
  else
    let same := (s.linesOf agent).filter (fun l => l % 128 == line % 128 && l != line)
    if same.length < 4 then s
    else match same with
      | [] => s
      | l :: _ => s.dropLine agent l

/-- READ_SHARED completed: the line becomes Exclusive where no other copy exists, else Shared. -/
def State.shareLine (s : State) (agent line : Nat) : State :=
  let s := s.applyInv agent line
  if (s.cached agent line).st != .invalid then s
  else
    let s := s.recallShared line
    let s := (s.makeRoom agent line).allocate line true
    let g := s.lag line
    if g.sharers = 0 then
      (s.setLag line { g with owner := some agent }).setCached agent line ⟨.exclusive, s.lineData line⟩
    else
      (s.setLag line { g with sharers := setBit g.sharers agent true }).setCached agent line ⟨.shared, s.lineData line⟩

/-- READ_OWN or UPGRADE completed: the agent owns the line; the caller writes it. -/
def State.ownLine (s : State) (agent line : Nat) : State :=
  let s := s.applyInv agent line
  let c := s.cached agent line
  if c.st == .modified || c.st == .exclusive then s
  else
    let s := (s.recallOwned line).invalidateSharers line (some agent)
    let s := (s.makeRoom agent line).allocate line true
    let s := s.setLag line { s.lag line with owner := some agent, sharers := 0 }
    s.setCached agent line ⟨.exclusive, s.lineData line⟩

/-- The owner of a line writes bytes of it: the line becomes Modified (R256). -/
def State.writeOwned (s : State) (agent line off : Nat) (bytes : List Byte) : State :=
  let c := s.cached agent line
  s.setCached agent line ⟨.modified, Memory.write c.data off bytes⟩

/-- Stored bytes of a line in an Islet's store buffer: offset and byte. -/
def State.storedIn (s : State) (n line : Nat) : List (Nat × Byte) :=
  (s.islet n).storeBuf.filterMap (fun e =>
    if e.1 / 128 = line then e.2.map (fun b => (e.1 % 128, b)) else none)

/-- Put the stored bytes of a line into the line, which the Islet's VE cache owns. -/
def State.drainOwned (s : State) (n line : Nat) : State :=
  let st := s.storedIn n line
  let s := st.foldl (fun s e => s.writeOwned n line e.1 [e.2]) s
  let s := (List.range 4).foldl (fun s b =>
    if (List.range 32).all (fun k => st.any (fun e => e.1 == 32 * b + k)) then s.clearBlock (4 * line + b) else s) s
  let i := s.islet n
  s.setIslet n { i with storeBuf := Table.clear i.storeBuf (line * 128) (line * 128 + 128) }

/-! ### Transactions under way (R258 to R261)

A line's transaction names the requester and whether it asks for ownership; its recall names the agent recalled and
whether it must give the line up; `waitInv` are the agents whose acknowledgement is still due; the waiter list holds
the requests that come after. -/

/-- The requester gets the line and performs the access it requested (R260): a VE cache puts in what its store buffer holds of the
line. What the Goose writes is its firmware's: a free line (DESIGN CHOICE, log entry 3). -/
def State.grantLine (s : State) (line agent : Nat) (own : Bool) : State :=
  if !own then s.shareLine agent line
  else
    let s := s.ownLine agent line
    if agent = gooseAgent then s.freeTaken.writeOwned agent line 0 (leBytes 128 (s.freeValue 1024).toNat)
    else if agent < 16 ∧ !(s.storedIn agent line).isEmpty then s.drainOwned agent line else s

/-- Every message that a transaction waits for arrives, and it ends. -/
def State.finishTxn (s : State) (line agent : Nat) (own : Bool) : State :=
  let g := s.lag line
  let s := (List.range 17).foldl (fun s a => if g.waitInv.getLsbD a then s.acceptInv a line else s) s
  let left := (List.range 17).foldl (fun m a => if g.waitInv.getLsbD a then setBit m a false else m) g.sharers
  let s := s.setLag line { s.lag line with txn := none, waitInv := 0, recalling := none, sharers := left }
  let s := if own then s.recallOwned line else s.recallShared line
  s.grantLine line agent own

/-- The transactions of a line end in turn: the one under way, then those of the waiter list. -/
def State.settleGo (line : Nat) : Nat → State → State
  | 0, s => s
  | fuel + 1, s =>
    match (s.lag line).txn with
    | none => s
    | some (a, own) =>
      let s := s.finishTxn line a own
      let g := s.lag line
      match g.waiters with
      | [] => s
      | w :: rest => State.settleGo line fuel (s.setLag line { g with txn := some w, waiters := rest })

/-- A line has no transaction under way. -/
def State.settleLine (s : State) (line : Nat) : State := State.settleGo line 18 s

/-- READ_SHARED from request to grant. -/
def State.acquireShared (s : State) (agent line : Nat) : State := (s.settleLine line).shareLine agent line

/-- READ_OWN or UPGRADE from request to grant. -/
def State.acquireOwn (s : State) (agent line : Nat) : State := (s.settleLine line).ownLine agent line

/-- Drain one line of an Islet's store buffer into an owned line of its VE cache (R236). -/
def State.drainLine (s : State) (n line : Nat) : State :=
  if (s.storedIn n line).isEmpty then s else (s.acquireOwn n line).drainOwned n line

/-- Drain an Islet's store buffer (R242, R246). -/
def State.drainStores (s : State) (n : Nat) : State :=
  let lines := ((Table.keys (s.islet n).storeBuf).map lineOf).eraseDups
  lines.foldl (fun s l => s.drainLine n l) s

/-! ### Reads of HBM -/

/-- What a read gave: the state, the bytes up to where it stopped, and the block or word that stopped it. -/
structure ReadRes where
  s     : State
  bytes : List Byte
  bad   : Option Nat

/-- The first poisoned block among those that `[a, a+n)` touches. -/
def State.firstPoison (s : State) (a n : Nat) : Option Nat :=
  if n = 0 then none
  else ((List.range ((a + n - 1) / 32 + 1 - a / 32)).map (fun k => a / 32 + k)).find? s.blockPoisoned

/-- How an engine reads HBM: at the Lagoon (with the Islet whose store buffer forwards, if any), or
through the VE cache of an Islet (R236, R237). -/
inductive HbmPath where
  | lagoon
  | volatile (n : Nat)
  | cache (n : Nat)
  deriving DecidableEq, Repr

/-- Bring a line to where the path reads it. -/
def State.reach (s : State) (p : HbmPath) (line : Nat) : State :=
  if s.isFrozen (line * 128) then (List.range 4).foldl (fun s b => s.eccBlock (4 * line + b)) s
  else match p with
    | .lagoon => ((s.settleLine line).recallDirty line).allocate line true
    | .volatile n => (((s.settleLine line).applyInv n line).recallDirty line).allocate line true
    | .cache n => if (s.cached n line).st == .invalid then s.acquireShared n line else s

/-- One byte as the path reads it, once its line has been reached. -/
def State.seenByte (s : State) (p : HbmPath) (a : Nat) : Byte :=
  match p with
  | .lagoon => Memory.byte s.hbm a
  | .volatile n => (Table.get none (s.islet n).storeBuf a).getD (Memory.byte s.hbm a)
  | .cache n => (Table.get none (s.islet n).storeBuf a).getD (Memory.byte (s.cached n (lineOf a)).data (a % 128))

/-- Read HBM line by line, stopping at the first poisoned block (R280). -/
def hbmReadGo (p : HbmPath) : Nat → State → Nat → Nat → ReadRes
  | 0, s, _, _ => ⟨s, [], none⟩
  | fuel + 1, s, a, len =>
    if len = 0 then ⟨s, [], none⟩
    else
      let n := Nat.min len (128 - a % 128)
      let s1 := s.reach p (lineOf a)
      match s1.firstPoison a n with
      | some b =>
        let s2 := s1.meetsPoison (s.fetches (lineOf a)) b
        let upTo := if a < b * 32 then b * 32 - a else 0
        ⟨s2, (List.range upTo).map (fun k => s2.seenByte p (a + k)), some (b * 32)⟩
      | none =>
        let r := hbmReadGo p fuel s1 (a + n) (len - n)
        ⟨r.s, (List.range n).map (fun k => s1.seenByte p (a + k)) ++ r.bytes, r.bad⟩

/-- Read `len` bytes of HBM. -/
def State.readHbm (s : State) (p : HbmPath) (a len : Nat) : ReadRes := hbmReadGo p (len / 128 + 2) s a len

/-! ### Writes of HBM -/

/-- What a write did: the state and the block or word whose read-modify-write failed. -/
structure WriteRes where
  s   : State
  bad : Option Nat

/-- The first block that `[a, a+n)` covers in part and that is poisoned (R281). -/
def State.partPoison (s : State) (a n : Nat) : Option Nat :=
  let lo := a / 32
  let hi := (a + n - 1) / 32
  if n = 0 then none
  else if (a % 32 ≠ 0 ∨ a + n < lo * 32 + 32) ∧ s.blockPoisoned lo then some lo
  else if (a + n) % 32 ≠ 0 ∧ s.blockPoisoned hi then some hi
  else none

/-- Write HBM at the Lagoon line by line: a non-caching write (R257). -/
def hbmWriteGo : Nat → State → Nat → List Byte → WriteRes
  | 0, s, _, _ => ⟨s, none⟩
  | fuel + 1, s, a, bytes =>
    if bytes.isEmpty then ⟨s, none⟩
    else
      let n := Nat.min bytes.length (128 - a % 128)
      let line := lineOf a
      let s1 := ((s.settleLine line).recallOwned line).invalidateSharers line none
      let s1 := s1.allocate line (decide (n < 128))
      match s1.partPoison a n with
      | some b =>
        let s2 := s1.meetsPoison (s.fetches line) b
        let upTo := if a < b * 32 then b * 32 - a else 0
        let s2 := { s2 with hbm := Memory.write s2.hbm a (bytes.take upTo) }
        let s2 := if 0 < upTo then s2.setLag line { s2.lag line with dirty := true } else s2
        ⟨s2, some (b * 32)⟩
      | none =>
        let s2 := { s1 with hbm := Memory.write s1.hbm a (bytes.take n) }
        let s2 := s2.setLag line { s2.lag line with dirty := true }
        let s2 := (List.range 4).foldl (fun s k =>
          if a ≤ line * 128 + 32 * k ∧ line * 128 + 32 * k + 32 ≤ a + n then s.clearBlock (4 * line + k) else s) s2
        hbmWriteGo fuel s2 (a + n) (bytes.drop n)

/-- Write bytes of HBM at the point of coherence. -/
def State.writeHbm (s : State) (a : Nat) (bytes : List Byte) : WriteRes :=
  hbmWriteGo (bytes.length / 128 + 2) s a bytes

/-- Put bytes into an Islet's store buffer, checking blocks written in part (R236, R281). -/
def storeGo (n : Nat) : Nat → State → Nat → List Byte → WriteRes
  | 0, s, _, _ => ⟨s, none⟩
  | fuel + 1, s, a, bytes =>
    if bytes.isEmpty then ⟨s, none⟩
    else
      let k := Nat.min bytes.length (128 - a % 128)
      let s1 := s.allocate (lineOf a) true
      let put : State → Nat → State := fun s m =>
        let i := s.islet n
        let buf := (List.range m).foldl (fun t j => Table.set none t (a + j) (some (bytes.getD j 0))) i.storeBuf
        s.setIslet n { i with storeBuf := buf }
      match s1.partPoison a k with
      | some b =>
        let s2 := s1.meetsPoison (s.fetches (lineOf a)) b
        ⟨put s2 (if a < b * 32 then b * 32 - a else 0), some (b * 32)⟩
      | none => storeGo n fuel (put s1 k) (a + k) (bytes.drop k)

/-- A Vector engine's store through its VE cache. -/
def State.storeHbm (s : State) (n a : Nat) (bytes : List Byte) : WriteRes :=
  storeGo n (bytes.length / 128 + 2) s a bytes

/-- Every copy of the lines of a range is discarded without writeback (R272, R396). -/
def State.discard (s : State) (a len : Nat) : State :=
  let lines := (Table.keys s.lagoon).filter (fun l => decide (a < l * 128 + 128) && decide (l * 128 < a + len))
  lines.foldl (fun s l =>
    let s := (List.range 17).foldl (fun s ag => (s.setCached ag l {}).setInvs ag ((s.invs ag).filter (· != l))) s
    s.setLag l {}) s

/-- Write a granule, frame or part of them past the caches and the Lagoon (R272): every copy is discarded,
blocks get correct check bits and clear poison. Used by the fill engine and WEIGHT_LOAD. -/
def State.writeRaw (s : State) (a len : Nat) (bytes : List Byte) : State :=
  let s := s.discard a len
  let lo := (a + 31) / 32
  let hi := (a + len) / 32
  { s with hbm := if bytes.isEmpty then Memory.zero s.hbm a len else Memory.write s.hbm a bytes,
           hbmPoison := Table.clear s.hbmPoison lo hi, hbmErr := Table.clear s.hbmErr lo hi }

/-! ### What the stacks hold (R275, R276, R278) -/

/-- The key pair of the granule of an address. -/
def State.granuleKey (s : State) (g : Nat) : List Byte := Table.get [] s.keys g

/-- The 128 bytes of a line as its stack holds them: ciphertext under the granule's key pair with the line number as tweak (R276). A
line that the Lagoon holds dirty stands here as its writeback will leave it. -/
def State.stackLine (s : State) (line : Nat) : List Byte :=
  xtsSeal (s.granuleKey (granuleOf (line * 128))) line (Memory.bytes s.hbm (line * 128) 128)

/-- The metadata of a block (R278): check bits over its ciphertext, its poison bit, and five bits written 0. -/
structure BlockMeta where
  check  : BitVec 10
  poison : Bool
  spare  : BitVec 5
  deriving DecidableEq, Repr

/-- The metadata of a block as its stack holds it. -/
def State.stackMeta (s : State) (block : Nat) : BlockMeta :=
  { check := Config.secded (BitVec.ofNat 256 (leNat (slice (s.stackLine (block / 4)) (32 * (block % 4)) 32))),
    poison := Table.get false s.hbmPoison block, spare := 0 }

/-! ### Scratchpads (R86, R106, R107) -/

/-- Bytes of a scratchpad. -/
def spSize : Nat := 0x400000

/-- Key of a byte of Islet `n`'s scratchpad. -/
def spKey (n off : Nat) : Nat := n * spSize + off

/-- Square of a scratchpad offset (R93). -/
def squareOf (off : Nat) : Nat := off / 4096 / 32 * 32 + off % 4096 / 128

/-- Scratchpad squares that a range of Islet `n` touches. -/
def rangeSquares (off len : Nat) : List Nat :=
  if len = 0 then [] else
  ((List.range ((off + len - 1) / 128 + 1 - off / 128)).map (fun k => squareOf ((off / 128 + k) * 128))).eraseDups

/-- The pieces of runs of scratchpad bytes, in order, none of which leaves its 128-byte row of a square (R93). -/
def squarePieces (runs : List (Nat × Nat)) : List (Nat × Nat) :=
  runs.flatMap (fun u => if u.2 = 0 then [] else
    (List.range ((u.1 + u.2 - 1) / 128 + 1 - u.1 / 128)).map (fun k =>
      let lo := Nat.max u.1 ((u.1 / 128 + k) * 128)
      (lo, Nat.min (u.1 + u.2) ((u.1 / 128 + k + 1) * 128) - lo)))

/-- The pieces that are not wholly among the first `n` bytes. -/
def piecesPast : List (Nat × Nat) → Nat → List (Nat × Nat)
  | [], _ => []
  | u :: t, n => if u.2 ≤ n then piecesPast t (n - u.2) else u :: t

/-- The squares of which every byte of the runs is among the first `n` bytes. -/
def wholeSquares (runs : List (Nat × Nat)) (n : Nat) : List Nat :=
  let left := (piecesPast (squarePieces runs) n).map (fun u => squareOf u.1)
  (((squarePieces runs).map (fun u => squareOf u.1)).eraseDups).filter (fun q => !left.contains q)

/-- Key of a word. -/
def spWord (n w : Nat) : Nat := n * 0x100000 + w

/-- Read one word's ECC (R106, R107): corrected, or marked poisoned. -/
def State.spRead (s : State) (n w : Nat) : State :=
  match Table.get 0 s.spErr (spWord n w) with
  | 0 => s
  | 1 =>
    let i := s.islet n
    ({ s with spErr := Table.set 0 s.spErr (spWord n w) 0 } : State).setIslet n
      { i with corrected := true, corrCount := satInc i.corrCount }
  | _ =>
    let s := { s with spErr := Table.set 0 s.spErr (spWord n w) 0 }
    if Table.get false s.spPoison (spWord n w) then s
    else ({ s with spPoison := Table.set false s.spPoison (spWord n w) true } : State).logPoison (4 * w) n true true

/-- A read met a poisoned word (R107). -/
def State.spConsumed (s : State) (n : Nat) : State :=
  let i := s.islet n
  s.setIslet n { i with uncorr := true, uncorrCount := satInc i.uncorrCount }

/-- Words of `[off, off+len)` that have a mark against them. -/
def State.markedWords (s : State) (n off len : Nat) : List Nat :=
  if len = 0 then [] else
  let lo := spWord n (off / 4)
  let hi := spWord n ((off + len - 1) / 4)
  let ks := (Table.keys s.spErr ++ Table.keys s.spPoison).filter (fun k => decide (lo ≤ k) && decide (k ≤ hi))
  ((sortBy (fun a b => decide (a ≤ b)) ks).eraseDups).map (fun k => k - n * 0x100000)

/-- Read a run of scratchpad bytes, stopping at the first poisoned word. -/
def State.readSp (s : State) (n off len : Nat) : ReadRes :=
  let s := (s.markedWords n off len).foldl (fun s w => s.spRead n w) s
  match (s.markedWords n off len).find? (fun w => Table.get false s.spPoison (spWord n w)) with
  | none => ⟨s, Memory.bytes s.scratch (spKey n off) len, none⟩
  | some w => ⟨s.spConsumed n, Memory.bytes s.scratch (spKey n off) (4 * w - off), some (4 * w)⟩

/-- Write a run of scratchpad bytes; a word written in part is read first (R107). -/
def State.writeSp (s : State) (n off : Nat) (bytes : List Byte) : WriteRes :=
  let len := bytes.length
  if len = 0 then ⟨s, none⟩
  else
    let w0 := off / 4
    let w1 := (off + len - 1) / 4
    let part : List Nat :=
      (if off % 4 ≠ 0 ∨ off + len < 4 * w0 + 4 then [w0] else []) ++
      (if (off + len) % 4 ≠ 0 ∧ w1 ≠ w0 then [w1] else [])
    let s := part.foldl (fun s w => s.spRead n w) s
    let bad := part.find? (fun w => Table.get false s.spPoison (spWord n w))
    let k := match bad with
      | none => len
      | some w => 4 * w - off
    let lo := spWord n ((off + 3) / 4)
    let hi := spWord n ((off + k) / 4)
    let s := { s with scratch := Memory.write s.scratch (spKey n off) (bytes.take k),
                      spErr := Table.clear s.spErr lo hi, spPoison := Table.clear s.spPoison lo hi }
    match bad with
    | none => ⟨s, none⟩
    | some w => ⟨s.spConsumed n, some (4 * w)⟩

/-- Every line of a VE cache is written back or dropped, its store buffer drained and its pending
invalidations applied: the Islet's cache is empty. -/
def State.flushCache (s : State) (n : Nat) : State :=
  let s := (s.drainStores n).applyAllInvs n
  (s.linesOf n).foldl (fun s l => s.dropLine n l) s

/-- Zero a whole scratchpad, its marks, its tags and its seals (R94, R396, R474). -/
def State.clearSp (s : State) (n : Nat) : State :=
  let s := { s with scratch := Memory.zero s.scratch (n * spSize) spSize,
                    spErr := Table.clear s.spErr (n * 0x100000) ((n + 1) * 0x100000),
                    spPoison := Table.clear s.spPoison (n * 0x100000) ((n + 1) * 0x100000) }
  let i := (s.islet n).clearTags
  s.setIslet n { i with sealed := 0 }

end Sys2Proof.Machine
end

