-- ==== Sys2Proof/Machine/Operands.lean ====
section
/-!
DEFINITION. Every operand form: the device address map (R262, R265), routes (R42), operand geometry
(R119 to R123, R149), the operands of each opcode (R124, R128, R136, R138), the checks of R142 in their
order, rights (R19, R104, R105, R143, R148, R317) and the wait points of a command (R95 to R97).
-/

namespace Sys2Proof.Machine

/-! ### The address map (R262, R265) -/

/-- What a device address names. -/
inductive Place where
  | hbm (a : Nat)
  | alias_ (a : Nat)
  | scratch (n off : Nat)
  | regs (off : Nat)
  | host (a : Nat)
  | remote (d r : Nat)
  | unmapped
  deriving DecidableEq, Repr

/-- The place of a device address. -/
def placeOf (a : Nat) : Place :=
  if a < hbmEnd then .hbm a
  else if 0x1000000000 ≤ a ∧ a < 0x1010000000 then .scratch ((a - 0x1000000000) / 0x1000000) (a % 0x1000000)
  else if 0x3000000000 ≤ a ∧ a < 0x3004000000 then .regs (a - 0x3000000000)
  else if 0x4000000000 ≤ a ∧ a < 0x8000000000 then .host (a - 0x4000000000)
  else if 0x10000000000 ≤ a ∧ a < 0x50000000000 then
    .remote ((a - 0x10000000000) / 0x1000000000) (a % 0x1000000000)
  else if 0x80000000000 ≤ a ∧ a < 0x80000000000 + hbmEnd then .alias_ (a - 0x80000000000)
  else .unmapped

/-- The place of a run of bytes that stays within one range of the map; unmapped otherwise. -/
def placeRun (a n : Nat) : Place :=
  match placeOf a with
  | .hbm x => if x + n ≤ hbmEnd then .hbm x else .unmapped
  | .alias_ x => if x + n ≤ hbmEnd then .alias_ x else .unmapped
  | .scratch k o => if o + n ≤ spSize then .scratch k o else .unmapped
  | .host x => if x + n ≤ 0x4000000000 then .host x else .unmapped
  | .remote d r =>
    if r + n ≤ hbmEnd then .remote d r
    else if 0xF00000000 ≤ r ∧ r < 0xF10000000 ∧ r % 0x1000000 + n ≤ spSize then .remote d r
    else .unmapped
  | .regs x => if x + n ≤ 0x4000000 then .regs x else .unmapped
  | .unmapped => .unmapped

/-- The plain local address on die d of an offset in its remote range (R265). -/
def remoteTarget (r : Nat) : Nat := if r < hbmEnd then r else 0x1000000000 + (r - 0xF00000000)

/-- A die's serial as this die knows it: its own, or what joining or keying told (R41, R46). -/
def State.serialOf (s : State) (d : Nat) : Option (BitVec 64) :=
  if d = s.die then some s.fuses.serial
  else match Table.get none s.remotes d with
    | some r => some r.serial
    | none =>
      ((List.range 10).find? (fun p => (s.port p).verified && decide ((s.port p).partnerDie.toNat = d))).map
        (fun p => (s.port p).partnerSerial)

/-- A die belongs to the binding set of partition `p`'s loaded package (R366). -/
def State.inBinding (s : State) (p d : Nat) : Bool :=
  let t := s.part p
  t.loaded && (match s.serialOf d with
    | some x => t.binding.contains x
    | none => false)

/-- Every die on the way to `d`, and `d`, is in the binding set, and the first link is keyed (R319). -/
def State.routeBound (s : State) (p d : Nat) : Bool :=
  (routeDies s.die d).all (fun x => s.inBinding p x)
    && (s.port (portToward s.mgt.product.toNat s.die d 0)).hasKey

/-! ### Operands (R119 to R123, R149) -/

/-- An operand: its descriptor, the tensor table entry it names, and what the command does with it. -/
structure Ref where
  o      : Opnd
  td     : TDesc
  reads  : Bool
  writes : Bool
  deriving DecidableEq, Repr

/-- Format code. -/
def Ref.fmt (r : Ref) : Nat := r.td.format.toNat

/-- A block-packed format (R149). -/
def blockFmt (f : Nat) : Bool := decide (0xA ≤ f) && decide (f ≤ 0xD)

/-- Elements of a block: 64 or 32 (R149). -/
def blockLen (f : Nat) : Nat := if f = fmtACT8 ∨ f = fmtACT6 then 64 else 32

/-- Bytes of a block (R56). -/
def blockBytes (f : Nat) : Nat := if f = fmtACT8 then 66 else if f = fmtACT6 then 50 else 33

/-- Rows of the stored matrix (R120). -/
def Ref.sRows (r : Ref) : Nat := if r.o.trans then r.o.cols else r.o.rows
/-- Columns of the stored matrix. -/
def Ref.sCols (r : Ref) : Nat := if r.o.trans then r.o.rows else r.o.cols
/-- Elements of the operand. -/
def Ref.count (r : Ref) : Nat := r.o.rows * r.o.cols
/-- Packed bytes of one stored row; of the whole run of blocks for a block-packed operand. -/
def Ref.rowBytes (r : Ref) : Nat := storedBytes r.fmt (if blockFmt r.fmt then r.count else r.sCols)
/-- Packed runs: stored rows, or the one run of blocks. -/
def Ref.runCount (r : Ref) : Nat := if blockFmt r.fmt then 1 else r.sRows
/-- Words of one stored row (R120). -/
def Ref.width (r : Ref) : Nat := (r.rowBytes + 3) / 4
/-- Offset or device address of packed run `k`. -/
def Ref.runAddr (r : Ref) (k : Nat) : Nat :=
  if r.td.mem then r.td.base.toNat + k * r.td.stride.toNat
  else (r.o.row0 + k) * 4096 + r.o.col0 * 4
/-- The packed runs: start and length. -/
def Ref.runs (r : Ref) : List (Nat × Nat) := (List.range r.runCount).map (fun k => (r.runAddr k, r.rowBytes))

/-- Canonical index of S(r, c) (R122). -/
def Ref.index (x : Ref) (r c : Nat) : Nat :=
  ((x.td.rowOrg.toNat + r) * x.td.lcols.toNat + x.td.colOrg.toNat + c) % 2 ^ 32

/-- Canonical index of the logical element (i, j). -/
def Ref.indexOf (x : Ref) (i j : Nat) : Nat := if x.o.trans then x.index j i else x.index i j

/-- The squares that the packed runs touch, ascending in access order (R93, R97). -/
def Ref.squares (r : Ref) : List Nat :=
  if r.td.mem then []
  else if blockFmt r.fmt then
    let o := r.runAddr 0
    ((List.range ((o + r.rowBytes - 1) / 128 + 1 - o / 128)).map (fun k => squareOf ((o / 128 + k) * 128))).eraseDups
  else
    let r0 := r.o.row0 / 32
    let r1 := (r.o.row0 + r.sRows - 1) / 32
    let c0 := r.o.col0 / 32
    let c1 := (r.o.col0 + r.width - 1) / 32
    let rs := (List.range (r1 + 1 - r0)).map (· + r0)
    let cs := (List.range (c1 + 1 - c0)).map (· + c0)
    if r.o.trans then cs.flatMap (fun c => rs.map (fun x => x * 32 + c))
    else rs.flatMap (fun x => cs.map (fun c => x * 32 + c))

/-- The packed runs cover all 4,096 bytes of a square (R103, R104). -/
def coversSquare (runs : List (Nat × Nat)) (sq : Nat) : Bool :=
  (List.range 32).all (fun k =>
    let a := (sq / 32 * 32 + k) * 4096 + sq % 32 * 128
    runs.any (fun u => decide (u.1 ≤ a) && decide (a + 128 ≤ u.1 + u.2)))

/-- A scratchpad operand runs past the scratchpad (R120, R149). -/
def Ref.extentBad (r : Ref) : Bool :=
  if r.td.mem then false
  else if blockFmt r.fmt then decide (spSize < r.runAddr 0 + r.rowBytes)
  else decide (1024 < r.o.row0 + r.sRows) || decide (1024 < r.o.col0 + r.width)

/-- The descriptor faults of one operand (R116, R120, R121, R149). -/
def Ref.descBad (r : Ref) : Bool :=
  !r.td.valid || r.o.rows == 0 || r.o.cols == 0
    || (r.td.mem && (r.o.row0 != 0 || r.o.col0 != 0 || r.o.tag != .readKeep || r.o.trans
          || (!blockFmt r.fmt && decide (r.td.stride.toNat < r.rowBytes))))
    || (blockFmt r.fmt && (r.o.trans
          || (decide (1 < r.o.rows) && (r.td.colOrg != 0 || decide (r.o.cols ≠ r.td.lcols.toNat)))
          || decide (r.index 0 0 % blockLen r.fmt ≠ 0)))

/-! ### The operands of each opcode -/

/-- The descriptor at `off` with its entry. -/
def refAt (tds : Table TDesc) (e : List Byte) (off : Nat) (reads writes : Bool) : Ref :=
  let o := opndAt e off
  ⟨o, Table.get {} tds o.tensor, reads, writes⟩

/-- VX_CTRL (R128). -/
def vxRound (e : List Byte) : Nat := leAt e 48 1 % 8
def vxFunc (e : List Byte) : Nat := leAt e 49 1
def vxBlocks (e : List Byte) : Bool := bit (leAt e 50 1) 0
def vxAux (e : List Byte) : Nat := leAt e 51 1 % 128
def vxImm (e : List Byte) : Nat := leAt e 52 4
def vxSeed (e : List Byte) : Nat := leAt e 56 8

/-- The opcodes of the Vector engine (R129). -/
def vxOpcode (op : Nat) : Bool :=
  decide (0x20 ≤ op ∧ op ≤ 0x28) || op == 0x30 || op == 0x31 || op == 0x38 || op == 0x39
    || decide (0x40 ≤ op ∧ op ≤ 0x44)

/-- The opcode reads a second operand Y. -/
def vxHasY (op : Nat) : Bool := decide (0x21 ≤ op ∧ op ≤ 0x27) || op == 0x44
/-- The opcode reads X: all but VX_MASK. -/
def vxHasX (op : Nat) : Bool := op != 0x41
/-- ROUND is used (R129). -/
def vxUsesRound (op : Nat) : Bool := decide (0x20 ≤ op ∧ op ≤ 0x25) || op == 0x28 || op == 0x40 || op == 0x43 || op == 0x44
/-- FUNC is used. -/
def vxUsesFunc (op : Nat) : Bool := op == 0x28 || op == 0x30
/-- OUT_KIND is used. -/
def vxUsesKind (op : Nat) : Bool := op == 0x30 || op == 0x42
/-- IMM is used. -/
def vxUsesImm (op : Nat) : Bool := op == 0x25 || op == 0x31 || op == 0x40 || op == 0x41 || op == 0x43 || op == 0x44
/-- SEED is used. -/
def vxUsesSeed (op : Nat) : Bool := op == 0x20 || op == 0x40 || op == 0x41
/-- The command reads a coefficient record (R159). -/
def readsRecord (op : Nat) : Bool := op == 0x43 || op == 0x44

/-- X, Y and Z of a Vector command. -/
def vxX (tds : Table TDesc) (e : List Byte) : Ref := refAt tds e 24 true false
def vxY (tds : Table TDesc) (e : List Byte) : Ref := refAt tds e 32 true (eOpcode e == 0x44)
def vxZ (tds : Table TDesc) (e : List Byte) : Ref := refAt tds e 40 (eOpcode e == 0x44) true

/-- The AUX tensor of VX_OPT_STEP: a memory operand of Z's shape (R129); its field is at byte 51. -/
def vxAuxRef (tds : Table TDesc) (e : List Byte) : Ref :=
  let z := opndAt e 40
  ⟨{ off := 51, tensor := vxAux e, signed := false, tag := .readKeep, trans := false, nanOvf := false,
     row0 := 0, col0 := 0, rows := z.rows, cols := z.cols }, Table.get {} tds (vxAux e), true, true⟩

/-- The coefficient record as an operand read under READ_KEEP (R129, R159): words 0 to 9 of its 16, which lie in one square; the
A16 does not read words 10 to 15. -/
def recordRef (e : List Byte) : Ref :=
  let w := vxImm e % 2 ^ 20
  ⟨{ off := 52, tensor := 0, signed := false, tag := .readKeep, trans := false, nanOvf := false,
     row0 := w / 1024, col0 := w % 1024, rows := 1, cols := 10 }, { valid := true }, true, false⟩

/-- MV_COPY and MV_FILL sides (R136, R138). -/
def mvSrcSp (e : List Byte) : Bool := eOpcode e == 0x60 && bit (leAt e 44 1) 0
def mvDstSp (e : List Byte) : Bool := bit (leAt e 44 1) 1
def mvLength (e : List Byte) : Nat := leAt e 40 4
def mvRowBytes (e : List Byte) : Nat :=
  let r := if eOpcode e = 0x61 then leAt e 52 4 else leAt e 48 4
  if r = 0 then mvLength e else r
def mvRowField (e : List Byte) : Nat := if eOpcode e = 0x61 then leAt e 52 4 else leAt e 48 4
def mvSrcStride (e : List Byte) : Nat := leAt e 52 4
def mvDstStride (e : List Byte) : Nat := leAt e 56 4
def mvSrc (e : List Byte) : Nat := leAt e 24 6
def mvDst (e : List Byte) : Nat := leAt e 32 6

/-- Rows of an address side: start and length. -/
def sideRuns (e : List Byte) (base stride : Nat) : List (Nat × Nat) :=
  let rb := mvRowBytes e
  if rb = 0 then [] else (List.range (mvLength e / rb)).map (fun k => (base + k * stride, rb))

/-- The operands of an entry, in entry order. -/
def refsOf (tds : Table TDesc) (e : List Byte) : List Ref :=
  let op := eOpcode e
  if op = 0x10 then [refAt tds e 24 true false, refAt tds e 32 true false, refAt tds e 40 false true]
  else if vxOpcode op then
    (if vxHasX op then [vxX tds e] else []) ++ (if vxHasY op then [vxY tds e] else []) ++ [vxZ tds e]
      ++ (if op = 0x44 then [vxAuxRef tds e] else []) ++ (if readsRecord op then [recordRef e] else [])
  else if op = 0x60 then
    (if mvSrcSp e then [refAt tds e 24 true false] else []) ++ (if mvDstSp e then [refAt tds e 32 false true] else [])
  else if op = 0x61 then (if mvDstSp e then [refAt tds e 32 false true] else [])
  else []

/-! ### Checks 1 to 5 of R142 -/

/-- Operand class of the Matrix engine: 0 none, 1 FP32, 2 16-bit, 3 8-bit, 4 4-bit (R71). -/
def mxClass (f : Nat) : Nat :=
  match f with
  | 0 => 1 | 2 => 2 | 3 => 2 | 4 => 3 | 5 => 3 | 6 => 3 | 8 => 3 | 7 => 4 | 9 => 4
  | _ => 0

/-- Check 1: reserved opcodes of an engine's range (R124, R129, R138). -/
def badOpcode (op : Nat) : Bool :=
  if op < 0x10 then false
  else if op < 0x20 then op != 0x10
  else if op < 0x60 then !vxOpcode op
  else if op < 0x80 then decide (0x63 < op)
  else false

/-- Formats of a Vector command's operand at `off` (R56, R151, R152, R158, R164). -/
def vxFormatOk (op off f : Nat) : Bool :=
  let arith := isArith f
  let p16 := f == fmtFP32 || f == fmtT16 || f == fmtH16
  if op = 0x38 then (if off = 40 then f == fmtACT8 || f == fmtACT6 else arith)
  else if op = 0x39 then (if off = 24 then f == fmtACT8 || f == fmtACT6 else arith)
  else if op = 0x31 then arith || f == fmtPAIR32
  else if op = 0x42 then (if off = 40 then f == fmtFP32 || f == fmtFP64 else arith)
  else if op = 0x44 then
    (if off = 40 then f == fmtMOM8S else if off = 51 then f == fmtMOM8U else p16)
  else arith

/-- Check 2: formats and rounding codes (R80). -/
def formatCheck (tds : Table TDesc) (e : List Byte) : Option Nat :=
  let op := eOpcode e
  let refs := refsOf tds e
  let named := refs.filter (fun r => r.td.valid && decide (r.o.off ≠ 52))
  if op = 0x10 then
    let a := refAt tds e 24 true false
    let b := refAt tds e 32 true false
    let c := refAt tds e 40 false true
    firstBad
      [ (24, a.td.valid && decide (mxClass a.fmt = 0)),
        (32, b.td.valid && (decide (mxClass b.fmt = 0) || (a.td.valid && decide (mxClass a.fmt ≠ mxClass b.fmt)))),
        (40, c.td.valid && !(c.fmt == fmtFP32 || c.fmt == fmtPAIR32)) ]
  else if vxOpcode op then
    firstBad (named.map (fun r => (r.o.off, !vxFormatOk op r.o.off r.fmt))
      ++ [(48, vxUsesRound op && (decide (4 < vxRound e) || (vxRound e == 4 && op != 0x20)))])
  else firstBad (named.map (fun r => (r.o.off, decide (r.fmt = 0xF))))

/-- Elementwise commands (R131). -/
def vxElementwise (op : Nat) : Bool :=
  decide (0x20 ≤ op ∧ op ≤ 0x28) || op == 0x38 || op == 0x39 || op == 0x40 || op == 0x43 || op == 0x44

/-- Two operands have the same shape. -/
def sameShape (a b : Ref) : Bool := a.o.rows == b.o.rows && a.o.cols == b.o.cols

/-- An operand that is read and written in place keeps to READ_KEEP, or WRITE_OVER on free-running squares
(R131). -/
def inPlaceBad (free : BitVec 1024) (r : Ref) : Bool :=
  !(r.o.tag == .readKeep
    || (r.o.tag == .writeOver && (r.td.mem || r.extentBad || r.squares.all (fun q => free.getLsbD q))))

/-- Check 3 of the Matrix command (R125, R144). -/
def mxDesc (tds : Table TDesc) (e : List Byte) : Option Nat :=
  let a := refAt tds e 24 true false
  let b := refAt tds e 32 true false
  let c := refAt tds e 40 false true
  let nb := (a.o.cols + 255) / 256
  let blocks := bit (leAt e 48 1) 2
  firstBad
    [ (3, eQos e == 15), (24, a.descBad || a.td.mem), (32, b.descBad || b.td.mem || a.o.cols != b.o.rows),
      (40, c.descBad || c.td.mem || c.o.cols != b.o.cols
        || decide (c.o.rows ≠ if blocks then a.o.rows * nb else a.o.rows)),
      (48, decide (leAt e 48 4 / 8 ≠ 0)), reservedBad e 52 64 ]

/-- Check 3 of a Vector command (R128 to R134, R149, R158, R164). -/
def vxDesc (tds : Table TDesc) (free : BitVec 1024) (e : List Byte) : Option Nat :=
  let op := eOpcode e
  let x := vxX tds e
  let y := vxY tds e
  let z := vxZ tds e
  let aux := vxAuxRef tds e
  let blocks := vxBlocks e
  let nbCols := (x.o.cols + 255) / 256
  let nbAll := (x.count + 255) / 256
  let imm := vxImm e
  firstBad
    [ (3, eQos e == 15),
      (24, if vxHasX op then x.descBad || (op == 0x31 && x.td.valid && !(x.fmt == fmtFP32 || x.fmt == fmtPAIR32))
           else decide (leAt e 24 8 ≠ 0)),
      (32, if vxHasY op then
             y.descBad
               || (if op = 0x44 then !sameShape x y || inPlaceBad free y
                   else y.o.cols != x.o.cols || !(y.o.rows == x.o.rows || y.o.rows == 1))
           else decide (leAt e 32 8 ≠ 0)),
      (40, z.descBad || (vxElementwise op && !sameShape x z)
           || (op == 0x44 && inPlaceBad free z)
           || (op == 0x30 && (z.o.cols != 1 || decide (z.o.rows ≠ if blocks then x.o.rows * nbCols else x.o.rows)))
           || (op == 0x42 && (z.o.cols != 1 || decide (z.o.rows ≠ if blocks then nbAll else 1)))
           || (op == 0x31 && ((z.td.valid && !(z.fmt == fmtFP32 || z.fmt == fmtPAIR32)) || x.o.cols != z.o.cols))),
      (48, decide (leAt e 48 1 / 8 ≠ 0) || (!vxUsesRound op && decide (vxRound e ≠ 0))),
      (49, if op = 0x28 then decide (11 < vxFunc e) else if op = 0x30 then decide (4 < vxFunc e)
           else decide (vxFunc e ≠ 0)),
      (50, decide (leAt e 50 1 / 2 ≠ 0) || (blocks && (!vxUsesKind op || (op == 0x30 && decide (1 < vxFunc e))))),
      (51, decide (128 ≤ leAt e 51 1) || (if op = 0x44 then aux.descBad || !aux.td.mem else decide (vxAux e ≠ 0))),
      (52, if readsRecord op then decide (2 ^ 20 ≤ imm) || decide (imm % 16 ≠ 0)
           else if op = 0x31 then imm == 0 || decide (0xFFFF < imm) || decide (x.o.rows ≠ imm * z.o.rows)
           else !vxUsesImm op && decide (imm ≠ 0)),
      (56, !vxUsesSeed op && decide (vxSeed e ≠ 0)) ]

/-- A Move operand side does not lie in the own scratchpad, or is transposed (R137). -/
def mvSideBad (r : Ref) : Bool := r.descBad || r.td.mem || r.o.trans

/-- The operand sides of a Move command. -/
def mvSides (tds : Table TDesc) (e : List Byte) : List Ref :=
  (if mvSrcSp e then [refAt tds e 24 true false] else []) ++ (if mvDstSp e then [refAt tds e 32 false true] else [])

/-- LENGTH breaks its rule (R136, R137): it is 0, or an operand side has another number of bytes. -/
def mvLengthBad (tds : Table TDesc) (e : List Byte) : Bool :=
  mvLength e == 0 || (mvSides tds e).any (fun r => decide (r.runCount * r.rowBytes ≠ mvLength e))

/-- ROW_BYTES breaks its rule (R137): LENGTH is not a multiple of it on an address side, or an operand side's rows have another
number of bytes. -/
def mvRowsBad (tds : Table TDesc) (e : List Byte) (addrSide : Bool) : Bool :=
  (addrSide && decide (mvRowField e ≠ 0) && decide (mvLength e % mvRowField e ≠ 0))
    || (mvSides tds e).any (fun r => decide (r.rowBytes ≠ mvRowBytes e))

/-- Check 3 of a Move command (R136 to R138); of fields compared with each other the one at the highest offset failed (R219).
MV_GATHER_REQ's device state is R166's own check; a LENGTH of 0, for which R138 gives it no range, passes here (DESIGN CHOICE,
log entry 75). -/
def mvDesc (tds : Table TDesc) (e : List Byte) : Option Nat :=
  let op := eOpcode e
  let rf := mvRowField e
  if op = 0x60 then
    let addrSide := !mvSrcSp e || !mvDstSp e
    firstBad
      [ (3, eQos e == 15),
        (24, mvSrcSp e && mvSideBad (refAt tds e 24 true false)),
        (30, !mvSrcSp e && decide (leAt e 30 2 ≠ 0)),
        (32, mvDstSp e && mvSideBad (refAt tds e 32 false true)),
        (38, !mvDstSp e && decide (leAt e 38 2 ≠ 0)),
        (40, mvLengthBad tds e),
        (44, decide (leAt e 44 4 / 4 ≠ 0)),
        (48, mvRowsBad tds e addrSide),
        (52, !mvSrcSp e && decide (rf ≠ 0) && decide (mvSrcStride e < rf)),
        (56, !mvDstSp e && decide (rf ≠ 0) && decide (mvDstStride e < rf)),
        reservedBad e 60 64 ]
  else if op = 0x61 then
    firstBad
      [ (3, eQos e == 15), reservedBad e 24 32,
        (32, mvDstSp e && mvSideBad (refAt tds e 32 false true)),
        (38, !mvDstSp e && decide (leAt e 38 2 ≠ 0)),
        (40, mvLengthBad tds e || decide (mvLength e % 4 ≠ 0)),
        (44, decide (leAt e 44 4 / 4 ≠ 0) || bit (leAt e 44 1) 0),
        (52, mvRowsBad tds e (!mvDstSp e)),
        (56, !mvDstSp e && decide (rf ≠ 0) && decide (mvDstStride e < rf)),
        reservedBad e 60 64 ]
  else if op = 0x62 then
    let cnt := leAt e 40 4
    let first := leAt e 44 4
    firstBad
      [ (3, eQos e == 15), (24, decide (mvSrc e % 64 ≠ 0)), (30, decide (leAt e 30 2 ≠ 0)), reservedBad e 32 40,
        (40, cnt == 0 || decide (128 < cnt)), (44, decide (127 < first) || decide (128 < first + cnt)),
        reservedBad e 48 64 ]
  else
    firstBad
      [ (3, eQos e == 15), (30, decide (leAt e 30 2 ≠ 0)), (38, decide (leAt e 38 2 ≠ 0)),
        (44, decide (leAt e 44 1 / 64 ≠ 0)), reservedBad e 45 64 ]

/-- Check 3 of a common command (R187 to R190), on whatever queue. -/
def commonDesc (k : QKind) (e : List Byte) : Option Nat :=
  let op := eOpcode e
  let qos := (3, k.engine && eQos e == 15)
  if op = 0 ∨ op = 1 then firstBad [qos, reservedBad e 24 64]
  else if op = 2 then firstBad [qos, reservedBad e 28 64]
  else if op = 3 then
    let b := leAt e 24 1
    firstBad [qos, (24, b % 4 == 3 || b / 4 % 4 == 0 || decide (b / 16 ≠ 0)), reservedBad e 25 64]
  else
    let v := leAt e 24 4
    let first := v % 1024
    let cnt := bits v 20 10
    let stepBy := if bit v 21 then 32 else 1
    firstBad [qos, (24, cnt == 0 || decide (1023 < first + (cnt - 1) * stepBy)), (26, decide (v / 2 ^ 23 ≠ 0)),
              reservedBad e 28 64]

/-- Check 3. -/
def descCheck (k : QKind) (tds : Table TDesc) (free : BitVec 1024) (e : List Byte) : Option Nat :=
  let op := eOpcode e
  if op < 6 then commonDesc k e
  else if op = 0x10 then mxDesc tds e
  else if vxOpcode op then vxDesc tds free e
  else if 0x60 ≤ op ∧ op < 0x64 then mvDesc tds e
  else none

/-- Check 4 (R120, R149). -/
def extentCheck (tds : Table TDesc) (e : List Byte) : Option Nat :=
  firstBad ((refsOf tds e).map (fun r => (r.o.off, r.extentBad)))

/-- Do two operands break R99 against each other: a common square that is not free-running, and one of
them does not use READ_KEEP. -/
def tagClash (free : BitVec 1024) (a b : Ref) : Bool :=
  !(a.o.tag == .readKeep && b.o.tag == .readKeep)
    && a.squares.any (fun q => !free.getLsbD q && b.squares.contains q)

/-- Offsets of the operands that clash with an earlier one. -/
def clashes (free : BitVec 1024) : List Ref → List Ref → List (Nat × Bool)
  | _, [] => []
  | seen, r :: t => (r.o.off, seen.any (fun a => tagClash free a r)) :: clashes free (seen ++ [r]) t

/-- Check 5 (R99). -/
def tagCheckOf (tds : Table TDesc) (free : BitVec 1024) (e : List Byte) : Option Nat :=
  let refs := (refsOf tds e).filter (fun r => !r.td.mem)
  firstBad (refs.map (fun r => (r.o.off, r.o.tag == .writeOver && r.squares.any (fun q => !free.getLsbD q)))
    ++ clashes free [] refs)

/-- Checks 1 to 5 in order (R142). -/
def faultChecks (k : QKind) (tds : Table TDesc) (free : BitVec 1024) (e : List Byte) : Option Malformed :=
  let op := eOpcode e
  if badOpcode op then some (subOpcode, op)
  else match formatCheck tds e with
    | some o => some (subFormat, o)
    | none => match descCheck k tds free e with
      | some o => some (subDesc, o)
      | none => match extentCheck tds e with
        | some o => some (subExtent, o)
        | none => (tagCheckOf tds free e).map (fun o => (subTag, o))

/-! ### Check 6: rights (R19, R104, R105, R143, R148, R317) -/

/-- Every byte of `[a, a+n)` of HBM is the partition's own (R19). -/
def State.ownsHbm (s : State) (p a n : Nat) : Bool :=
  decide (a + n ≤ hbmEnd) &&
    (List.range ((a + n - 1) / 0x10000000 + 1 - a / 0x10000000)).all (fun k => s.owner (a / 0x10000000 + k) == p)

/-- Some frame of `[a, a+n)` is frozen. -/
def State.touchesFrozen (s : State) (a n : Nat) : Bool :=
  decide (0 < n) && (List.range ((a + n - 1) / 0x200000 + 1 - a / 0x200000)).any
    (fun k => Table.get false s.frozen (a / 0x200000 + k))

/-- Rights of a Vector engine's memory run: a reason, or none (R143, R148). -/
def State.vxRun (s : State) (p : Nat) (write : Bool) (a n : Nat) : Option Nat :=
  let hbm : Nat → Option Nat := fun x =>
    if !s.ownsHbm p x n then some 0x01
    else if s.touchesFrozen x n then some (if write then 0x02 else 0x03) else none
  match placeRun a n with
  | .hbm x => hbm x
  | .alias_ x => hbm x
  | .host _ => none
  | _ => some 0x01

/-- Key of a grant: the destination die, its partition and window. -/
def grantKey (die p w : Nat) : Nat := die * 256 + p * 16 + w

/-- The grant that admits a transfer of partition `p` to a whole extent on die `d`, `len` bytes in all
(R317): its key. -/
def State.grantFor (s : State) (p d : Nat) (runs : List (Nat × Nat)) (len : Nat) : Option Nat :=
  (s.grants.find? (fun e =>
    decide (e.1 / 256 = d) && e.2.present && !e.2.revoking && e.2.srcPart == p
      && runs.all (fun u => decide (e.2.base ≤ u.1) && decide (u.1 + u.2 ≤ e.2.base + e.2.size))
      && decide (e.2.started + len ≤ e.2.limit))).map Prod.fst

/-- Where a Move transfer writes. -/
inductive MvDest where
  | scratch
  | hbm
  | host
  /-- A window on die `d`; the runs in that die's plain addresses. -/
  | window (d : Nat) (runs : List (Nat × Nat))
  | denied
  deriving DecidableEq, Repr

/-- The kind of a destination run for partition `p` on Islet `n`, and its address there (R137, R317). R137 makes a run in another
Islet's range a window write and says nothing of the own Islet's range: it is denied (DESIGN CHOICE, log entry 76). -/
def State.destRun (s : State) (p n : Nat) (u : Nat × Nat) : Nat × Nat × Nat :=
  let hbm : Nat → Nat × Nat × Nat := fun x => if s.ownsHbm p x u.2 then (1, 0, x) else (3, s.die, x)
  match placeRun u.1 u.2 with
  | .hbm x => hbm x
  | .alias_ x => hbm x
  | .host x => (2, 0, x)
  | .scratch k o => if k = n then (0, 0, 0) else (3, s.die, 0x1000000000 + k * 0x1000000 + o)
  | .remote d r => if d = s.die then (0, 0, 0) else (3, d, remoteTarget r)
  | _ => (0, 0, 0)

/-- The destination of an MV_COPY or MV_FILL: every run of one kind. -/
def State.mvDestOf (s : State) (p n : Nat) (e : List Byte) : MvDest :=
  if mvDstSp e then .scratch
  else
    let ks := (sideRuns e (mvDst e) (mvDstStride e)).map (fun u => (s.destRun p n u, u.2))
    match ks with
    | [] => .denied
    | ((k, d, _), _) :: _ =>
      if !ks.all (fun x => x.1.1 == k && x.1.2.1 == d) then .denied
      else match k with
        | 1 => .hbm
        | 2 => .host
        | 3 => .window d (ks.map (fun x => (x.1.2.2, x.2)))
        | _ => .denied

/-- Some run of an MV_COPY source, or of MV_TDESC_LOAD's, touches a frozen frame. -/
def State.frozenSource (s : State) (e : List Byte) : Bool :=
  let runs := if eOpcode e = 0x62 then [(mvSrc e, leAt e 40 4 * 64)]
    else if eOpcode e = 0x60 ∧ !mvSrcSp e then sideRuns e (mvSrc e) (mvSrcStride e) else []
  runs.any (fun u => match placeRun u.1 u.2 with
    | .hbm x => s.touchesFrozen x u.2
    | .alias_ x => s.touchesFrozen x u.2
    | _ => false)

/-- Every frame of `[a, a+n)` is frozen. -/
def State.allFrozen (s : State) (a n : Nat) : Bool :=
  (List.range ((a + n - 1) / 0x200000 + 1 - a / 0x200000)).all (fun k => Table.get false s.frozen (a / 0x200000 + k))

/-- The whole source of an MV_COPY lies in a frozen region: what R104 asks of a write of part of a sealed square. -/
def State.frozenWhole (s : State) (e : List Byte) : Bool :=
  eOpcode e == 0x60 && !mvSrcSp e && (sideRuns e (mvSrc e) (mvSrcStride e)).all (fun u => match placeRun u.1 u.2 with
    | .hbm x => s.allFrozen x u.2
    | .alias_ x => s.allFrozen x u.2
    | _ => false)

/-- A push of frozen or sealed bytes by partition `p` into the window of a grant is admitted (R143, R319). -/
def State.pushAdmitted (s : State) (p key : Nat) : Bool :=
  let g : Grant := Table.get {} s.grants key
  let d := key / 256
  g.scratch && decide (key / 16 % 16 = p) && s.inBinding p s.die
    && (if d = s.die then true else s.inBinding p d && s.routeBound p d)

/-- Sealed squares among an operand's (R104). -/
def State.sealedIn (s : State) (n : Nat) (r : Ref) : List Nat :=
  r.squares.filter (fun q => (s.islet n).sealed.getLsbD q)

/-- R104 forbids this command, were the square sealed: what R105 asks of the commands that have started. -/
def forbidsSealed (s : State) (p n : Nat) (tds : Table TDesc) (e : List Byte) (sq : Nat) : Bool :=
  let op := eOpcode e
  let push := match s.mvDestOf p n e with
    | .window d runs => (s.grantFor p d runs 0).any (fun g => s.pushAdmitted p g)
    | _ => false
  (refsOf tds e).any (fun r => r.squares.contains sq &&
    ((r.reads && !(op == 0x10) && !(op == 0x60 && push))
      || (r.writes && !coversSquare r.runs sq && !s.frozenWhole e)))

/-- Rights over sealed squares (R104): a reason, or none. -/
def State.sealRights (s : State) (p n : Nat) (tds : Table TDesc) (e : List Byte) : Option Nat :=
  if (refsOf tds e).any (fun r => (s.sealedIn n r).any (fun q => forbidsSealed s p n tds e q)) then some 0x03 else none

/-- Rights of a Move source run (R19). -/
def State.mvSrcRun (s : State) (p a n : Nat) : Option Nat :=
  match placeRun a n with
  | .hbm x => if s.ownsHbm p x n then none else some 0x01
  | .alias_ x => if s.ownsHbm p x n then none else some 0x01
  | .host _ => none
  | _ => some 0x01

/-- The first reason of a list of checks. -/
def firstReason : List (Option Nat) → Option Nat
  | [] => none
  | some r :: _ => some r
  | none :: t => firstReason t

/-- The scratchpad runs of this die that a transfer writes through a local window: Islet, offset and length (R137). -/
def State.localRuns (s : State) (p n : Nat) (e : List Byte) : List (Nat × Nat × Nat) :=
  match s.mvDestOf p n e with
  | .window d runs => if d = s.die then runs.filterMap (fun u => match placeRun u.1 u.2 with
      | .scratch k o => some (k, o, u.2)
      | _ => none) else []
  | _ => []

/-- The squares of this die that a command writes: Islet and square, its own and those behind a local window (R103, R105). -/
def State.destSquares (s : State) (p n : Nat) (tds : Table TDesc) (e : List Byte) : List (Nat × Nat) :=
  (((refsOf tds e).filter (fun r => r.writes)).flatMap (fun r => r.squares.map (fun q => (n, q))))
    ++ (s.localRuns p n e).flatMap (fun u => (rangeSquares u.2.1 u.2.2).map (fun q => (u.1, q)))

/-- R105: some destination square of a transfer from a frozen region lies in the extent of a command that
has started on the Islet and that R104 would forbid; a transfer whose bytes are on their way counts. -/
def State.frozenRace (s : State) (p n : Nat) (tds : Table TDesc) (e : List Byte) : Bool :=
  s.frozenSource e && (s.destSquares p n tds e).any (fun d =>
    [3 * d.1, 3 * d.1 + 1, 3 * d.1 + 2].any (fun k => (s.queue k).run.any (fun x =>
      (x.phase == .started || x.phase == .busy) && forbidsSealed s p d.1 x.tds x.entry d.2)))

/-- A write through a local window that R104 or R148 forbids: it touches a frozen frame, or part of a sealed square with data
that does not all come from a frozen region. -/
def State.localRights (s : State) (p n : Nat) (e : List Byte) (runs : List (Nat × Nat)) : Option Nat :=
  if runs.any (fun u => match placeRun u.1 u.2 with
      | .hbm x => s.touchesFrozen x u.2
      | _ => false) then some 0x02
  else
    let l := s.localRuns p n e
    if !s.frozenWhole e && l.any (fun u => (rangeSquares u.2.1 u.2.2).any (fun q => (s.islet u.1).sealed.getLsbD q
        && !coversSquare ((l.filter (fun v => v.1 == u.1)).map Prod.snd) q)) then some 0x03 else none

/-- Rights of an MV_COPY or MV_FILL (R143, R148, R317). -/
def State.mvRights (s : State) (p n : Nat) (tds : Table TDesc) (e : List Byte) : Option Nat :=
  let frozen := s.frozenSource e
  let src := if eOpcode e = 0x60 ∧ !mvSrcSp e then
      firstReason ((sideRuns e (mvSrc e) (mvSrcStride e)).map (fun u => s.mvSrcRun p u.1 u.2))
    else none
  let dst := match s.mvDestOf p n e with
    | .scratch => none
    | .hbm =>
      if (sideRuns e (mvDst e) (mvDstStride e)).any (fun u => match placeRun u.1 u.2 with
          | .hbm x => s.touchesFrozen x u.2
          | .alias_ x => s.touchesFrozen x u.2
          | _ => false) then some 0x02
      else if frozen then some 0x03 else none
    | .host => if frozen then some 0x03 else none
    | .window d runs =>
      (match s.grantFor p d runs (mvLength e) with
        | none => some 0x06
        | some g =>
          if frozen && !s.pushAdmitted p g then some 0x03
          else if d = s.die then s.localRights p n e runs else none)
    | .denied => some 0x01
  firstReason [src, dst, s.sealRights p n tds e, if s.frozenRace p n tds e then some 0x03 else none]

/-- The window of partition `p` on this die that holds a whole gather destination, is open and admits the
owner die (R166). -/
def State.gatherWindow (s : State) (p owner a len : Nat) : Option Nat :=
  firstBelow 16 (fun w =>
    let x := s.win p w
    x.isOpen && !x.closing && decide (x.base.toNat ≤ a) && decide (a + len ≤ x.base.toNat + x.size.toNat)
      && (if x.binding then s.inBinding p owner && decide (x.committed.toNat + len ≤ x.limit.toNat)
          else decide (x.srcDie.toNat = owner) && decide (x.srcPart.toNat = p)))

/-- Check 6 (R142): the reason of a refusal, or none. -/
def State.rightsCheck (s : State) (p n : Nat) (tds : Table TDesc) (e : List Byte) : Option Nat :=
  let op := eOpcode e
  if op = 0x10 then s.sealRights p n tds e
  else if vxOpcode op then
    firstReason ((((refsOf tds e).filter (fun r => r.td.mem)).flatMap (fun r =>
        r.runs.map (fun u => firstReason [if r.writes then s.vxRun p true u.1 u.2 else none,
                                          if r.reads then s.vxRun p false u.1 u.2 else none])))
      ++ [s.sealRights p n tds e])
  else if op = 0x60 ∨ op = 0x61 then s.mvRights p n tds e
  else if op = 0x62 then
    firstReason [s.mvSrcRun p (mvSrc e) (leAt e 40 4 * 64), if s.frozenSource e then some 0x03 else none]
  else if op = 0x63 then
    let owner := leAt e 44 1 % 64
    let ok := match placeRun (mvDst e) (mvLength e) with
      | .remote d r => d == s.die && (s.gatherWindow p owner (remoteTarget r) (mvLength e)).isSome
      | _ => false
    if ok then none else some 0x06
  else none

/-! ### Wait points (R95 to R97, R101, R115) -/

/-- Drop later entries for a square that has one already. -/
def dedupWaits : List WaitPoint → List WaitPoint → List WaitPoint
  | seen, [] => seen
  | seen, w :: t => dedupWaits (if seen.any (fun x => x.square == w.square) then seen else seen ++ [w]) t

/-- The wait points of a command in its access order: the record first, then each operand's squares; a Move
transfer's in ascending square number. Free-running squares have none. Of an MX or VX command R97 says only that its operand
descriptors fix the order: the record, X or A, Y or B, Z or C, AUX, each by rising access (DESIGN CHOICE, log entry 77). -/
def waitPoints (tds : Table TDesc) (free : BitVec 1024) (e : List Byte) : List WaitPoint :=
  let refs := refsOf tds e
  let refs := refs.filter (fun r => r.o.off == 52) ++ refs.filter (fun r => r.o.off != 52)
  let ws := refs.flatMap (fun r => (r.squares.filter (fun q => !free.getLsbD q)).map (fun q => ⟨q, r.o.tag⟩))
  let ws := dedupWaits [] (ws.filter (fun w => w.mode != .writeOver))
  if 0x60 ≤ eOpcode e then sortBy (fun a b => decide (a.square ≤ b.square)) ws else ws

/-- The host-memory runs that a command reads (R251): host address and length. -/
def hostReads (tds : Table TDesc) (e : List Byte) : List (Nat × Nat) :=
  let op := eOpcode e
  let dev : List (Nat × Nat) :=
    if op = 0x60 ∧ !mvSrcSp e then sideRuns e (mvSrc e) (mvSrcStride e)
    else if op = 0x62 then [(mvSrc e, leAt e 40 4 * 64)]
    else ((refsOf tds e).filter (fun r => r.td.mem && r.reads)).flatMap Ref.runs
  dev.filterMap (fun u => match placeRun u.1 u.2 with
    | .host x => some (x, u.2)
    | _ => none)

end Sys2Proof.Machine
end

