-- ==== Sys2Proof/Machine/Life.lean ====
section
/-!
DEFINITION. The life of a command on a queue (R113 to R115, R139, R140, R171 to R197): reaching the head,
waiting, starting with its checks, passing wait points, reaching set points, completing in order, halting.
-/

namespace Sys2Proof.Machine

/-! ### Started commands -/

/-- The claims of a run are dropped from its Islet without changing a tag (R98). -/
def Islet.unclaim (i : Islet) (ws : List WaitPoint) : Islet :=
  { i with claimed := ws.foldl (fun m w => setBit m w.square false) i.claimed }

/-- The runs of an Islet's three queues. -/
def State.isletRuns (s : State) (n : Nat) : List Run :=
  (s.queue (3 * n)).run ++ (s.queue (3 * n + 1)).run ++ (s.queue (3 * n + 2)).run

/-- Some command still holds a square with READ_KEEP (R96). -/
def State.isHeld (s : State) (n sq : Nat) : Bool := (s.isletRuns n).any (fun r => r.holds.contains sq)

/-- READ_TAKE claims of one run whose set point is due: the run has made its last read of the square, and no holder is left
(R95). -/
def State.settleRun (s : State) (q i : Nat) : State :=
  match s.runAt q i with
  | none => s
  | some r =>
    let n := q / 3
    let due := r.claims.filter (fun w => w.mode == .readTake && (r.phase != .started || r.readSq.contains w.square) && !s.isHeld n w.square)
    if due.isEmpty then s
    else
      let isl := due.foldl (fun (x : Islet) w => x.setTag w.square false) (s.islet n)
      let s := s.setIslet n (isl.unclaim due)
      s.setRun q i { r with claims := r.claims.filter (fun w => !due.contains w) }

/-- The TAG check of Islet `n` where its tags have changed from those of an earlier state (R467). -/
def State.judgeTag (s : State) (before : Islet) (n : Nat) : State :=
  let i := s.islet n
  if i.fills = before.fills ∧ i.takes = before.takes then s else s.judge (s.checkTag n)

/-- Let every due set point of an Islet happen (R95, R96). -/
def State.settleIslet (s : State) (n : Nat) : State :=
  let t := [3 * n, 3 * n + 1, 3 * n + 2].foldl (fun s q =>
    (List.range (s.queue q).run.length).foldl (fun s i => s.settleRun q i) s) s
  t.judgeTag (s.islet n) n

/-! ### The head of a queue -/

/-- Some finished command of the queue will halt it. -/
def haltPending (k : Queue) : Bool := k.run.any (fun r => r.phase == .done && (haltsQueue r.status || r.halts))

/-- The entry at the front of a queue is at its head (R114, R174, R193): an MV queue holds transfers in flight; on an MX or VX
queue the commands before it have made their last access; on a control ring the one before it has posted its completion. -/
def headFree (q : Nat) (k : Queue) : Bool :=
  match qKind q with
  | .mv => true
  | .mx => k.run.all (fun r => r.phase == .done)
  | .vx => k.run.all (fun r => r.phase == .done)
  | .tenant => k.run.isEmpty
  | .operator => k.run.isEmpty

/-- A command at the head whose header fails becomes a finished MALFORMED command (R174). -/
def State.headArrive (s : State) (q : Nat) : State :=
  let k := s.queue q
  match k.entries with
  | [] => s
  | e :: rest =>
    if k.headOk || k.halted || k.discarding || haltPending k || !headFree q k then s
    else
      let winOpen : Nat → Bool := fun w => match s.queueOwner q with
        | some p => (s.win p w).isOpen
        | none => false
      match headCheck (qKind q) winOpen e with
      | some m =>
        (s.setQueue q { k with entries := rest,
                               run := k.run ++ [{ entry := e, start := s.time, phase := .done,
                                                  status := stMalformed, info := malformedInfo m }] }).fetchMore q
      | none => (s.setQueue q { k with headOk := true, passed := false, headTime := s.time }).evalHead q

/-! ### The end of a command's work (R95 to R98) -/

/-- Did the command finish its work, so that its set points are reached (R98). -/
def reachesSetPoints (status : BitVec 8) : Bool := status == stDone || status == stNanTrap

/-- The set points that a command has reached which ends without completing its work (R95, R98): squares that it has written
whole, and squares of which it has made its last read and that nobody holds. -/
def State.reachedSoFar (s : State) (n : Nat) (r : Run) (isl : Islet) : Islet :=
  let isl := (r.claims.filter (fun w => w.mode == .writeFill && r.wroteSq.contains w.square)).foldl
    (fun (x : Islet) w => x.setTag w.square true) isl
  (r.claims.filter (fun w => w.mode == .readTake && r.readSq.contains w.square && !s.isHeld n w.square)).foldl
    (fun (x : Islet) w => x.setTag w.square false) isl

/-- The work of a started command has ended with this result: holds end, fills and takes reach their set
points, or the claims are released (R95 to R98). `busy` keeps it until something else has happened. -/
def State.endWork (s : State) (q i : Nat) (r : Run) (busy : Bool) : State :=
  let n := q / 3
  let r := { r with holds := [], waits := [], phase := if busy then .busy else .done }
  if 48 ≤ q then s.setRun q i r
  else
    let isl := s.islet n
    let s := if reachesSetPoints r.status then
        let fills := r.claims.filter (fun w => w.mode == .writeFill)
        let x := fills.foldl (fun (x : Islet) w => x.setTag w.square true) isl
        (s.setIslet n (x.unclaim fills)).setRun q i { r with claims := r.claims.filter (fun w => w.mode != .writeFill) }
      else
        let x := (s.setRun q i r).reachedSoFar n r isl
        (s.setIslet n (x.unclaim r.claims)).setRun q i { r with claims := [] }
    (((s.judgeTag isl n).settleIslet n).reevaluate).headArrive q

/-- End a started command's work with a status and INFO. -/
def State.finish (s : State) (q i : Nat) (status : BitVec 8) (info : Nat) : State :=
  match s.runAt q i with
  | none => s
  | some r => s.endWork q i { r with status := status, info := BitVec.ofNat 64 info } false

/-! ### Starting -/

/-- The head entry leaves the prefetch buffer and becomes a started command. -/
def State.popHead (s : State) (q : Nat) (r : Run) : State :=
  let k := s.queue q
  (s.setQueue q { k with entries := k.entries.drop 1, headOk := false, passed := false, run := k.run ++ [r] }).fetchMore q

/-- The Goose runs commands (R193, R374, R429): READY, and not preparing AON low power. -/
def State.gooseUp (s : State) : Bool := s.mgt.stage == .ready && !s.power.aonLp && s.on 34

/-- Conditions on the place where queue `q`'s command would run (R18, R113, R192, R193, R420, R474). -/
def State.slotFree (s : State) (q : Nat) (op : Nat) : Bool :=
  let k := s.queue q
  match qKind q with
  | .mv =>
    let n := q / 3
    let i := s.islet n
    (s.isletOwner n).isSome && s.on n && !i.quiesce && !i.testing
      && decide (k.run.length < 8) && (decide (6 ≤ op) || k.run.isEmpty)
      && !k.run.any (fun r => decide (eOpcode r.entry < 6))
  | .tenant => s.gooseUp && k.run.isEmpty
  | .operator => (s.gooseUp || s.mgt.stage == .recovery) && k.run.isEmpty
  | _ =>
    let n := q / 3
    let i := s.islet n
    (s.isletOwner n).isSome && s.on n && !i.quiesce && !i.testing && k.run.all (fun r => r.phase == .done)

/-- The command at the head of `q` may start (R113, R175, R195, R220). -/
def State.canStart (s : State) (q : Nat) : Bool :=
  let k := s.queue q
  match k.entries with
  | [] => false
  | e :: _ =>
    k.enable && !s.icpHeld q && !k.halted && !k.discarding && k.headOk && k.passed && !haltPending k && !s.underHalt q && !s.ringHeld q
      && s.slotFree q (eOpcode e)

/-- The ring that the Goose starts next: round robin from 48 to 64 after the one it served last (R194). -/
def State.gooseNext (s : State) : Option Nat :=
  ((List.range 17).map (fun j => 48 + (s.lastRing - 48 + 1 + j) % 17)).find? s.canStart

/-- R166 check 1: the detail, or none. -/
def State.gatherDesc (s : State) (e : List Byte) : Option Nat :=
  let owner := leAt e 44 1 % 64
  if !s.mgt.machineMode || owner = s.die || !s.mgt.machineMask.getLsbD owner then some 44
  else match placeOf (mvDst e) with
    | .remote d _ => if d = s.die then none else some 32
    | _ => some 32

/-- Checks 1 to 5 with the device state that MV_GATHER_REQ adds (R142, R166). -/
def State.startChecks (s : State) (q : Nat) (tds : Table TDesc) (free : BitVec 1024) (e : List Byte) : Option Malformed :=
  match faultChecks (qKind q) tds free e with
  | some m => some m
  | none => if eOpcode e = 0x63 then (s.gatherDesc e).map (fun o => (subDesc, o)) else none

/-- What a transfer keeps of its start: the key of the grant it started against (R317), or the window a
gather is bound for (R166). -/
def State.startKeys (s : State) (q : Nat) (e : List Byte) : List Nat :=
  let n := q / 3
  let p := (s.isletOwner n).getD 0
  let op := eOpcode e
  if op = 0x60 ∨ op = 0x61 then
    match s.mvDestOf p n e with
    | .window d runs => ((s.grantFor p d runs (mvLength e)).map (fun g => [g])).getD []
    | _ => []
  else if op = 0x63 then
    match placeOf (mvDst e) with
    | .remote _ r => ((s.gatherWindow p (leAt e 44 1 % 64) (remoteTarget r) (mvLength e)).map (fun w => [w])).getD []
    | _ => []
  else []

/-- The effects of a start on the objects the command reserves: grants (R317), sealed squares (R103), host
reads (R251) and the bytes of a gather into a BINDING_SET window (R317). -/
def State.reserve (s : State) (q : Nat) (tds : Table TDesc) (e : List Byte) : State :=
  let n := q / 3
  let p := (s.isletOwner n).getD 0
  let op := eOpcode e
  let s := match s.startKeys q e with
    | [] => s
    | g :: _ =>
      if op = 0x63 then
        let x := s.win p g
        s.setWin p g { x with committed := if x.binding then x.committed + BitVec.ofNat 48 (mvLength e) else x.committed }
      else
        let x : Grant := Table.get {} s.grants g
        { s with grants := Table.set {} s.grants g { x with started := x.started + mvLength e } }
  let s := if s.frozenSource e then
      (s.destSquares p n tds e).foldl (fun s d =>
        s.setIslet d.1 { s.islet d.1 with sealed := setBit (s.islet d.1).sealed d.2 true }) s
    else s
  if qKind q = .mv then s else (hostReads tds e).foldl (fun s u => s.toHost q (.hostRead (s.apertureFn p) u.1 u.2)) s

/-- A transfer reads HBM or host memory: a volatile read (R237). -/
def Run.readsMemory (r : Run) : Bool := (eOpcode r.entry == 0x60 && !mvSrcSp r.entry) || eOpcode r.entry == 0x62

/-- Two transfers read a square of the scratchpad in common. -/
def Run.readsWith (a b : Run) : Bool :=
  mvSrcSp a.entry && mvSrcSp b.entry
    && (refAt a.tds a.entry 24 true false).squares.any (fun q => (refAt b.tds b.entry 24 true false).squares.contains q)

/-- The reads of the `i`-th transfer of a Move queue may be made: no earlier transfer of the queue has still to make a volatile read,
where this one makes one (R239), or a read of a square that this one reads (R233). -/
def State.mayRead (s : State) (q i : Nat) (r : Run) : Bool :=
  (List.range i).all (fun j => match s.runAt q j with
    | some x => !(x.phase == .started && ((x.readsMemory && r.readsMemory) || x.readsWith r))
    | none => true)

/-- Issue the host reads of the transfers of a Move queue that may now be made (R115, R239, R251). -/
def State.askReads (s : State) (q : Nat) : State :=
  (List.range (s.queue q).run.length).foldl (fun s i =>
    match s.runAt q i with
    | none => s
    | some r =>
      if r.phase == .started && !r.asked && r.waits.isEmpty && s.mayRead q i r then
        (hostReads r.tds r.entry).foldl (fun s u => s.toHost q (.hostRead (s.apertureFn ((s.isletOwner (q / 3)).getD 0)) u.1 u.2))
          (s.setRun q i { r with asked := true })
      else s) s

/-- Start the engine command at the head of `q` (R113, R142). -/
def State.startEngine (s : State) (q : Nat) (e : List Byte) : State :=
  let n := q / 3
  let i := s.islet n
  let r : Run := { entry := e, start := s.time, phase := .started, tds := i.tds, free := i.free,
                   trapEn := (s.num q).trapEn, waitAt := s.time }
  let s := if eWaitKind e ≠ 0 ∧ qKind q = .vx then s.applyAllInvs n else s
  let s := s.setIslet n { s.islet n with stallTold := false }
  match s.startChecks q i.tds i.free e with
  | some m => s.popHead q { r with phase := .done, status := stMalformed, info := malformedInfo m }
  | none =>
    match s.rightsCheck ((s.isletOwner n).getD 0) n i.tds e with
    | some reason =>
      (s.refuse 3 (s.isletOwner n) q reason (eSeq e) 0).popHead q { r with phase := .refused }
    | none =>
      (s.reserve q i.tds e).popHead q { r with waits := waitPoints i.tds i.free e, aux := s.startKeys q e }

/-- Issue what host reads a Move queue may now make. -/
def State.askMoves (s : State) (q : Nat) : State := if qKind q = .mv then s.askReads q else s

/-- COMMAND_START (R113, R193): the head starts where it may. A management command's own checks are made by
its row; in RECOVERY the ROM knows three opcodes (R355). -/
def execCommandStart (q : Nat) (s : State) : Outcome :=
  if !s.canStart q then stutter s
  else
    match (s.queue q).entries with
    | [] => stutter s
    | e :: _ =>
      if q < 48 then .next (((s.startEngine q e).headArrive q).askMoves q)
      else if s.gooseNext = some q then
        let s := s.popHead q { entry := e, start := s.time, phase := .started, waitAt := s.time }
        let s := if s.mgt.stage = .recovery ∧ !([0, 0x95, 0x96].contains (eOpcode e)) then s.finish q 0 stNotReady 0
          else if eOpcode e < 6 then
            match commonDesc (qKind q) e with
            | some o => s.finish q 0 stMalformed (malformedInfo (subDesc, o)).toNat
            | none => s
          else s
        .next { s with lastRing := q }
      else stutter s

/-! ### Wait points (R95 to R97) -/

/-- May a wait point be passed now. -/
def State.waitPassable (s : State) (n : Nat) (w : WaitPoint) : Bool :=
  let i := s.islet n
  match w.mode with
  | .writeFill => !i.tagFull w.square && !i.isClaimed w.square
  | _ => i.tagFull w.square && !i.isClaimed w.square

/-- Pass the next wait point of the `i`-th started command of `q`. -/
def State.passWait (s : State) (q i : Nat) : State :=
  let n := q / 3
  match s.runAt q i with
  | none => s
  | some r =>
    match r.waits with
    | [] => s
    | w :: rest =>
      if !(r.phase == .started) || !s.waitPassable n w
          || (qKind q == .mv && (List.range i).any (fun j => match s.runAt q j with
                | some x => x.phase == .started && !x.waits.isEmpty
                | none => false)) then s
      else
        let s := if qKind q = .vx then s.applyAllInvs n else s
        let isl := s.islet n
        let isl := { isl with stallTold := false }
        if w.mode == .readKeep then
          (s.setIslet n isl).setRun q i { r with waits := rest, holds := w.square :: r.holds, waitAt := s.time }
        else
          (s.setIslet n { isl with claimed := setBit isl.claimed w.square true }).setRun q i
            { r with waits := rest, claims := r.claims ++ [w], waitAt := s.time }

/-- TAG_WAIT_POINT: pass the next wait point if the tag and the claim allow it. -/
def execTagWaitPoint (q i : Nat) (s : State) : Outcome := .next (if q < 48 then (s.passWait q i).askMoves q else s)

/-! ### Completion (R139, R182, R185, R195) -/

/-- The effects of a finished command are visible: the store buffer has drained, flags are collected and
the signal is applied where it completed DONE (R182, R185, R246). -/
def State.settleEffects (s : State) (q i : Nat) : State :=
  match s.runAt q i with
  | none => s
  | some r =>
    if r.signalled then s
    else
      let s := if qKind q = .vx then s.drainStores (q / 3) else s
      let s := s.numComplete q r
      let s := s.setRun q i { r with signalled := true }
      if r.status = stDone ∧ eOpcode r.entry ≠ 0x83 then s.signal q r.entry else s

/-- The completion of a run. -/
def completionOf (q : Nat) (r : Run) (status : BitVec 8) (info : BitVec 64) : Completion :=
  { queue := q, seq := eSeq r.entry, status := status, info := info, irq := eIrq r.entry }

/-- Post the ABORTED completions that stand at the front of a queue (R140). -/
def State.postAborted (q : Nat) : Nat → State → State
  | 0, s => s
  | fuel + 1, s =>
    match (s.queue q).run with
    | [] => s
    | r :: rest =>
      if r.phase == .done && r.status == stAborted && r.claims.isEmpty then
        State.postAborted q fuel ((s.setQueue q { s.queue q with run := rest, idleAt := s.time }).postCompletion
          (completionOf q r stAborted 0))
      else s

/-- Stop every command still in flight on a queue that has halted (R140): each completes ABORTED in queue order, those behind
one whose bytes on the way to another die are not all counted once they are (R185). -/
def State.abortRest (s : State) (q : Nat) : State :=
  State.postAborted q (s.queue q).run.length (s.stopFrom q 0 stAborted)

/-- Post the completion of the oldest started command, and halt the queue where its status does (R195). -/
def State.postFront (s : State) (q : Nat) : State :=
  match (s.queue q).run with
  | [] => s
  | r :: rest =>
    let s := s.setQueue q { s.queue q with run := rest, idleAt := s.time }
    let s := if r.status = stNanTrap then
        match r.trap with
        | some (index, offset) =>
          s.raiseEvent (s.queueEvent q) 0x0201 q (eSeq r.entry) (leBytes 4 index ++ leBytes 4 offset)
        | none => s
      else s
    let s := s.postCompletion (completionOf q r r.status r.info)
    if haltsQueue r.status || r.halts then
      let s := s.recordHalt q r.status (eSeq r.entry)
      let s := s.abortRest q
      let s := if q < 48 then (s.settleIslet (q / 3)).reevaluate else s
      s.haltEvent q r.status.toNat (eSeq r.entry) 0
    else s.headArrive q

/-- The lines of an Islet's store buffer can drain: their slices and stacks are ON (R274). -/
def State.storesReady (s : State) (n : Nat) : Bool := (Table.keys (s.islet n).storeBuf).all s.hbmReady

/-- Complete the `i`-th started command: its effects first, and its completion when it is the oldest. On an MX or VX queue the
effects of earlier commands come first (R182), and the stores of a Vector engine wait for their stack (R274). Host writes of the queue have been passed on
by the machine lead (R185, R250). A frozen ICP completes nothing (R331). -/
def State.complete (s : State) (q i : Nat) : State :=
  match s.runAt q i with
  | none => s
  | some r =>
    if !s.icpHeld q && r.phase == .done && r.claims.isEmpty && (i == 0 || qKind q == .mv) && (qKind q != .vx || s.storesReady (q / 3)) && s.passedOn q then
      let s := s.settleEffects q i
      if i = 0 then s.postFront q else s
    else s

/-- COMPLETION_POST (R220): a completion that waits for ring `c` is written once there is room. -/
def execCompletionPost (c : Nat) (s : State) : Outcome :=
  .next ((s.postWaiting c).reportFull c)

/-- WAIT_TIMEOUT (R188): the condition of the WAIT at the head is evaluated once more; where it does not
hold the WAIT completes STALL_TIMEOUT and the queue halts. -/
def execWaitTimeout (q : Nat) (s : State) : Outcome :=
  let k := s.queue q
  match k.entries with
  | [] => stutter s
  | e :: _ =>
    let t := leAt e 24 4
    if !k.headOk || k.passed || eOpcode e != 2 || t == 0 || k.halted then stutter s
    else
      let s := s.advanceTo (k.headTime + t * 100)
      if s.waitHolds q e then .next (s.setQueue q { k with passed := true })
      else
        let s := s.popHead q { entry := e, start := s.time, phase := .done, status := stStallTimeout }
        .next (s.complete q (k.run.length))

/-! ### Windows that close under a wait (R179) -/

/-- End the wait of a head on window `w` of partition `p`, which has just closed: it passes if the final
count satisfies it, else the command completes ABORTED and the queue halts. -/
def State.settleWindowWait (p w : Nat) (s : State) (q : Nat) : State :=
  let k := s.queue q
  match k.entries with
  | [] => s
  | e :: _ =>
    if !k.headOk || k.passed || eWaitKind e != 2 || decide (opWindow (eWaitOp e) ≠ w) || decide (s.queueOwner q ≠ some p) then s
    else if s.waitHolds q e then s.setQueue q { k with passed := true }
    else
      let s := s.popHead q { entry := e, start := s.time, phase := .done, status := stAborted, halts := true }
      s.complete q (k.run.length)

/-- Settle every wait on a window that has closed. -/
def State.settleWindowWaits (s : State) (p w : Nat) : State :=
  (s.queuesOf p).foldl (State.settleWindowWait p w) s

/-! ### Stalls (R109, R110) and ISL_QABORT (R477) -/

/-- The tag wait point at which a started command of queue `q` stands: square, and whether it waits for FULL. A TAG_SET waits
where the next square of its range is claimed; any other command where its next wait point cannot be passed. -/
def State.runTagWait (s : State) (q : Nat) (r : Run) : Option (Nat × Bool) :=
  let n := q / 3
  if r.phase != .started then none
  else if eOpcode r.entry = 4 then
    let v := leAt r.entry 24 4
    let sq := v % 1024 + r.steps * (if bit v 21 then 32 else 1)
    if decide (r.steps < bits v 20 10) && (s.islet n).isClaimed sq then some (sq, bit v 22) else none
  else match r.waits with
    | [] => none
    | w :: _ => if s.waitPassable n w then none else some (w.square, w.mode != .writeFill)

/-- Where an engine's oldest waiting command waits: index among the started commands (none for the head),
square, and whether it waits for FULL (R109). -/
def State.tagWaitOf (s : State) (q : Nat) : Option (Option Nat × Nat × Bool) :=
  let k := s.queue q
  let started := (List.range k.run.length).findSome? (fun i =>
    match k.run[i]? with
    | none => none
    | some r => (s.runTagWait q r).map (fun x => (some i, x.1, x.2)))
  match started with
  | some x => some x
  | none =>
    match k.entries with
    | [] => none
    | e :: _ =>
      if k.headOk && !k.passed && (eWaitKind e == 3 || eWaitKind e == 4) then
        some (none, opSquare (eWaitOp e), eWaitKind e == 3)
      else none

/-- An engine counts as stalled (R109); one that a full completion ring holds does not (R221). -/
def State.engineStalled (s : State) (q : Nat) : Bool :=
  let k := s.queue q
  !s.ringHeld q && ((s.tagWaitOf q).isSome || (k.run.isEmpty && k.entries.isEmpty))

/-- Since when a stalled engine has been stalled: since its command reached the wait point, or since it has had none. -/
def State.stalledSince (s : State) (q : Nat) : Nat :=
  let k := s.queue q
  match s.tagWaitOf q with
  | some (some i, _, _) => (match k.run[i]? with
      | some r => r.waitAt
      | none => 0)
  | some (none, _, _) => k.headTime
  | none => k.idleAt

/-- The 16 bits of one engine in ISL_STALL_SQ (R112). -/
def stallField (o : Option (Option Nat × Nat × Bool)) : Nat :=
  match o with
  | none => 0
  | some (_, sq, full) => sq + 1024 + b2n full * 2048

/-- The stall condition of R109 for Islet `n`; commands of an Islet that is not ON wait and do not stall (R424). -/
def State.isletStalled (s : State) (n : Nat) : Bool :=
  s.on n && [3 * n, 3 * n + 1, 3 * n + 2].all s.engineStalled && [3 * n, 3 * n + 1, 3 * n + 2].any (fun q => (s.tagWaitOf q).isSome)

/-- When the stall condition of Islet `n` began: when the last of its engines stalled, or the Islet came ON. -/
def State.stallBegan (s : State) (n : Nat) : Nat :=
  Nat.max (s.domain n).since (Nat.max (s.stalledSince (3 * n)) (Nat.max (s.stalledSince (3 * n + 1)) (s.stalledSince (3 * n + 2))))

/-- SQUARE_STALL (R109, R110): the condition has lasted unbroken for the limit now in force. -/
def execSquareStall (n : Nat) (s : State) : Outcome :=
  let i := s.islet n
  if 16 ≤ n ∨ i.stallTold ∨ !s.isletStalled n ∨ (s.isletOwner n).isNone then stutter s
  else
    let s := s.advanceTo (s.stallBegan n + i.stallLimit.toNat * 100)
    let w0 := stallField (s.tagWaitOf (3 * n)) + stallField (s.tagWaitOf (3 * n + 1)) * 2 ^ 16
    let w1 := stallField (s.tagWaitOf (3 * n + 2))
    let s := s.setIslet n { i with stall := true, stallCount := satInc i.stallCount, stallTold := true,
                                   stallSq0 := BitVec.ofNat 32 w0, stallSq1 := BitVec.ofNat 32 w1 }
    .next (s.raiseEvent ((s.isletOwner n).getD 16) 0x0202 noQueue 0 (leBytes 4 w0 ++ leBytes 4 w1 ++ leBytes 1 n))

/-- Abort the oldest command of `q` that waits at a tag wait point (R477): it completes ABORTED and its
queue halts. -/
def State.abortWaiting (s : State) (q : Nat) : State :=
  match s.tagWaitOf q with
  | none => s
  | some (some i, _, _) =>
    (match s.runAt q i with
      | none => s
      | some r => (s.endWork q i { r with status := stAborted, info := 0, halts := true } false).complete q i)
  | some (none, _, _) =>
    (match (s.queue q).entries with
      | [] => s
      | e :: _ =>
        let i := (s.queue q).run.length
        (s.popHead q { entry := e, start := s.time, phase := .done, status := stAborted, halts := true }).complete q i)

/-! ### Common commands (R187 to R192) -/

/-- The started common command of a queue with this opcode, if it is the one that has still to act. -/
def State.commonRun (s : State) (q op : Nat) : Option Run :=
  match s.runAt q (s.liveIdx q) with
  | none => none
  | some r => if r.phase == .started && eOpcode r.entry == op then some r else none

/-- NOP (R187): it only waits and signals as its header says. -/
def execNop (q : Nat) (s : State) : Outcome :=
  .next (if (s.commonRun q 0).isSome then s.finish q (s.liveIdx q) stDone 0 else s)

/-- SIGNAL (R187). -/
def execSignal (q : Nat) (s : State) : Outcome :=
  .next (if (s.commonRun q 1).isSome then s.finish q (s.liveIdx q) stDone 0 else s)

/-- WAIT (R188), once its condition has passed. -/
def execWait (q : Nat) (s : State) : Outcome :=
  .next (if (s.commonRun q 2).isSome then s.finish q (s.liveIdx q) stDone 0 else s)

/-- FENCE (R189, R242, R243): a release on any queue of an Islet drains its Vector engine's store buffer; an acquire on the VX
queue applies the invalidations pending in its cache. A release at SYSTEM scope waits until the machine lead has passed the queue's host writes on
(R250). -/
def execFence (q : Nat) (s : State) : Outcome :=
  match s.commonRun q 3 with
  | none => stutter s
  | some r =>
    let kind := bits (leAt r.entry 24 1) 3 2
    let n := q / 3
    if 2 ≤ kind ∧ (!s.storesReady n || (bits (leAt r.entry 24 1) 1 0 == 2 && !s.passedOn q)) then stutter s
    else
      let s := if 2 ≤ kind then s.drainStores n else s
      let s := if (kind = 1 ∨ kind = 3) ∧ qKind q = .vx then s.applyAllInvs n else s
      .next (s.finish q (s.liveIdx q) stDone 0)

/-- Visit the squares of a TAG_SET from the `j`-th on until one is claimed (R190): the Islet, the next
index and the number of tags changed. -/
def tagSetGo (first step cnt : Nat) (full : Bool) : Nat → Islet → Nat → Nat → Islet × Nat × Nat
  | 0, i, j, c => (i, j, c)
  | fuel + 1, i, j, c =>
    let sq := first + j * step
    if cnt ≤ j ∨ i.isClaimed sq then (i, j, c)
    else tagSetGo first step cnt full fuel (i.setTag sq full) (j + 1) (if i.tagFull sq = full then c else c + 1)

/-- TAG_SET (R190): sets tags in order, waiting where a square is claimed. `owed` counts the changes. -/
def execTagSet (q : Nat) (s : State) : Outcome :=
  match s.commonRun q 4 with
  | none => stutter s
  | some r =>
    let n := q / 3
    let v := leAt r.entry 24 4
    let cnt := bits v 20 10
    let (i, j, c) := tagSetGo (v % 1024) (if bit v 21 then 32 else 1) cnt (bit v 22) (cnt + 1) (s.islet n) r.steps r.owed
    let before := s.islet n
    -- passing a claim that has ended is passing a wait point (R110)
    let i := if r.steps < j then { i with stallTold := false } else i
    let s := ((s.setIslet n i).setRun q (s.liveIdx q)
      { r with steps := j, owed := c, waitAt := if r.steps < j then s.time else r.waitAt }).judgeTag before n
    .next ((if cnt ≤ j then s.finish q (s.liveIdx q) stDone c else s).reevaluate)

/-- TAG_CHECK (R190): counts the squares of the range whose tag differs from STATE. -/
def execTagCheck (q : Nat) (s : State) : Outcome :=
  match s.commonRun q 5 with
  | none => stutter s
  | some r =>
    let v := leAt r.entry 24 4
    let i := s.islet (q / 3)
    let sqs := (List.range (bits v 20 10)).map (fun j => v % 1024 + j * (if bit v 21 then 32 else 1))
    let bad := sqs.filter (fun k => i.tagFull k != bit v 22)
    .next (s.finish q (s.liveIdx q) stDone (bad.length + bad.headD 0 * 2 ^ 32))

end Sys2Proof.Machine
end

