-- ==== Sys2Proof/Machine/Engine.lean ====
section
/-!
DEFINITION. What the three engines share: reading an operand's bytes and codes, writing them, and ending a
command that meets poison or a failed host read (R107, R280, R526).
-/

namespace Sys2Proof.Machine

/-- Why the movement of bytes stopped: at a poisoned word or block (its INFO under R218), at a poisoned word of a scratchpad of
partition `part` behind a local window, at a failed host
read (host address and kind), or because an answer or a domain has still to come. -/
inductive Stop where
  | poison (info : Nat)
  | window (part info : Nat)
  | host (a kind : Nat)
  | wait
  deriving DecidableEq, Repr

/-- INFO of a poisoned scratchpad word (R218). -/
def spPoisonInfo (n off : Nat) : Nat := off % 2 ^ 22 + n * 2 ^ 24 + 2 ^ 63

/-- INFO of a poisoned block of partition `p`'s HBM (R218, R267). -/
def State.hbmPoisonInfo (s : State) (p a : Nat) : Nat := s.relAddr p a

/-- Post POISON_CONSUMED to a partition (R107, R280, R457). -/
def State.poisonEvent (s : State) (p q : Nat) (seq : Word) (info requester : Nat) : State :=
  s.raiseEvent p 0x0103 q seq (leBytes 8 info ++ leBytes 1 requester)

/-- The bytes of a host run that have been returned, up to the first missing one (R526). -/
def hostRun (r : Run) : Nat → Nat → List Byte × Option Stop
  | _, 0 => ([], none)
  | a, n + 1 =>
    match Table.get none r.hostBuf a with
    | none => ([], some (match r.hostErr with
        | some (x, k) => .host x k
        | none => .wait))
    | some b =>
      let (bs, st) := hostRun r (a + 1) n
      (b :: bs, st)

/-- The Lagoon and HBM are ON for every line of a run (R274): its first two and last two lines are tested,
which reach both slices of each stack it touches. -/
def State.runReady (s : State) (a n : Nat) : Bool :=
  n == 0 || (s.hbmReady a && s.hbmReady (Nat.min (a + 128) (a + n - 1)) && s.hbmReady (a + n - 1)
    && s.hbmReady (Nat.max a (a + n - 1 - 128)))

/-- Read a run of scratchpad bytes for a command that has read some squares early (R95): those as it read them. -/
def State.readSpLate (s : State) (n : Nat) (r : Run) : List (Nat × Nat) → ReadRes
  | [] => ⟨s, [], none⟩
  | u :: us =>
    if r.readSq.contains (squareOf u.1) then
      let y := State.readSpLate s n r us
      ⟨y.s, Memory.bytes r.early u.1 u.2 ++ y.bytes, y.bad⟩
    else
      let x := s.readSp n u.1 u.2
      match x.bad with
      | some b => ⟨x.s, x.bytes, some b⟩
      | none =>
        let y := State.readSpLate x.s n r us
        ⟨y.s, x.bytes ++ y.bytes, y.bad⟩

/-- Read a run of scratchpad bytes for a started command. -/
def State.readSpFor (s : State) (n : Nat) (r : Run) (a len : Nat) : ReadRes :=
  if r.readSq.isEmpty then s.readSp n a len else s.readSpLate n r (squarePieces [(a, len)])

/-- What a load gave. -/
structure Load where
  s    : State
  data : List Byte
  stop : Option Stop

/-- Load one run for Islet `n` of partition `p`: from its scratchpad, or from a device address along the path
of a Vector (`vx`) or Move engine. -/
def State.loadRun (s : State) (p n : Nat) (vx : Bool) (r : Run) (mem : Bool) (a len : Nat) : Load :=
  if !mem then
    let x := s.readSpFor n r a len
    ⟨x.s, x.bytes, x.bad.map (fun o => .poison (spPoisonInfo n o))⟩
  else
    let hbm : HbmPath → Nat → Load := fun path y =>
      if !s.runReady y len then ⟨s, [], some .wait⟩
      else
        let x := s.readHbm path y len
        ⟨x.s.perfAdd p 4 x.bytes.length, x.bytes, x.bad.map (fun b => .poison (s.hbmPoisonInfo p b))⟩
    match placeRun a len with
    | .hbm y => hbm (if vx then .cache n else .lagoon) y
    | .alias_ y => hbm (if vx then .volatile n else .lagoon) y
    | .host y =>
      let (bs, st) := hostRun r y len
      ⟨s, bs, st⟩
    | _ => ⟨s, [], some .wait⟩

/-- What a load of several runs gave: the bytes of each. -/
structure Loads where
  s    : State
  rows : List (List Byte)
  stop : Option Stop

/-- The squares of an operand of which a load has read every byte of the operand (R95). -/
def Loads.whole (l : Loads) (x : Ref) : List Nat := if x.td.mem then [] else wholeSquares x.runs l.rows.flatten.length

/-- Load runs in order, stopping at the first that stops; the part it gave is kept. -/
def loadRuns (p n : Nat) (vx : Bool) (r : Run) (mem : Bool) : List (Nat × Nat) → State → Loads
  | [], s => ⟨s, [], none⟩
  | u :: us, s =>
    let x := s.loadRun p n vx r mem u.1 u.2
    match x.stop with
    | some st => ⟨x.s, [x.data], some st⟩
    | none =>
      let y := loadRuns p n vx r mem us x.s
      ⟨y.s, x.data :: y.rows, y.stop⟩

/-- Load a Matrix or Vector operand. -/
def State.loadRef (s : State) (p n : Nat) (r : Run) (x : Ref) : Loads :=
  loadRuns p n true r x.td.mem x.runs s

/-- What a store did: the state, the bytes it wrote, and why it stopped. -/
structure Store where
  s    : State
  sent : Nat
  stop : Option Stop

/-- A Vector engine's write through the volatile alias (R114, R239): what its store buffer still holds of the lines goes first, and
the invalidations of its own copies are applied at once, so that its later reads see the write. -/
def State.writeAlias (s : State) (n a : Nat) (bytes : List Byte) : WriteRes :=
  let lines := (List.range ((a + bytes.length + 127) / 128 - a / 128)).map (fun k => a / 128 + k)
  let x := (lines.foldl (fun s l => s.drainLine n l) s).writeHbm a bytes
  ⟨lines.foldl (fun s l => s.applyInv n l) x.s, x.bad⟩

/-- Store one run of a Vector or Move engine; host writes are posted in order (R248). -/
def State.storeRun (s : State) (p n : Nat) (vx : Bool) (mem : Bool) (a : Nat) (bytes : List Byte) : Store :=
  if !mem then
    let x := s.writeSp n a bytes
    ⟨x.s, (x.bad.map (fun o => o - a)).getD bytes.length, x.bad.map (fun o => .poison (spPoisonInfo n o))⟩
  else
    let done : Nat → WriteRes → Store := fun y x =>
      ⟨x.s.perfAdd p 5 bytes.length, (x.bad.map (fun b => b - y)).getD bytes.length, x.bad.map (fun b => .poison (s.hbmPoisonInfo p b))⟩
    match placeRun a bytes.length with
    | .hbm y => if !s.runReady y bytes.length then ⟨s, 0, some .wait⟩
                else done y (if vx then s.storeHbm n y bytes else s.writeHbm y bytes)
    | .alias_ y => if !s.runReady y bytes.length then ⟨s, 0, some .wait⟩
                   else done y (if vx then s.writeAlias n y bytes else s.writeHbm y bytes)
    | .host y => if s.ideWaits (some p) then ⟨s, 0, some .wait⟩
                 else ⟨s.toHost (if vx then 3 * n + 1 else 3 * n + 2) (.hostWrite (s.apertureFn p) y bytes), bytes.length, none⟩
    | _ => ⟨s, 0, some .wait⟩

/-- Store runs in order, stopping at the first that stops. -/
def storeRuns (p n : Nat) (vx : Bool) (mem : Bool) : List (Nat × List Byte) → State → Store
  | [], s => ⟨s, 0, none⟩
  | u :: us, s =>
    let x := s.storeRun p n vx mem u.1 u.2
    match x.stop with
    | some st => ⟨x.s, x.sent, some st⟩
    | none =>
      let y := storeRuns p n vx mem us x.s
      ⟨y.s, x.sent + y.sent, y.stop⟩

/-! ### Codes and values of an operand -/

/-- The codes of a packed row of `cols` elements. -/
def rowCodes (f cols : Nat) (row : List Byte) : List Nat := (List.range cols).map (codeAt f row)

/-- Pack codes as a stored row (R59, R60). -/
def packCodes (f : Nat) (codes : List Nat) : List Byte :=
  leBytes (storedBytes f codes.length) (codes.zipIdx.foldl (fun a c => a + c.1 * 2 ^ elemBit f c.2) 0)

/-- Transpose rows of `cols` elements. -/
def transposeRows {α : Type} (cols : Nat) (rows : List (List α)) (d : α) : List (List α) :=
  (List.range cols).map (fun c => rows.map (fun r => r.getD c d))

/-- The logical rows of codes of an operand that is not block-packed (R120). -/
def Ref.logical (x : Ref) (rows : List (List Byte)) : List (List Nat) :=
  let st := rows.map (rowCodes x.fmt x.sCols)
  if x.o.trans then transposeRows x.sCols st 0 else st

/-- The logical rows of values. -/
def Ref.values (x : Ref) (rows : List (List Byte)) : List (List Val) :=
  (x.logical rows).map (fun r => r.map (decodeVal x.fmt x.o.signed))

/-- A PAIR32 code as a pair (R59). -/
def pairOf (c : Nat) : Pair32 := ⟨decodeVal fmtFP32 true (c % 2 ^ 32), decodeVal fmtFP32 true (c / 2 ^ 32)⟩

/-- The code of a pair of FP32 codes. -/
def pairCode (hi lo : Nat) : Nat := hi + lo * 2 ^ 32

/-- The stored runs of logical rows of codes. -/
def Ref.storedRuns (x : Ref) (codes : List (List Nat)) : List (Nat × List Byte) :=
  let st := if x.o.trans then transposeRows x.sCols codes 0 else codes
  st.zipIdx.map (fun r => (x.runAddr r.2, packCodes x.fmt r.1))

/-! ### Endings -/

/-- End a command that was stopped: POISON with its event, or HOST_FAULT (R107, R280, R526). A command that
has to wait stays as it was. -/
def State.endStopped (before : State) (s : State) (q i : Nat) (r : Run) (st : Stop) : State :=
  match st with
  | .wait => before
  | .poison info =>
    let s := s.poisonEvent ((s.queueOwner q).getD 0) q (eSeq r.entry) info 0xFF
    s.endWork q i { r with status := stPoison, info := BitVec.ofNat 64 info } false
  | .window part info =>
    let s := s.poisonEvent part q (eSeq r.entry) info 0xFF
    s.endWork q i { r with status := stPoison, info := BitVec.ofNat 64 info } false
  | .host a k =>
    s.endWork q i { r with status := stHostFault, info := BitVec.ofNat 64 (a % 2 ^ 48 + k * 2 ^ 48) } false

/-- The first `n` bytes of runs. -/
def takeRuns : List (Nat × Nat) → Nat → List (Nat × Nat)
  | [], _ => []
  | u :: t, n => if n = 0 then [] else (u.1, Nat.min u.2 n) :: takeRuns t (n - Nat.min u.2 n)

/-- Squares fully written from data that was not read from a sealed square or a frozen region are
unsealed (R103). -/
def State.unseal (s : State) (n : Nat) (runs : List (Nat × Nat)) (fromSealed : Bool) : State :=
  if fromSealed then s
  else
    let i := s.islet n
    let sq := (List.range 1024).filter (fun k => i.sealed.getLsbD k && coversSquare runs k)
    s.setIslet n { i with sealed := sq.foldl (fun m k => setBit m k false) i.sealed }

/-- Is any square that the command reads sealed. -/
def State.readsSealed (s : State) (n : Nat) (refs : List Ref) : Bool :=
  refs.any (fun r => r.reads && r.squares.any (fun k => (s.islet n).sealed.getLsbD k))

/-- The computed results of a command: codes, flags, and the produced NaN of lowest index. -/
structure Result where
  codes : List (List Nat)
  flags : FpFlags
  trap  : Option (Nat × Nat)

/-- Status and INFO of a command that has written its results (R82, R218). -/
def trapStatus (r : Run) (trap : Option (Nat × Nat)) : BitVec 8 × BitVec 64 :=
  match trap with
  | some (index, offset) => if r.trapEn then (stNanTrap, BitVec.ofNat 64 (index + offset * 2 ^ 32)) else (stDone, 0)
  | none => (stDone, 0)

/-- Squares of the inputs that a command has read whole (R95): what a claim of it there, taken for reading, has waited for. -/
def Run.allRead (r : Run) : List Nat := (r.claims.filter (fun w => w.mode == .readTake)).map WaitPoint.square

/-- Write the outputs of a command in order: the state, the squares written whole, and why it stopped. -/
def storeAll (p n : Nat) : List (Bool × List (Nat × List Byte)) → State → State × List Nat × Option Stop
  | [], s => (s, [], none)
  | (mem, runs) :: t, s =>
    let w := storeRuns p n true mem runs s
    let whole := if mem then [] else wholeSquares (runs.map (fun u => (u.1, u.2.length))) w.sent
    match w.stop with
    | some st => (w.s, whole, some st)
    | none =>
      let y := storeAll p n t w.s
      (y.1, whole ++ y.2.1, y.2.2)

/-- Outputs as runs with whether each lies in memory. -/
def plainOuts (outs : List (Ref × List (Nat × List Byte))) : List (Bool × List (Nat × List Byte)) :=
  outs.map (fun o => (o.1.td.mem, o.2))

/-- The scratchpad runs that a command writes. -/
def spOuts (outs : List (Ref × List (Nat × List Byte))) : List (Nat × Nat) :=
  (outs.filter (fun o => !o.1.td.mem)).flatMap (fun o => o.1.runs)

/-- A command whose outputs are all written ends with the status its traps give, and unseals what it wrote whole. -/
def State.endOutputs (s : State) (q : Nat) (r : Run) (all : List (Nat × Nat)) (trap : Option (Nat × Nat)) (sealedRead : Bool) : State :=
  let (st, info) := trapStatus r trap
  (s.unseal (q / 3) all sealedRead).endWork q (s.liveIdx q) { r with status := st, info := info, trap := trap } false

/-- Cut runs of bytes at the rows of squares. -/
def cutPieces (runs : List (Nat × List Byte)) : List (Nat × List Byte) :=
  runs.flatMap (fun u => (squarePieces [(u.1, u.2.length)]).map (fun v => (v.1, slice u.2 (v.1 - u.1) v.2)))

/-- Write the results that a command still holds, where no wait point of the square lies ahead; a square of which nothing is left
to write reaches its set point, and the command ends once it holds nothing more (R95). -/
def State.writePending (s0 s : State) (q : Nat) (r : Run) (p : Pending) : State :=
  let n := q / 3
  let ahead : Nat → Bool := fun a => r.waits.any (fun w => w.square == squareOf a)
  let now := p.outs.map (fun o => (o.1, if o.1 then o.2 else (cutPieces o.2).filter (fun u => !ahead u.1)))
  let later := (p.outs.map (fun o => (o.1, if o.1 then [] else (cutPieces o.2).filter (fun u => ahead u.1)))).filter (fun o => !o.2.isEmpty)
  let w := storeAll ((s.isletOwner n).getD 0) n now s
  let r := { r with flags := p.flags }
  match w.2.2 with
  | some st => State.endStopped s0 w.1 q (s.liveIdx q) { r with pend := none, readSq := r.allRead, wroteSq := w.2.1 } st
  | none =>
    if later.isEmpty && r.waits.isEmpty then w.1.endOutputs q { r with pend := none } p.all p.trap p.hidden
    else
      let left := later.flatMap (fun o => o.2.map (fun u => squareOf u.1))
      let filled := r.claims.filter (fun c => c.mode == .writeFill && !left.contains c.square)
      let isl := filled.foldl (fun (x : Islet) c => x.setTag c.square true) (w.1.islet n)
      let t := (w.1.setIslet n (isl.unclaim filled)).setRun q (s.liveIdx q)
        { r with pend := some { p with outs := later }, holds := [], readSq := r.allRead,
                 claims := r.claims.filter (fun c => !filled.contains c) }
      ((t.judgeTag (w.1.islet n) n).settleIslet n).reevaluate

/-- Write a command's outputs and end its work with the status its traps give; where wait points of its outputs lie ahead, write
what can be written and keep the rest. -/
def State.writeOutputs (s0 : State) (s : State) (q : Nat) (r : Run) (outs : List (Ref × List (Nat × List Byte)))
    (flags : FpFlags) (trap : Option (Nat × Nat)) (sealedRead : Bool) : State :=
  if r.waits.isEmpty then
    let n := q / 3
    let r := { r with flags := flags }
    let w := storeAll ((s.isletOwner n).getD 0) n (plainOuts outs) s
    match w.2.2 with
    | some st => State.endStopped s0 w.1 q (s.liveIdx q) { r with readSq := r.allRead, wroteSq := w.2.1 } st
    | none => w.1.endOutputs q r (spOuts outs) trap sealedRead
  else State.writePending s0 s q r { outs := plainOuts outs, all := spOuts outs, flags := flags, trap := trap, hidden := sealedRead }

/-- Write a command's results through operand `z` and end its work. -/
def State.writeResult (s0 : State) (s : State) (q : Nat) (r : Run) (z : Ref) (x : Result) (sealedRead : Bool) : State :=
  State.writeOutputs s0 s q r [(z, z.storedRuns x.codes)] x.flags x.trap sealedRead

/-- Every wait point ahead of a command is one of its outputs: all that it reads lies behind. -/
def Run.readsPassed (r : Run) : Bool :=
  r.waits.all (fun w => ((refsOf r.tds r.entry).filter (fun x => x.reads)).all (fun x => !x.squares.contains w.square))

/-- The command of an MX or VX queue with this opcode that has still to read and compute, past the wait points of what it reads. -/
def State.engineRun (s : State) (q op : Nat) : Option Run :=
  match s.runAt q (s.liveIdx q) with
  | none => none
  | some r =>
    if r.phase == .started && eOpcode r.entry == op && r.pend.isNone && (r.waits.isEmpty || r.readsPassed) then some r else none

/-- Squares that a command may read now, while wait points of other inputs lie ahead: those whose wait point it has passed, which it
does not write and has not read yet. -/
def Run.readable (r : Run) : List Nat :=
  let refs := refsOf r.tds r.entry
  let ins := (refs.filter (fun x => x.reads && !x.writes)).flatMap Ref.squares
  (r.holds ++ r.allRead).filter (fun q =>
    ins.contains q && !r.readSq.contains q && (refs.filter (fun x => x.writes)).all (fun x => !x.squares.contains q))

/-- Read pieces of the scratchpad one after another. -/
def readPieces (n : Nat) : List (Nat × Nat) → State → Memory → State × Memory × Option Nat
  | [], s, m => (s, m, none)
  | u :: us, s, m =>
    let x := s.readSp n u.1 u.2
    match x.bad with
    | some b => (x.s, m, some b)
    | none => readPieces n us x.s (Memory.write m u.1 x.bytes)

/-- A command that waits at a wait point goes on with what lies before it (R95, R97): it reads the squares whose wait points it has
passed, which ends its holds there and brings its takes to their set points, or writes the results that it still holds. -/
def State.engineAhead (s : State) (q op : Nat) : State :=
  match s.runAt q (s.liveIdx q) with
  | none => s
  | some r =>
    if !(r.phase == .started) || eOpcode r.entry != op then s
    else match r.pend with
      | some p => State.writePending s s q r p
      | none =>
        let n := q / 3
        let now := r.readable
        if now.isEmpty then s
        else
          let runs := ((refsOf r.tds r.entry).filter (fun x => x.reads && !x.td.mem)).flatMap Ref.runs
          let x := readPieces n ((squarePieces runs).filter (fun u => now.contains (squareOf u.1))) s r.early
          match x.2.2 with
          | some b => State.endStopped s x.1 q (s.liveIdx q) r (.poison (spPoisonInfo n b))
          | none =>
            let t := x.1.setRun q (s.liveIdx q)
              { r with readSq := r.readSq ++ now, early := x.2.1, holds := r.holds.filter (fun h => !now.contains h) }
            (t.settleIslet n).reevaluate

/-- An output code is a NaN of its format; a pair is one where either half is (R82). -/
def isNanCode (f c : Nat) : Bool :=
  if isInt f then false
  else if f = fmtPAIR32 then (pairOf c).hi.isNan || (pairOf c).lo.isNan
  else (decodeVal f true c).isNan

end Sys2Proof.Machine
end

