-- ==== Sys2Proof/Machine/Manage.lean ====
section
/-!
DEFINITION. What the management commands share: their run on a control ring, their endings (R193, R219,
R384), their answers from host memory, and flits that the die sends of its own (R290, R291).
-/

namespace Sys2Proof.Machine

/-! ### Running and ending a management command (R193) -/

/-- The management command running on a ring, if it has this opcode and has not acted yet. -/
def State.mgmtRun (s : State) (q op : Nat) : Option Run :=
  match s.runAt q 0 with
  | none => none
  | some r => if r.phase == .started && eOpcode r.entry == op && decide (48 ≤ q) then some r else none

/-- The management command running on a ring, if it has this opcode and waits for something. -/
def State.mgmtBusy (s : State) (q op : Nat) : Option Run :=
  match s.runAt q 0 with
  | none => none
  | some r => if r.phase == .busy && eOpcode r.entry == op && decide (48 ≤ q) then some r else none

/-- The management command of queue `q` has begun something that another event ends; `aux` keeps what it
needs. -/
def State.mgmtWait (s : State) (q : Nat) (aux : List Nat) : State :=
  match s.runAt q 0 with
  | none => s
  | some r => s.setRun q 0 { r with phase := .busy, aux := aux }

/-- The management command of queue `q` ends with a status and INFO. -/
def State.mgmtEnd (s : State) (q : Nat) (status : BitVec 8) (info : Nat) : State :=
  match s.runAt q 0 with
  | none => s
  | some r => s.setRun q 0 { r with phase := .done, status := status, info := BitVec.ofNat 64 info }

/-- It ends DONE. -/
def State.mgmtDone (s : State) (q info : Nat) : State := s.mgmtEnd q stDone info

/-- It ends MALFORMED with a sub-code and detail (R218, R219). -/
def State.mgmtMal (s : State) (q sub detail : Nat) : State :=
  s.mgmtEnd q stMalformed (malformedInfo (sub, detail)).toNat

/-- It is refused: the sealed log and the tally now, the completion 16 µs after its start (R384). -/
def State.mgmtRefuse (s : State) (q reason : Nat) : State :=
  match s.runAt q 0 with
  | none => s
  | some r =>
    (s.refuse (masterNum .goose) (s.queueOwner q) q reason (eSeq r.entry) 0).setRun q 0 { r with phase := .refused }

/-- Run a management command: nothing happens unless it is the one running on the ring. -/
def mgmt (q op : Nat) (s : State) (f : Run → State) : Outcome :=
  match s.mgmtRun q op with
  | none => stutter s
  | some r => .next (f r)

/-- A check list: MALFORMED DESC at the least failing offset, or the rest. -/
def State.mgmtDesc (s : State) (q : Nat) (checks : List (Nat × Bool)) (f : State) : State :=
  match firstBad checks with
  | some o => s.mgmtMal q subDesc o
  | none => f

/-- The function that serves a control ring (R17, R193). -/
def ringOwnerFn (q : Nat) : Nat := if q = 64 then 0 else q - 47

/-- The partition of a tenant control ring. -/
def ringPart (q : Nat) : Nat := q - 48

/-- Bytes `[a, a+n)` of host memory that the running management command has been given, if all have come:
the bytes, or what it has to wait for. -/
def hostGot (r : Run) (a n : Nat) : Option (List Byte) :=
  match hostRun r a n with
  | (l, none) => some l
  | _ => none

/-! ### Randomness and derived keys (R349, R372) -/

/-- Bytes `[i, i+n)` are zero. -/
def zeroAt (l : List Byte) (i n : Nat) : Bool := leAt l i n == 0

/-- Conditioned TRNG output: `n` bytes, never given out again (R372). -/
def State.random (s : State) (n : Nat) : List Byte := (List.range n).map (fun k => Config.trngByte s.freeCtr k)

/-- The labels of the derived keys. -/
def textId : List Byte := [0x4F, 0x52, 0x53, 0x49, 0x41, 0x2D, 0x49, 0x44]
def textBind : List Byte := [0x4F, 0x52, 0x53, 0x49, 0x41, 0x2D, 0x42, 0x49, 0x4E, 0x44]
def textFwe : List Byte := [0x4F, 0x52, 0x53, 0x49, 0x41, 0x2D, 0x46, 0x57, 0x45]
def textFwr : List Byte := [0x4F, 0x52, 0x53, 0x49, 0x41, 0x2D, 0x46, 0x57, 0x52]

/-- A key of `n` bytes derived from the device seed (R349); the seed is taken big-endian (DEDUCED, log entry 82). -/
def State.derive (s : State) (label : List Byte) (n : Nat) : List Byte := kdf (beBytes 64 s.fuses.deviceSeed.toNat) label n

/-- The running firmware derives its keys and destroys the firmware encryption key (R349, R354). -/
def State.deriveKeys (s : State) : State :=
  { s with store := { s.store with identity := beBytes 48 (privateKey (s.derive textId 48)),
                                   binding := beBytes 48 (privateKey (s.derive textBind 48)),
                                   region := s.derive textFwr 64, firmware := [] } }

/-- The security version that a thermometer code names (R347). -/
def thermometer (v : BitVec 64) : Nat := ((List.range 64).filter (fun k => v.getLsbD k)).length

/-- The window that a waiting WINDOW_OPEN opens (R316). -/
def openedWindow (e : List Byte) : Window :=
  { isOpen := true, binding := false, scratch := bit (leAt e 25 1) 1, srcDie := BitVec.ofNat 6 (leAt e 26 1),
    srcPart := BitVec.ofNat 4 (leAt e 27 1), base := BitVec.ofNat 48 (leAt e 32 6), size := BitVec.ofNat 48 (leAt e 40 6),
    limit := BitVec.ofNat 48 (leAt e 48 6) }

/-- The window as it is, or as the WINDOW_OPEN that waits for its grant opens it: its squares are kept free-running meanwhile (R102;
DESIGN CHOICE, log entry 78). -/
def State.opened (s : State) (p w : Nat) : Window :=
  match s.mgmtBusy (48 + p) 0x8C with
  | some r => if r.aux.head? = some w then openedWindow r.entry else s.win p w
  | none => s.win p w

end Sys2Proof.Machine
end

