-- ==== Sys2Proof/Machine/Gpio.lean ====
section
/-!
DEFINITION. Pins and the crossbar (18), and the tray's fans (02): levels and edges, interrupts, owners, what
each pin drives, the function units.
-/

namespace Sys2Proof.Machine

/-! ### Owners (R481, R482) -/

def ownHost : BitVec 8 := 0
def ownGoose : BitVec 8 := 1

/-- On whose behalf a pin register is written (R481). -/
inductive Writer where
  | host
  | goose
  | part (p : Nat)
  | nobody
  deriving DecidableEq, Repr

/-- The writer owns pin `k`. -/
def State.ownsPin (s : State) (w : Writer) (k : Nat) : Bool :=
  let o := (s.pin k).owner
  match w with
  | .host => o == ownHost
  | .goose => o == ownGoose || (decide (0x10 ≤ o.toNat) && (s.isletOwner (o.toNat - 0x10)).isNone)
  | .part p => decide (0x10 ≤ o.toNat) && decide (s.isletOwner (o.toNat - 0x10) = some p)
  | .nobody => false

/-- The pins of a mask that the writer owns. -/
def State.ownedPins (s : State) (w : Writer) : BitVec 24 :=
  (List.range 24).foldl (fun m k => setBit m k (s.ownsPin w k)) 0

/-- The partition whose event ring hears of pin `k`, or the operator (R496). A pin of an Islet that no
partition owns reports to the operator (DEDUCED, log entry 24). -/
def State.pinRing (s : State) (k : Nat) : Nat :=
  let o := (s.pin k).owner.toNat
  if o < 0x10 then 16 else (s.isletOwner (o - 0x10)).getD 16

/-- The registers and bits of pin `k` are held where they can be reached (R498). -/
def State.pinAlive (s : State) (k : Nat) : Bool := decide (k < 8) || s.on 32

/-! ### Edges and interrupts (R494 to R497) -/

/-- PENDING of a pin (R495). -/
def State.pinPending (s : State) (k : Nat) : Bool :=
  let g := s.gpio
  match (s.pin k).irq.toNat with
  | 1 => g.rise.getLsbD k
  | 2 => g.fall.getLsbD k
  | 3 => g.rise.getLsbD k || g.fall.getLsbD k
  | 4 => g.level.getLsbD k
  | 5 => !g.level.getLsbD k
  | _ => false

/-- PENDING of a configured pin. -/
def State.livePending (s : State) (k : Nat) : Bool := (s.pin k).configured && s.pinPending k

/-- GPIO_ECNT_k. -/
def Pin.ecnt (p : Pin) : Nat := p.riseCount.toNat + 0x10000 * p.fallCount.toNat

/-- Cause byte of GPIO_EDGE (R496): with both edges latched in mode BOTH it is not stated which (DESIGN CHOICE, log entry 3). -/
def State.edgeCause (s : State) (k : Nat) : Nat × State :=
  let g := s.gpio
  match (s.pin k).irq.toNat with
  | 1 => (1, s)
  | 2 => (2, s)
  | 3 =>
    if g.rise.getLsbD k && g.fall.getLsbD k then (1 + (s.freeValue 1).toNat, s.freeTaken)
    else (if g.rise.getLsbD k then 1 else 2, s)
  | _ => (3, s)

/-- After a change: raise GPIO_EDGE where PENDING of a configured pin went from 0 to 1, and let an armed pin
fire (R496, R497). -/
def State.edgeRaise (before s : State) (k : Nat) : State :=
  if before.livePending k || !s.livePending k then s
  else
    let (c, s) := s.edgeCause k
    let p := s.pin k
    let s := s.raiseEvent (s.pinRing k) 0x0801 noQueue 0 ([BitVec.ofNat 8 k, BitVec.ofNat 8 c, 0, 0] ++ leBytes 4 p.ecnt)
    if k < 8 ∧ s.power.wakePins.getLsbD k then s.setPin k { s.pin k with fired := true } else s

/-- A new accepted level (R494). -/
def State.acceptLevel (s : State) (k : Nat) (level : Bool) : State :=
  if s.gpio.level.getLsbD k = level then s
  else
    let g := s.gpio
    let p := s.pin k
    let s1 := { s with gpio := { g with level := setBit g.level k level,
                                        rise := if level then setBit g.rise k true else g.rise,
                                        fall := if level then g.fall else setBit g.fall k true } }
    let s1 := s1.setPin k (if level then { p with riseCount := satInc p.riseCount } else { p with fallCount := satInc p.fallCount })
    State.edgeRaise s s1 k

/-- GPIO_LEVEL_ACCEPT (R494): the filters accept a level. -/
def execGpioLevelAccept (k : Nat) (level : Bool) (s : State) : Outcome :=
  if s.boot.porHigh && s.pinAlive k && decide (k < 24) then .next (s.acceptLevel k level) else stutter s

/-- A pin changes hands or loses its configuration (R484): output off, GPIO_CFG at reset, edge bits clear. -/
def State.resetPin (s : State) (k : Nat) : State :=
  let p := s.pin k
  let g := s.gpio
  ({ s with gpio := { g with rise := setBit g.rise k false, fall := setBit g.fall k false } } : State).setPin k
    { ({} : Pin) with owner := p.owner, riseCount := p.riseCount, fallCount := p.fallCount }

/-- Step 2 of a tenant switch for the pins of partition `p` (R485). -/
def State.resetPartPins (s : State) (p : Nat) : State :=
  (List.range 24).foldl (fun s k => if s.ownsPin (.part p) k then s.resetPin k else s) s

/-- PART_DESTROY returns the pins of partition `p` to HOST (R485). -/
def State.returnPins (s : State) (p : Nat) : State :=
  (List.range 24).foldl (fun s k => if s.ownsPin (.part p) k then s.setPin k { s.pin k with owner := ownHost } else s) s

def subPinOwner : Nat := 0x22
def subPinArmed : Nat := 0x23

/-- GPIO_OWN (R483, R484). -/
def execGpioOwn (s : State) : Outcome :=
  mgmt 64 0x94 s (fun r =>
    let e := r.entry
    let pins := leAt e 24 4
    let o := leAt e 28 1
    let named := (List.range 24).filter (fun k => bit pins k)
    let islet := o - 0x10
    let wrong := named.find? (fun k =>
      (decide (k < 8) && decide (0x10 ≤ o)) || (decide (0x10 ≤ o) && (s.isletOwner islet).isNone) || (s.pin k).owner == ownGoose)
    let armed := named.find? (fun k => decide (k < 8) && s.power.wakePins.getLsbD k)
    s.mgmtDesc 64
      [ (24, decide (pins % 2 ^ 24 = 0)), (27, decide (pins / 2 ^ 24 ≠ 0)), (28, !(o == 0 || decide (0x10 ≤ o ∧ o < 0x20))),
        reservedBad e 29 64 ]
      (match wrong with
        | some k => s.mgmtMal 64 subPinOwner k
        | none => match armed with
          | some k => s.mgmtMal 64 subPinArmed k
          | none =>
            let ch := named.filter (fun k => (s.pin k).owner != BitVec.ofNat 8 o)
            let s := ch.foldl (fun s k => (s.resetPin k).setPin k { (s.resetPin k).pin k with owner := BitVec.ofNat 8 o }) s
            s.mgmtDone 64 ch.length))

/-! ### Register writes (R486, R488) -/

/-- A write with denied bits counts once (R486). -/
def State.deny (s : State) (denied : BitVec 24) : State :=
  if denied = 0 then s else { s with gpio := { s.gpio with deny := satInc s.gpio.deny } }

/-- Change output values: `want` names the bits that would change; those of pins the writer owns do. Bits
[23:8] change only while main I/O is ON (R498). -/
def State.changeOut (s : State) (w : Writer) (want : BitVec 24) : State :=
  let own := s.ownedPins w
  let g := s.gpio
  ({ s with gpio := { g with out := g.out ^^^ (want &&& own) } } : State).deny (want &&& ~~~own)

/-- Clear sticky edge bits, with the same masking (R486, R494). -/
def State.clearEdges (s : State) (w : Writer) (fall : Bool) (ones : BitVec 24) : State :=
  let own := s.ownedPins w
  let g := s.gpio
  let set := ones &&& (if fall then g.fall else g.rise)
  let g := if fall then { g with fall := g.fall &&& ~~~(set &&& own) } else { g with rise := g.rise &&& ~~~(set &&& own) }
  ({ s with gpio := g } : State).deny (set &&& ~~~own)

/-- The fields of a GPIO_CFG value. Reserved codes of FUNC, PULL and IRQ, and any FUNC but GPIO on an Islet's
pin, leave that field as it was (R12, R488). -/
def Pin.configure (p : Pin) (v : Nat) : Pin :=
  let f := v % 64
  let fOk := decide (f ≤ 0x14) && (p.owner.toNat < 0x10 || f == 0)
  { p with func := if fOk then BitVec.ofNat 6 f else p.func, oe := bit v 6, drive := BitVec.ofNat 2 (bits v 8 7), slew := bit v 9,
           od := bit v 10, pull := if bits v 12 11 = 3 then p.pull else BitVec.ofNat 2 (bits v 12 11),
           irq := if 5 < bits v 15 13 then p.irq else BitVec.ofNat 3 (bits v 15 13), debounce := BitVec.ofNat 8 (bits v 23 16),
           sleep := BitVec.ofNat 2 (bits v 25 24), configured := true }

/-- A write of GPIO_CFG_k by its owner (R488, R496). -/
def State.configurePin (s : State) (k v : Nat) : State := State.edgeRaise s (s.setPin k ((s.pin k).configure v)) k

/-- GPIO_CFG_k as read (R502). -/
def Pin.cfgWord (p : Pin) : Nat :=
  p.func.toNat + b2n p.oe * 2 ^ 6 + p.drive.toNat * 2 ^ 7 + b2n p.slew * 2 ^ 9 + b2n p.od * 2 ^ 10 + p.pull.toNat * 2 ^ 11
    + p.irq.toNat * 2 ^ 13 + p.debounce.toNat * 2 ^ 16 + p.sleep.toNat * 2 ^ 24 + b2n p.configured * 2 ^ 31

/-! ### Function units (R490, R491) -/

/-- The pin that input function `f` reads, if it is enabled and the pin is sampled (R490, R499). -/
def State.inputPin (s : State) (f : Nat) : Option Nat :=
  let v := (Table.get 0 s.gpio.isel f).toNat
  if bit v 7 && s.on 32 then some (v % 32) else none

/-- CAPTURE_EDGE (R491): CAPT_0 to CAPT_3 are functions 11 to 14, SYNC_IN is function 17. The capture is the time of the edge at the ball
plus 6 ticks, give or take one (R520); the row is the edge at the ball (DEDUCED, log entry 95). -/
def execCaptureEdge (f : Nat) (s : State) : Outcome :=
  let n := if f = 17 then 4 else f - 11
  if (s.inputPin f).isSome && (f == 17 || decide (11 ≤ f ∧ f < 15)) then
    let late := 5 + (s.freeValue 2).toNat % 3
    .next { s.freeTaken with gpio := { s.gpio with capt := Table.set 0 s.gpio.capt n (BitVec.ofNat 64 (s.time + late)) } }
  else stutter s

/-- TACH_RISING_EDGE (R491): every TACH function that selects pin `k` counts the edge; a stalled fan that
gives a pulse is no longer stalled (R51, R55). -/
def execTachRisingEdge (k : Nat) (s : State) : Outcome :=
  let ns := (List.range 4).filter (fun n => decide (s.inputPin (7 + n) = some k))
  .next { s with gpio := ns.foldl (fun g n => { g with pulses := Table.set 0 g.pulses n (Table.get 0 g.pulses n + 1),
                                                       fanPulse := Table.set 0 g.fanPulse n s.time,
                                                       fanStalled := setBit g.fanStalled n false }) s.gpio }

/-- TACH_SECOND (R491): at a whole second GPIO_TACH_n takes the pulses of the last one. -/
def execTachSecond (s : State) : Outcome :=
  if !s.timeRuns then stutter s
  else
    let s := s.atSecond 0
    if !s.on 32 then .next s
    else
      let g := s.gpio
      .next { s with gpio := { g with tach := (List.range 4).foldl (fun t n =>
                                         Table.set 0 t n (BitVec.ofNat 16 (Nat.min 0xFFFF (Table.get 0 g.pulses n)))) g.tach,
                                      pulses := [] } }

/-- SYNC_OUT_PULSE (R491): SYNC_OUT goes high at a whole second. -/
def execSyncOutPulse (s : State) : Outcome :=
  if !s.timeRuns || !s.on 32 then stutter s
  else
    let s := s.atSecond 1
    .next { s with gpio := { s.gpio with syncHigh := true, syncAt := s.time } }

/-- PWM_PERIOD_START (R491): a period starts, and the values last written take effect. -/
def execPwmPeriodStart (k : Nat) (s : State) : Outcome :=
  if s.on 32 && decide (k < 4) then
    let g := s.gpio
    .next { s with gpio := { g with pwmNow := Table.set 0 g.pwmNow k (Table.get 0 g.pwm k), pwmStart := Table.set 0 g.pwmStart k s.time } }
  else stutter s

/-- The level of output function code `f` (R489, R491); none where the pin's output is off. What UART_0 sends is text that the manual does
not give (R492): its level is a free value (log entry 3). The levels of the idle units are log entry 26's. -/
def State.funcLevel (s : State) (k f : Nat) : Option Bool :=
  let g := s.gpio
  let pwm : Nat → Bool := fun n =>
    let v := (Table.get 0 g.pwmNow n).toNat
    let period := v % 0x10000
    decide (period ≠ 0) && decide ((s.time - Table.get 0 g.pwmStart n) % (if period = 0 then 1 else period) < v / 0x10000)
  if f = 0 then (if (s.pin k).oe then some (g.out.getLsbD k) else none)
  else if k < 8 ∧ f ≠ 0x12 ∧ !s.on 32 then none
  else if f = 1 then some (s.freeValue 1 == 1)
  else if f = 2 then some true
  else if 3 ≤ f ∧ f ≤ 6 then none
  else if 7 ≤ f ∧ f ≤ 9 then some (decide (f = 9))
  else if 0xA ≤ f ∧ f ≤ 0xD then some (pwm (f - 0xA))
  else if 0xE ≤ f ∧ f ≤ 0x11 then some ((s.part (bits g.pstat.toNat (4 * (f - 0xE) + 3) (4 * (f - 0xE)))).state == .active)
  else if f = 0x12 then some g.wakeOut
  else if f = 0x13 then (if s.power.alert then some false else none)
  else some (g.syncHigh && decide (s.time - g.syncAt < 100))

/-- What pin `k` drives (R431, R489, R499): none while its output is off or an open-drain output is high. -/
def State.pinDrive (s : State) (k : Nat) : Option Bool :=
  let p := s.pin k
  let od : Option Bool → Option Bool := fun l => if p.od && l = some true then none else l
  if k < 8 then od (s.funcLevel k p.func.toNat)
  else match (s.domain 32).st with
    | .on => od (s.funcLevel k p.func.toNat)
    | .ret =>
      (match p.sleep.toNat with
        | 0 => some false
        | 1 => some true
        | 2 => none
        | _ => if p.heldOn then some p.heldLevel else none)
    | .off => none

/-! ### Main I/O leaving and entering ON (R423, R498, R499) -/

/-- Entry to RET: HOLD pins keep what they drive. -/
def State.mainIoSleep (s : State) : State :=
  State.freeTaken <| (List.range 24).foldl (fun (t : State) k =>
    if 8 ≤ k then
      let d := s.pinDrive k
      t.setPin k { t.pin k with heldOn := d.isSome, heldLevel := d.getD false }
    else t) s

/-- OFF: everything held in main I/O returns to its reset value; owners stay (R482, R498). -/
def State.mainIoLost (s : State) : State :=
  let g := s.gpio
  let low : BitVec 24 := 0xFF
  let s := { s with gpio := { g with level := g.level &&& low, out := g.out &&& low, rise := g.rise &&& low, fall := g.fall &&& low,
                                     pstat := 0x3210, isel := [], pwm := [], pwmNow := [], pwmStart := [], tach := [], pulses := [],
                                     capt := [], syncHigh := false } }
  (List.range 24).foldl (fun (t : State) k =>
    if 8 ≤ k then t.setPin k { ({} : Pin) with owner := (t.pin k).owner } else t) s

/-- Back to ON: each main-bank filter starts from the pin's level, which no rule gives: free values (R499). -/
def State.mainIoWake (s : State) : State :=
  let v := s.freeValue 24
  let g := s.gpio
  ({ s with gpio := { g with level := (g.level &&& 0xFF) ||| (v &&& 0xFFFF00) } } : State).freeTaken

/-! ### Fans of a tray (R50, R51, R55) -/

/-- The tray registers exist on a lead die (R55). -/
def State.leadDie (s : State) : Bool := s.mgt.slot == 0

/-- TRAY_FAN_DUTY_n. -/
def State.fanDuty (s : State) (k : Nat) : BitVec 8 := Table.get 0xFF s.gpio.fanDuty k

/-- The Goose derives the PWM duty of a fan it drives (R50, R51, R500): DUTY ÷ 255 of a period of 4,000. Which
way an inexact duty is rounded is not stated (DESIGN CHOICE, log entry 3). -/
def State.driveFan (s : State) (k : Nat) : State :=
  let n := 4000 * (s.fanDuty k).toNat
  let up := if n % 255 = 0 then 0 else (s.freeValue 1).toNat
  let s := s.freeTaken
  { s with gpio := { s.gpio with pwm := Table.set 0 s.gpio.pwm k (BitVec.ofNat 32 (4000 + 0x10000 * (n / 255 + up))) } }

/-- A write of TRAY_FAN_DUTY_n. A fan with duty 0 is not stalled. -/
def State.writeFanDuty (s : State) (k : Nat) (duty : BitVec 8) : State :=
  if !s.leadDie then s
  else
    let g := s.gpio
    let s := { s with gpio := { g with fanDuty := Table.set 0xFF g.fanDuty k duty,
                                       fanPulse := if s.fanDuty k = 0 then Table.set 0 g.fanPulse k s.time else g.fanPulse,
                                       fanStalled := if duty = 0 then setBit g.fanStalled k false else g.fanStalled } }
    if (s.pin (8 + k)).owner = ownGoose ∧ s.on 32 then s.driveFan k else s

/-- FAN_TACH_UPDATE (R50, R51): 2 pulses a revolution over the last second. -/
def execFanTachUpdate (k : Nat) (s : State) : Outcome :=
  if s.leadDie && s.mgt.stage == .ready && decide (k < 4) then
    let g := s.gpio
    let rpm := BitVec.ofNat 16 (Nat.min 0xFFFF ((Table.get 0 g.tach k).toNat * 30))
    .next { s with gpio := { g with fanRpm := Table.set 0 g.fanRpm k rpm } }
  else stutter s

/-- THERM_ALERT on the operator's ring (R432): cause, the byte that goes with it, the reported temperature. -/
def State.thermEvent (s : State) (cause extra : Nat) : State :=
  s.raiseEvent 16 0x0502 noQueue 0 [BitVec.ofNat 8 cause, BitVec.ofNat 8 extra, s.power.tempC]

/-- FAN_STALL (R51): no pulse for 2 s with a duty that is not 0. -/
def execFanStall (k : Nat) (s : State) : Outcome :=
  if s.leadDie && s.mgt.stage == .ready && decide (k < 4) && s.fanDuty k != 0 && !s.gpio.fanStalled.getLsbD k then
    let s := s.advanceTo (Table.get 0 s.gpio.fanPulse k + 2 * second)
    .next (({ s with gpio := { s.gpio with fanStalled := setBit s.gpio.fanStalled k true } } : State).thermEvent 2 k)
  else stutter s

end Sys2Proof.Machine
end

