-- ==== Sys2Proof/Machine/Wire.lean ====
section
/-!
DEFINITION. A flit on the wire (R290 to R293): its 256 bytes, its CRC, and its encryption under the keys of a link.
-/

namespace Sys2Proof.Machine

/-! ### Layout (R290, R292) -/

/-- The 16 header bytes. -/
def Flit.header (f : Flit) : List Byte :=
  leBytes 1 f.typ.toNat ++ leBytes 1 (f.vc.toNat + 4 * b2n f.frozen + 8 * b2n f.keyed + 16 * f.qos.toNat)
    ++ leBytes 1 f.dst.toNat ++ leBytes 1 f.src.toNat ++ leBytes 1 f.crVc.toNat ++ leBytes 1 f.crCount.toNat ++ leBytes 2 0
    ++ leBytes 4 f.seq.toNat ++ leBytes 4 f.ack.toNat

/-- The header of received bytes, with the 232 payload bytes as its body. -/
def readFlit (raw : List Byte) : Flit :=
  { typ := BitVec.ofNat 8 (leAt raw 0 1), vc := BitVec.ofNat 2 (leAt raw 1 1), frozen := bit (leAt raw 1 1) 2, keyed := bit (leAt raw 1 1) 3,
    qos := BitVec.ofNat 4 (leAt raw 1 1 / 16), dst := BitVec.ofNat 6 (leAt raw 2 1), src := BitVec.ofNat 6 (leAt raw 3 1),
    crVc := BitVec.ofNat 2 (leAt raw 4 1), crCount := BitVec.ofNat 8 (leAt raw 5 1), seq := BitVec.ofNat 32 (leAt raw 8 4),
    ack := BitVec.ofNat 32 (leAt raw 12 4), body := slice raw 16 232 }

/-- 248 bytes with their CRC. -/
def withCrc (l : List Byte) : List Byte := l ++ leBytes 8 (crc64 l)

/-- Received bytes are a flit whose CRC is right. -/
def crcOk (raw : List Byte) : Bool := decide (raw.length = 256) && leAt raw 248 8 == crc64 (slice raw 0 248)

/-- Type of a received flit. -/
def rawType (raw : List Byte) : Nat := leAt raw 0 1

/-- The flit types of R291. -/
def flitTypes : List Nat := [0x00, 0x01, 0x02, 0x03, 0x04, 0x7F, 0x08, 0x09, 0x0A, 0x10, 0x18, 0x19, 0x20]

/-! ### Encryption (R293) -/

/-- The IV: the direction constant, then the count of the flit (R293). -/
def flitIv (const : List Byte) (count : DWord) : List Byte := slice const 0 4 ++ leBytes 8 count.toNat

/-- The 256 bytes of a flit, encrypted where it is keyed. -/
def Flit.wire (f : Flit) (key iv : List Byte) : List Byte :=
  let h := f.header
  if f.keyed then
    let x := gcmSeal key iv h (slice f.body 0 200)
    withCrc (h ++ x.1 ++ x.2 ++ List.replicate 16 0)
  else withCrc (h ++ slice f.body 0 232)

/-- A received flit with its body in the clear; none where its tag fails. -/
def openFlit (raw key iv : List Byte) : Option Flit :=
  let f := readFlit raw
  if f.keyed then (gcmOpen key iv (slice raw 0 16) (slice raw 16 200) (slice raw 216 16)).map (fun b => { f with body := b })
  else some f

/-! ### Counts (R290, R293) -/

/-- The count whose low half is `seq`, nearest to `near`: replayed flits lie behind the last, flits that run ahead before it. -/
def countOf (near : DWord) (seq : Word) : DWord :=
  let d := (seq - near.truncate 32).toInt
  near + BitVec.ofInt 64 d

/-- SEQ of a count. -/
def seqOf (count : DWord) : Word := count.truncate 32

/-- The 256 bytes of a flit that the port sends now. -/
def Port.wire (t : Port) (f : Flit) : List Byte := f.wire t.txKey (flitIv t.txIv (countOf t.txSeq f.seq))

/-- A received flit under the port's keys. -/
def Port.open (t : Port) (raw : List Byte) : Option Flit := openFlit raw t.rxKey (flitIv t.rxIv (countOf t.rxSeq (BitVec.ofNat 32 (leAt raw 8 4))))

end Sys2Proof.Machine
end

