-- ==== Sys2Proof/Machine/Links.lean ====
section
/-!
DEFINITION. What every flit that arrives on a Strait port goes through (R291 to R299): CRC, decryption, sequence, acknowledgement,
credits, forwarding; and how a link leaves UP (R307, R321) and drains (R312).
-/

namespace Sys2Proof.Machine

/-! ### Link events (R321) -/

def causeDisabled : Nat := 0
def causeSilence : Nat := 1
def causeProbe : Nat := 2
def causeNakLimit : Nat := 3
def causeAuth : Nat := 4
def causeMiswired : Nat := 5
def causeRefused : Nat := 6
def causeFecLoss : Nat := 7
def causeWakeTimeout : Nat := 8
def causeMachineEnd : Nat := 9
def causeLedger : Nat := 10

/-- Partitions of this die that own resources on more than one die. -/
def State.wideParts (s : State) : List Nat := (List.range 16).filter (fun p => (s.part p).wide)

/-- Post a link event to the operator and to those partitions. -/
def State.linkEvent (s : State) (code : Nat) (data : List Byte) : State :=
  s.wideParts.foldl (fun s p => s.raiseEvent p code noQueue 0 data) (s.raiseEvent 16 code noQueue 0 data)

/-- LINK_DOWN of port `p`: the cause is recorded. -/
def State.linkDown (s : State) (p cause : Nat) : State :=
  let s := s.setPort p { s.port p with cause := BitVec.ofNat 4 cause }
  s.linkEvent 0x0301 [BitVec.ofNat 8 p, BitVec.ofNat 8 cause, BitVec.ofNat 8 (s.port p).partnerDie.toNat]

/-- LINK_UP of port `p` with its path: 0 NEW, 1 REPLAY, 2 LOST. -/
def State.linkUp (s : State) (p path : Nat) : State :=
  s.linkEvent 0x0302 [BitVec.ofNat 8 p, 0, BitVec.ofNat 8 (s.port p).partnerDie.toNat, BitVec.ofNat 8 path]

/-- The port is in KEYING or UP. -/
def Port.alive (t : Port) : Bool := t.st == .keying || t.st == .up

/-- The link is trained, so that flits can arrive. -/
def Port.hears (t : Port) : Bool := t.alive || t.st == .quiet

/-- The port has left KEYING or UP: what a live link alone has is gone. -/
def Port.unlinked (t : Port) (now : Nat) : Port :=
  { t with probeAt := none, ctl := [], keying := {}, holdSeen := false, draining := none, acking := false,
           leftUp := if t.st == .up then now else t.leftUp }

/-- The port gives up its link keys (R305, R307). -/
def Port.dropKeys (t : Port) : Port := { t with txKey := [], rxKey := [], txIv := [], rxIv := [], resume := [] }

/-- A link retrains (R307): LINK_DOWN, then DOWN and at once TRAINING. After AUTH the key is given up. -/
def State.retrain (s : State) (p cause : Nat) : State :=
  let t := s.port p
  if !t.alive then s
  else
    let u := if cause = causeAuth then t.dropKeys else t
    (s.setPort p { u.unlinked s.time with st := .training, retrained := true, retrCount := satInc t.retrCount }).linkDown p cause

/-- A received flit is discarded and counted (R291, R293, R302). -/
def State.rxDiscard (s : State) (p : Nat) : State :=
  let t := s.port p
  s.setPort p { t with rxDiscard := true, discCount := satInc t.discCount }

/-! ### Credits (R295 to R297) -/

/-- Credits that an end grants on a channel at link-up (R295). -/
def fullGrant (v : Nat) : Nat := if v = 2 then 128 else if v = 3 then 16 else 32

/-- Of the credits that an end has sent flits for and not had back, the part that the partner has freed and returned and that is still on
its way: this end cannot tell them apart, so the part is free (R297; DEDUCED, log entry 33). -/
def Credit.onWay (c : Credit) (free : Word) : Nat := free.toNat % (c.granted - c.held + 1)

/-- A CREDIT breach of port `p` on channel `v` (R467, R469): the port is held in DOWN, and every partition of this die
with resources on other dies halts, on each of them. -/
def State.creditBreach (s : State) (p v : Nat) (diff : Int) : State :=
  let c := (s.port p).credit v
  let w : Nat → Word := fun n => BitVec.ofNat 32 n
  let back := c.onWay (s.freeValue 32)
  let s := s.freeTaken.breach brCredit p v none [w c.granted, w c.held, w (c.granted - c.held - back), w back] diff
  let s := (s.setPort p { (s.port p).unlinked s.time with st := .down, held := true }).linkDown p causeLedger
  s.wideParts.foldl (fun s q => (s.haltElsewhere q).ledgerHalt q) s

/-- Credits that a received flit returns. More than are outstanding is a breach. -/
def State.takeCredits (s : State) (p : Nat) (f : Flit) : State :=
  let t := s.port p
  let v := f.crVc.toNat
  let c := t.credit v
  let n := f.crCount.toNat
  if n = 0 then s
  else if c.granted < c.held + n then s.creditBreach p v ((c.held + n : Nat) - (c.granted : Nat) : Int)
  else s.setPort p (t.setCredit v { c with held := c.held + n, retSeen := c.retSeen + n })

/-- A receive-buffer slot of port `p` is free, and its credit is to be returned (R296). -/
def State.freeSlot (s : State) (p v : Nat) : State :=
  let t := s.port p
  let c := t.credit v
  s.setPort p (t.setCredit v { c with back := c.back + 1, freedAt := if c.back = 0 then s.time else c.freedAt })

/-- `x` comes after `y` in sequence order. -/
def seqAfter (x y : Word) : Bool := x != y && decide ((x - y).toNat < 2 ^ 31)

/-- The partner has accepted every flit up to a sequence number (R298). -/
def Port.ackTo (t : Port) (ack : Word) : Port :=
  { t with replay := t.replay.filter (fun w => seqAfter w.flit.seq ack), resend := t.resend.filter (fun w => seqAfter w.flit.seq ack) }

/-- The same for the KEY flits of an exchange, with the credits that come back (DEDUCED, log entry 87). -/
def Keying.ackTo (k : Keying) (f : Flit) : Keying :=
  let c := k.credit
  { k with replay := k.replay.filter (fun g => seqAfter g.seq f.ack), resend := k.resend.filter (fun g => seqAfter g.seq f.ack),
           credit := if f.crVc = 3 then { c with held := Nat.min c.granted (c.held + f.crCount.toNat) } else c }

/-- Every flit of the link is acknowledged and every credit is back (R312). -/
def Port.drained (t : Port) : Bool :=
  t.replay.isEmpty && t.resend.isEmpty &&
    (List.range 4).all (fun v => (t.credit v).held == (t.credit v).granted && (t.credit v).back == 0)

/-- Queue a message of the sleep negotiation: it goes while nothing else new does (R312). -/
def State.sleepNote (s : State) (p : Nat) (w : Note) (off : Bool) : State :=
  let t := s.port p
  let c := w.code
  let f := mkFlit c.2.1 c.2.2 0 t.partnerDie.toNat s.die false (Config.noteBody c.1 [b2n off])
  s.setPort p { t with txq := t.txq ++ [{ flit := f, sleep := true }] }

/-- A link that drains for a partner that goes to sleep, once drained, answers (R312). -/
def State.trySleep (s : State) (p : Nat) : State :=
  let t := s.port p
  match t.draining with
  | none => s
  | some off => if t.drained && !t.acking then (s.setPort p { t with acking := true }).sleepNote p .sleepAck off else s

/-- Acknowledgement and credits that any valid flit carries: of the link's traffic in UP, of the exchange's KEY flits before. -/
def State.takeHeader (s : State) (p : Nat) (f : Flit) : State :=
  let t := s.port p
  if t.st == .up then ((s.setPort p { t.ackTo f.ack with heard := s.time, holdSeen := false }).takeCredits p f).trySleep p
  else s.setPort p { t with keying := t.keying.ackTo f, heard := s.time, holdSeen := false }

/-! ### Receiving (R291, R293, R296, R298, R302) -/

/-- A link-control flit of this die. -/
def State.ctlFlit (s : State) (typ : Nat) : Flit := mkFlit typ 0 0 0 s.die false []

/-- Queue a link-control flit on port `p`. -/
def State.sendCtl (s : State) (p typ : Nat) : State :=
  let t := s.port p
  s.setPort p { t with ctl := t.ctl ++ [s.ctlFlit typ] }

def typIdle : Nat := 0
def typProbe : Nat := 1
def typEcho : Nat := 2
def typNak : Nat := 3
def typSync : Nat := 4
def typKey : Nat := 8
def typCtrl : Nat := 9
def typFwd : Nat := 0x0A
def typGather : Nat := 0x10
def typWinAck : Nat := 0x18
def typVerdict : Nat := 0x19
def typWinData : Nat := 0x20

/-- The command's event is that these bytes arrive at port `p` as a flit of type `typ` with a right CRC. -/
def State.arrives (s : State) (p typ : Nat) (raw : List Byte) : Bool := (s.port p).hears && crcOk raw && rawType raw == typ

/-- The flit of a received, opened flit that is next in order takes a slot (R296, R298): it is delivered here by `k` and its slot freed, or
it is passed to the port towards its destination, whose sending frees the slot (R43). -/
def State.accept (s : State) (p : Nat) (f : Flit) (k : Flit → State → State) : State :=
  let t := s.port p
  let v := f.vc.toNat
  let c := t.credit v
  if fullGrant v ≤ c.taken then s.creditBreach p v ((c.taken : Int) + 1 - (fullGrant v : Int))
  else
    let s := s.setPort p ({ t with rxSeq := t.rxSeq + 1 }.setCredit v { c with taken := c.taken + 1 })
    if f.dst.toNat = s.die then (k f s).freeSlot p v
    else
      let q := portToward s.mgt.product.toNat s.die f.dst.toNat 0
      s.setPort q { s.port q with txq := (s.port q).txq ++ [{ flit := f, hop := some (p, v) }] }

/-- A credited flit arrives on port `p` as these bytes: discarded and counted before the port is enabled, and where it is not keyed; taken
where its tag verifies and it is next in order; a tag that fails retrains the link, a gap is answered with NAK, and one that has been
accepted already has no effect. -/
def State.receive (s : State) (p : Nat) (raw : List Byte) (k : Flit → State → State) : State :=
  let t := s.port p
  if !t.enabled then s.rxDiscard p
  else if t.st != .up then s
  else if !(readFlit raw).keyed then s.rxDiscard p
  else match t.open raw with
    | none => s.retrain p causeAuth
    | some f =>
      let s := s.takeHeader p f
      let t := s.port p
      if t.st != .up then s
      else if f.seq = seqOf (t.rxSeq + 1) then s.accept p f k
      else if seqAfter f.seq (seqOf t.rxSeq) then s.sendCtl p typNak
      else s

/-- The flit of received bytes that port `p` admits now: the port is enabled and UP, the flit is keyed and its tag verifies. -/
def State.admitted (s : State) (p : Nat) (raw : List Byte) : Option Flit :=
  if (s.port p).enabled && (s.port p).st == .up && (readFlit raw).keyed then (s.port p).open raw else none

/-- A credited flit of type `typ` arrives. -/
def State.linkReceive (s : State) (p typ : Nat) (raw : List Byte) (k : Flit → State → State) : Outcome :=
  if s.arrives p typ raw then .next (s.receive p raw k) else stutter s

/-- A link-control flit arrives on port `p` (R291, R299). -/
def State.controlReceive (s : State) (p typ : Nat) (raw : List Byte) (k : Flit → State → State) : Outcome :=
  if !s.arrives p typ raw then stutter s
  else if !(s.port p).enabled then .next (s.rxDiscard p)
  else if !(s.port p).alive then .next s
  else .next (k (readFlit raw) (s.takeHeader p (readFlit raw)))

end Sys2Proof.Machine
end

