-- ==== Sys2Proof/Machine/Power.lean ====
section
/-!
DEFINITION. Power domains, wake, AON low power, pace, voltage and temperature (15): DOMAIN_SET and its
quiescing and transitions, WAKE_ARM, PACE_SET, VOLT_SET, AON_LP, the PMBus and the thermal events.
-/

namespace Sys2Proof.Machine

/-! ### Domains (R415 to R417) -/

def subDomainOrder : Nat := 0x1C
def subDomainWindow : Nat := 0x1D
def subDomainOwned : Nat := 0x1E
def subPmbus : Nat := 0x1F
def subAonState : Nat := 0x20
def subBudget : Nat := 0x09

/-- State of a domain. -/
def State.domSt (s : State) (d : Nat) : DomState := (s.domain d).st

/-- The state a domain is in or moving to. -/
def State.settled (s : State) (d : Nat) : DomState := ((s.domain d).target).getD (s.domain d).st

/-- Order of the states: OFF, RET, ON. -/
def DomState.rank : DomState → Nat
  | .off => 0
  | .ret => 1
  | .on => 2

/-- Restore delay in 10 ns units (R416); lowering takes none that the manual states. -/
def restoreDelay (d : Nat) (from_ dest : DomState) : Nat :=
  if dest != .on && !(dest == .ret && from_ == .off && (d == 20 || d == 21)) then 0
  else
    let ret := if d < 16 then 600 else if d < 20 then 400 else if d < 22 then 1200 else if d < 32 then 2500
      else if d = 32 then 200 else if d = 33 then 800 else 2000
    let off := if d < 16 then 8500 else if d < 20 then 4000 else if d < 22 then 180000 else if d < 32 then 65000 else 1000
    if from_ == .ret then ret else if from_ == .off then off else 0

/-- The target code of domain `d` in a DOMAIN_SET layout whose first byte is at `off` (R418). -/
def targetCode (e : List Byte) (off d : Nat) : Nat :=
  if d < 16 then bits (leAt e off 4) (2 * d + 1) (2 * d)
  else if d < 20 then bits (leAt e (off + 4) 1) (2 * (d - 16) + 1) (2 * (d - 16))
  else if d = 20 then bits (leAt e (off + 5) 1) 1 0
  else if d = 21 then bits (leAt e (off + 5) 1) 3 2
  else if d = 32 then bits (leAt e (off + 5) 1) 5 4
  else if d < 32 then bits (leAt e (off + 8) 3) (2 * (d - 22) + 1) (2 * (d - 22))
  else 0

/-- The state a target code names. -/
def targetState (c : Nat) : Option DomState :=
  match c with
  | 1 => some .on
  | 2 => some .ret
  | 3 => some .off
  | _ => none

/-- The domains that DOMAIN_SET reaches. -/
def setDomains : List Nat := List.range 33

/-- The state of `d` if the targets of an entry were applied; a stack that failed training stays OFF (R442). -/
def State.wouldBe (s : State) (e : List Byte) (off d : Nat) : DomState :=
  if (d = 20 ∨ d = 21) ∧ s.mgt.hbmFail.getLsbD (d - 20) then .off else (targetState (targetCode e off d)).getD (s.settled d)

/-- Domain `d` would break R417, or name a stack that failed training (R442). -/
def State.breaksOrder (s : State) (e : List Byte) (off d : Nat) : Bool :=
  let f := s.wouldBe e off d
  let cur := s.settled d
  if d < 16 then
    let slices := [16, 17, 18, 19].any (fun k => s.wouldBe e off k == .on)
    let icp := s.wouldBe e off 21 == .on && (s.wouldBe e off 18 == .on || s.wouldBe e off 19 == .on)
    (f == .on && !slices) || (cur == .off && f != .off && !icp)
  else if d < 20 then
    let st := 20 + (d - 16) / 2
    (f != .off && s.wouldBe e off st == .off) || (targetCode e off d == 3 && cur == .on && s.settled st != .on && s.wouldBe e off st != .on)
  else if d < 22 then s.mgt.hbmFail.getLsbD (d - 20) && decide (targetCode e off d = 1 ∨ targetCode e off d = 2)
  else if d < 32 then f == .on && s.settled 34 != .on
  else false

/-- An open window targets the scratchpad of Islet `n` (R419). -/
def State.windowOn (s : State) (n : Nat) : Bool :=
  (List.range 16).any (fun p => (List.range 16).any (fun w =>
    let x := s.opened p w
    x.isOpen && x.scratch && (match placeOf x.base.toNat with
      | .scratch k _ => k == n
      | _ => false)))

/-- A partition owns a granule of a stack (R419). -/
def State.stackOwned (s : State) (k : Nat) : Bool :=
  (List.range 96).any (fun g => decide (s.owner (96 * k + g) < 16))

/-! ### What entering a state does (R274, R288, R423, R431) -/

/-- Post DOMAIN_STATE_REACHED for a domain no running command waits for (R422), with the command that caused it, if one did. -/
def State.reachedEvent (s : State) (d : Nat) (st : DomState) (cause q : Nat) (seq : Word) : State :=
  s.raiseEvent 16 0x0503 q seq [BitVec.ofNat 8 d, BitVec.ofNat 8 st.rank, BitVec.ofNat 8 cause]

/-- Islet `n` goes OFF: scratchpad, tags, tensor table, registers and NUM records are lost. -/
def State.isletLost (s : State) (n : Nat) : State :=
  let s := s.clearSp n
  let i := s.islet n
  let s := s.setIslet n { ({} : Islet) with patrolPos := i.patrolPos, pushes := i.pushes }
  ((s.setNum (3 * n) {}).setNum (3 * n + 1) {}).setNum (3 * n + 2) {}

/-- A slice leaves ON for OFF: it recalls its lines and writes the dirty ones back (R274). -/
def State.sliceLost (s : State) (k : Nat) : State :=
  ((Table.keys s.lagoon).filter (fun l => decide (sliceOf (l * 128) = k))).foldl (fun s l =>
    (s.evictLag l).setLag l {}) s

/-- A stack goes OFF and loses its contents (R288). -/
def State.stackLost (s : State) (k : Nat) : State :=
  let lo := k * 0x600000000
  { s with hbm := Memory.zero s.hbm lo 0x600000000,
           hbmPoison := Table.clear s.hbmPoison (lo / 32) ((lo + 0x600000000) / 32),
           hbmErr := Table.clear s.hbmErr (lo / 32) ((lo + 0x600000000) / 32) }

/-- The key of a granule by its owner (R275). -/
def keyOf (owner : Nat) : Nat := if owner < 16 then 16 + owner else if owner = 0xFE then 2 else 1

/-- A stack that left OFF is filled under the keys its granules have (R288). -/
def State.stackFill (s : State) (k : Nat) : State :=
  let gs := (List.range 96).map (· + 96 * k)
  { s with up := { s.up with fill := s.up.fill ++ [{ granules := gs, purpose := 3, part := 0, key := 0, start := s.time }] } }

/-- A port has nothing but what waits to be sent, what it has still to report lost, and the ledger's hold (R416, R423, R471). A flit that was
not acknowledged can be sent no more: it is reported once the link is up again (DEDUCED, log entry 92). -/
def State.portReset (s : State) (p : Nat) : State :=
  let t := s.port p
  s.setPort p { ({} : Port) with txq := t.txq, held := t.held, gone := t.gone ++ t.replay }

/-- A port enters SLEEP or OFF (R300, R312); OFF loses its key, epoch and registers (R416, R423). -/
def State.portLower (s : State) (p : Nat) (dest : DomState) : State :=
  let t := s.port p
  if dest == .off then s.portReset p
  else s.setPort p { t.unlinked s.time with st := .sleep, sleepTo := none, sleepAcked := false, resend := [] }

/-- The effect of domain `d` reaching a state. One that leaves OFF has every register at its Reset value (R423). What RET saves and ON
restores stays in place in its fields (DEDUCED, log entry 93). -/
def State.enterState (s : State) (d : Nat) (dest : DomState) : State :=
  let from_ := s.domSt d
  let s := s.setDomain d { s.domain d with st := dest, since := s.time }
  if d < 16 then
    let s := if from_ == .on then s.flushCache d else s
    if dest == .off || from_ == .off then s.isletLost d else s.setIslet d { s.islet d with quiesce := false }
  else if d < 20 then (if dest == .off then s.sliceLost (d - 16) else s)
  else if d < 22 then
    (if dest == .off then s.stackLost (d - 20) else if from_ == .off then s.stackFill (d - 20) else s)
  else if d < 32 then
    let s := if from_ == .off then s.portReset (d - 22) else s
    (if dest == .on then s.setPort (d - 22) { s.port (d - 22) with st := .training, leftUp := s.time } else s)
  else if d = 32 then
    let s := if from_ == .off then s.mainIoLost else s
    (if dest == .off then s.mainIoLost else if dest == .ret then s.mainIoSleep else s.mainIoWake)
  else if d = 34 ∧ dest = .on then { s with gpio := { s.gpio with wakeOut := false } }
  else s

/-- What an Islet has in its store buffer and cache can be written back: the slices and stacks are ON (R274). -/
def State.flushReady (s : State) (n : Nat) : Bool :=
  s.storesReady n && s.caches.all (fun c => decide (c.1 / 2 ^ 40 ≠ n) || c.2.st != .modified || s.hbmReady (c.1 % 2 ^ 40 * 128))

/-- What slice `k` must write back before it goes OFF can be written: its stack is ON, or no line of it is dirty or owned (R274, R424). -/
def State.sliceReady (s : State) (k : Nat) : Bool :=
  s.on (20 + k / 2) || !s.lagoon.any (fun e => decide (sliceOf (e.1 * 128) = k) && (e.2.dirty || e.2.owner.isSome))

/-- A domain that lowers has what lowering needs: Islets before slices before stacks (R421), an Islet's stores and lines can be written
back, a slice's lines too, and a stack has no fill run left. -/
def State.mayLower (s : State) (d : Nat) : Bool :=
  let moving : Nat → Bool := fun k => match (s.domain k).target with
    | some t => decide (t.rank < (s.domain k).st.rank)
    | none => false
  if d < 16 then !((s.islet d).testing) && ((s.domain d).st != .on || s.flushReady d)
  else if d < 20 then !((List.range 16).any moving) && (s.domain d).target.all (fun t => t != .off || s.sliceReady (d - 16))
  else if d < 22 then
    !moving (16 + 2 * (d - 20)) && !moving (17 + 2 * (d - 20)) && !s.up.fill.any (fun r => r.granules.any (fun g => g / 96 == d - 20))
  else true

/-- A domain that rises has what rising needs (R417, R421, R430). -/
def State.mayRise (s : State) (d : Nat) (dest : DomState) : Bool :=
  let st := s.domSt d
  if d < 16 then
    s.on 34 && !((s.islet d).testing) && (dest != .on || [16, 17, 18, 19].any s.on)
      && (st != .off || (s.on 21 && (s.on 18 || s.on 19)))
  else if d < 20 then s.on 34 && s.domSt (20 + (d - 16) / 2) != .off
  else if d < 33 then s.on 34
  else true

/-- A transition may finish now. -/
def State.mayMove (s : State) (d : Nat) : Bool :=
  match (s.domain d).target with
  | none => false
  | some t => if t.rank < (s.domSt d).rank then s.mayLower d else s.mayRise d t

/-- DOMAIN_SET completes once no domain it named is in transition (R421). -/
def State.domainSetDone (s : State) : State :=
  match s.mgmtBusy 64 0x84 with
  | none => s
  | some r =>
    if r.aux.headD 0 = 2 ∧ !setDomains.any (fun d => (s.domain d).told && (s.domain d).target.isSome) then s.mgmtDone 64 0 else s

/-- A command or a wake decides the state of domain `d`: a fill that raised it no longer lowers it (R425). -/
def State.keepRaised (s : State) (d : Nat) : State :=
  { s with up := { s.up with fill := s.up.fill.map (fun r => { r with raised := r.raised.filter (· != d) }) } }

/-- Start a transition of domain `d`; `told` says that a running command waits for it. -/
def State.beginMove (s : State) (d : Nat) (dest : DomState) (told : Bool) (cause : Nat) : State :=
  let s := s.keepRaised d
  if s.domSt d = dest ∧ (s.domain d).target.isNone then s
  else
    let s := s.setDomain d { s.domain d with target := some dest, told := told, cause := cause, began := s.time }
    if 22 ≤ d ∧ d < 32 ∧ dest.rank < (s.domSt d).rank then s.portLower (d - 22) dest else s

/-- A wake raises domain `d` (R427): ON already is left alone; a domain moving to ON is joined; one that is
being lowered rises afterwards. A stack that failed training stays OFF (R442). -/
def State.wakeDomain (s : State) (d cause : Nat) : State :=
  let x := s.domain d
  if (d = 20 ∨ d = 21) ∧ s.mgt.hbmFail.getLsbD (d - 20) then s
  else match x.target with
  | none => if x.st == .on then s.keepRaised d else s.beginMove d .on false cause
  | some t =>
    if t == .on then s.keepRaised d
    else if t.rank < x.st.rank then s.setDomain d { x with wake := some cause }
    else s.setDomain d { x with target := some .on }

/-- DOMAIN_TRANSITION_DONE (R416, R421, R422): domain `d` reaches the state it was moving to. -/
def execDomainTransitionDone (d : Nat) (s : State) : Outcome :=
  let x := s.domain d
  match x.target with
  | none => stutter s
  | some t =>
    -- a stack that the boot trains ends its transition with its training (R442)
    if !s.mayMove d || ((d == 20 || d == 21) && !s.mgt.bootDone) then stutter s
    else
      let s0 := s
      let s := s.advanceTo (x.began + restoreDelay d x.st t)
      let s := s.enterState d t
      let s := s.setDomain d { s.domain d with target := none, wake := none, told := false }
      let s := if x.told then s else s.reachedEvent d t x.cause noQueue 0
      -- transitions that waited for this one begin now
      let s := (List.range 35).foldl (fun (t : State) k =>
        if !s0.mayMove k && t.mayMove k then t.setDomain k { t.domain k with began := t.time } else t) s
      let s := match x.wake with
        | some c => s.wakeDomain d c
        | none => s
      let s := if d = 33 ∧ t = .on ∧ (x.cause = 1 ∨ x.cause = 2) ∧ (s.config 0).pmeOn then s.emit .pme else s
      .next s.domainSetDone.reevaluate

/-! ### Quiescing (R420) -/

/-- The lowest Islet of a partition that is ON: the one that serves its pushes (R167). -/
def State.serverOf (s : State) (p : Nat) : Option Nat := (s.isletsOf p).find? s.on

/-- A push is being served at Islet `n`. -/
def State.servingAt (s : State) (n : Nat) : Bool :=
  s.islets.any (fun i => i.2.pushes.any (fun u => u.served && decide (s.serverOf u.part = some n)))

/-- Islet `n` has no command that has started and not completed, and serves no push. -/
def State.quiet (s : State) (n : Nat) : Bool := (s.isletRuns n).isEmpty && !s.servingAt n

/-- Everything a DOMAIN_SET lowers is ready (R420). -/
def State.loweringReady (s : State) (e : List Byte) : Bool :=
  setDomains.all (fun d =>
    match targetState (targetCode e 24 d) with
    | none => true
    | some t =>
      if (s.domSt d).rank ≤ t.rank ∨ s.domSt d ≠ .on then true
      else if d < 16 then s.quiet d
      else if 22 ≤ d ∧ d < 32 then (s.port (d - 22)).sleepAcked || (s.port (d - 22)).sleepTo.isNone
      else true)

/-- The transitions of a DOMAIN_SET proceed (R421). -/
def State.startTransitions (s : State) (e : List Byte) : State :=
  let s := setDomains.foldl (fun s d =>
    match targetState (targetCode e 24 d) with
    | none => s
    | some t =>
      let p := s.port (d - 22)
      -- leaving KEYING outside R312 is an exit that posts LINK_DOWN (R300)
      let s := if 22 ≤ d ∧ d < 32 ∧ t ≠ .on ∧ p.st = .keying then s.linkDown (d - 22) causeDisabled else s
      s.beginMove d t true 0) s
  (s.mgmtWait 64 [2]).domainSetDone

/-- Let a waiting DOMAIN_SET proceed if everything is ready. -/
def State.tryQuiesced (s : State) : State :=
  match s.mgmtBusy 64 0x84 with
  | none => s
  | some r => if r.aux.headD 0 = 1 ∧ s.loweringReady r.entry then s.startTransitions r.entry else s

/-- A SELFTEST or a DOMAIN_SET still keeps Islet `n` quiesced. -/
def State.keepsQuiet (s : State) (n : Nat) : Bool :=
  (List.range 17).any (fun i => match s.mgmtBusy (48 + i) 0x8E with
    | some r => decide (r.aux.headD 16 = n)
    | none => false)
  || (match s.mgmtBusy 64 0x84 with
    | some r => r.aux.headD 0 == 1 && (match targetState (targetCode r.entry 24 n) with
        | some t => decide (t.rank < (s.domSt n).rank)
        | none => false)
    | none => false)

/-- The waiting DOMAIN_SET of queue 64 gives up: BUSY, and nothing changes (R420); an Islet that a SELFTEST quiesces stays so. -/
def State.quiesceFailed (s : State) (e : List Byte) : State :=
  let s := s.mgmtEnd 64 stBusy 0
  setDomains.foldl (fun (s : State) d =>
    if targetCode e 24 d = 0 then s
    else if d < 16 then s.setIslet d { s.islet d with quiesce := s.keepsQuiet d }
    else if 22 ≤ d ∧ d < 32 then 
      let t := s.port (d - 22)
      s.setPort (d - 22) { t with sleepTo := none, sleepAcked := false, txq := t.txq.filter (fun w => !w.sleep) }
    else s) s

/-- DOMAIN_SET (R418 to R421). It waits in the Goose until the boot ends (R443). -/
def execDomainSet (s : State) : Outcome :=
  if !s.mgt.bootDone then stutter s
  else mgmt 64 0x84 s (fun r =>
    let e := r.entry
    let order := setDomains.find? (fun d => s.breaksOrder e 24 d)
    let win := (List.range 16).find? (fun d => targetCode e 24 d == 3 && s.windowOn d)
    let owned := [20, 21].find? (fun d => targetCode e 24 d == 3 && s.stackOwned (d - 20))
    s.mgmtDesc 64
      [ (24, setDomains.all (fun d => targetCode e 24 d == 0)), (29, decide (leAt e 29 1 / 64 ≠ 0)),
        (30, decide (1000 < leAt e 30 2)), (34, decide (leAt e 34 1 / 16 ≠ 0)), reservedBad e 35 64 ]
      (match order with
        | some d => s.mgmtMal 64 subDomainOrder d
        | none => match win with
          | some d => s.mgmtMal 64 subDomainWindow d
          | none => match owned with
            | some d => s.mgmtMal 64 subDomainOwned d
            | none =>
              let s := setDomains.foldl (fun (s : State) d =>
                match targetState (targetCode e 24 d) with
                | none => s
                | some t =>
                  if (s.domSt d).rank ≤ t.rank then s
                  else if d < 16 ∧ s.domSt d = .on then s.setIslet d { s.islet d with quiesce := true }
                  else if 22 ≤ d ∧ d < 32 ∧ (s.port (d - 22)).st = .up then
                    (s.setPort (d - 22) { s.port (d - 22) with sleepTo := some t, sleepAcked := false }).sleepNote (d - 22) .sleepReq (t == .off)
                  else s) s
              s.mgmtWait 64 [1]))

/-! ### WAKE_ARM and wakes (R426 to R428) -/

/-- The load that the Goose knows, in µA (R428). -/
def knownLoad (ports : BitVec 10) (pins : BitVec 8) : Nat :=
  300 + 400 * ((List.range 10).filter (fun p => ports.getLsbD p)).length + 50 * ((List.range 8).filter (fun k => pins.getLsbD k)).length

/-- Arm or disarm a source. -/
def State.setArm (s : State) (src : Nat) (arm : Bool) (targets : List Nat) : State :=
  let w := s.power
  let ports := if src < 10 then setBit w.wakePorts src arm else w.wakePorts
  let pins := if src < 10 then w.wakePins else setBit w.wakePins (src - 16) arm
  { s with power := { w with wakePorts := ports, wakePins := pins, loadUa := BitVec.ofNat 12 (knownLoad ports pins),
                             wakeTargets := Table.set [] w.wakeTargets src (if arm then targets else []) } }

/-- WAKE_ARM (R426). -/
def execWakeArm (s : State) : Outcome :=
  mgmt 64 0x85 s (fun r =>
    let e := r.entry
    let src := leAt e 24 1
    let arm := bit (leAt e 25 1) 0
    let port := decide (src < 10)
    let pin := decide (16 ≤ src ∧ src < 24)
    let low := setDomains.filter (fun d => decide (1 < targetCode e 40 d))
    let at_ : Nat → Nat := fun d => if d < 16 then 40 + d / 4 else if d < 20 then 44 else if d < 22 ∨ d = 32 then 45 else 48 + (d - 22) / 4
    let p := s.pin (src - 16)
    let pinOk := p.configured && p.func == 0 && !p.oe && p.irq != 0
    let closed := setDomains.find? (fun d =>
      targetCode e 40 d == 1 && (if d < 16 then !([16, 17, 18, 19].any (fun k => s.wouldBe e 40 k == .on))
        else if d < 20 then s.wouldBe e 40 (20 + (d - 16) / 2) == .off else false))
    s.mgmtDesc 64
      [ (24, !(port || pin) || (arm && port && !s.mgt.portWired.getLsbD src) || (arm && pin && !pinOk)),
        (25, decide (leAt e 25 1 / 2 ≠ 0)), reservedBad e 26 40,
        (at_ (low.headD 0), arm && !low.isEmpty), (45, decide (leAt e 45 1 / 64 ≠ 0)), reservedBad e 46 48,
        (48 + (if port then src / 4 else 0), arm && port && targetCode e 40 (22 + src) != 1), (50, decide (leAt e 50 1 / 16 ≠ 0)),
        reservedBad e 51 64 ]
      (match (if arm then closed else none) with
        | some d => s.mgmtMal 64 subDomainOrder d
        | none =>
          let s := s.setArm src arm (setDomains.filter (fun d => targetCode e 40 d == 1))
          let s := if pin then s.setPin (src - 16) { s.pin (src - 16) with fired := false } else s
          s.mgmtDone 64 0))

/-- AON_LP ends and the Goose and the host interface rise, if they are asleep (R430). -/
def State.wakeDie (s : State) (cause : Nat) : State :=
  let s := { s with power := { s.power with aonLp := false, lp := false } }
  (s.wakeDomain 33 cause).wakeDomain 34 cause

/-- An armed source fires (R427): it is disarmed, reported, and its targets rise. -/
def State.fireWake (s : State) (src cause : Nat) : State :=
  let targets := Table.get [] s.power.wakeTargets src
  let s := s.setArm src false []
  let s := { s with gpio := { s.gpio with wakeOut := decide (s.domSt 34 ≠ DomState.on) } }
  let s := s.raiseEvent 16 0x0304 noQueue 0 [BitVec.ofNat 8 src]
  let s := s.wakeDie cause
  targets.foldl (fun s d => s.wakeDomain d cause) s

/-- PIN_WAKE (R427, R497): an armed pin whose PENDING rose fires. -/
def execPinWake (k : Nat) (s : State) : Outcome :=
  if k < 8 ∧ (s.pin k).fired ∧ s.power.wakePins.getLsbD k then
    .next ((s.setPin k { s.pin k with fired := false }).fireWake (16 + k) 2)
  else stutter s

/-! ### AON low power and the D states of the PF (R429, R430) -/

/-- AON_LP (R429). -/
def execAonLp (s : State) : Outcome :=
  mgmt 64 0x88 s (fun r =>
    let on := setDomains.find? (fun d => s.settled d == .on || s.domSt d == .on)
    let load := knownLoad s.power.wakePorts s.power.wakePins
    s.mgmtDesc 64 [reservedBad r.entry 24 64]
      (match on with
        | some d => s.mgmtMal 64 subAonState d
        | none =>
          if 2600 < load then s.mgmtMal 64 subBudget load
          else ({ s with power := { s.power with aonLp := true } } : State).mgmtDone 64 0))

/-- PF_D3HOT (R429): after AON_LP the host interface and the Goose go to RET and the regulator to low power.
Otherwise no domain changes. -/
def execPfD3hot (s : State) : Outcome :=
  if s.power.d3hot || s.domSt 33 != .on then stutter s
  else
    let s := { s with power := { s.power with d3hot := true } }
    if s.power.aonLp then
      let s := (s.setDomain 33 { s.domain 33 with st := .ret, target := none, since := s.time }).setDomain 34
        { s.domain 34 with st := .ret, target := none, since := s.time }
      .next { s with power := { s.power with lp := true } }
    else .next s

/-- AON_LP_EXIT_TLP (R430): a TLP from the host ends AON_LP. -/
def execAonLpExitTlp (s : State) : Outcome :=
  if s.power.aonLp || s.power.lp then .next (s.wakeDie 3) else stutter s

/-- Deliver the events that waited and wait no more, oldest first. -/
def State.releaseEvents (s : State) : State :=
  let due := s.power.heldEvents.filter (fun ev => !s.hostHeld (evRing ev.ring))
  let t := due.foldl State.deliverEvent
    { s with power := { s.power with heldEvents := s.power.heldEvents.filter (fun ev => s.hostHeld (evRing ev.ring)) } }
  (due.map Event.ring).eraseDups.foldl (fun s e => s.judge (s.checkEvents e)) t

/-- Write every completion that waits and has room. -/
def State.releaseRing : Nat → Nat → State → State
  | 0, _, s => s
  | fuel + 1, c, s => State.releaseRing fuel c (s.postWaiting c)

/-- Post everything that waited and waits no more. -/
def State.releaseHeld (s : State) : State :=
  let s := (List.range 17).foldl State.markerDue s
  (List.range 65).foldl (fun s c => (State.releaseRing (s.ring c).waiting.length c s).reportFull c) s.releaseEvents

/-- PF_D0_RETURN (R430): held events and completions are posted. -/
def execPfD0Return (s : State) : Outcome :=
  if !s.power.d3hot || !s.on 33 then stutter s
  else .next ({ s with power := { s.power with d3hot := false } } : State).releaseHeld

/-! ### Pace and voltage (R406 to R414) -/

/-- The voltage that a pace cap requires, in mV (R407). -/
def requiredMv (cap : Nat) : Nat :=
  if cap ≤ 90 then 600 else if cap ≤ 130 then 700 else if cap ≤ 150 then 750 else if cap ≤ 180 then 850 else 900

/-- The largest pace cap that a voltage allows (R407). -/
def largestCap (mv : Nat) : Nat :=
  if mv < 600 then 0 else if mv < 700 then 90 else if mv < 750 then 130 else if mv < 850 then 150 else if mv < 900 then 180 else 195

/-- PACE_SET (R408). -/
def execPaceSet (s : State) : Outcome :=
  mgmt 64 0x86 s (fun r =>
    let cap := leAt r.entry 24 1
    s.mgmtDesc 64 [(24, decide (cap < 10) || decide (195 < cap)), reservedBad r.entry 25 64]
      (if s.power.volt.toNat < requiredMv cap then s.mgmtEnd 64 stPaceOrder 0
       else ({ s with power := { s.power with paceCap := BitVec.ofNat 8 cap } } : State).mgmtDone 64 0))

/-- VOUT_COMMAND for a target and a VOUT_MODE exponent (R413): the ceiling of mV ÷ 1000 × 2^-N. -/
def voutCommand (mv : Nat) (n : Int) : Nat :=
  if n < 0 then (mv * 2 ^ (-n).toNat + 999) / 1000 else (mv + 1000 * 2 ^ n.toNat - 1) / (1000 * 2 ^ n.toNat)

/-- Code of VOUT_COMMAND, CLEAR_FAULTS and OPERATION in PMBus 1.3. -/
def pmVoutCommand : Nat := 0x21
def pmClearFaults : Nat := 0x03
def pmOperation : Nat := 0x01

/-- VOLT_SET (R409, R412). With a regulator that is not ULINEAR16 no STATUS_WORD is read and the detail word is
not stated (DESIGN CHOICE, log entry 3). -/
def execVoltSet (s : State) : Outcome :=
  mgmt 64 0x87 s (fun r =>
    let mv := leAt r.entry 24 2
    s.mgmtDesc 64 [(24, decide (mv < 600) || decide (900 < mv)), reservedBad r.entry 26 64]
      (if largestCap mv < s.power.paceCap.toNat then s.mgmtEnd 64 stPaceOrder 0
       else if !s.power.linear16 then s.freeTaken.mgmtMal 64 subPmbus (s.freeValue 32).toNat
       else
         let w := s.power
         let s := { s with power := { w with voltGoal := some mv, voltGood := 0, voltPrev := w.volt.toNat, voltStart := s.time } }
         (s.emit (.pmbus pmVoutCommand (voutCommand mv w.exponent))).mgmtWait 64 []))

/-- A VOLT_SET that fails writes the previous voltage back (R409). -/
def State.voltFailed (s : State) (status : BitVec 16) : State :=
  let w := s.power
  let s := { s with power := { w with voltGoal := none, voltGood := 0 } }
  (s.emit (.pmbus pmVoutCommand (voutCommand w.voltPrev w.exponent))).mgmtMal 64 subPmbus status.toNat

/-- VOUT_POLL (R409): READ_VOUT and STATUS_WORD, 50 µs after the last. A poll that would come after the 5 ms is not made: VOLT_SET_TIMEOUT
is due. Any STATUS_WORD but 0 reports a fault (DEDUCED, log entry 94). -/
def execVoutPoll (mv : Nat) (status : BitVec 16) (s : State) : Outcome :=
  match s.power.voltGoal, s.mgmtBusy 64 0x87 with
  | some goal, some _ =>
    if s.power.voltStart + 500000 < s.time + 5000 then stutter s else
    let s := s.advanceTo (s.time + 5000)
    if status != 0 then .next (s.voltFailed status)
    else if goal ≤ mv + 15 ∧ mv ≤ goal + 15 then
      (if 1 ≤ s.power.voltGood then
         .next (({ s with power := { s.power with voltGoal := none, voltGood := 0, volt := BitVec.ofNat 10 goal } } : State).mgmtDone 64 0)
       else .next { s with power := { s.power with voltGood := 1 } })
    else .next { s with power := { s.power with voltGood := 0 } }
  | _, _ => stutter s

/-- VOLT_SET_TIMEOUT (R409): 5 ms without two readings in the band. The detail is the STATUS_WORD, which has
reported no fault (log entry 94). -/
def execVoltSetTimeout (s : State) : Outcome :=
  match s.power.voltGoal, s.mgmtBusy 64 0x87 with
  | some _, some _ => .next ((s.advanceTo (s.power.voltStart + 500000)).voltFailed 0)
  | _, _ => stutter s

/-- PMBUS_TELEMETRY_READ (R412): the readings are kept for telemetry only. -/
def execPmbusTelemetryRead (mv ma : Nat) (tempC : Int) (s : State) : Outcome :=
  if s.gooseUp then .next { s with power := { s.power with lastMv := mv, lastMa := ma, lastTemp := tempC } } else stutter s

/-- PMBUS_ALERT (R414). -/
def execPmbusAlert (status : BitVec 16) (s : State) : Outcome :=
  if !s.gooseUp then stutter s
  else
    let w := s.power
    let s := { s with power := { w with pmbusLast := status, pmbusFault := true, pmbusCount := satInc w.pmbusCount } }
    .next ((s.thermEvent 3 0).emit (.pmbus pmClearFaults 0))

/-- PACE_SHORTFALL (R410): the event at most once in each 100 ms of the time base. -/
def execPaceShortfall (s : State) : Outcome :=
  if s.power.tripped || !s.boot.porHigh then stutter s
  else
    let w := s.power
    let period := s.time / 10000000
    let told := decide (w.shortTold = some period)
    let s := { s with power := { w with shortfall := true, shortCount := satInc w.shortCount, shortTold := some period } }
    .next (if told then s else s.thermEvent 4 0)

/-! ### Power limit and temperature (R54, R398, R432, R433) -/

/-- POWER_LIMIT_CHECK (R54): OVER_LIMIT follows the 100 ms average; the event marks each crossing. -/
def execPowerLimitCheck (avgW : Nat) (s : State) : Outcome :=
  if s.power.tripped then stutter s
  else
    let high := decide (s.power.limitW.toNat < avgW)
    let was := s.power.overLimit
    let s := { s with power := { s.power with overLimit := high } }
    .next (if high && !was then s.thermEvent 1 0 else s)

/-- THERMAL_ALERT (R432): the 100 ms average of the hottest sensor reaches the threshold, or falls below it by
more than the hysteresis. -/
def execThermalAlert (avgC : Int) (s : State) : Outcome :=
  let w := s.power
  if w.tripped then stutter s
  else if (w.thresholdC.toNat : Int) ≤ avgC then
    (if w.alert then stutter s
     else .next (({ s with power := { w with alert := true, alertSeen := true, alertCount := satInc w.alertCount } } : State).thermEvent 0 0))
  else if avgC < (w.thresholdC.toNat : Int) - w.hystC.toNat then .next { s with power := { w with alert := false } }
  else stutter s

/-- TELEMETRY_UPDATE (R398): 100 ms averages in whole watts and degrees. -/
def execTelemetryUpdate (avgW : Nat) (avgC : Int) (s : State) : Outcome :=
  if s.gooseUp then
    .next { s with power := { s.power with powerW := BitVec.ofNat 10 (Nat.min avgW 0x3FF), tempC := BitVec.ofInt 8 avgC } }
  else stutter s

end Sys2Proof.Machine
end

