-- ==== Sys2Proof/Machine/Partition.lean ====
section
/-!
DEFINITION. Partitions and tenants (14): PART_CREATE, TENANT_BEGIN, TENANT_END, PART_DESTROY, the tenant switch,
and function-level resets. What the fill engine does when a run ends stands in Boot.lean.
-/

namespace Sys2Proof.Machine

def subPartState : Nat := 0x18
def subOwned : Nat := 0x19
def subMachinePart : Nat := 0x1A
def subKeyPoint : Nat := 0x1B

/-! ### Clearing Islets (R376, R396, R425) -/

/-- Clear Islet `n` for a partition: in place where it is ON or OFF; from RET it goes OFF and stays there, reported as a tenant
switch's doing (R422) with the queue and tag of the command that caused it, unless it is a PART_CREATE, which waits for it. -/
def State.clearIslet (s : State) (n : Nat) (cause : Option (Nat × Word)) : State :=
  match s.settled n with
  | .on => s.isletLost n
  | .ret =>
    let s := s.enterState n .off
    let s := s.setDomain n { s.domain n with target := none, wake := none, told := false }
    (match cause with
      | some (q, seq) => s.reachedEvent n .off 4 q seq
      | none => s)
  | .off => s.isletLost n

/-! ### Fills for a partition (R284, R425) -/

/-- The domains that a fill of granules needs: each stack and its slices. -/
def fillDomains (gs : List Nat) : List Nat :=
  (if gs.any (fun g => decide (g < 96)) then [20, 16, 17] else []) ++ (if gs.any (fun g => decide (96 ≤ g)) then [21, 18, 19] else [])

/-- Queue a fill run, raising the domains in RET that it needs (R425). -/
def State.queueFill (s : State) (gs : List Nat) (purpose part key : Nat) : State :=
  let up := (fillDomains gs).filter (fun d => s.settled d == .ret)
  let s := up.foldl (fun s d => s.beginMove d .on true 0) s
  { s with up := { s.up with fill := s.up.fill ++
      [{ granules := gs, purpose := purpose, part := part, key := key, start := s.time, raised := up }] } }

/-- The run may be filled now: the stacks of its granules are ON, and a key that has still to be drawn waits for the
TRNG (R371). -/
def State.mayFill (s : State) (r : FillRun) : Bool :=
  (fillDomains r.granules).all (fun d => d < 20 || s.on d) && r.raised.all s.on && (r.purpose != 2 || s.mgt.trngReady)

/-- A run is being filled: the first of the list, where it may be (R284, R289). -/
def State.fillBusy (s : State) : Bool :=
  match s.up.fill with
  | [] => false
  | r :: _ => s.mayFill r

/-- Partition `p` has a new at-rest key (R349). -/
def State.newAtRest (s : State) (p : Nat) : State :=
  { s.freeTaken with store := { s.store with atRest := Table.set [] s.store.atRest p (s.random 64) } }

/-! ### PART_CREATE (R375, R376) -/

/-- STATE of PART_STATUS. -/
def PartState.code : PartState → Nat
  | .none => 0
  | .created => 1
  | .active => 2
  | .clearing => 3

/-- The other dies of the machine hear of the state of partition `p` on this one: the lead of that on every die, and every die of that on the
lead (R379; the message, DEDUCED, log entry 91). -/
def State.tellPart (s : State) (p code : Nat) : State :=
  (if s.follower then [0] else s.otherDies).foldl (fun s d => s.forward d .part [p, code]) s

/-- The machine lead takes a tenant command to every other die that holds partition `p` (R379): 0 TENANT_BEGIN, 1 TENANT_END,
2 PART_DESTROY. -/
def State.actElsewhere (s : State) (op p : Nat) (ide : Bool) : State :=
  (((s.part p).others.filter (fun e => e.2 != 0)).map Prod.fst).foldl (fun s d => s.forward d .act [op, p, b2n ide]) s

/-- Every other die that holds partition `p` has it in this state. -/
def Part.othersAre (t : Part) (code : Nat) : Bool := t.others.all (fun e => e.2 == 0 || e.2 == code)

/-- Partition `p` has become CREATED: it is observed at once while a debug session names it (R399). -/
def State.nowCreated (s : State) (p q : Nat) (seq : Word) : State :=
  let s := (s.setPart p { s.part p with state := .created }).tellPart p 1
  if s.bus.dbgOpen && s.bus.dbgMask.getLsbD p then s.observeBy p q seq else s

/-- The end of a PART_CREATE: CREATED, and DONE with the measured time. -/
def State.endCreate (s : State) (p start : Nat) : State :=
  let took := (s.time - start) / 100
  let s := s.nowCreated p 64 (s.ringSeq 64)
  (s.setPart p { s.part p with clearTime := BitVec.ofNat 32 took }).mgmtDone 64 took

/-- PART_CREATE (R376). It waits in the Goose until the boot ends (R443), and for the TRNG once its checks have
passed. -/
def execPartCreate (s : State) : Outcome :=
  if !s.mgt.bootDone then stutter s
  else mgmt 64 0x80 s (fun r =>
    let e := r.entry
    let p := leAt e 24 1 % 16
    let isl := leAt e 26 2
    let gm := leAt e 32 24
    let ns := (List.range 16).filter (fun n => bit isl n)
    let gs := (List.range 191).filter (fun g => bit gm g)
    let stackBad := gs.any (fun g => s.mgt.hbmFail.getLsbD (g / 96))
    let takenI := ns.any (fun n => (s.isletOwner n).isSome)
    let takenG := gs.any (fun g => decide (s.owner g ≠ 0xFF))
    let onLead := Table.get 0 (s.part p).others 0
    let off := [20, 21].find? (fun d => gs.any (fun g => decide (20 + g / 96 = d)) && s.settled d == .off)
    s.mgmtDesc 64
      [ (24, decide (leAt e 24 1 / 16 ≠ 0)),
        (25, decide (leAt e 25 1 / 2 ≠ 0) || (bit (leAt e 25 1) 0 && !(decide (s.die ≠ 0) && s.boot.perstHigh))),
        (26, isl == 0 && gm == 0), reservedBad e 28 32, (32, bit gm 191 || stackBad), reservedBad e 56 64 ]
      (if (s.part p).state != .none then s.mgmtMal 64 subPartState 24
       else if takenI then s.mgmtMal 64 subOwned 26
       else if takenG then s.mgmtMal 64 subOwned 32
       else if s.follower && onLead != 1 && onLead != 2 then s.mgmtMal 64 subMachinePart 24
       else match off with
         | some d => s.mgmtMal 64 subDomainOrder d
         | none =>
           if !s.mgt.trngReady then s
           else
             let t := s.part p
             let s := s.setPart p { t with islets := BitVec.ofNat 16 isl, localRoute := bit (leAt e 25 1) 0 }
             let s := s.newAtRest p
             let s := gs.foldl (fun s g => s.setOwner g p) s
             let s := ns.foldl (fun s n => s.clearIslet n none) s
             let s := (s.mgmtWait 64 [p]).tellPart p 4
             if gs.isEmpty then s.endCreate p r.start else s.queueFill gs 1 p (16 + p)))

/-! ### TENANT_BEGIN (R377) -/

/-- A tenant session begins in partition `p`. -/
def State.beginTenant (s : State) (p : Nat) (ideRequired : Bool) : State :=
  (s.setPart p { s.part p with state := .active, ideReq := ideRequired, reportSeq := 0, refTotal := 0 }).tellPart p 2

/-- TENANT_BEGIN (R377, R379): for a machine partition it completes after the last die. -/
def execTenantBegin (s : State) : Outcome :=
  mgmt 64 0x82 s (fun r =>
    let e := r.entry
    let p := leAt e 24 1 % 16
    let ide := bit (leAt e 25 1) 0
    let t := s.part p
    s.mgmtDesc 64 [(24, decide (leAt e 24 1 / 16 ≠ 0)), (25, decide (leAt e 25 1 / 2 ≠ 0)), reservedBad e 26 64]
      (if s.follower then s.mgmtMal 64 subMachinePart 24
       else if t.state != .created || !t.othersAre 1 then s.mgmtMal 64 subPartState 24
       else
         let s := s.beginTenant p ide
         if t.wide then (s.actElsewhere 0 p ide).mgmtWait 64 [p] else s.mgmtDone 64 0))

/-! ### The tenant switch (R396) -/

/-- Step 1 and 2 for one queue of the partition: nothing more is polled, fetched or run, and no completion is
posted. The issuing ring keeps the command that started the switch. -/
def State.stopQueue (s : State) (q : Nat) (keep : Bool) : State :=
  let k := s.queue q
  s.setQueue q { k with entries := [], headOk := false, passed := false, pollOut := false, pollDue := false, fetchOut := 0,
                        discarding := false, discardTo := none, run := if keep then k.run else [] }

/-- No completion that waits for a ring of the partition is written any more: no further byte reaches its host memory (R396). -/
def State.dropWaiting (s : State) (p : Nat) : State :=
  [4 * p, 4 * p + 1, 4 * p + 2, 4 * p + 3].foldl (fun (s : State) c =>
    let r := s.ring c
    s.setRing c { r with waiting := [], generated := r.tail }) s

/-- A running SELFTEST of one of the partition's Islets stops without a completion (R474). -/
def State.stopTests (s : State) (p : Nat) : State :=
  (List.range 17).foldl (fun s i =>
    let q := 48 + i
    match (s.queue q).run with
    | r :: _ =>
      if eOpcode r.entry = 0x8E ∧ r.phase = .busy ∧ s.isletOwner (leAt r.entry 24 1 % 16) = some p then
        s.setQueue q { s.queue q with run := [] }
      else s
    | [] => s) s

/-- Is this a flit of a write by partition `p` (R294). -/
def pushFlitOf (p : Nat) (f : Flit) : Bool := f.typ == 0x20 && decide (leAt f.body 0 1 / 16 = p)

/-- Nothing of partition `p` stays queued for a link, waits for acknowledgements, or is pushed for it. -/
def State.stopTransfers (s : State) (p : Nat) : State :=
  let qs := s.queuesOf p
  let s := (List.range 10).foldl (fun (s : State) k =>
    let t := s.port k
    s.setPort k { t with txq := t.txq.filter (fun w => w.flit.src.toNat != s.die || !pushFlitOf p w.flit) }) s
  let s := (List.range 16).foldl (fun (s : State) n =>
    let i := s.islet n
    s.setIslet n { i with pushes := i.pushes.filter (fun u => decide (u.part ≠ p)) }) s
  { s with xfers := s.xfers.filter (fun e => match e.2.queue with
      | some q => !qs.contains q
      | none => decide (e.2.part ≠ p)) }

/-- The windows of `p` close without reconciliation (R396): a source on another die is told to give its grant
back, one of this die loses it. A grant held for `p` as a source stays only for its REVOKE_ACK. -/
def State.dropWindows (s : State) (p : Nat) : State :=
  let s := (List.range 16).foldl (fun (s : State) w =>
    let x := s.win p w
    if x.isOpen && !x.binding && x.srcDie.toNat != s.die && !x.closing then s.sendNote x.srcDie.toNat .revoke [p, w] else s) s
  let own := s.grants.filter (fun e => !(decide (e.1 / 256 = s.die) && decide (e.1 / 16 % 16 = p)))
  { s with grants := own.map (fun e => if e.2.srcPart = p then (e.1, { e.2 with srcPart := 16 }) else e) }

/-- The keys of partition `p` end with its tenant (R349, R396): a content key, and the at-rest key, for which a new one is drawn, once the
TRNG is ready (R371), unless the partition is destroyed. -/
def State.endKeys (s : State) (p : Nat) (destroy : Bool) : State :=
  let k := s.store
  let s := { s with store := { k with content := Table.set [] k.content p [], atRest := Table.set [] k.atRest p [] } }
  if destroy || !s.mgt.trngReady then s else s.newAtRest p

/-- The IDE stream of function `k` is Secure no longer, and its keys are gone (R395). -/
def State.ideInsecure (s : State) (k : Nat) : State :=
  ({ s with ideKeys := Table.set [] s.ideKeys k [] } : State).setPart (k - 1) { s.part (k - 1) with ideSecure := false }

/-- Steps 1 to 6 of the switch of partition `p` (DESIGN CHOICE, log entry 19): the state becomes CLEARING, everything that runs
stops, every memory of the partition but HBM is cleared, and the fill starts under the next key. -/
def State.startSwitch (s : State) (p : Nat) (issuer : Option Nat) (destroy : Bool) (start : Nat) : State :=
  let t := s.part p
  let gs := s.granulesOf p
  let ns := s.isletsOf p
  let s := (s.setPart p { t with state := .clearing }).tellPart p 3
  let s := if s.follower then s else s.actElsewhere (if destroy then 2 else 1) p false
  let s := s.setSwitch p (some { start := start, issuer := issuer, destroy := destroy, took := none })
  let s := (s.stopTests p).dropWaiting p
  let s := (s.queuesOf p).foldl (fun s q => s.stopQueue q (decide (issuer = some q))) s
  let s := (s.resetPartPins p).stopTransfers p
  let s := s.dropWindows p
  let s := ns.foldl (fun (s : State) n =>
    { (s.setInvs n []) with caches := s.caches.filter (fun c => decide (c.1 / 2 ^ 40 ≠ n)) }) s
  let s := gs.foldl (fun s g => s.discard (g * 2 ^ 28) (2 ^ 28)) s
  let s := ns.foldl (fun s n => s.clearIslet n (some (issuer.getD noQueue, (issuer.map s.ringSeq).getD 0))) s
  let u := s.up
  let s := { s with up := { u with recTenant := satInc u.recTenant, frozen := u.frozen && decide (u.breachPart.toNat ≠ p) },
                    frozen := s.frozen.filter (fun f => !gs.contains (f.1 / 128)) }
  let s := ((s.setSession (p + 1) {}).ideInsecure (p + 1)).endKeys p destroy
  let t := s.part p
  let s := s.setPart p { t with cues := [], windows := [], pkgId := 0, pkgDst := 0, pkgFrames := 0, loaded := false, binding := [],
                                bindCount := 0, pkgDigest := 0, perf := [], halted := false }
  s.queueFill gs 2 p (if destroy then 1 else 16 + p)

/-- The set-up registers of the partition's queues and rings return to their reset values, with the event counts of
its ring (R204, R480). A completion that still waits, which can only be the switch's own, is held until the ring is enabled again
(R220). -/
def State.resetPartRings (s : State) (p : Nat) : State :=
  let s := (s.queuesOf p).foldl (fun s q => (s.setQueue q {}).tellLead q) s
  let s := [4 * p, 4 * p + 1, 4 * p + 2, 4 * p + 3, evRing p].foldl (fun (s : State) c =>
    let w := (s.ring c).waiting
    s.setRing c { ({} : Ring) with waiting := w, generated := BitVec.ofNat 32 w.length }) s
  { s with power := { s.power with heldEvents := s.power.heldEvents.filter (fun ev => decide (ev.ring ≠ p)) } }

/-- PART_DESTROY releases every Islet and granule of `p` (R378, R485). -/
def State.releasePart (s : State) (p : Nat) : State :=
  let s := s.returnPins p
  let s := (s.granulesOf p).foldl (fun s g => s.setOwner g 0xFF) s
  let t := s.part p
  s.setPart p { ({} : Part) with wayMask := t.wayMask, clearTime := t.clearTime, refSec := t.refSec, refTotal := t.refTotal, others := t.others }

/-- Step 8, once the last granule is filled and every other die has finished: the completion on the issuing ring,
the resets of the partition's rings, TENANT_CLEARED, and the release of a destroyed partition. -/
def State.endSwitch (s : State) (p : Nat) : State :=
  match s.switchOf p with
  | none => s
  | some w =>
    match w.took with
    | none => s
    | some us =>
      if !s.follower && !(s.part p).othersAre (if w.destroy then 0 else 1) then s
      else
        let s := s.setSwitch p none
        let by_ := (w.issuer.getD noQueue, (w.issuer.map s.ringSeq).getD 0)
        let s := match w.issuer with
          | some q => (s.mgmtDone q us).complete q 0
          | none => s
        let s := s.resetPartRings p
        let s := if w.destroy then (s.releasePart p).tellPart p 0 else s.nowCreated p by_.1 by_.2
        s.raiseEvent 16 0x0602 by_.1 by_.2 ([BitVec.ofNat 8 p, 0, 0, 0] ++ leBytes 4 us)

/-- Step 7: the last granule is filled. -/
def State.switchFilled (s : State) (p : Nat) : State :=
  match s.switchOf p with
  | none => s
  | some w =>
    let us := (s.time - w.start) / 100
    let s := s.setSwitch p (some { w with took := some us })
    let s := s.setPart p { s.part p with observed := false, clearTime := BitVec.ofNat 32 us }
    s.endSwitch p

/-- TENANT_END (R396, R379). On the operator ring it names the partition as TENANT_BEGIN does (DEDUCED, log entry 18). -/
def execTenantEnd (q : Nat) (s : State) : Outcome :=
  mgmt q 0x83 s (fun r =>
    let e := r.entry
    let p := if q = 64 then leAt e 24 1 % 16 else ringPart q
    let checks := if q = 64 then [(24, decide (leAt e 24 1 / 16 ≠ 0)), reservedBad e 25 64] else [reservedBad e 24 64]
    s.mgmtDesc q checks
      (if s.follower then s.mgmtMal q subMachinePart 24
       else if (s.part p).state != .active then s.mgmtMal q subPartState 24
       else (s.mgmtWait q [p]).startSwitch p (some q) false r.start))

/-- PART_DESTROY (R378, R379). -/
def execPartDestroy (s : State) : Outcome :=
  mgmt 64 0x81 s (fun r =>
    let e := r.entry
    let p := leAt e 24 1 % 16
    let st := (s.part p).state
    s.mgmtDesc 64 [(24, decide (leAt e 24 1 / 16 ≠ 0)), reservedBad e 25 64]
      (if s.follower then s.mgmtMal 64 subMachinePart 24
       else if st == .none || st == .clearing then s.mgmtMal 64 subPartState 24
       else (s.mgmtWait 64 [p]).startSwitch p (some 64) true r.start))

/-! ### Machine partitions (R379) -/

/-- What waits for the other dies that hold partition `p` goes on: TENANT_BEGIN, or the end of a switch. -/
def State.othersDone (s : State) (p : Nat) : State :=
  let s := match s.mgmtBusy 64 0x82 with
    | some r => if r.aux = [p] && (s.part p).othersAre 2 then s.mgmtDone 64 0 else s
    | none => s
  s.endSwitch p

/-- Another die tells the state of partition `p` on it. -/
def State.partIs (s : State) (d p code : Nat) : State :=
  let t := s.part p
  let s := s.setPart p { t with others := Table.set 0 t.others d code }
  if s.follower then s
  else
    -- a die that was still creating the partition when it was destroyed
    let s := match s.switchOf p with
      | some w => if w.destroy && code == 1 then s.forward d .act [2, p, 0] else s
      | none => s
    s.othersDone p

/-- The machine lead takes a tenant command to this die. -/
def State.actHere (s : State) (op p : Nat) (ide : Bool) : State :=
  let st := (s.part p).state
  if !s.follower then s
  else match op with
    | 0 => if st == .created then s.beginTenant p ide else s
    | 1 => if st == .active then s.startSwitch p none false s.time else s
    | _ => if st == .created || st == .active then s.startSwitch p none true s.time else s

/-! ### Function-level resets (R382, R393) -/

/-- The configuration state of a function returns to its reset value, its MSI-X table with it (R382; PRESUMED, log entry 39). -/
def State.resetConfig (s : State) (fn : Nat) : State :=
  { s with pcie := Table.set {} s.pcie fn {}, msixWord := Table.clear s.msixWord (512 * fn) (512 * fn + 512),
           msixOpen := Table.clear s.msixOpen (128 * fn) (128 * fn + 128), msixPend := Table.clear s.msixPend (128 * fn) (128 * fn + 128) }

/-- VF_FLR (R382): while the partition is ACTIVE it acts as a TENANT_END by the operator. The VF's SPDM session, its IDE stream and its
configuration state end. An auxiliary port has no VFs (R48). -/
def execVfFlr (fn : Nat) (s : State) : Outcome :=
  if fn = 0 ∨ 16 < fn ∨ s.die ≠ 0 then stutter s
  else
    let p := fn - 1
    let s := (s.resetConfig fn).setSession fn {}
    let s := { s with ideOn := Table.set false s.ideOn fn false }
    let s := s.ideInsecure fn
    .next (if (s.part p).state == .active then s.startSwitch p none false s.time else s)

/-- PF_FLR (R382): the set-up registers of the operator ring and the PF's configuration state return to their reset values. What runs
goes on, and completions wait until the ring is enabled again (R220). The feeder host of an auxiliary port has no ring: there only the
port's own configuration is reset (R48). -/
def execPfFlr (s : State) : Outcome :=
  let s := s.resetConfig 0
  if s.die ≠ 0 then .next s else
  let k := s.queue 64
  let r := s.ring 64
  let v := s.ring (evRing 16)
  let s := s.setQueue 64 { ({} : Queue) with run := k.run }
  let s := s.setRing 64 { ({} : Ring) with waiting := r.waiting, generated := BitVec.ofNat 32 r.waiting.length }
  let s := s.setRing (evRing 16) { ({} : Ring) with raised := v.raised, coalesced := v.coalesced, written := v.written, since := v.since,
                                                    classes := v.classes }
  let s := s.setSession 0 {}
  .next ({ s with power := { s.power with d3hot := false } } : State).releaseHeld

end Sys2Proof.Machine
end

