-- ==== Sys2Proof/Machine/Goose.lean ====
section
/-!
DEFINITION. What the Goose alone does (13, 14): attestation, SPDM and IDE, signed commands and fuses, firmware staging,
randomness, weight packages, exports, and joining a machine. Signatures, digests, key agreements and ciphertexts are computed by the
published standards (Crypto.lean); SPDM's own messages are the standard's (DESIGN CHOICE, log entry 4).
-/

namespace Sys2Proof.Machine

def subJoin : Nat := 0x08
def subFwImage : Nat := 0x10
def subPackage : Nat := 0x11
def subPackageLoaded : Nat := 0x12
def subBodyAuth : Nat := 0x13
def subLastSlot : Nat := 0x14
def subSlotState : Nat := 0x15
def subWindowOverlap : Nat := 0x16
def subHostRead : Nat := 0x17

/-! ### Bytes -/

/-- ASCII bytes of the magic words. -/
def magicOaut : List Byte := [0x4F, 0x41, 0x55, 0x54]
def magicOfwi : List Byte := [0x4F, 0x46, 0x57, 0x49]
def magicOwpk : List Byte := [0x4F, 0x57, 0x50, 0x4B]
def magicOatr : List Byte := [0x4F, 0x41, 0x54, 0x52]
def magicOexp : List Byte := [0x4F, 0x45, 0x58, 0x50]
def magicObcr : List Byte := [0x4F, 0x42, 0x43, 0x52]
def textKcv : List Byte := [0x4F, 0x57, 0x50, 0x4B, 0x2D, 0x4B, 0x43, 0x56]
def textWrap : List Byte := [0x4F, 0x57, 0x50, 0x4B, 0x2D, 0x57, 0x52, 0x41, 0x50]
def textExport : List Byte := [0x4F, 0x45, 0x58, 0x50, 0x2D, 0x4B, 0x45, 0x59]

/-- Host memory that the running management command of ring `q` needs: the bytes go to `f` once they have come; until
then the read numbered `i` of the command is issued and waited for. A failed read ends the command (R526); `off` is
the entry's field that named the address. -/
def State.needHost (s : State) (q : Nat) (r : Run) (i a n off : Nat) (f : List Byte → State) : State :=
  match hostGot r a n with
  | some l => f l
  | none =>
    if r.hostErr.isSome then s.mgmtMal q subHostRead off
    else if r.steps ≤ i then (s.toHost q (.hostRead (ringOwnerFn q) a n)).setRun q 0 { r with steps := i + 1 }
    else s

/-! ### Attestation (R389 to R392) -/

/-- The character of a lot code (R347). -/
def lotChar (c : Nat) : Byte := BitVec.ofNat 8 (if c < 10 then 0x30 + c else if c < 36 then 0x37 + c else 0)

/-- Slots that hold a key: bit k, slot k (R347). -/
def installedSlots (f : Fuses) : Nat :=
  (List.range 4).foldl (fun m k => m + b2n ((f.slotHash.getD k 0) ≠ 0) * 2 ^ k) 0

/-- First byte of a firmware slot in the boot flash (R351). -/
def slotBase (b : Bool) : Nat := if b then 0x900000 else 0x100000

/-- The image of a firmware slot: header and body (R352). -/
def State.image (s : State) (slot : Bool) : List Byte :=
  Memory.bytes s.flash (slotBase slot) (256 + leNat (Memory.bytes s.flash (slotBase slot + 8) 4))

/-- A signature under the die's identity key (R349); its random number is fresh TRNG output. -/
def State.identitySign (s : State) (body : List Byte) : List Byte :=
  ecdsaSign (beNat s.store.identity) (privateKey (s.random 48)) (sha384 body)

/-- PFLAGS of partition `p` (R390). -/
def Part.flags (t : Part) : Nat :=
  b2n t.observed + b2n t.loaded * 2 + b2n t.localRoute * 4 + b2n t.ideReq * 8 + b2n t.ideSecure * 16

/-- The 24 bytes of a partition's granule mask. -/
def State.granuleMask (s : State) (p : Nat) : Nat := (s.granulesOf p).foldl (fun m g => m + 2 ^ g) 0

/-- This die's section of a report (R390). -/
def State.dieSection (s : State) (p : Option Nat) : List Byte :=
  let f := s.fuses
  let head := leBytes 8 f.serial.toNat ++ (List.range 6).map (fun k => lotChar (bits f.lot.toNat (6 * k + 5) (6 * k)))
    ++ leBytes 1 f.wafer.toNat ++ leBytes 1 s.die ++ leBytes 1 f.dieX.toNat ++ leBytes 1 f.dieY.toNat
    ++ leBytes 1 f.revLetter.toNat ++ leBytes 1 (0x30 + f.revNumber.toNat) ++ leBytes 1 s.mgt.fusedSv.toNat
    ++ leBytes 1 s.mgt.runningSv.toNat ++ leBytes 1 (b2n s.mgt.slotRunning)
    ++ leBytes 1 (installedSlots f + 16 * f.revoked.toNat) ++ sha (s.image s.mgt.slotRunning)
    ++ sha (publicKey (beNat s.store.identity))
  match p with
  | none => slice head 0 224
  | some p =>
    let t := s.part p
    slice (head ++ (if t.loaded then digestBytes t.pkgDigest else List.replicate 48 0)
      ++ leBytes 8 (if t.loaded then t.pkgId.toNat else 0) ++ leBytes 2 t.islets.toNat ++ leBytes 2 t.wayMask.toNat
      ++ leBytes 1 t.flags ++ leBytes 3 0 ++ leBytes 24 (s.granuleMask p)) 0 224

/-- A report of partition `p`, or of the device, with its signature, and the state that has counted it (R389). -/
def State.report (s : State) (p : Option Nat) (nonce : List Byte) (others : Sections) : List Byte × State :=
  let s := match p with
    | some k => s.setPart k { s.part k with reportSeq := (s.part k).reportSeq + 1 }
    | none => { s with mgt := { s.mgt with devReports := s.mgt.devReports + 1 } }
  let seq := match p with
    | some k => (s.part k).reportSeq
    | none => s.mgt.devReports
  let others := if s.mgt.machineMode && s.mgt.machineLead then others else []
  let secs := sortBy (fun a b => decide (a.1 ≤ b.1)) ((s.die, s.dieSection p) :: others)
  let observed := secs.any (fun x => bit (leAt x.2 180 1) 0)
  let body := magicOatr ++ leBytes 2 1 ++ leBytes 1 secs.length ++ leBytes 1 (p.getD 0xFF)
    ++ leBytes 8 (secs.foldl (fun m x => m + 2 ^ x.1) 0) ++ slice nonce 0 32 ++ leBytes 4 seq.toNat
    ++ leBytes 1 (b2n s.mgt.machineMode + 2 * b2n observed) ++ leBytes 11 0 ++ secs.flatMap (fun x => slice x.2 0 224)
  (body ++ s.identitySign body, s.freeTaken)

/-- The partition of a control ring; none for the operator's. -/
def reportPart (q : Nat) : Option Nat := if q = 64 then none else some (ringPart q)

/-- ATTEST (R392). Its signature needs fresh random values, so it waits for the TRNG (R371). -/
def execAttest (q : Nat) (others : Sections) (s : State) : Outcome :=
  mgmt q 0x89 s (fun r =>
    if !s.mgt.trngReady then s else
    let (l, s) := s.report (reportPart q) (slice r.entry 32 32) others
    (s.toHost q (.hostWrite (ringOwnerFn q) (leAt r.entry 24 8) l)).mgmtDone q l.length)

/-! ### SPDM and IDE (R393 to R395) -/

/-- Request codes of SPDM 1.2 (PRESUMED, log entry 32). -/
def spGetDigests : Nat := 0x81
def spGetCertificate : Nat := 0x82
def spChallenge : Nat := 0x83
def spGetVersion : Nat := 0x84
def spGetMeasurements : Nat := 0xE0
def spGetCapabilities : Nat := 0xE1
def spNegotiate : Nat := 0xE3
def spKeyExchange : Nat := 0xE4
def spFinish : Nat := 0xE5
def spEndSession : Nat := 0xEC

/-- The message ERROR with SessionLimitExceeded (R393, PRESUMED, log entry 32). -/
def sessionLimit : List Byte := [0x12, 0x7F, 0x0A, 0x00]

/-- The session of a function ends, and its IDE stream with it (R393, R395). -/
def State.endSession (s : State) (fn : Nat) : State :=
  let s := s.setSession fn {}
  if fn = 0 then s else s.ideInsecure fn

/-- Label of the IDE stream keys (R395). -/
def textIde : List Byte := [0x4F, 0x52, 0x53, 0x49, 0x41, 0x2D, 0x49, 0x44, 0x45]

/-- The six keys of IDE stream `k`, by direction and sub-stream (R395); each of 32 bytes, for AES-256. -/
def State.streamKeys (s : State) (k : Nat) : List (List Byte) :=
  [(0, 0), (0, 1), (0, 2), (1, 0), (1, 1), (1, 2)].map (fun x =>
    kdf (s.session k).secret (textIde ++ leBytes 1 k ++ leBytes 1 x.1 ++ leBytes 1 x.2) 32)

/-- What the responder of function `fn` answers a request with this code, and what it does to the session: the response
and the new state, or none while it waits for the TRNG (R371, R393). `ok` is the verdict of FINISH. -/
def State.answerTo (s : State) (fn code : Nat) (request : List Byte) (ok : Bool) (others : Sections) : Option (List Byte × State) :=
  let v := s.session fn
  let plain := Config.spdmResponse fn code v.transcript request []
  if code = spGetMeasurements then
    (if !s.mgt.trngReady then none
     else
       let (l, s) := s.report (if fn = 0 then none else some (fn - 1)) (slice request 4 32) others
       some (Config.spdmResponse fn code v.transcript request l, s))
  else if code = spChallenge then (if s.mgt.trngReady then some (plain, s) else none)
  else if code = spKeyExchange then
    (if v.opening || v.live then some (sessionLimit, s)
     else if !s.mgt.trngReady then none
     else some (plain, s.freeTaken.setSession fn { v with opening := true, secret := Config.spdmSecret fn v.transcript request s.freeCtr,
                                                          keys := Config.spdmKeys fn v.transcript request s.freeCtr }))
  else if code = spFinish then
    some (plain, if v.opening then s.setSession fn (if ok then { v with opening := false, live := true } else { transcript := v.transcript }) else s)
  else if code = spEndSession then some (plain, s.endSession fn)
  else if code = spGetVersion then some (plain, s.setSession fn { v with transcript := [] })
  else some (plain, s)

/-- The responder answers, and keeps the request and the response. -/
def State.respond (s : State) (fn code : Nat) (request : List Byte) (ok : Bool) (others : Sections) : Option (List Byte × State) :=
  (s.answerTo fn code request ok others).map (fun x =>
    let v := x.2.session fn
    (x.1, x.2.setSession fn { v with transcript := v.transcript ++ request ++ x.1 }))

/-- A SESSION_EXCHANGE of function `fn`'s ring is being served. -/
def State.exchanging (s : State) (fn : Nat) : Bool :=
  (s.queue (if fn = 0 then 64 else fn + 47)).run.any (fun r => eOpcode r.entry == 0x8A && r.phase == .started)

/-- A request through a function's DOE mailbox: it waits while the ring's is served (R393). An auxiliary port has one function (R48). -/
def doe (fn code : Nat) (request : List Byte) (ok : Bool) (others : Sections) (s : State) : Outcome :=
  if 16 < fn ∨ (s.die ≠ 0 ∧ fn ≠ 0) ∨ !s.gooseUp ∨ s.exchanging fn then stutter s
  else match s.respond fn code request ok others with
    | none => stutter s
    | some (l, t) => .next (t.emit (.spdm fn l))

def execGetVersion (fn : Nat) (request : List Byte) (s : State) : Outcome := doe fn spGetVersion request true [] s
def execGetCapabilities (fn : Nat) (request : List Byte) (s : State) : Outcome := doe fn spGetCapabilities request true [] s
def execNegotiateAlgorithms (fn : Nat) (request : List Byte) (s : State) : Outcome := doe fn spNegotiate request true [] s
def execGetDigests (fn : Nat) (request : List Byte) (s : State) : Outcome := doe fn spGetDigests request true [] s
def execGetCertificate (fn : Nat) (request : List Byte) (s : State) : Outcome := doe fn spGetCertificate request true [] s
def execChallenge (fn : Nat) (request : List Byte) (s : State) : Outcome := doe fn spChallenge request true [] s
def execGetMeasurements (fn : Nat) (request : List Byte) (others : Sections) (s : State) : Outcome :=
  doe fn spGetMeasurements request true others s
def execKeyExchange (fn : Nat) (request : List Byte) (s : State) : Outcome := doe fn spKeyExchange request true [] s
def execFinish (fn : Nat) (request : List Byte) (ok : Bool) (s : State) : Outcome := doe fn spFinish request ok [] s
def execEndSession (fn : Nat) (request : List Byte) (s : State) : Outcome := doe fn spEndSession request true [] s

/-- SESSION_EXCHANGE (R394). `request` is the SPDM request that the buffer carries, out of its secured message if it is
one. -/
def execSessionExchange (q : Nat) (request : List Byte) (ok : Bool) (others : Sections) (s : State) : Outcome :=
  mgmt q 0x8A s (fun r =>
    let e := r.entry
    let len := leAt e 32 4
    let cap := leAt e 36 4
    s.mgmtDesc q [(32, decide (len < 4) || decide (4096 < len)), (36, decide (cap < 4) || decide (16384 < cap)), reservedBad e 48 64]
      (s.needHost q r 0 (leAt e 24 8) len 24 (fun _ =>
        match s.respond (ringOwnerFn q) (leAt request 1 1) request ok others with
        | none => s
        | some (l, t) =>
          if cap < l.length then s.mgmtMal q subDesc 36
          else (t.toHost q (.hostWrite (ringOwnerFn q) (leAt e 40 8) l)).mgmtDone q l.length)))

/-- IDE_STREAM_ENABLE (R395): Secure, if the session exists; what waited is posted. -/
def execIdeStreamEnable (k : Nat) (s : State) : Outcome :=
  if k = 0 ∨ 16 < k then stutter s
  else
    let s := { s with ideOn := Table.set false s.ideOn k true }
    if (s.session k).live then
      let s := { s with ideKeys := Table.set [] s.ideKeys k (s.streamKeys k) }
      .next (s.setPart (k - 1) { s.part (k - 1) with ideSecure := true }).releaseHeld
    else .next s

/-- IDE_INTEGRITY_FAIL (R395): the stream becomes Insecure. -/
def execIdeIntegrityFail (k : Nat) (s : State) : Outcome :=
  if k = 0 ∨ 16 < k then stutter s
  else .next (s.ideInsecure k)

/-! ### Authorisation (R357, R358) -/

/-- Every check of R358 on an authorisation block; `newKey` is the key that an INSTALL hashes as well. -/
def State.authOk (s : State) (e blk newKey : List Byte) : Bool :=
  let f := s.fuses
  let slot := leAt blk 4 1
  let h := f.slotHash.getD slot 0
  slice blk 0 4 == magicOaut && decide (slot < 4) && zeroAt blk 5 3 && zeroAt blk 25 7
    && h != 0 && !f.revoked.getLsbD slot && sha384 (slice blk 80 96) == h
    && leAt blk 8 8 == s.mgt.nonce.toNat && leAt blk 16 8 == f.serial.toNat && leAt blk 24 1 == eOpcode e
    && slice blk 32 48 == sha (slice e 24 32 ++ newKey) && ecdsaVerify (slice blk 80 96) (sha384 (slice blk 0 176)) (slice blk 176 96)

/-- The sealed log records an operator authorisation; which reason it carries is not stated (DESIGN CHOICE, log entry 28). -/
def State.authorised (s : State) (e : List Byte) : State :=
  (s.sealedEntry { time := s.us, master := BitVec.ofNat 8 (masterNum .goose), part := 0xFF, queue := 64, reason := s.freeValue 8,
                   seq := eSeq e, addr := 0 }).freeTaken

/-- MGT_NONCE takes 64 fresh TRNG bits (R358). -/
def State.newNonce (s : State) : State := { s.freeTaken with mgt := { s.mgt with nonce := s.freeValue 64 } }

/-- A signed command of the operator ring: its block is read, MGT_NONCE is replaced, and it acts or is refused. Until the TRNG is ready
it waits (R358); TRNG_SAMPLE starts its refusal time afresh. -/
def State.signed (s : State) (r : Run) (read : Nat) (newKey : List Byte) (act : State → State) : State :=
  if !s.mgt.trngReady then s
  else s.needHost 64 r read (leAt r.entry 56 8) 272 56 (fun blk =>
    let ok := s.authOk r.entry blk newKey
    let s := s.newNonce
    if ok then act (s.authorised r.entry) else s.mgmtRefuse 64 0x09)

/-- The address of an authorisation block is aligned to 8 bytes. -/
def authBad (e : List Byte) : Nat × Bool := (56, decide (leAt e 56 8 % 8 ≠ 0))

/-- DEBUG_OPEN (R399). -/
def execDebugOpen (s : State) : Outcome :=
  mgmt 64 0x91 s (fun r =>
    let e := r.entry
    s.mgmtDesc 64 [(26, decide (leAt e 26 1 / 2 ≠ 0)), reservedBad e 27 56, authBad e]
      (s.signed r 0 [] (fun s =>
        let m := BitVec.ofNat 16 (leAt e 24 2)
        let s := { s with bus := { s.bus with dbgOpen := true, dbgJtag := bit (leAt e 26 1) 0, dbgMask := m } }
        let s := (List.range 16).foldl (fun (s : State) p =>
          let st := (s.part p).state
          if m.getLsbD p && (st == .created || st == .active) then s.observeBy p 64 (eSeq e) else s) s
        s.mgmtDone 64 0)))

/-! ### Operator keys (R359) -/

/-- OPERATOR_KEY_FUSE (R359): the fuses are blown; FUSE_BLOW_DONE completes it. -/
def execOperatorKeyFuse (s : State) : Outcome :=
  mgmt 64 0x93 s (fun r =>
    let e := r.entry
    let op := leAt e 24 1
    let slot := leAt e 25 1
    let f := s.fuses
    let inst := installedSlots f
    let rev := f.revoked.toNat
    let free := inst = 0 && op = 0
    let stateBad := if op = 0 then bit inst slot || bit rev slot else !bit inst slot || bit rev slot
    let last := op = 1 && (List.range 4).all (fun k => k == slot || !bit inst k || bit rev k)
    s.mgmtDesc 64
      [ (24, decide (1 < op)), (25, decide (3 < slot)), reservedBad e 26 32, (32, op == 1 && !zeroAt e 32 8), reservedBad e 40 56,
        (56, if free then !zeroAt e 56 8 else (authBad e).2) ]
      (if stateBad then s.mgmtMal 64 subSlotState 25
       else if last then s.mgmtMal 64 subLastSlot 25
       else if op = 0 then
         s.needHost 64 r 0 (leAt e 32 8) 96 32 (fun key =>
           let act : State → State := fun s => s.mgmtWait 64 [0, slot, (sha384 key).toNat]
           if free then act s else s.signed r 1 key act)
       else s.signed r 0 [] (fun s => s.mgmtWait 64 [1, slot])))

/-! ### Boot control record and firmware (R351, R360, R361) -/

/-- Write the boot control record (R351). -/
def State.writeRecord (s : State) (active : Bool) (staged : BitVec 2) : State :=
  let rec_ := magicObcr ++ leBytes 1 (b2n active) ++ leBytes 1 staged.toNat ++ leBytes 10 0
  { s with flash := Memory.write s.flash 0xE000 rec_, mgt := { s.mgt with activeSlot := active, staged := staged } }

/-- The boot control record as read (R351): ACTIVE and STAGED. -/
def bootRecord (flash : Memory) : Bool × BitVec 2 :=
  let b := Memory.bytes flash 0xE000 16
  if slice b 0 4 == magicObcr && decide (leAt b 4 1 < 2) && decide (leAt b 5 1 < 3) && zeroAt b 6 10 then
    (leAt b 4 1 == 1, BitVec.ofNat 2 (leAt b 5 1))
  else (false, 0)

/-- The header of an image is as R352 gives, for an image of `len` bytes. -/
def imageHeaderOk (h : List Byte) (len : Nat) : Bool :=
  let body := leAt h 8 4
  slice h 0 4 == magicOfwi && leAt h 4 2 == 1 && zeroAt h 7 1 && zeroAt h 12 4 && zeroAt h 28 4 && zeroAt h 240 16
    && body % 16 == 0 && decide (body ≤ 8388352) && len == 256 + body

/-- The firmware encryption key (R349), which the Goose derives again wherever it decrypts or checks an image (DEDUCED, log entry 82). -/
def State.firmwareKey (s : State) : List Byte := s.derive textFwe 32

/-- The decrypted body of the image in a slot (R352), if its tag verifies. -/
def State.imageBody (s : State) (slot : Bool) : Option (List Byte) :=
  let l := s.image slot
  gcmOpen s.firmwareKey (slice l 16 12) (slice l 0 32) (l.drop 256) (slice l 32 16)

/-- The image of a slot is valid (R353). -/
def State.imageValid (s : State) (slot : Bool) : Bool :=
  let h := Memory.bytes s.flash (slotBase slot) 256
  imageHeaderOk h (256 + leAt h 8 4) && decide (s.mgt.fusedSv.toNat ≤ leAt h 6 1) && sha384 (slice h 48 96) == s.romKey
    && ecdsaVerify (slice h 48 96) (sha384 (slice h 0 48)) (slice h 144 96) && (s.imageBody slot).isSome

/-- SECURITY_VERSION of the image in a slot. -/
def State.imageSv (s : State) (slot : Bool) : Nat := leNat (Memory.bytes s.flash (slotBase slot + 6) 1)

/-- FW_STAGE (R360): the header is checked, the image read and programmed into the slot that is not running.
`aux` keeps what has been programmed. -/
def execFwStage (s : State) : Outcome :=
  mgmt 64 0x95 s (fun r =>
    let e := r.entry
    let a := leAt e 24 8
    let len := leAt e 32 4
    s.mgmtDesc 64 [reservedBad e 36 64]
      (s.needHost 64 r 0 a 256 24 (fun h =>
        if !imageHeaderOk h (256 + leAt h 8 4) then s.mgmtMal 64 subFwImage 24
        else if len ≠ 256 + leAt h 8 4 then s.mgmtMal 64 subFwImage 32
        else s.needHost 64 r 1 (a + 256) (len - 256) 24 (fun _ => s.mgmtWait 64 [0]))))

/-- A staged image's read-back is refused: STAGED is none again, and the refusal's 16 µs run from here (R386). -/
def State.refuseStage (s : State) (r : Run) : State :=
  let s := s.writeRecord s.mgt.activeSlot 0
  (s.setRun 64 0 { r with start := s.time }).mgmtRefuse 64 0x0A

/-- The last steps of FW_COMMIT, once the fuses are as it leaves them: ACTIVATE programs the record, else it is
done. -/
def State.commitNext (s : State) (r : Run) : State :=
  if bit (leAt r.entry 24 1) 0 then s.mgmtWait 64 [2] else s.mgmtDone 64 s.mgt.fusedSv.toNat

/-- FW_COMMIT (R361): fuses are blown where RAISE_SV has any to blow. -/
def execFwCommit (s : State) : Outcome :=
  mgmt 64 0x96 s (fun r =>
    let e := r.entry
    let act := bit (leAt e 24 1) 0
    let raise := bit (leAt e 24 1) 1
    let rom := s.mgt.stage == .recovery
    let m := s.mgt
    let leaves := if raise then Nat.max m.fusedSv.toNat m.runningSv.toNat else m.fusedSv.toNat
    let bad := (act && m.staged == 0) || (m.staged != 0 && decide (s.imageSv (m.staged == 2) < leaves))
    let go : State → State := fun s => if raise && decide (m.fusedSv.toNat < m.runningSv.toNat) then s.mgmtWait 64 [0] else s.commitNext r
    s.mgmtDesc 64 [(24, decide (leAt e 24 1 / 4 ≠ 0) || (!act && !raise) || (rom && raise)), reservedBad e 25 56,
                   (56, !rom && (authBad e).2)]
      (if bad then s.mgmtMal 64 subFwImage 24
       else if rom then go s
       else s.signed r 0 [] go))

/-- FLASH_PROGRAM_DONE (R360, R361): the image is in its slot, or the boot control record is written. The slot
is read back and checked under R353. -/
def execFlashProgramDone (s : State) : Outcome :=
  let other := !s.mgt.slotRunning
  match s.mgmtBusy 64 0x95, s.mgmtBusy 64 0x96 with
  | some r, _ =>
    if r.aux = [0] then
      match hostGot r (leAt r.entry 24 8) (leAt r.entry 32 4) with
      | none => stutter s
      | some l => .next (({ s with flash := Memory.write s.flash (slotBase other) l } : State).mgmtWait 64 [1])
    else
      let s := s.writeRecord s.mgt.activeSlot (if other then 2 else 1)
      if s.imageValid other then .next (s.mgmtDone 64 (b2n other + s.imageSv other * 256))
      else .next (s.refuseStage r)
  | none, some r =>
    if r.aux = [2] then
      .next ((s.writeRecord (s.mgt.staged == 2) 0).mgmtDone 64 s.mgt.fusedSv.toNat)
    else stutter s
  | none, none => stutter s

/-- Security-version fuses with bits blown, lowest first, until the fused version is `n` (R347, R361). -/
def raiseSv (v : BitVec 64) (n : Nat) : BitVec 64 :=
  (List.range 64).foldl (fun v k => if thermometer v < n then setBit v k true else v) v

/-- FUSE_BLOW_DONE (R348, R359, R361): the fuses read back correctly; where they do not, the command waits on. -/
def execFuseBlowDone (readBackOk : Bool) (s : State) : Outcome :=
  let f := s.fuses
  match readBackOk, s.mgmtBusy 64 0x93, s.mgmtBusy 64 0x96 with
  | true, some r, _ =>
    let slot := r.aux.getD 1 0
    let f := if r.aux.headD 0 = 0 then
        { f with slotHash := (List.range 4).map (fun k => if k = slot then f.slotHash.getD k 0 ||| BitVec.ofNat 384 (r.aux.getD 2 0) else f.slotHash.getD k 0) }
      else { f with revoked := setBit f.revoked slot true }
    .next (({ s with fuses := f } : State).mgmtDone 64 0)
  | true, none, some r =>
    if r.aux ≠ [0] then stutter s
    else
      let v := raiseSv f.secVersion s.mgt.runningSv.toNat
      let s := { s with fuses := { f with secVersion := v }, mgt := { s.mgt with fusedSv := BitVec.ofNat 7 (thermometer v) } }
      .next (s.commitNext r)
  | _, _, _ => stutter s

/-! ### RAND_GET (R372) -/

/-- RAND_GET. -/
def execRandGet (q : Nat) (s : State) : Outcome :=
  mgmt q 0x97 s (fun r =>
    let e := r.entry
    let n := leAt e 32 4
    s.mgmtDesc q [(32, n == 0 || decide (4096 < n)), reservedBad e 36 64]
      (if !s.mgt.trngReady then s.mgmtEnd q stNotReady 0
       else ((s.toHost q (.hostWrite (ringOwnerFn q) (leAt e 24 8) (s.random n))).freeTaken).mgmtDone q n))

/-! ### MACHINE_JOIN (R46) -/

/-- Dies that a product can hold (R37, R46). -/
def productDies (product : Nat) : Nat := if product = 0 then 1 else if product = 1 then 2 else if product = 2 then 8 else 64

/-- The links by which this die's routes to die `d` begin (R42): both of a pair (R40). -/
def State.linksTo (s : State) (d : Nat) : List Nat :=
  let k := s.mgt.product.toNat
  if k = 1 then [0, 1] else [portToward k s.die d 0]

/-- Die `d` of the mask fails a condition of R46. -/
def State.joinFails (s : State) (dies : List RemoteDie) (d : Nat) : Bool :=
  if productDies s.mgt.product.toNat ≤ d then true
  else if d = s.die then false
  else
    match dies.find? (fun x => decide (x.die = d)) with
    | none => true
    | some x => !x.reachable || !(s.linksTo d).all (fun p => (s.port p).st == .up && (s.port p).verified) || x.secVer != s.mgt.runningSv || x.holdsPart

/-- This die becomes part of the machine of a mask. The lead hears of its enabled queues (R227), and the lead tells of its partitions
(R379). -/
def State.joined (s : State) (mask : BitVec 64) (dies : List RemoteDie) : State :=
  let s : State := { s with mgt := { s.mgt with machineMode := true, machineLead := decide (s.die = 0), machineMask := mask },
                            remotes := dies.foldl (fun t d => if mask.getLsbD d.die then Table.set none t d.die (some d) else t) s.remotes }
  let s := ((List.range 65).filter (fun q => (s.queue q).enable)).foldl State.tellLead s
  ((List.range 16).filter (fun p => (s.part p).state != .none)).foldl (fun s p => s.tellPart p (s.part p).state.code) s

/-- What the lead tells an admitted die (R46): the mask, and what it knows of the others. -/
def joinArgs (mask : BitVec 64) (dies : List RemoteDie) : List Nat :=
  mask.toNat :: dies.flatMap (fun d => [d.die, d.serial.toNat, d.secVer.toNat])

/-- MACHINE_JOIN (R46). `dies` is what the other dies report. A mask without bit 0, and a die that is not die 0, fail on die 0 (DEDUCED, log
entry 30). -/
def execMachineJoin (dies : List RemoteDie) (s : State) : Outcome :=
  mgmt 64 0x98 s (fun r =>
    let e := r.entry
    let mask := BitVec.ofNat 64 (leAt e 24 8)
    let bad := if !mask.getLsbD 0 || decide (s.die ≠ 0) then some 0
      else (List.range 64).find? (fun d => mask.getLsbD d && s.joinFails dies d)
    s.mgmtDesc 64 [reservedBad e 32 64]
      (match bad with
        | some d => s.mgmtMal 64 subJoin d
        | none =>
          let others := (List.range 64).filter (fun d => mask.getLsbD d && decide (d ≠ s.die))
          ((others.foldl (fun s d => s.forward d .join (joinArgs mask dies)) s).joined mask dies).mgmtDone 64 0))

/-! ### EXPORT_SEAL (R403, R404) -/

/-- The chunks of a body, each its ciphertext and then its 16-byte tag (R364): `prefix_` begins every IV, `id` the additional data. -/
def sealChunks (key prefix_ id data : List Byte) : List Byte :=
  (((chunks 65536 data).zipIdx).map (fun c =>
    let x := gcmSeal key (prefix_ ++ leBytes 4 c.2) (id ++ leBytes 4 c.2) c.1
    x.1 ++ x.2)).flatten

/-- The 352-byte header of an export and its body (R404). The IV prefix, the ephemeral key and the signature's number are fresh TRNG
output. -/
def State.exportBytes (s : State) (e : List Byte) (point : Point) (key data : List Byte) : List Byte :=
  let draw := s.random 104
  let eph := privateKey (slice draw 8 48)
  let id := slice e 56 8
  let serial := leBytes 8 s.fuses.serial.toNat
  let body := sealChunks (kdf (ecdh eph point) (textExport ++ id ++ serial) 32) (slice draw 0 8) id data
  let head := magicOexp ++ leBytes 2 1 ++ leBytes 2 0 ++ id ++ leBytes 8 data.length ++ slice draw 0 8
    ++ serial ++ leBytes 8 0 ++ publicKey eph ++ sha key ++ sha body ++ leBytes 16 0
  head ++ ecdsaSign (beNat s.store.identity) (privateKey (slice draw 56 48)) (sha384 head) ++ body

/-- EXPORT_SEAL (R403). -/
def execExportSeal (q : Nat) (s : State) : Outcome :=
  mgmt q 0x9A s (fun r =>
    let e := r.entry
    let p := ringPart q
    let src := leAt e 24 8
    let len := leAt e 40 8
    s.mgmtDesc q [(40, len == 0 || decide (2 ^ 32 ≤ len))]
      (s.needHost q r 0 (leAt e 48 8) 96 48 (fun key =>
        match pointOf key with
        | none => s.mgmtMal q subKeyPoint 48
        | some point =>
        if !s.ownsHbm p src len || s.touchesFrozen src len then s.mgmtRefuse q 0x0E
        else if !s.mgt.trngReady || !s.runReady src len then s
        else
          let x := s.readHbm .lagoon src len
          match x.bad with
          | some b =>
            (x.s.poisonEvent p q (eSeq e) (s.relAddr p b) 0xFF).mgmtEnd q stPoison (s.relAddr p b)
          | none =>
            let l := x.s.exportBytes e point key x.bytes
            ((x.s.toHost q (.hostWrite (ringOwnerFn q) (leAt e 32 8) l)).freeTaken).mgmtDone q l.length)))

/-! ### Weight packages (R362 to R369) -/

/-- The distinct serials that a package's wrap entries name. -/
def wrapSerials (n : Nat) (ents : List Byte) : List Nat := ((List.range n).map (fun i => leAt ents (160 * i) 8)).eraseDups

/-- Length of the whole package (R364). -/
def packageLength (wraps body : Nat) : Nat := 256 + 160 * wraps + body + 16 * ((body + 65535) / 65536)

/-- The detail of sub-code PACKAGE for a header, or none. -/
def packageHeaderBad (h : List Byte) (len : Nat) : Option Nat :=
  let n := leAt h 6 2
  if slice h 0 4 != magicOwpk || leAt h 4 2 != 1 || !zeroAt h 240 16 || zeroAt h 16 8 || n = 0 || 64 < n then some 24
  else if len ≠ packageLength n (leAt h 16 8) then some 40
  else none

/-- Some serial is addressed by more than 8 entries. -/
def wrapsBad (n : Nat) (ents : List Byte) : Bool :=
  (wrapSerials n ents).any (fun x => decide (8 < ((List.range n).filter (fun i => leAt ents (160 * i) 8 == x)).length))

/-- Where chunk `c` of a package lies in host memory, and its length with its tag (R364). -/
def chunkAt (e : List Byte) (wraps body c : Nat) : Nat × Nat :=
  (leAt e 24 8 + 256 + 160 * wraps + 65552 * c, Nat.min 65536 (body - 65536 * c) + 16)

/-- Ask for chunk `c` of the package of a running WEIGHT_LOAD. -/
def State.askChunk (s : State) (q : Nat) (e : List Byte) (wraps body c : Nat) : State :=
  let x := chunkAt e wraps body c
  s.toHost q (.hostRead (ringOwnerFn q) x.1 x.2)

/-- The content key in a wrap entry, unwrapped under the die's binding key (R363). -/
def State.unwrap (s : State) (header entry : List Byte) : Option (List Byte) :=
  match pointOf (slice entry 8 96) with
  | none => none
  | some p =>
    let k := kdf (ecdh (beNat s.store.binding) p) (textWrap ++ slice header 8 8 ++ slice entry 0 8) 32
    gcmOpen k (List.replicate 12 0) (slice entry 0 104) (slice entry 104 32) (slice entry 136 16)

/-- The key of a package (R366, R367): OWNER_SIG verifies, every entry addressed to this die unwraps, and all to one key, which matches
KCV. None where any of these fails. -/
def State.packageKey (s : State) (header ents : List Byte) : Option (List Byte) :=
  let mine := (chunks 160 ents).filter (fun w => leAt w 0 8 == s.fuses.serial.toNat)
  let keys := mine.map (s.unwrap header)
  let signed := ecdsaVerify (slice header 48 96) (sha384 (slice header 0 144 ++ ents)) (slice header 144 96)
  match keys with
  | some k :: _ =>
    if signed && keys.all (fun x => x == some k) && slice (sha (textKcv ++ k)) 0 16 == slice header 32 16 then some k else none
  | _ => none

/-- The content key of partition `p`'s WEIGHT_LOAD; [] destroys it (R349). -/
def State.setContent (s : State) (p : Nat) (k : List Byte) : State :=
  { s with store := { s.store with content := Table.set [] s.store.content p k } }

/-- WEIGHT_LOAD: admission (R366, R367). -/
def execWeightLoad (q : Nat) (s : State) : Outcome :=
  mgmt q 0x8B s (fun r =>
    let e := r.entry
    let p := ringPart q
    let t := s.part p
    let src := leAt e 24 8
    let dst := leAt e 32 8
    s.mgmtDesc q [(24, decide (src % 64 ≠ 0)), (32, decide (dst % 0x200000 ≠ 0)), reservedBad e 48 64]
      (s.needHost q r 0 src 256 24 (fun h =>
        match packageHeaderBad h (leAt e 40 8) with
        | some o => s.mgmtMal q subPackage o
        | none =>
          let n := leAt h 6 2
          let body := leAt h 16 8
          s.needHost q r 1 (src + 256) (160 * n) 24 (fun ents =>
            let overlap := (List.range 16).any (fun w =>
              let x := s.win p w
              x.isOpen && !x.scratch && decide (x.base.toNat < dst + body) && decide (dst < x.base.toNat + x.size.toNat))
            let room := (body + 0x1FFFFF) / 0x200000 * 0x200000
            if wrapsBad n ents then s.mgmtMal q subPackage 24
            else if t.loaded && t.pkgId.toNat ≠ leAt h 8 8 then s.mgmtMal q subPackageLoaded 24
            else if t.loaded && t.pkgDst.toNat ≠ dst then s.mgmtMal q subPackageLoaded 32
            else if overlap then s.mgmtMal q subWindowOverlap 32
            else match s.packageKey h ents with
              | some k =>
                if s.ownsHbm p dst room then ((s.setContent p k).mgmtWait q [dst, body, dst]).askChunk q e n body 0
                else s.mgmtRefuse q 0x08
              | none => s.mgmtRefuse q 0x08))))

/-- Frames of a loaded extent. -/
def loadedFrames (written : Nat) : Nat := (written + 0x1FFFFF) / 0x200000

/-- A WEIGHT_LOAD fails in its second phase (R368): every frame that it has written becomes zero and stays frozen. While a slice or the
stack is not ON, that waits (R274), and WEIGHT_LOAD_CHUNK ends it. -/
def State.loadFailed (s : State) (q : Nat) (r : Run) (sub detail : Nat) : State :=
  let dst := r.aux.getD 0 0
  let n := loadedFrames (r.aux.getD 2 0 - dst) * 0x200000
  if s.runReady dst n then ((s.setContent (ringPart q) []).writeRaw dst n []).mgmtMal q sub detail
  else s.mgmtWait q [dst, r.aux.getD 1 0, r.aux.getD 2 0, sub, detail]

/-- A frame becomes frozen (R147): no cache, store buffer or Lagoon line holds data of it any more (R272); what they held is written
back first (DEDUCED, log entry 83). -/
def State.freeze (s : State) (frame : Nat) : State :=
  if Table.get false s.frozen frame then s
  else
    let mine : Nat → Bool := fun a => decide (frameOf a = frame)
    let s := (List.range 16).foldl (fun (s : State) n =>
      if (Table.keys (s.islet n).storeBuf).any mine then s.drainStores n else s) s
    let s := ((Table.keys s.lagoon).filter (fun l => mine (l * 128))).foldl (fun s l => (s.settleLine l).evictLag l) s
    { s with frozen := Table.set false s.frozen frame true }

/-- The last chunk of a package is written (R368): PART_PACKAGE records it, and the content key is destroyed. -/
def State.packageLoaded (s : State) (p dst body : Nat) (header ents : List Byte) : State :=
  let serials := wrapSerials (leAt header 6 2) ents
  (s.setPart p { s.part p with
    loaded := true, pkgId := BitVec.ofNat 64 (leAt header 8 8), pkgDst := BitVec.ofNat 48 dst,
    pkgFrames := BitVec.ofNat 16 (loadedFrames body), bindCount := BitVec.ofNat 7 serials.length,
    binding := serials.map (BitVec.ofNat 64), pkgDigest := sha384 (slice header 0 144 ++ ents) }).setContent p []

/-- WEIGHT_LOAD_CHUNK (R368): the next chunk has been read; it is decrypted and checked, and written. The last block of the body
is filled up with zero (DEDUCED, log entry 29). -/
def execWeightLoadChunk (q : Nat) (s : State) : Outcome :=
  match s.mgmtBusy q 0x8B with
  | none => stutter s
  | some r =>
    let e := r.entry
    let p := ringPart q
    let dst := r.aux.getD 0 0
    let body := r.aux.getD 1 0
    let done := r.aux.getD 2 0
    match r.aux.drop 3 with
    | sub :: detail :: _ => .next (s.loadFailed q r sub detail)
    | _ =>
      let c := (done - dst) / 65536
      let h := (hostGot r (leAt e 24 8) 256).getD []
      let n := leAt h 6 2
      let at_ := chunkAt e n body c
      match hostGot r at_.1 at_.2 with
      | none => stutter s
      | some l =>
        let len := at_.2 - 16
        match gcmOpen (Table.get [] s.store.content p) (slice h 24 8 ++ leBytes 4 c) (slice h 8 8 ++ leBytes 4 c) (slice l 0 len) (slice l len 16) with
        | none => .next (s.loadFailed q r subBodyAuth c)
        | some plain =>
          let data := slice plain 0 ((len + 31) / 32 * 32)
          if !s.runReady done data.length then stutter s
          else
            let s := ((s.freeze (frameOf done)).writeRaw done data.length data).mgmtWait q [dst, body, done + len]
            if done + len < dst + body then .next (s.askChunk q e n body (c + 1))
            else
              let ents := (hostGot r (leAt e 24 8 + 256) (160 * n)).getD []
              .next (((s.packageLoaded p dst body h ents).mgmtDone q (loadedFrames body)).reevaluate)

end Sys2Proof.Machine
end

