-- ==== Sys2Proof/Machine/Rings.lean ====
section
/-!
DEFINITION. Rings and doorbells (08): polls, fetches, host reads, and what writes of the queue, ring and halt
registers do. Who may write those registers is settled in Access.lean.
-/

namespace Sys2Proof.Machine

/-! ### Polls (R207, R210, R211) -/

/-- Issue a read of the doorbell record of queue `q`. -/
def State.issuePoll (s : State) (q : Nat) : State :=
  let k := s.queue q
  (s.setQueue q { k with pollOut := true, pollDue := false }).emit (.hostRead (s.queueFn q) k.db.toNat 8)

/-- DOORBELL_POLL (R211): a poll that is due, or the poll of an ACTIVE or IDLE queue; a DISCARD that could not read the
record yet reads it. -/
def execDoorbellPoll (q : Nat) (s : State) : Outcome :=
  let k := s.queue q
  if !k.enable || k.pollOut || !s.hostOpen q then stutter s
  else if k.discarding then .next (if k.discardTo.isNone then s.issuePoll q else s.fetchMore q)
  else if k.halted then stutter s
  else if k.pollDue || k.st == .active then .next ((s.fetchMore q).issuePoll q)
  else if k.st == .idle then .next ((s.advanceTo (k.polledAt + k.interval * 100)).issuePoll q)
  else .next (s.fetchMore q)

/-- A poll finds PROD backward or too far ahead (R213): the cause. -/
def Queue.prodFault (k : Queue) (prod : Word) : Option Nat :=
  if 2 ^ 31 ≤ (prod - k.prod).toNat then some 5
  else if k.size < (prod - k.cons).toNat then some 6
  else none

/-- GEN differs from HIF_QGEN (R207). -/
def Queue.mismatch (k : Queue) : Queue := { k with genMismatch := true, genCount := satInc k.genCount }

/-- A DISCARD knows where it ends. -/
def State.discardUpTo (s : State) (q : Nat) (dest : Word) : State :=
  ((s.setQueue q { s.queue q with discardTo := some dest, prod := dest }).discardEnd q).fetchMore q

/-- The read of a DISCARD returns (R197). -/
def State.discardRead (s : State) (q : Nat) (prod gen : Word) : State :=
  let k := s.queue q
  if gen != k.gen then (s.setQueue q k.mismatch).discardUpTo q k.prod
  else if (k.prodFault prod).isSome then s.discardUpTo q k.prod
  else s.discardUpTo q prod

/-- A poll has found nothing new. -/
def Queue.same (k : Queue) : Queue :=
  { k with unchanged := k.unchanged + 1, st := if k.park then .parked else k.st,
           interval := if k.st == .idle then Nat.min 64 (2 * k.interval) else k.interval }

/-- A poll has found a new PROD. -/
def Queue.newProd (k : Queue) (prod : Word) : Queue :=
  { k with prod := prod, unchanged := 0, st := if k.park then .parked else if k.st == .idle then .active else k.st }

/-- What a poll of a queue of this die has read (R207, R210, R212, R213). -/
def State.polled (s : State) (q : Nat) (prod gen : Word) : State :=
  let k := s.queue q
  if k.discarding then (if k.discardTo.isNone then s.discardRead q prod gen else s)
  else if k.halted || !k.enable then s
  else if gen != k.gen then s.setQueue q k.mismatch.same
  else if prod = k.prod then (s.setQueue q k.same).fetchMore q
  else match k.prodFault prod with
    | some c => s.ringFaultAt q c
    | none => (s.setQueue q (k.newProd prod)).fetchMore q

/-- What a poll for a queue of another die has read: the machine lead tells that die what is new or wrong (R227, DEDUCED, log
entry 91). -/
def State.leadPolled (s : State) (q : Nat) (prod gen : Word) : State :=
  let k := s.queue q
  let told := s.forward (q / 128) .polled [q % 128, prod.toNat, gen.toNat, 0]
  if k.discarding then (if k.discardTo.isNone then told else s)
  else if k.halted || !k.enable then s
  else if gen != k.gen then told.setQueue q k.same
  else if prod = k.prod then (s.setQueue q k.same).fetchMore q
  else if (k.prodFault prod).isSome then told
  else (told.setQueue q (k.newProd prod)).fetchMore q

/-- POLL_READ_COMPLETE (R207, R210, R212, R213, R227). -/
def execPollReadComplete (q : Nat) (prod gen : Word) (s : State) : Outcome :=
  let k := s.queue q
  if !k.pollOut then stutter s
  else
    let s := s.setQueue q { k with pollOut := false, polledAt := s.time }
    .next (if q < 128 then s.polled q prod gen else s.leadPolled q prod gen)

/-- QUEUE_IDLE (R210): 128 polls have found nothing new, and the queue has no fetched, waiting or running command, none that a full
ring holds among them (R221). Of a queue of another die the machine lead knows that every entry fetched has been consumed, and it tells
that die (R227). -/
def execQueueIdle (q : Nat) (s : State) : Outcome :=
  let k := s.queue q
  let quiet := k.enable && k.st == .active && decide (128 ≤ k.unchanged) && k.entries.isEmpty && k.run.isEmpty && k.fetchOut == 0
    && (if q < 128 then !s.ringHeld q else k.fetched == k.cons)
  if !quiet then stutter s
  else
    let s := s.setQueue q { k with st := .idle, interval := 1 }
    .next (if q < 128 then s else s.forward (q / 128) .polled [q % 128, k.prod.toNat, k.gen.toNat, 1])

/-! ### Fetches (R212) -/

/-- An entry that a DISCARD takes (R197): only SEQ and IRQ are read. -/
def State.discardEntry (q : Nat) (s : State) (e : List Byte) : State :=
  s.postCompletion { queue := q, seq := eSeq e, status := stAborted, info := 0, irq := eIrq e }

/-- ENTRY_FETCH_COMPLETE (R212, R227): the entries asked for have come. Those of a queue of another die are forwarded in ring order, each
with its ring index. -/
def execEntryFetchComplete (q : Nat) (bytes : List Byte) (s : State) : Outcome :=
  let k := s.queue q
  if k.fetchOut = 0 ∨ !s.hostOpen q then stutter s
  else
    let es := (List.range k.fetchOut).map (fun j => slice bytes (64 * j) 64)
    let k1 := { k with fetchOut := 0, fetched := k.fetched + BitVec.ofNat 32 k.fetchOut }
    if 128 ≤ q then
      .next (((es.zipIdx.foldl (fun (s : State) e =>
        s.forward (q / 128) .entry (q % 128 :: (k.fetched + BitVec.ofNat 32 e.2).toNat :: e.1.map BitVec.toNat)) s).setQueue q k1).fetchMore q)
    else if k.discarding then .next ((es.foldl (State.discardEntry q) (s.setQueue q k1)).fetchMore q)
    else if k.halted then .next (s.setQueue q { k with fetchOut := 0 })
    else .next (((s.setQueue q { k1 with entries := k.entries ++ es }).headArrive q).fetchMore q)

/-! ### Host reads of commands (R526) -/

/-- A started command of queue `q` waits for bytes of host memory at `addr`. -/
def State.readsHost (s : State) (q i addr : Nat) : Option Run :=
  match s.runAt q i with
  | none => none
  | some r =>
    let asked := if q < 48 then (qKind q != .mv || r.asked) && (hostReads r.tds r.entry).any (fun u => decide (u.1 ≤ addr) && decide (addr < u.1 + u.2))
      else decide (0 < r.steps)
    let waits := r.phase == .started || (r.phase == .busy && eOpcode r.entry == 0x8B && decide (48 ≤ q))
    if waits && asked && r.hostErr.isNone then some r else none

/-- Bytes that a command of this die reads from host memory have come. -/
def State.hostBytes (s : State) (q i addr : Nat) (bytes : List Byte) : State :=
  match s.readsHost q i addr with
  | none => s
  | some r => s.setRun q i { r with hostBuf := bytes.zipIdx.foldl (fun t b => Table.set none t (addr + b.2) (some b.1)) r.hostBuf }

/-- The feeder host of this die's own port answers reads of a partition whose aperture leads there (R49). -/
def State.feederOpen (s : State) (q : Nat) : Bool :=
  (s.domain 33).st == .on && (match s.queueOwner q with
    | some p => (s.part p).localRoute && (s.part p).state != .clearing && !s.ideWaits (some p)
    | none => false)

/-- HOST_READ_RETURN (R526): bytes that a command reads from host memory have come; the machine lead hands those of another die's command
on to it (R227). -/
def execHostReadReturn (q i addr : Nat) (bytes : List Byte) (s : State) : Outcome :=
  if !(s.hostOpen q || s.feederOpen q) then stutter s
  else .next (if q < 128 then s.hostBytes q i addr bytes
    else s.forward (q / 128) .data (q % 128 :: i :: addr :: bytes.map BitVec.toNat))

/-- A poll of a queue of this die failed: a ring fault (R213), but the read of a DISCARD falls back to the last PROD (R197). -/
def State.pollFailed (s : State) (q : Nat) : State :=
  let k := s.queue q
  if k.discarding then (if k.discardTo.isNone then s.discardUpTo q k.prod else s)
  else if k.halted || !k.enable then s
  else s.ringFaultAt q 4

/-- A fetch for a queue of this die failed (R213). -/
def State.fetchFailed (s : State) (q : Nat) : State :=
  let k := s.queue q
  let s := s.setQueue q { k with fetchOut := 0, discarding := false, discardTo := none }
  if k.halted && !k.discarding || !k.enable then s else s.ringFaultAt q 4

/-- A host read of a command of this die failed. -/
def State.commandFailed (s : State) (q i addr kind : Nat) : State :=
  match s.mgmtBusy q 0x8B with
  | some r => s.loadFailed q r subHostRead 24
  | none => match s.readsHost q i addr with
    | some r => s.setRun q i { r with hostErr := some (addr, kind) }
    | none => s

/-- A host read failed with a kind of R218: 1 Unsupported Request, 2 Completer Abort, 3 no completion in time. The machine lead tells the
die whose queue or command it was for (R227). -/
def State.hostReadFails (s : State) (t : ReadTarget) (kind : Nat) : State :=
  match t with
  | .poll q =>
    let k := s.queue q
    if !k.pollOut then s
    else
      let s := s.setQueue q { k with pollOut := false, polledAt := s.time }
      if q < 128 then s.pollFailed q else s.forward (q / 128) .pollFailed [q % 128]
  | .fetch q =>
    let k := s.queue q
    if k.fetchOut = 0 then s
    else if q < 128 then s.fetchFailed q
    else (s.setQueue q { k with fetchOut := 0 }).forward (q / 128) .pollFailed [q % 128]
  | .command q i addr => if q < 128 then s.commandFailed q i addr kind else s.forward (q / 128) .readFailed [q % 128, i, addr, kind]

/-- HOST_READ_TIMEOUT (R526, R213). -/
def execHostReadTimeout (t : ReadTarget) (s : State) : Outcome := .next (s.hostReadFails t 3)

/-- HOST_READ_ERROR (R526, R213). -/
def execHostReadError (t : ReadTarget) (e : ReadError) (s : State) : Outcome :=
  .next (s.hostReadFails t (match e with
    | .unsupportedRequest => 1
    | .completerAbort => 2))

/-! ### HIF_KICK (R211) -/

/-- A write of HIF_KICK: the queue polls at once; a halted queue keeps the KICK. -/
def State.kick (s : State) (a : Acc) (q : Nat) : State :=
  let k := s.queue q
  if !k.enable then s.logAccess causeState a true
  else if k.halted then s.setQueue q { k with kickHeld := true }
  else (s.setQueue q { k with pollDue := true, unchanged := if k.st == .idle then 0 else k.unchanged,
                              st := if k.st == .idle then .active else k.st }).tellLead q

/-! ### HIF_QCTRL (R210) -/

/-- The partition of a queue is under ledger halt (R470). -/
def State.ledgerHeld (s : State) (q : Nat) : Bool :=
  match s.queueOwner q with
  | some p => (s.part p).halted
  | none => false

/-- A disabled queue is enabled: its indexes start at 0 and it polls at once, or it halts on a ring fault (R213). -/
def State.enableQueue (s : State) (q : Nat) (park : Bool) : State :=
  let k := s.queue q
  let s := s.setQueue q { k with enable := true, park := park, st := .active, cons := 0, written := 0, prod := 0, fetched := 0, unchanged := 0,
                                 interval := 1, pollDue := true }
  if k.base.toNat % 4096 ≠ 0 then s.ringFaultAt q 1
  else if k.db.toNat % 64 ≠ 0 then s.ringFaultAt q 2
  else if !(s.ring (s.queueRing q)).enable then s.ringFaultAt q 3
  else s.tellLead q

/-- A queue may be disabled (R210, R470). -/
def State.mayDisable (s : State) (q : Nat) : Bool :=
  let k := s.queue q
  k.cons == k.prod && k.run.isEmpty && !s.ledgerHeld q

/-- A write of HIF_QCTRL: ENABLE and PARK. -/
def State.writeQctrl (s : State) (a : Acc) (q : Nat) (enable park : Bool) : State :=
  let k := s.queue q
  if !k.enable then (if enable then s.enableQueue q park else s.setQueue q { k with park := park })
  else
    -- PARK is written with or without a change of ENABLE
    let parked : Queue → Queue := fun k =>
      if park && !k.park then { k with park := true, st := .parked }
      else if !park && k.park then { k with park := false, st := .active, pollDue := true }
      else k
    if enable then (s.setQueue q (parked k)).tellLead q
    else if s.mayDisable q then
      (s.setQueue q { k with enable := false, park := park, st := .disabled, halted := false, ringFault := 0, entries := [],
                             headOk := false, passed := false, pollOut := false, pollDue := false, kickHeld := false, fetchOut := 0,
                             discarding := false, discardTo := none, unchanged := 0 }).tellLead q
    else ((s.setQueue q (parked k)).tellLead q).logAccess causeState a true

/-! ### HIF_QRESUME (R196, R197) -/

/-- A write of RESUME or DISCARD has no effect (R197, R470, R356). -/
def State.resumeIdle (s : State) (q : Nat) : Bool :=
  let k := s.queue q
  !k.halted || k.discarding || s.ledgerHeld q || (s.up.fwFailed && decide (q < 48))

/-- RESUME: a ring fault of cause 1 to 3 halts the queue again; one of cause 5 or 6 polls again at once (R213). -/
def State.resumeQueue (s : State) (q : Nat) : State :=
  let k := s.queue q
  let s := s.setQueue q { k with halted := false, ringFault := 0, pollDue := k.pollDue || decide (5 ≤ k.ringFault) }
  if 1 ≤ k.ringFault ∧ k.ringFault ≤ 3 then s.ringFaultAt q k.ringFault else s.haltEnds q

/-- DISCARD: the doorbell record is read once. -/
def State.discardQueue (s : State) (q : Nat) : State :=
  let s := s.setQueue q { s.queue q with discarding := true, discardTo := none, ringFault := 0 }
  if s.hostOpen q then s.issuePoll q else s.tellLead q

/-- A write of HIF_QRESUME. -/
def State.writeResume (s : State) (a : Acc) (q : Nat) (resume discard : Bool) : State :=
  if !resume && !discard then s
  else if s.resumeIdle q then s.logAccess causeState a true
  else if discard then s.discardQueue q
  else s.resumeQueue q

/-! ### Completion and event rings (R220 to R225, R230) -/

/-- Key and event ring number of a ring: event rings stand from 128. -/
def ringEvent (c : Nat) : Option Nat := if 128 ≤ c then some (c - 128) else none

/-- What waits for a ring is posted as far as it has room. -/
def State.ringRoom (s : State) (c : Nat) : State :=
  match ringEvent c with
  | some e => s.markerDue e
  | none => (State.releaseRing (s.ring c).waiting.length c s).reportFull c

/-- A write of HIF_CQHEAD or HIF_EQHEAD (R220 to R222, R224). -/
def State.writeHead (s : State) (a : Acc) (c : Nat) (head : Word) : State :=
  let r := s.ring c
  if r.size < (r.tail - head).toNat then s.logAccess causeState a true
  else
    let r := { r with head := head }
    (s.setRing c { r with fullTold := r.fullTold && r.full }).ringRoom c

/-- An enabled queue names completion ring `c` (R230). -/
def State.ringNamed (s : State) (c : Nat) : Bool :=
  (List.range 65).any (fun q => (s.queue q).enable && decide (s.queueRing q = c))

/-- Event ring 16 is enabled for the first time after a reset: BROWNOUT and TRIP_LAST are posted (R433, R434, R455). -/
def State.bootPost (s : State) (c : Nat) : State :=
  if c ≠ evRing 16 ∨ !s.boot.bootEvents then s
  else
    let s := { s with boot := { s.boot with bootEvents := false } }
    let s := if s.power.brownout then s.raiseEvent 16 0x0501 noQueue 0 [BitVec.ofNat 8 (b2n s.power.inLp)] else s
    if s.mgt.prevTrip then s.thermEvent 5 0 else s

/-- A ring is enabled: its tail is 0 and what waited is posted. -/
def State.enableRing (s : State) (c : Nat) : State :=
  let r := s.ring c
  (s.setRing c { r with enable := true, tail := 0, fullTold := false,
                        generated := if c < 128 then BitVec.ofNat 32 r.waiting.length else r.generated }).ringRoom c |>.bootPost c

/-- A write of HIF_CQCFG or HIF_EQCFG. A reserved SIZE_LOG2 or VECTOR leaves its field as it was (R12). -/
def State.writeCqcfg (s : State) (a : Acc) (c : Nat) (v : Nat) : State :=
  let r := s.ring c
  let size := v % 32
  let vec := bits v 14 8
  let sizeOk := decide (6 ≤ size) && decide (size ≤ 16)
  let vecOk := decide (ringFn c = 0) || decide (vec < 8)
  let on := bit v 31
  let barred := if on then !r.enable && decide (r.base.toNat % 4096 ≠ 0) else r.enable && s.ringNamed c
  let r := { r with sizeLog2 := if sizeOk then BitVec.ofNat 5 size else r.sizeLog2, vector := if vecOk then some (BitVec.ofNat 7 vec) else r.vector }
  let s := s.setRing c r
  -- one write is logged once
  let s := if !(sizeOk && vecOk) then s.logAccess causeReserved a true else if barred then s.logAccess causeState a true else s
  if barred || on == r.enable then s
  else if on then s.enableRing c
  else s.setRing c { r with enable := false, coalesce := false, fullTold := false }

end Sys2Proof.Machine
end

