-- ==== Sys2Proof/Machine/Windows.lean ====
section
/-!
DEFINITION. Windows (R314 to R322): opening and closing, grants, the writes that reach them, the transfers
and gathers that wait for their bytes.
-/

namespace Sys2Proof.Machine

/-! ### What is in flight -/

/-- The grant a run started against (R317). -/
def Run.grantKey (r : Run) : Option Nat :=
  if eOpcode r.entry = 0x60 ∨ eOpcode r.entry = 0x61 then r.aux.head? else none

/-- Some run or push that passed its check against a grant has not completed (R320). -/
def State.grantBusy (s : State) (key : Nat) : Bool :=
  s.queues.any (fun k => k.2.run.any (fun r => decide (r.grantKey = some key)))
    || s.islets.any (fun i => i.2.pushes.any (fun u => decide (grantKey u.die u.part u.window = key)))

/-- A gather into window `w` of partition `p` is in flight (R169). -/
def State.pinned (s : State) (p w : Nat) : Bool :=
  (s.isletsOf p).any (fun n => (s.queue (3 * n + 2)).run.any (fun r =>
    eOpcode r.entry == 0x63 && decide (r.aux.head? = some w)))

/-- A gather into the window still lacks its verdict (R320 step 3). -/
def State.verdictDue (s : State) (p w : Nat) : Bool :=
  s.xfers.any (fun e => e.2.gather && !e.2.ended && decide (e.2.part = p) && decide (e.2.window = w))

/-! ### Closing (R320) -/

/-- Finish the WINDOW_CLOSE of window `w` if nothing holds it any more: SENT against COUNT. -/
def State.tryClose (s : State) (p w : Nat) : State :=
  let q := 48 + p
  let x := s.win p w
  match s.mgmtBusy q 0x8D with
  | none => s
  | some r =>
    if r.aux ≠ [w] ∨ !x.closing ∨ !(x.revoked || x.binding) ∨ s.pinned p w ∨ s.verdictDue p w then s
    else if x.sent = x.count.toNat then
      ((s.setWin p w { x with isOpen := false, closing := false }).mgmtDone q x.count.toNat).settleWindowWaits p w
    else
      let sent := BitVec.ofNat 64 x.sent
      (s.breach brWindow w 0 (some p)
        [sent.truncate 32, (sent >>> 32).truncate 32, x.count.truncate 32, (x.count >>> 32).truncate 32]
        ((x.sent : Int) - x.count.toNat)).settleWindowWaits p w

/-- Finish every WINDOW_CLOSE that can finish. -/
def State.tryCloses (s : State) : State :=
  (List.range 16).foldl (fun s p =>
    match s.mgmtBusy (48 + p) 0x8D with
    | some r => s.tryClose p (r.aux.headD 0)
    | none => s) s

/-- The window of a grant has its SENT: of this die the window takes it, of another die REVOKE_ACK carries
it (R320). The grant is cleared. -/
def State.giveBack (s : State) (key : Nat) : State :=
  let g : Grant := Table.get {} s.grants key
  let d := key / 256
  let p := key / 16 % 16
  let w := key % 16
  let s := { s with grants := Table.set {} s.grants key {} }
  if d = s.die then
    let x := s.win p w
    s.setWin p w { x with revoked := true, sent := x.sent + g.sent }
  else s.sendNote d .revokeAck [p, w, g.sent]

/-! ### Audits (R467, R472) -/

/-- Objects that an audit checked, and what it found. -/
structure Checked where
  count : Nat
  found : List Found

/-- Check a list of objects. -/
def checkAll (l : List (Option Found)) : Checked := ⟨l.length, l.filterMap id⟩

/-- WINDOW of partition `p` against a SENT (R467). -/
def State.checkWindow (s : State) (p w sent : Nat) : Option Found :=
  let x := s.win p w
  let v := BitVec.ofNat 64 sent
  if sent = x.count.toNat then none
  else some ⟨brWindow, w, 2, some p, [v.truncate 32, (v >>> 32).truncate 32, x.count.truncate 32, (x.count >>> 32).truncate 32],
             (sent : Int) - x.count.toNat⟩

/-- An audit of ring `q`'s entry looks at what owner `o` has. -/
def auditScope (e : List Byte) (o : Option Nat) : Bool := leAt e 25 1 == 0xFF || o == some (leAt e 25 1)

/-- TAG, RING and EVENT objects of an audit (R472). -/
def State.auditObjects (s : State) (e : List Byte) : Checked :=
  let kind := leAt e 24 1
  let tags := if bit kind 1 then (List.range 16).filter (fun n => s.on n && auditScope e (s.isletOwner n)) else []
  let queues := if bit kind 3 then (List.range 65).filter (fun q => (s.queue q).enable && auditScope e (s.queueOwner q)) else []
  let rings := if bit kind 3 then (List.range 65).filter (fun c => (s.ring c).enable && auditScope e (if c < 64 then some (c / 4) else none)) else []
  let evs := if bit kind 4 then (List.range 17).filter (fun v => (s.ring (evRing v)).enable && auditScope e (if v < 16 then some v else none)) else []
  checkAll (tags.map s.checkTag ++ queues.map s.checkQueue ++ rings.map s.checkRing ++ evs.map s.checkEvents)

/-- What a waiting audit keeps in `aux`: objects checked and skipped so far, then codes: a port that has not answered, a
window that is not quiet, a credit breach found (port, channel and its difference), a window breach found (with SENT). -/
def codePort (p : Nat) : Nat := 0x100 + p
def codeWindow (p w : Nat) : Nat := 0x200 + 16 * p + w
def codeCredit (p v : Nat) (diff : Int) : Nat := 0x300 + 4 * p + v + 0x10000 * (diff + 2 ^ 32).toNat
def codeFound (p w sent : Nat) : Nat := 0x400 + 16 * p + w + 0x10000 * sent

/-- The audit still waits for an object. -/
def codeWaits (c : Nat) : Bool := decide (0x100 ≤ c) && decide (c < 0x300)

/-- The audit running on ring `q` has checked one of the objects it waited for. -/
def State.auditStep (s : State) (q code : Nat) (found : List Nat) (skip : Bool) : State :=
  match s.mgmtBusy q 0x90 with
  | none => s
  | some r =>
    if !(r.aux.drop 2).contains code then s
    else
      let c := r.aux.getD 0 0 + (if skip then 0 else 1)
      let k := r.aux.getD 1 0 + (if skip then 1 else 0)
      s.mgmtWait q (c :: k :: ((r.aux.drop 2).erase code ++ found))

/-- SENT of an open window as far as this die knows it: its own transfers and pushes (R472). -/
def State.knownSent (s : State) (p w : Nat) : Option Nat :=
  let x := s.win p w
  if s.pinned p w || s.verdictDue p w then none
  else if x.binding then some x.sent
  else if x.srcDie.toNat = s.die then
    (if s.grantBusy (grantKey s.die p w) then none else some (x.sent + (Table.get {} s.grants (grantKey s.die p w)).sent))
  else none

/-- The audit of ring `q` checks the windows that have become quiet. -/
def State.auditWindows (s : State) (q : Nat) : State :=
  match s.mgmtBusy q 0x90 with
  | none => s
  | some r =>
    (List.range 256).foldl (fun s i =>
      if (r.aux.drop 2).contains (codeWindow (i / 16) (i % 16)) then
        match s.knownSent (i / 16) (i % 16) with
        | none => s
        | some sent =>
          s.auditStep q (codeWindow (i / 16) (i % 16))
            (if (s.checkWindow (i / 16) (i % 16) sent).isSome then [codeFound (i / 16) (i % 16) sent] else []) false
      else s) s

/-- The audit of ring `q` ends once it waits for nothing: its completion, LEDGER_AUDIT_DONE, then each breach (R472). -/
def State.auditEnd (s : State) (q : Nat) : State :=
  match s.mgmtBusy q 0x90 with
  | none => s
  | some r =>
    let codes := r.aux.drop 2
    if codes.any codeWaits then s
    else
      let o := s.auditObjects r.entry
      let checked := r.aux.getD 0 0 + o.count
      let skipped := r.aux.getD 1 0
      let bad := codes.length + o.found.length
      let ring := s.queueEvent q
      let s := (s.mgmtDone q (checked % 2 ^ 16 + skipped * 2 ^ 16 + bad * 2 ^ 32)).complete q 0
      let s := s.raiseEvent ring 0x0402 q (eSeq r.entry) (leBytes 2 checked ++ leBytes 2 skipped ++ leBytes 2 bad)
      let s := o.found.foldl (fun s f => s.judge (some f)) s
      codes.foldl (fun s c =>
        if c % 0x10000 < 0x400 then s.creditBreach ((c % 0x10000 - 0x300) / 4) (c % 4) ((c / 0x10000 : Nat) - 2 ^ 32 : Int)
        else match s.checkWindow ((c % 0x10000 - 0x400) / 16) (c % 16) (c / 0x10000) with
          | some f => s.judge (some f)
          | none => s) s

/-- Every audit goes on as far as it can. -/
def State.tryAudits (s : State) : State := (List.range 17).foldl (fun s i => (s.auditWindows (48 + i)).auditEnd (48 + i)) s

/-- The source die of an open window answers an audit with SENT (R472). -/
def State.auditSent (s : State) (p w sent : Nat) : State :=
  ((List.range 17).foldl (fun s i =>
    s.auditStep (48 + i) (codeWindow p w) (if (s.checkWindow p w sent).isSome then [codeFound p w sent] else []) false) s).tryAudits

/-- Close what can close, and let audits go on. -/
def State.settleWindows (s : State) : State := s.tryCloses.tryAudits

/-- Give back every grant that is being revoked and has nothing in flight, then close what can close. -/
def State.settleRevokes (s : State) : State :=
  let keys := (s.grants.filter (fun e => e.2.present && e.2.revoking)).map Prod.fst
  (keys.foldl (fun s k => if s.grantBusy k then s else s.giveBack k) s).settleWindows

/-! ### Transfers that wait for their bytes (R185, R310, R318) -/

/-- Key of a push of this die for the requester die `d`: its transfer identifiers are the requester's. -/
def pushKey (d x : Nat) : Nat := 0x10000 * (d + 1) + x

/-- How many bytes of a transfer are still neither counted nor reported lost. -/
def Xfer.open (x : Xfer) : Nat := x.total - (x.acked + x.lost)

/-- Status and INFO with which a transfer ends (R310). -/
def Xfer.outcome (x : Xfer) : BitVec 8 × Nat :=
  if x.stopped then (x.status, x.info)
  else if 0 < x.lost ∧ x.status = stDone then (stLinkLost, x.lostInfo) else (x.status, x.info)

/-- The position of the run of a queue that waits for transfer `k`. -/
def State.runOfXfer (s : State) (q k : Nat) : Option Nat := (s.queue q).run.findIdx? (fun r => r.xfer == some k)

/-- End a push of this die: its slot is free and XFER_VERDICT goes to the requester (R168, R322). -/
def State.endPush (s : State) (k : Nat) : State :=
  let x := s.xfer k
  let i := s.islet x.islet
  let s := s.setIslet x.islet { i with pushes := i.pushes.filter (fun u => !decide (pushKey u.die u.xfer = k)) }
  let (st, info) := x.outcome
  let s := { s with xfers := Table.set {} s.xfers k {} }
  s.sendNote x.die .verdict [k % 0x10000, 0, b2n (st == stPoison), x.total - x.lost, info]

/-- End a transfer whose bytes are all counted or lost. A gather ends DONE on its bytes alone; otherwise it
needs its verdict (R168). -/
def State.settleXfer (s : State) (k : Nat) : State :=
  let x := s.xfer k
  if x.total = 0 ∨ 0 < x.open then s
  else match x.queue with
    | none => s.endPush k
    | some q =>
      if x.gather && !x.ended && decide (x.acked < x.total) then s
      else
        let (st, info) := x.outcome
        let s := if x.gather && !x.ended then s.setXfer k { x with queue := some 0x7F } else { s with xfers := Table.set {} s.xfers k {} }
        match s.runOfXfer q k with
        | none => s
        | some i => s.finish q i st info

/-! ### Writing into a window of this die (R318) -/

/-- What a window write did: the state, the bytes written, and the INFO of a poisoned block that stopped it. -/
structure WinWrite where
  s     : State
  wrote : Nat
  bad   : Option Nat

/-- INFO of a poisoned HBM block met in window `w` of partition `p` by a transfer of partition `who` of this
die (R218). -/
def State.windowPoison (s : State) (p w who b : Nat) : Nat :=
  if s.owner (granuleOf b) = who then s.relAddr who b
  else (b + 2 ^ 48 - (s.win p w).base.toNat) % 2 ^ 48 + w * 2 ^ 48 + p * 2 ^ 52 + 2 ^ 62

/-- Seal the squares that frozen data reached (R103). -/
def State.sealRange (s : State) (n off len : Nat) : State :=
  let i := s.islet n
  let sq := (List.range ((off + len - 1) / 128 + 1 - off / 128)).map (fun k => squareOf ((off / 128 + k) * 128))
  if len = 0 then s else s.setIslet n { i with sealed := sq.foldl (fun m k => setBit m k true) i.sealed }

/-- The memory behind a plain target address is ON (R274, R420). -/
def State.targetReady (s : State) (a n : Nat) : Bool :=
  match placeRun a n with
  | .hbm y => s.runReady y n
  | .scratch k _ => s.on k
  | _ => false

/-- Write bytes at plain address `a` of window `w` of partition `p` and count them. Frozen data seals the squares that it
reaches (R103); a write that covers a square whole unseals it where its command ends (State.moveOut). -/
def State.windowWrite (s : State) (p w who a : Nat) (bytes : List Byte) (frozen : Bool) : WinWrite :=
  let count : State → Nat → State := fun s n =>
    let x := s.win p w
    (s.setWin p w { x with count := x.count + BitVec.ofNat 64 n }).reevaluate
  match placeRun a bytes.length with
  | .hbm y =>
    let r := s.writeHbm y bytes
    let n := match r.bad with
      | none => bytes.length
      | some b => if y < b then b - y else 0
    ⟨count r.s n, n, r.bad.map (fun b => s.windowPoison p w who b)⟩
  | .scratch k o =>
    let r := s.writeSp k o bytes
    let n := match r.bad with
      | none => bytes.length
      | some b => b - o
    let s := if frozen then r.s.sealRange k o n else r.s
    ⟨count s n, n, r.bad.map (spPoisonInfo k)⟩
  | _ => ⟨s, 0, none⟩

/-! ### Sending into a window of another die (R40, R294) -/

/-- Cut `bytes` bound for target address `a`, standing at position `pos` of their transfer, into pieces of at
most 184 bytes that split no aligned 8-byte unit: position, address and bytes of each. On a bridged pair a
piece ends with the unit that ends its 4 KiB segment. -/
def cutFlits (pair : Bool) : Nat → Nat → Nat → List Byte → List (Nat × Nat × List Byte)
  | 0, _, _, _ => []
  | fuel + 1, pos, a, bytes =>
    if bytes.isEmpty then []
    else
      let seg := a + (4096 - pos % 4096)
      let lim := if pair then (seg + 7) / 8 * 8 - a else 184
      let n := Nat.min (Nat.min (184 - a % 8) lim) bytes.length
      (pos, a, bytes.take n) :: cutFlits pair fuel (pos + n) (a + n) (bytes.drop n)

/-- Join runs that follow each other without a gap. -/
def joinRuns : List (Nat × List Byte) → List (Nat × List Byte)
  | [] => []
  | (a, x) :: t =>
    match joinRuns t with
    | [] => [(a, x)]
    | (b, y) :: u => if a + x.length = b then (a, x ++ y) :: u else (a, x) :: (b, y) :: u

/-- The 200-byte body of a WIN_DATA flit (R294). -/
def winBody (dstPart srcPart window xfer off : Nat) (data : List Byte) : List Byte :=
  slice (leBytes 1 (dstPart + 16 * srcPart) ++ leBytes 1 window ++ leBytes 2 xfer ++ leBytes 1 data.length
    ++ leBytes 3 0 ++ leBytes 8 off ++ data) 0 200

/-- Queue the WIN_DATA flits of runs at target addresses on die `d`; `key` is the transfer or push of this die. -/
def State.sendRuns (s : State) (key d qos dstPart srcPart window xfer base : Nat) (frozen : Bool)
    (runs : List (Nat × List Byte)) : State :=
  let step : State × Nat → (Nat × List Byte) → State × Nat := fun c u =>
    let pieces := cutFlits (s.mgt.product == 1) (u.2.length + 1) c.2 u.1 u.2
    (pieces.foldl (fun s x =>
      s.queueFlit (mkFlit 0x20 2 qos d s.die frozen (winBody dstPart srcPart window xfer (x.2.1 - base) x.2.2)) (x.1 / 4096) (some key)) c.1,
     c.2 + u.2.length)
  ((joinRuns runs).foldl step (s, 0)).1

/-- A fresh transfer identifier (R294). -/
def State.freshXfer (s : State) : Nat × State := (s.nextXfer % 0x10000, { s with nextXfer := (s.nextXfer + 1) % 0x10000 })

/-! ### WINDOW_OPEN and WINDOW_CLOSE (R314 to R316, R320) -/

/-- WINDOW_OPEN (R314 to R316). -/
def execWindowOpen (q : Nat) (s : State) : Outcome :=
  mgmt q 0x8C s (fun r =>
    let e := r.entry
    let p := ringPart q
    let w := leAt e 24 1 % 16
    let binding := bit (leAt e 25 1) 0
    let scratch := bit (leAt e 25 1) 1
    let d := leAt e 26 1 % 64
    let base := leAt e 32 6
    let size := leAt e 40 6
    let limit := leAt e 48 6
    let overlap := (List.range 16).any (fun k =>
      let y := s.win p k
      k != w && y.isOpen && decide (base < y.base.toNat + y.size.toNat) && decide (y.base.toNat < base + size))
    s.mgmtDesc q
      [ (24, decide (leAt e 24 1 / 16 ≠ 0) || (s.win p w).isOpen),
        (25, decide (leAt e 25 1 / 4 ≠ 0) || (binding && (!scratch || !(s.part p).loaded))),
        (26, decide (leAt e 26 1 / 64 ≠ 0)
              || (!binding && d != s.die && (!s.mgt.machineMode || !s.mgt.machineMask.getLsbD d))),
        (27, decide (leAt e 27 1 / 16 ≠ 0)), reservedBad e 28 32,
        (32, decide (base % 8 ≠ 0) || overlap), reservedBad e 38 40,
        (40, size == 0 || decide (size % 8 ≠ 0)), reservedBad e 46 48,
        (48, limit == 0), reservedBad e 54 64 ]
      (let place := placeOf base
       let past := match place with
         | .scratch _ o => scratch && decide (spSize < o + size)
         | _ => false
       let held := match place with
         | .scratch k o => scratch && (rangeSquares o size).any (fun x => !(s.islet k).free.getLsbD x)
         | _ => false
       let rights := match place with
         | .scratch k _ => scratch && decide (s.isletOwner k = some p)
         | .hbm a => !scratch && s.ownsHbm p a size && !s.touchesFrozen a size
         | _ => false
       if past then s.mgmtMal q subExtent 32
       else if held then s.mgmtMal q subTag 32
       else if !rights then s.mgmtRefuse q 0x07
       else
         let x : Window :=
           { isOpen := true, binding := binding, scratch := scratch, srcDie := BitVec.ofNat 6 d,
             srcPart := BitVec.ofNat 4 (leAt e 27 1), base := BitVec.ofNat 48 base, size := BitVec.ofNat 48 size,
             limit := BitVec.ofNat 48 limit }
         let g : Grant := { present := true, srcPart := leAt e 27 1 % 16, scratch := scratch, base := base, size := size, limit := limit }
         if binding then (s.setWin p w x).mgmtDone q 0
         else if d = s.die then
           let s := s.setWin p w x
           ({ s with grants := Table.set {} s.grants (grantKey d p w) g } : State).mgmtDone q 0
         else
           (s.sendNote d .grant [s.die, p, w, g.srcPart, b2n scratch, base, size, limit]).mgmtWait q [w, d]))

/-- GRANT (R316): on the source die the grant is stored; on the window's die the source die has stored it, and
WINDOW_OPEN completes. -/
def execGrant (p : Nat) (raw : List Byte) (g : GrantMsg) (s : State) : Outcome :=
  s.linkReceive p typCtrl raw (fun _ s =>
    if g.die = s.die then
      let q := 48 + g.part
      match s.mgmtBusy q 0x8C with
      | none => s
      | some r =>
        if r.aux.head? = some g.window then (s.setWin g.part g.window (openedWindow r.entry)).mgmtDone q 0 else s
    else
      let x : Grant := { present := true, srcPart := g.srcPart, scratch := g.scratch, base := g.base, size := g.size, limit := g.limit }
      ({ s with grants := Table.set {} s.grants (grantKey g.die g.part g.window) x } : State).sendNote g.die .granted
        [g.part, g.window])

/-- WINDOW_CLOSE (R320). Naming a window that is not open is a descriptor fault on the window number (DESIGN CHOICE, log
entry 13). -/
def execWindowClose (q : Nat) (s : State) : Outcome :=
  mgmt q 0x8D s (fun r =>
    let e := r.entry
    let p := ringPart q
    let w := leAt e 24 1 % 16
    let x := s.win p w
    s.mgmtDesc q
      [ (24, decide (leAt e 24 1 / 16 ≠ 0) || !x.isOpen || x.closing), reservedBad e 25 64 ]
      (let s := s.setWin p w { x with closing := true }
       let s := s.mgmtWait q [w]
       if x.binding then s.tryClose p w
       else if x.srcDie.toNat = s.die then
         let k := grantKey s.die p w
         let g : Grant := Table.get {} s.grants k
         ({ s with grants := Table.set {} s.grants k { g with revoking := true } } : State).settleRevokes
       else s.sendNote x.srcDie.toNat .revoke [p, w]))

/-- REVOKE (R320): the source die clears the grant and answers once the transfers that passed it have
completed. -/
def execRevoke (p : Nat) (raw : List Byte) (die part window : Nat) (s : State) : Outcome :=
  s.linkReceive p typCtrl raw (fun _ s =>
    let k := grantKey die part window
    let g : Grant := Table.get {} s.grants k
    if g.present then ({ s with grants := Table.set {} s.grants k { g with revoking := true } } : State).settleRevokes
    else s.sendNote die .revokeAck [part, window, 0])

/-- REVOKE_ACK (R320): SENT has come from the source die. It also answers an audit of a window that stays open
(R472). -/
def execRevokeAck (p : Nat) (raw : List Byte) (part window sent : Nat) (s : State) : Outcome :=
  s.linkReceive p typCtrl raw (fun _ s =>
    let x := s.win part window
    if x.binding then s
    else if x.closing && !x.revoked then
      ((s.setWin part window { x with revoked := true, sent := x.sent + sent }).tryClose part window).settleRevokes
    else if x.isOpen && !x.closing then s.auditSent part window sent
    else s)

/-! ### Acknowledgements, losses and verdicts -/

/-- WIN_ACK (R318): bytes of a transfer are counted at the destination. A transfer that has all its bytes
acknowledged reaches its end (R185). -/
def execWinAck (p : Nat) (raw : List Byte) (xfer bytes : Nat) (s : State) : Outcome :=
  s.linkReceive p typWinAck raw (fun _ s =>
    let x := s.xfer xfer
    if x.gather ∨ x.open < bytes then s
    else ((s.setXfer xfer { x with acked := x.acked + bytes }).settleXfer xfer).settleRevokes)

/-- INFO of LINK_LOST (R218, R310). -/
def linkLostInfo (die port : Nat) : Nat := die % 64 + port % 16 * 256

/-- Bytes of a transfer were lost on a link (R309, R310). -/
def State.loseBytes (s : State) (k bytes die port : Nat) : State :=
  let x := s.xfer k
  if x.open < bytes ∨ bytes = 0 then s
  else
    let s := s.grantSent x.grantKey 0 bytes
    (s.setXfer k { x with lost := x.lost + bytes, lostInfo := linkLostInfo die port, ended := x.ended || x.gather }).settleXfer k

/-- A WINDOW_OPEN whose grant cannot reach die `d` any more completes LINK_LOST with the far end and port of the failed link (R316). -/
def State.dropOpens (s : State) (lost : Nat → Bool) (far port : Nat) : State :=
  (List.range 16).foldl (fun s p =>
    match s.mgmtBusy (48 + p) 0x8C with
    | some r => if lost (r.aux.getD 1 0) then s.mgmtEnd (48 + p) stLinkLost (linkLostInfo far port) else s
    | none => s) s

/-- The machine lead fetches again what it forwarded to die `d` and `d` has not taken (R227). -/
def State.fetchAgain (s : State) (d : Nat) : State :=
  if !(s.mgt.machineMode && s.mgt.machineLead) then s
  else ((Table.keys s.queues).filter (fun q => decide (128 ≤ q) && decide (q / 128 = d))).foldl (fun (s : State) q =>
    let k := s.queue q
    (s.setQueue q { k with fetched := k.taken, fetchOut := 0 }).fetchMore q) s

/-- LOST_NOTICE (R309, R310): bytes of a transfer of this die were discarded at a link whose far end is `die`
on port `port`. A notice of no bytes names in `xfer` the die to which a note of this die was on its way (DEDUCED, log entry 90): a WINDOW_OPEN
whose grant was on it ends (R316), and ring entries are fetched again (R227). -/
def execLostNotice (p : Nat) (raw : List Byte) (xfer bytes die port : Nat) (s : State) : Outcome :=
  s.linkReceive p typCtrl raw (fun _ s =>
    if bytes = 0 then (s.dropOpens (fun d => d == xfer) die port).fetchAgain xfer
    else (s.loseBytes xfer bytes die port).settleRevokes)

/-- XFER_VERDICT (R168, R322): the end of a gather's push, or the refusal of its request. For a transfer of
this die that met poison in the window, `sent` is the number of its bytes that were not written (DEDUCED, log entry
12). -/
def execXferVerdict (p : Nat) (raw : List Byte) (xfer : Nat) (refused poisoned : Bool) (sent info : Nat) (s : State) : Outcome :=
  s.linkReceive p typVerdict raw (fun _ s =>
    let x := s.xfer xfer
    match x.queue with
    | none => s
    | some q =>
      if x.gather then
        let w := s.win x.part x.window
        let s := if w.binding then s.setWin x.part x.window { w with sent := w.sent + sent } else s
        if refused then
          let s := { s with xfers := Table.set {} s.xfers xfer {} }
          match s.runOfXfer q xfer with
          | none => s.settleWindows
          | some i =>
            match s.runAt q i with
            | none => s.settleWindows
            | some r =>
              ((s.refuse (masterNum .icpHub) (s.queueOwner q) q 0x06 (eSeq r.entry) 0).setRun q i
                { r with phase := .refused, xfer := none }).settleWindows
        else
          let st := if poisoned then stPoison else if sent < x.total then stLinkLost else stDone
          let y := { x with ended := true, lost := x.total - sent, status := st, info := info, lostInfo := info }
          ((s.setXfer xfer y).settleXfer xfer).settleWindows
      else if poisoned || refused then
        let s := s.grantSent x.grantKey 0 sent
        let y := if x.stopped then x else { x with status := if refused then stRefused else stPoison, info := info }
        ((s.setXfer xfer { y with lost := x.lost + sent }).settleXfer xfer).settleRevokes
      else s)

/-! ### WIN_DATA and GATHER_REQ as they reach this die (R166, R167, R318, R319) -/

/-- The sub-header of a WIN_DATA body passes the window table (R294, R314, R318, R319). -/
def State.winDataOk (s : State) (f : Flit) : Bool :=
  let b := f.body
  let p := leAt b 0 1 % 16
  let sp := leAt b 0 1 / 16
  let x := s.win p (leAt b 1 1 % 16)
  let len := leAt b 4 1
  let off := leAt b 8 6
  x.isOpen && decide (1 ≤ len) && decide (len ≤ 184) && decide (off + len ≤ x.size.toNat)
    && decide (x.count.toNat + len ≤ x.limit.toNat)
    && (if x.binding then
          s.inBinding p f.src.toNat && sp == p && (s.xfer (leAt b 2 2)).gather && decide ((s.xfer (leAt b 2 2)).die = f.src.toNat)
            && decide ((s.xfer (leAt b 2 2)).part = p) && decide ((s.xfer (leAt b 2 2)).window = leAt b 1 1 % 16)
        else decide (x.srcDie = f.src) && decide (x.srcPart.toNat = sp))
    && (!f.frozen || (sp == p && x.scratch && s.inBinding p f.src.toNat && f.keyed))

/-- A WIN_DATA flit that passes the window table would write a frozen frame (R148) or, with data that is not frozen, part of a
sealed square (R104): the reason of the refusal. -/
def State.winDataRefused (s : State) (f : Flit) (a len : Nat) : Option Nat :=
  match placeRun a len with
  | .hbm y => if s.touchesFrozen y len then some 0x02 else none
  | .scratch k o => if !f.frozen && (rangeSquares o len).any (fun q => (s.islet k).sealed.getLsbD q) then some 0x03 else none
  | _ => none

/-- What a window write of another die met in this die's memory: a poisoned word or block that it covers in part. The partition
that owns the memory hears of it (R107, R280). -/
def State.winPoison (s : State) (p a : Nat) (y : WinWrite) : State :=
  match y.bad with
  | none => s
  | some info =>
    match placeOf a with
    | .scratch k _ => s.poisonEvent ((s.isletOwner k).getD p) noQueue 0 info 0xFF
    | .hbm b => s.poisonEvent p noQueue 0 (s.relAddr p ((b + y.wrote) / 32 * 32)) 0xFF
    | _ => s

/-- Deliver a WIN_DATA flit for this die: check, write, count, acknowledge (R318). A flit that R104 or R148 forbids is a
security refusal: nothing of it is written, and its sender hears that it was refused (DEDUCED, log entry 74). -/
def State.deliverWinData (s : State) (f : Flit) : State :=
  let b := f.body
  let p := leAt b 0 1 % 16
  let w := leAt b 1 1 % 16
  let k := leAt b 2 2
  let len := leAt b 4 1
  let x := s.win p w
  -- a tenant switch has closed the window: a recovery, no breach (R396, R468)
  if (s.part p).state == .clearing then s
  else if !s.winDataOk f then
    -- what SENT and the difference are for a flit breach is not stated: free values (DEDUCED, log entry 14)
    let sent := s.freeValue 64
    let diff := s.freeTaken.freeValue 64
    (s.freeTaken.freeTaken.breach brWindow w 1 (some p)
      [sent.truncate 32, (sent >>> 32).truncate 32, x.count.truncate 32, (x.count >>> 32).truncate 32] diff.toInt).settleRevokes
  else
    let a := x.base.toNat + leAt b 8 6
    match s.winDataRefused f a len with
    | some reason =>
      (s.refuse (masterNum .hif) (some p) noQueue reason 0 a).sendNote f.src.toNat .verdict [k, 1, 0, len, 0]
    | none =>
      let g := s.xfer k
      let mine := g.gather && decide (g.die = f.src.toNat) && decide (g.part = p) && decide (g.window = w)
      let y := s.windowWrite p w 0xFF a (slice b 16 len) f.frozen
      let s := (y.s.winPoison p a y).sendNote f.src.toNat .winAck [k, y.wrote]
      let s := match y.bad with
        | some info => s.sendNote f.src.toNat .verdict [k, 0, 1, len - y.wrote, info]
        | none => s
      if mine then
        ((s.setXfer k { g with acked := g.acked + y.wrote }).settleXfer k).settleWindows
      else s

/-- Deliver a GATHER_REQ for this die, the owner of the source (R167, R317, R319, R322). A request for a window that this die
holds no grant of is one for a BINDING_SET window only where both dies are in the binding set; else the grant was given back and the
request is refused. A request of 0 bytes is refused (DESIGN CHOICE, log entry 75). -/
def State.deliverGather (s : State) (f : Flit) : State :=
  let b := f.body
  let p := leAt b 0 1 % 16
  let w := leAt b 1 1 % 16
  let scratch := bit (leAt b 1 1) 4
  let x := leAt b 2 2
  let len := leAt b 4 4
  let src := leAt b 8 6
  let off := leAt b 16 6
  let d := f.src.toNat
  let key := grantKey d p w
  let g : Grant := Table.get {} s.grants key
  let mine := (s.isletsOf p)
  let frozen := s.touchesFrozen src len
  let ok := decide (0 < len) && s.ownsHbm p src len && !mine.isEmpty
    && (!frozen || (scratch && s.inBinding p s.die && s.inBinding p d && s.routeBound p d))
    && (if g.present then !g.revoking && g.srcPart == p && decide (off + len ≤ g.size) && decide (g.started + len ≤ g.limit)
        else scratch && s.inBinding p s.die && s.inBinding p d)
  if ok then
    let s := if g.present then { s with grants := Table.set {} s.grants key { g with started := g.started + len } } else s
    let n := mine.headD 0
    let i := s.islet n
    s.setIslet n { i with pushes := i.pushes ++ [{ die := d, part := p, window := w, xfer := x, qos := f.qos,
                                                   scratch := scratch, src := src, off := off, len := len }] }
  else
    let s := s.sealedEntry { time := s.us, master := BitVec.ofNat 8 (masterNum .icpHub), part := BitVec.ofNat 8 p,
                             queue := 0xFF, reason := 0x06, seq := 0, addr := BitVec.ofNat 64 src }
    s.sendNote d .verdict [x, 1, 0, 0, 0]

/-- Pushes of an Islet's partition that hold a service slot. -/
def Islet.serving (i : Islet) : Nat := (i.pushes.filter Push.served).length

/-- GATHER_SERVICE_START (R167): the `k`-th push that waits at Islet `n`, the lowest of its partition, takes a
service slot. Its bytes are read and sent; a poisoned block ends it there (R168). -/
def execGatherServiceStart (n k : Nat) (s : State) : Outcome :=
  let i := s.islet n
  match i.pushes[k]? with
  | none => stutter s
  | some u =>
    let better := i.pushes.any (fun v => !v.served && decide (u.qos.toNat < v.qos.toNat))
    let anyOn := match (s.isletsOf u.part).find? s.on with
      | some m => !(s.islet m).quiesce && !(s.islet m).testing
      | none => false
    if u.served ∨ 2 ≤ i.serving ∨ better ∨ !anyOn ∨ !s.runReady u.src u.len then stutter s
    else
      let frozen := s.touchesFrozen u.src u.len
      let x := s.readHbm .lagoon u.src u.len
      let s := x.s
      let n1 := x.bytes.length
      let key := grantKey u.die u.part u.window
      let g : Grant := Table.get {} s.grants key
      let s := s.setIslet n { s.islet n with pushes := i.pushes.set k { u with served := true } }
      let s := match x.bad with
        | some b => s.poisonEvent u.part noQueue 0 (s.relAddr u.part b) u.die
        | none => s
      let s := s.sendRuns (pushKey u.die u.xfer) u.die u.qos.toNat u.part u.part u.window u.xfer 0 frozen [(u.off, x.bytes)]
      let s := if g.present then s.grantSent (some key) n1 0 else s
      let y : Xfer :=
        { queue := none, die := u.die, part := u.part, window := u.window, total := n1, islet := n,
          status := if x.bad.isSome then stPoison else stDone,
          info := match x.bad with
            | some b => s.relAddr u.part b
            | none => 0,
          grantKey := if g.present then some key else none }
      let s := s.setXfer (pushKey u.die u.xfer) y
      .next (if n1 = 0 then s.endPush (pushKey u.die u.xfer) else s)

/-- COMMAND_COMPLETE (R185): effects become visible and the completion is posted; grants that waited for the
transfer are given back. -/
def execCommandComplete (q i : Nat) (s : State) : Outcome := .next (s.complete q i).settleRevokes

/-- REFUSAL_COMPLETE (R384): the refusal completes 16 µs after the start; a close that a refused gather
pinned goes on (R169). -/
def execRefusalComplete (q i : Nat) (s : State) : Outcome :=
  match s.runAt q i with
  | none => stutter s
  | some r =>
    if r.phase == .refused then
      .next (((s.advanceTo (r.start + 1600)).setRun q i { r with phase := .done, status := stRefused, info := 0 }).complete q i).settleRevokes
    else stutter s

end Sys2Proof.Machine
end

