-- ==== Sys2Proof/Machine/Faults.lean ====
section
/-!
DEFINITION. Faults, scrubbing and the ledger (17): the patrols, the tallies of each second, rebuilding the firmware
region, SELFTEST, CALIBRATE, LEDGER_AUDIT, and what the releases and the abort register do.
-/

namespace Sys2Proof.Machine

def subTargetState : Nat := 0x21

/-- Ticks of the time base in a millisecond. -/
def msTicks : Nat := 100000

/-! ### SCRUB_CONFIG (R462) -/

/-- SCRUB_CONFIG. -/
def execScrubConfig (s : State) : Outcome :=
  mgmt 64 0x99 s (fun r =>
    let e := r.entry
    let pass := leAt e 28 4
    let ms := leAt e 32 4
    s.mgmtDesc 64
      [ (24, decide (leAt e 24 1 / 4 ≠ 0)), reservedBad e 25 28, (28, decide (pass < 4) || decide (86400 < pass)),
        (32, decide (ms < 10) || decide (60000 < ms)), reservedBad e 36 64 ]
      (({ s with up := { s.up with hbmEn := bit (leAt e 24 1) 0, spEn := bit (leAt e 24 1) 1, hbmPassS := BitVec.ofNat 17 pass,
                                   spPassMs := BitVec.ofNat 16 ms } } : State).mgmtDone 64 0))

/-! ### The patrols (R282, R458 to R461) -/

/-- Bits in error after `n` more are struck: 2 stands for two or more. -/
def struck (old n : Nat) : Nat := Nat.min 2 (old + n)

/-- Count a patrol correction for the tally of each second (R458): for the owner and for the operator, with the first
address of the second in the form of each. -/
def State.scrubTallied (s : State) (o : Option Nat) (own phys : Nat) : State :=
  let u := s.up
  let s := { s with up := { u with scrubCorr := true, scrubCorrCount := satInc u.scrubCorrCount, opScrubs := u.opScrubs + 1,
                                   opScrubAddr := if u.opScrubs = 0 then phys else u.opScrubAddr } }
  match o with
  | none => s
  | some p =>
    let t := s.part p
    s.setPart p { t with scrubs := t.scrubs + 1, scrubAddr := if t.scrubs = 0 then own else t.scrubAddr }

/-- SCRUB_UNCORRECTABLE to the owner, if there is one, and to the operator (R457, R461). -/
def State.scrubEvent (s : State) (o : Option Nat) (own phys action : Nat) : State :=
  let s := match o with
    | none => s
    | some p => s.raiseEvent p 0x0102 noQueue 0 (leBytes 8 own ++ leBytes 1 action)
  s.raiseEvent 16 0x0102 noQueue 0 (leBytes 8 phys ++ leBytes 1 action ++ leBytes 1 s.die)

/-- The patrol found something uncorrectable. -/
def State.scrubUncorrectable (s : State) : State :=
  { s with up := { s.up with scrubUncorr := true, scrubUncorrCount := satInc s.up.scrubUncorrCount } }

/-- The partition that owns the granule of an address. -/
def State.ownerPart (s : State) (a : Nat) : Option Nat :=
  if s.owner (granuleOf a) < 16 then some (s.owner (granuleOf a)) else none

/-- The HBM patrol checks one block below the Lagoon (R282, R461): a non-caching read, for which a Modified owner writes back (R257). An
owned block is marked poisoned whether its line is allocated or not; where it is, the line is dirty, so that its writeback mends the
block. A block of the firmware region is the Goose's to rebuild (R356). -/
def State.patrolBlock (s : State) (block : Nat) : State :=
  let s := s.recallDirty (block / 4)
  let a := block * 32
  let o := s.ownerPart a
  let own := match o with
    | some p => s.relAddr p a
    | none => a
  let clean : State → State := fun s => { s with hbmErr := Table.set 0 s.hbmErr block 0 }
  match Table.get 0 s.hbmErr block with
  | 0 => s
  | 1 => (clean s).scrubTallied o own a
  | _ =>
    if Table.get false s.hbmPoison block then clean s
    else
      let s := s.scrubUncorrectable
      let g := s.lag (block / 4)
      if o.isSome then
        let s := ({ clean s with hbmPoison := Table.set false s.hbmPoison block true } : State).logPoison a 0 false false
        if g.present then (s.setLag (block / 4) { g with dirty := true }).scrubEvent o own a 3 else s.scrubEvent o own a 0
      else if s.owner (granuleOf a) = 0xFE then (s.needsRebuild block).scrubEvent o own a 2
      else ((clean s).writeRaw a 32 []).scrubEvent o own a 1

/-- The patrol's next address of a stack. -/
def State.patrolPos (s : State) (k : Nat) : Nat := if k = 0 then s.up.pos0 else s.up.pos1

/-- The patrol stands at an address of a stack; past the stack's end a pass is complete. -/
def State.setPatrolPos (s : State) (k a : Nat) : State :=
  let u := s.up
  let wrap := decide (0x600000000 * (k + 1) ≤ a)
  let a := if wrap then 0x600000000 * k else a
  { s with up := if k = 0 then { u with pos0 := a, passes0 := if wrap then u.passes0 + 1 else u.passes0 }
                 else { u with pos1 := a, passes1 := if wrap then u.passes1 + 1 else u.passes1 } }

/-- The patrol leaves out granules that a fill has or waits for (R459), and those whose key no longer exists (R350). -/
def State.patrolSkip : Nat → Nat → State → State
  | 0, _, s => s
  | fuel + 1, k, s =>
    let a := s.patrolPos k
    if s.filling a || (s.granuleKey (granuleOf a)).isEmpty then State.patrolSkip fuel k (s.setPatrolPos k ((granuleOf a + 1) * 0x10000000)) else s

/-- HBM_PATROL_READ (R459): the next block of a stack is read. `upsets` are the bits that have been struck since the
last event, block by block; `late` says that the pass is more than 1 s behind its pace. -/
def execHbmPatrolRead (stack : Nat) (upsets : List (Nat × Nat)) (late : Bool) (s : State) : Outcome :=
  let s1 : State := { s with hbmErr := upsets.foldl (fun t u => Table.set 0 t u.1 (struck (Table.get 0 t u.1) u.2)) s.hbmErr }
  let s1 := State.patrolSkip 96 stack s1
  let a := s1.patrolPos stack
  if 2 ≤ stack ∨ !s.up.hbmEn ∨ !s.on (20 + stack) ∨ s1.filling a ∨ (s1.granuleKey (granuleOf a)).isEmpty then stutter s
  else
    let s1 := if late then
        { s1 with up := { s1.up with scrubLate := true, scrubLateCount := satInc s1.up.scrubLateCount } }
      else s1
    .next ((s1.patrolBlock (a / 32)).setPatrolPos stack (a + 32))

/-- The scratchpad patrol checks one word (R282, R461). -/
def State.patrolWord (n : Nat) (s : State) (w : Nat) : State :=
  let o := s.isletOwner n
  let i := spPoisonInfo n (4 * w)
  let clean : State → State := fun s => { s with spErr := Table.set 0 s.spErr (spWord n w) 0 }
  match Table.get 0 s.spErr (spWord n w) with
  | 0 => s
  | 1 => (clean s).scrubTallied o i i
  | _ =>
    if Table.get false s.spPoison (spWord n w) then clean s
    else
      let s := (clean s).scrubUncorrectable
      if o.isSome then
        (({ s with spPoison := Table.set false s.spPoison (spWord n w) true } : State).logPoison (4 * w) n true false).scrubEvent o i i 0
      else ({ s with scratch := Memory.zero s.scratch (spKey n (4 * w)) 4 } : State).scrubEvent o i i 1

/-- SP_PATROL_READ (R460): the next row vector of an ON Islet is read. -/
def execSpPatrolRead (n : Nat) (upsets : List (Nat × Nat)) (s : State) : Outcome :=
  if 16 ≤ n ∨ !s.up.spEn ∨ !s.on n then stutter s
  else
    let s := { s with spErr := upsets.foldl (fun t u =>
      if u.1 < 0x100000 then Table.set 0 t (spWord n u.1) (struck (Table.get 0 t (spWord n u.1)) u.2) else t) s.spErr }
    let v := (s.islet n).patrolPos
    let s := ((List.range 32).map (fun k => 32 * v + k)).foldl (State.patrolWord n) s
    .next (s.setIslet n { s.islet n with patrolPos := (v + 1) % 32768 })

/-- SCRUB_TALLY (R458): SCRUB_CORRECTED for every ring in whose memory the patrol corrected something in the
second. -/
def execScrubTally (s : State) : Outcome :=
  if !s.timeRuns then stutter s
  else
    let s := (List.range 16).foldl (fun (s : State) p =>
      let t := s.part p
      if t.scrubs = 0 then s
      else (s.setPart p { t with scrubs := 0, scrubAddr := 0 }).raiseEvent p 0x0101 noQueue 0 (leBytes 4 t.scrubs ++ leBytes 8 t.scrubAddr))
      (s.atSecond 2)
    let u := s.up
    .next (if u.opScrubs = 0 then s
      else ({ s with up := { u with opScrubs := 0, opScrubAddr := 0 } } : State).raiseEvent 16 0x0101 noQueue 0
        (leBytes 4 u.opScrubs ++ leBytes 8 u.opScrubAddr ++ leBytes 1 s.die))

/-- REFUSAL_TALLY (R388). -/
def execRefusalTally (s : State) : Outcome :=
  if !s.timeRuns then stutter s
  else
    let s := (List.range 16).foldl (fun (s : State) p =>
      let t := s.part p
      if t.refSec = 0 then s
      else (s.setPart p { t with refSec := 0 }).raiseEvent p 0x0603 noQueue 0 (leBytes 4 t.refSec ++ leBytes 8 t.refTotal))
      (s.atSecond 3)
    let b := s.bus
    .next (if b.pfRefSec = 0 then s
      else ({ s with bus := { b with pfRefSec := 0 } } : State).raiseEvent 16 0x0603 noQueue 0
        (leBytes 4 b.pfRefSec ++ leBytes 8 b.pfRefTotal))

/-- FIRMWARE_REBUILD (R356): the running slot is read, checked again and decrypted, and the block is written whole from it; or the slot
no longer verifies. -/
def execFirmwareRebuild (block : Nat) (s : State) : Outcome :=
  if !s.up.fwBlocks.contains block ∨ s.mgt.stage ≠ .ready ∨ !s.runReady (block * 32) 32 then stutter s
  else
    let s := { s with up := { s.up with fwBlocks := s.up.fwBlocks.erase block } }
    match (if s.imageValid s.mgt.slotRunning then s.imageBody s.mgt.slotRunning else none) with
    | some b => .next (s.writeRaw (block * 32) 32 (slice (Config.icpFirmware b) (block * 32 - 191 * 2 ^ 28) 32))
    | none =>
      let s := s.scrubEvent none 0 (block * 32) 2
      let s := { s with up := { s.up with fwFailed := true } }
      .next ((List.range 48).foldl State.ledgerHaltQueue s)

/-! ### SELFTEST (R473, R474) -/

/-- SELFTEST. -/
def execSelftest (q : Nat) (s : State) : Outcome :=
  mgmt q 0x8E s (fun r =>
    let e := r.entry
    let n := leAt e 24 1
    let kind := leAt e 25 1
    let owner := s.isletOwner n
    let active : Bool := match owner with
      | some p => (s.part p).state == .active
      | none => false
    s.mgmtDesc q
      [ (24, decide (16 ≤ n)), (25, decide (2 ≤ kind)), reservedBad e 26 28, (28, decide (1000 < leAt e 28 4)), reservedBad e 32 64 ]
      (if q ≠ 64 ∧ owner ≠ some (ringPart q) then s.mgmtRefuse q 0x01
       else if q = 64 ∧ active then s.mgmtEnd q stBusy 0
       else if !s.on n then s.mgmtMal q subTargetState 24
       else (s.setIslet n { s.islet n with quiesce := true }).mgmtWait q [n, kind, 0]))

/-- The Islet of a waiting SELFTEST is quiet, and ON (R474). -/
def State.testReady (s : State) (r : Run) : Bool :=
  let n := r.aux.getD 0 16
  r.aux.getD 2 0 == 0 && s.quiet n && !(s.islet n).testing && s.on n

/-- The test of a waiting SELFTEST begins. -/
def State.startTest (s : State) (q : Nat) (r : Run) : State :=
  let n := r.aux.getD 0 16
  (s.setIslet n { s.islet n with testing := true }).mgmtWait q [n, r.aux.getD 1 0, 1]

/-- QUIESCE_DONE (R420, R474): a waiting DOMAIN_SET whose Islets and ports are ready proceeds; a waiting SELFTEST of a
quiet Islet begins its test. -/
def execQuiesceDone (q : Nat) (s : State) : Outcome :=
  match s.mgmtBusy q 0x8E with
  | some r => if s.testReady r then .next (s.startTest q r) else stutter s
  | none => .next (if q = 64 then s.tryQuiesced else s)

/-- QUIESCE_TIMEOUT (R420, R474): WAIT_MS has passed. What is ready now proceeds, else the command completes BUSY. -/
def execQuiesceTimeout (q : Nat) (s : State) : Outcome :=
  match s.mgmtBusy q 0x8E with
  | some r =>
    let n := r.aux.getD 0 16
    if r.aux.getD 2 0 = 1 then stutter s
    else
      let s := s.advanceTo (r.start + leAt r.entry 28 4 * msTicks)
      if s.testReady r then .next (s.startTest q r)
      else
        let s := s.mgmtEnd q stBusy 0
        .next ((s.setIslet n { s.islet n with quiesce := s.keepsQuiet n }).reevaluate)
  | none =>
    match (if q = 64 then s.mgmtBusy 64 0x84 else none) with
    | some r =>
      if r.aux.headD 0 ≠ 1 then stutter s
      else
        let s := s.advanceTo (r.start + leAt r.entry 30 2 * msTicks)
        .next (if s.loweringReady r.entry then s.startTransitions r.entry else s.quiesceFailed r.entry)
    | none => stutter s

/-- INFO of a SELFTEST (R474): pass, failing words saturating in 24 bits, or failing units in 3. -/
def selftestInfo (kind : Nat) (passed : Bool) (failing : Nat) : Nat :=
  b2n passed + 256 * (if passed then 0 else if kind = 0 then Nat.min failing 0xFFFFFF else failing % 8)

/-- SELFTEST_END (R474): the Islet is clear, its tag counts are 0, and the command completes. -/
def execSelftestEnd (n : Nat) (passed : Bool) (failing : Nat) (s : State) : Outcome :=
  let running := (List.range 17).find? (fun i => match s.mgmtBusy (48 + i) 0x8E with
    | some r => decide (r.aux.take 1 = [n]) && decide (r.aux.getD 2 0 = 1)
    | none => false)
  match running with
  -- the command has ended already, by a ledger halt (R470)
  | none =>
    if (s.islet n).testing then
      let s := s.clearSp n
      let s := s.setIslet n { s.islet n with testing := false, quiesce := s.keepsQuiet n }
      .next ({ s with up := { s.up with recSelftest := satInc s.up.recSelftest },
                      mgt := { s.mgt with islFail := setBit s.mgt.islFail n (!passed) } } : State).reevaluate
    else stutter s
  | some i =>
    let q := 48 + i
    match s.mgmtBusy q 0x8E with
    | none => stutter s
    | some r =>
      let kind := r.aux.getD 1 0
      let info := selftestInfo kind passed failing
      let s := (s.clearSp n).mgmtDone q info
      let s := s.setIslet n { s.islet n with testing := false, quiesce := s.keepsQuiet n }
      let s := { s with up := { s.up with recSelftest := satInc s.up.recSelftest },
                        mgt := { s.mgt with islFail := setBit s.mgt.islFail n (!passed) } }
      let seq := eSeq r.entry
      let s := s.complete q 0
      let data := leBytes 1 n ++ leBytes 1 kind ++ leBytes 1 (b2n passed) ++ leBytes 1 0 ++ leBytes 4 info
      let s := if q = 64 then s else s.raiseEvent (q - 48) 0x0701 q seq data
      .next (s.raiseEvent 16 0x0701 q seq data).reevaluate

/-! ### CALIBRATE (R475) -/

/-- CALIBRATE. -/
def execCalibrate (s : State) : Outcome :=
  mgmt 64 0x8F s (fun r =>
    let e := r.entry
    let kind := leAt e 24 1
    let target := leAt e 25 1
    let most := if kind = 0 then 0 else if kind = 1 then 1 else 9
    let ready := if kind = 1 then s.on (20 + target) else if kind = 2 then (s.port target).st == .up else true
    s.mgmtDesc 64 [(24, decide (3 ≤ kind)), (25, decide (most < target)), reservedBad e 26 64]
      (if ready then s.mgmtWait 64 [kind, target] else s.mgmtMal 64 subTargetState 25))

/-- CALIBRATION_END (R475): the completion, then CALIBRATION_DONE. -/
def execCalibrationEnd (s : State) : Outcome :=
  match s.mgmtBusy 64 0x8F with
  | none => stutter s
  | some r =>
    let s := (s.mgmtDone 64 0).complete 64 0
    .next (s.raiseEvent 16 0x0702 64 (eSeq r.entry) (r.aux.map (BitVec.ofNat 8)))

/-! ### LEDGER_AUDIT (R472) -/

/-- Open windows in the scope of an audit. -/
def State.auditedWindows (s : State) (e : List Byte) : List (Nat × Nat) :=
  if bit (leAt e 24 1) 2 then
    ((List.range 256).map (fun i => (i / 16, i % 16))).filter (fun x =>
      (s.win x.1 x.2).isOpen && !(s.win x.1 x.2).closing && auditScope e (some x.1))
  else []

/-- UP ports, which an audit of CREDIT checks. -/
def State.auditedPorts (s : State) (e : List Byte) : List Nat :=
  if bit (leAt e 24 1) 0 then (List.range 10).filter (fun p => (s.port p).st == .up) else []

/-- An audit asks for what other dies know: the partner's running totals of returned credits, and SENT of the windows
that other dies write. -/
def State.askOthers (s : State) (e : List Byte) : State :=
  let s := (s.auditedPorts e).foldl (fun (s : State) p =>
    let t := s.port p
    let f := mkFlit 0x09 3 0 t.partnerDie.toNat s.die false
      (Config.noteBody Note.audit.code.1 ((List.range 4).map (fun v => (t.credit v).retSent)))
    s.setPort p { t with txq := t.txq ++ [{ flit := f }] }) s
  (s.auditedWindows e).foldl (fun (s : State) x =>
    let w := s.win x.1 x.2
    if w.binding || w.srcDie.toNat == s.die then s else s.sendNote w.srcDie.toNat .audit [x.1, x.2]) s

/-- LEDGER_AUDIT (R472). -/
def execLedgerAudit (q : Nat) (s : State) : Outcome :=
  mgmt q 0x90 s (fun r =>
    let e := r.entry
    let kinds := leAt e 24 1
    let part := leAt e 25 1
    s.mgmtDesc q
      [ (24, decide (kinds = 0) || decide (32 ≤ kinds) || (q != 64 && bit kinds 0)),
        (25, if q = 64 then (decide (16 ≤ part) && part != 0xFF) || (bit kinds 0 && part != 0xFF) else part != ringPart q),
        reservedBad e 26 28, (28, decide (1000 < leAt e 28 4)), reservedBad e 32 64 ]
      (let codes := (s.auditedPorts e).map codePort ++ (s.auditedWindows e).map (fun x => codeWindow x.1 x.2)
       ((s.askOthers e).mgmtWait q (0 :: 0 :: codes)).tryAudits))

/-- What the CREDIT invariant of a channel gives against the partner's running total (R467): credits held, and returns
on their way, must fit what was granted. None where it holds. -/
def creditOff (c : Credit) (returned : Nat) : Option Int :=
  if returned < c.retSeen then some ((returned : Int) - c.retSeen)
  else if c.granted < c.held + (returned - c.retSeen) then some ((c.held + (returned - c.retSeen) : Nat) - (c.granted : Nat) : Int)
  else none

/-- AUDIT_CREDIT_EXCHANGE (R472): the partner's running totals arrive. -/
def execAuditCreditExchange (p : Nat) (raw : List Byte) (returned : List Nat) (s : State) : Outcome :=
  s.linkReceive p typCtrl raw (fun _ s =>
    let found := (List.range 4).filterMap (fun v =>
      (creditOff ((s.port p).credit v) (returned.getD v 0)).map (fun d => codeCredit p v d))
    (s.auditStep 64 (codePort p) found false).tryAudits)

/-- AUDIT_WAIT_TIMEOUT (R472): a window that is not quiet yet is skipped, and so is a port that has left UP. -/
def execAuditWaitTimeout (q : Nat) (s : State) : Outcome :=
  match s.mgmtBusy q 0x90 with
  | none => stutter s
  | some r =>
    let s := s.advanceTo (r.start + leAt r.entry 28 4 * msTicks)
    let gone : Nat → Bool := fun c => decide (0x200 ≤ c) || (s.port (c - 0x100)).st != .up
    .next ((((r.aux.drop 2).filter (fun c => codeWaits c && gone c)).foldl (fun s c => s.auditStep q c [] true) s).tryAudits)

/-! ### Releases (R471) -/

/-- A port that the ledger held trains again and will take the lost path. -/
def State.releasePort (s : State) (p : Nat) : State :=
  let t := s.port p
  if t.held then s.setPort p { t with held := false, forceLost := true, st := if s.on (22 + p) then .training else t.st } else s

/-- A write of LDG_RELEASE through function `fn`. -/
def State.ledgerRelease (s : State) (a : Acc) (snapshot : Bool) (ports : BitVec 10) : State :=
  let u := s.up
  let s := if !snapshot then s
    else if u.frozen && u.breachPart.toNat != 0xFF then s.logAccess causeState a true
    else { s with up := { u with frozen := false } }
  (List.range 10).foldl (fun s p => if ports.getLsbD p then s.releasePort p else s) s

/-! ### ISL_QABORT (R477) -/

/-- A write of ISL_QABORT of Islet `n`: each engine named that waits at a tag wait point aborts its oldest waiting
command; for one that does not wait the write is discarded and logged. -/
def State.qabort (s : State) (a : Acc) (n : Nat) (bits : BitVec 3) : State :=
  let qs := ((List.range 3).filter (fun k => bits.getLsbD k)).map (fun k => 3 * n + k)
  let idle := qs.any (fun q => (s.tagWaitOf q).isNone)
  let s := qs.foldl State.abortWaiting s
  if idle then s.logAccess causeState a true else s

end Sys2Proof.Machine
end

