-- ==== Sys2Proof/Machine/Regs.lean ====
section
/-!
DEFINITION. The register index (20 R523): where each register lies, and what it reads. A register that is a view
of other state is computed here.
-/

namespace Sys2Proof.Machine

/-- The registers. Event ring `e` stands among the completion rings as 128 + e; numbered registers of a block take
their number in the block. -/
inductive Reg where
  | idRevision | idLot0 | idLot1 | idSerial | idSecver | idOpkey | idPlace | idPortMap
  | qBase (q : Nat) | qDb (q : Nat) | qCfg (q : Nat) | qCtrl (q : Nat) | qGen (q : Nat) | qStatus (q : Nat)
  | qCons (q : Nat) | qProd (q : Nat) | qHalt (q : Nat) | qHaltSeq (q : Nat) | qResume (q : Nat)
  | cqBase (c : Nat) | cqCfg (c : Nat) | cqHead (c : Nat) | cqTail (c : Nat) | cqStatus (c : Nat)
  | kick | accErr | accErrCount | accErrInfo | accErrAddr
  | gooseStatus | nonce | bootReg | bootTime
  | paceCap | volt | pgvStatus | pgvCount | pmbusLast
  | pwrState (j : Nat) | wakeArmed | aon | resetCause | resetCount
  | gpioIn | gpioOut | gpioSet | gpioClr | gpioTgl | gpioRise | gpioFall | gpioPending | gpioDeny | gpioPstat
  | gpioOwner (j : Nat) | gpioCfg (k : Nat) | gpioEcnt (k : Nat) | gpioIsel (f : Nat) | gpioPwm (n : Nat)
  | gpioTach (n : Nat) | gpioCapt (n : Nat) | fanDuty (n : Nat) | fanTach (n : Nat)
  | tport (n : Nat) | hifQos (f : Nat) | holdStatus | holdAddr | holdInfo | loss (m : Nat)
  | errSummary | scrubHbm | scrubSp | scrubStatus | scrubCount0 | scrubCount1 | scrubPos (k : Nat) | scrubPasses
  | isletFail | poisonLog (k : Nat) | poisonHead
  | ldgStatus | ldgCount | breachInfo | snap (k : Nat) | ldgRelease | recovery (k : Nat) | ldgTag (n : Nat) | ldgEvt (e : Nat)
  | numCtrl (q : Nat) | numFlags (q : Nat) | numCnt (q k : Nat) | trapSeq (q : Nat) | trapOp (q : Nat)
  | trapOffset (q : Nat) | trapIndex (q : Nat)
  | timeUs | timeFine | perf (p k : Nat)
  | telemetry | thmAlert | thmStatus | thmCount | powerLimit
  | stallLimit (n : Nat) | spStatus (n : Nat) | spCount (n k : Nat) | stallSq (n k : Nat) | fullCount (n : Nat)
  | tagWord (n k : Nat) | freeMap (n k : Nat) | sealedWord (n k : Nat) | qabort (n : Nat)
  | tdCtrl (n t : Nat) | tdScale (n t : Nat) | tdId (n t : Nat) | tdLcols (n t : Nat) | tdRowOrg (n t : Nat)
  | tdColOrg (n t : Nat) | tdBase (n t : Nat) | tdStride (n t : Nat)
  | strState (p : Nat) | strSerial (p : Nat) | strCtrl (p : Nat) | lostLimit (p : Nat) | strStatus (p : Nat)
  | strCount (p k : Nat) | syncLast (p : Nat) | strCredit (p v : Nat) | strRtt (p : Nat)
  | hbmStack (k : Nat) | eccStatus | eccCount | eccLast | fillStatus | waymask (p : Nat)
  | dbgSession | dbgRelease | dbgMemAddr | dbgMemData | dbgLogIndex | dbgLogEntry (k : Nat)
  | partStatus (p : Nat) | reportSeq (p : Nat) | clearTime (p : Nat) | granule (k : Nat)
  | packageId (p : Nat) | packageDst (p : Nat) | packageInfo (p : Nat) | freeze (k : Nat) | cue (p k : Nat)
  | winCtrl (p w : Nat) | winBase (p w : Nat) | winSize (p w : Nat) | winLimit (p w : Nat) | winCount (p w : Nat)
  | winCommitted (p w : Nat)
  deriving DecidableEq, Repr

/-! ### Where they lie (R523 and the chapters' tables) -/

/-- A place in a block: the register and whether it is the upper word of a pair (R7). -/
abbrev Spot := Option (Reg × Bool)

/-- A 32-bit register, or the lower word of a pair. -/
def at32 (r : Reg) : Spot := some (r, false)
/-- The word of a pair that offset `x`, 0 or 4, names. -/
def at64 (x : Nat) (r : Reg) : Spot := some (r, decide (x = 4))

/-- Registers of a queue, at +0x00 to +0x24 (R230). -/
def spotQueue (q x : Nat) : Spot :=
  if 65 ≤ q then none
  else if x < 8 then at64 x (.qBase q) else if x < 16 then at64 (x - 8) (.qDb q)
  else if x = 0x10 then at32 (.qCfg q) else if x = 0x14 then at32 (.qCtrl q) else if x = 0x18 then at32 (.qGen q)
  else if x = 0x1C then at32 (.qStatus q) else if x = 0x20 then at32 (.qCons q) else if x = 0x24 then at32 (.qProd q) else none

/-- Registers of a completion or event ring (R230). -/
def spotRing (c x : Nat) : Spot :=
  if x < 8 then at64 x (.cqBase c) else if x = 8 then at32 (.cqCfg c) else if x = 0xC then at32 (.cqHead c)
  else if x = 0x10 then at32 (.cqTail c) else if x = 0x14 then at32 (.cqStatus c) else none

/-- The HIF block, from 0x0001_0000. -/
def spotHif (x : Nat) : Spot :=
  if x < 0x2000 then spotQueue (x / 0x40) (x % 0x40)
  else if x < 0x3000 then (if (x - 0x2000) / 0x20 < 65 then spotRing ((x - 0x2000) / 0x20) (x % 0x20) else none)
  else if x < 0x4000 then (if (x - 0x3000) / 0x20 < 17 then spotRing (evRing ((x - 0x3000) / 0x20)) (x % 0x20) else none)
  else if x = 0x4000 then at32 .kick
  else if x = 0x5000 then at32 .accErr else if x = 0x5004 then at32 .accErrCount else if x = 0x5008 then at32 .accErrInfo
  else if x = 0x5010 ∨ x = 0x5014 then at64 (x - 0x5010) .accErrAddr
  else if 0xC000 ≤ x ∧ (x - 0xC000) / 0x10 < 65 then
    let q := (x - 0xC000) / 0x10
    (match x % 0x10 with
      | 0 => at32 (.qHalt q)
      | 4 => at32 (.qHaltSeq q)
      | 8 => at32 (.qResume q)
      | _ => none)
  else none

/-- The ID, MGT, PGV and PWR blocks. -/
def spotSmall (o : Nat) : Spot :=
  if o < 0x10000 then
    (if o = 0 then at32 .idRevision else if o = 8 then at32 .idLot0 else if o = 0xC then at32 .idLot1
     else if o = 0x10 ∨ o = 0x14 then at64 (o - 0x10) .idSerial else if o = 0x18 then at32 .idSecver else if o = 0x1C then at32 .idOpkey
     else if o = 0x40 then at32 .idPlace else if o = 0x44 then at32 .idPortMap else none)
  else if o < 0x30000 then
    (let x := o - 0x20000
     if x = 0 then at32 .gooseStatus else if x = 8 ∨ x = 0xC then at64 (x - 8) .nonce else if x = 0x10 then at32 .bootReg
     else if x = 0x14 then at32 .bootTime else none)
  else if o < 0x40000 then
    (let x := o - 0x30000
     if x = 0 then at32 .paceCap else if x = 4 then at32 .volt else if x = 8 then at32 .pgvStatus else if x = 0xC then at32 .pgvCount
     else if x = 0x10 then at32 .pmbusLast else none)
  else
    (let x := o - 0x40000
     if x < 0xC then at32 (.pwrState (x / 4)) else if x = 0x10 then at32 .wakeArmed else if x = 0x14 then at32 .aon
     else if x = 0x18 then at32 .resetCause else if x = 0x1C then at32 .resetCount else none)

/-- The GPIO block, from 0x0005_0000 (R502, R55). -/
def spotGpio (x : Nat) : Spot :=
  if x < 0x28 then
    ([.gpioIn, .gpioOut, .gpioSet, .gpioClr, .gpioTgl, .gpioRise, .gpioFall, .gpioPending, .gpioDeny, .gpioPstat] : List Reg)[x / 4]?.bind at32
  else if 0x30 ≤ x ∧ x < 0x48 then at32 (.gpioOwner ((x - 0x30) / 4))
  else if 0x100 ≤ x ∧ x < 0x160 then at32 (.gpioCfg ((x - 0x100) / 4))
  else if 0x180 ≤ x ∧ x < 0x1E0 then at32 (.gpioEcnt ((x - 0x180) / 4))
  else if 0x200 ≤ x ∧ x < 0x248 then at32 (.gpioIsel ((x - 0x200) / 4))
  else if 0x280 ≤ x ∧ x < 0x290 then at32 (.gpioPwm ((x - 0x280) / 4))
  else if 0x290 ≤ x ∧ x < 0x2A0 then at32 (.gpioTach ((x - 0x290) / 4))
  else if 0x2A0 ≤ x ∧ x < 0x2C8 then at64 (x % 8) (.gpioCapt ((x - 0x2A0) / 8))
  else if 0x800 ≤ x ∧ x < 0x810 then at32 (.fanDuty ((x - 0x800) / 4))
  else if 0x810 ≤ x ∧ x < 0x820 then at32 (.fanTach ((x - 0x810) / 4))
  else none

/-- The XB block, from 0x0006_0000 (R345). -/
def spotXb (x : Nat) : Spot :=
  if x < 0x40 then (if x / 4 = 13 ∨ x / 4 = 14 then none else at32 (.tport (x / 4)))
  else if x < 0x84 then at32 (.hifQos ((x - 0x40) / 4))
  else if x = 0xA0 then at32 .holdStatus
  else if x = 0xA8 ∨ x = 0xAC then at64 (x - 0xA8) .holdAddr
  else if x = 0xB0 then at32 .holdInfo
  else if 0x100 ≤ x ∧ x < 0x150 then at32 (.loss ((x - 0x100) / 4))
  else none

/-- The ERR and LDG blocks, from 0x0007_0000 (R479, R480). -/
def spotErr (x : Nat) : Spot :=
  if x = 0 then at32 .errSummary else if x = 0x10 then at32 .scrubHbm else if x = 0x14 then at32 .scrubSp
  else if x = 0x18 then at32 .scrubStatus else if x = 0x1C then at32 .scrubCount0 else if x = 0x20 then at32 .scrubCount1
  else if 0x28 ≤ x ∧ x < 0x38 then at64 (x % 8) (.scrubPos ((x - 0x28) / 8))
  else if x = 0x38 then at32 .scrubPasses else if x = 0x40 then at32 .isletFail
  else if 0x100 ≤ x ∧ x < 0x180 then at64 (x % 8) (.poisonLog ((x - 0x100) / 8))
  else if x = 0x180 then at32 .poisonHead
  else if x < 0x10000 then none
  else
    let y := x - 0x10000
    if y = 0 then at32 .ldgStatus else if y = 4 then at32 .ldgCount else if y = 8 then at32 .breachInfo
    else if 0x10 ≤ y ∧ y < 0x20 then at32 (.snap ((y - 0x10) / 4)) else if y = 0x20 then at32 .ldgRelease
    else if 0x30 ≤ y ∧ y < 0x3C then at32 (.recovery ((y - 0x30) / 4))
    else if 0x100 ≤ y ∧ y < 0x180 then at64 (y % 8) (.ldgTag ((y - 0x100) / 8))
    else if 0x200 ≤ y ∧ y < 0x288 then at64 (y % 8) (.ldgEvt ((y - 0x200) / 8))
    else none

/-- The NUM, TIME and THM blocks, from 0x0009_0000 (R85, R405, R435). -/
def spotNum (x : Nat) : Spot :=
  if x < 0x10000 then
    (let q := x / 0x40
     if 48 ≤ q then none
     else match x % 0x40 with
       | 0x00 => at32 (.numCtrl q)
       | 0x04 => at32 (.numFlags q)
       | 0x08 => at32 (.numCnt q 0)
       | 0x0C => at32 (.numCnt q 1)
       | 0x10 => at32 (.numCnt q 2)
       | 0x14 => at32 (.trapSeq q)
       | 0x18 => at32 (.trapOp q)
       | 0x1C => at32 (.trapOffset q)
       | 0x20 => at32 (.trapIndex q)
       | _ => none)
  else if x < 0x20000 then
    (let y := x - 0x10000
     if y < 8 then at64 y .timeUs else if y < 16 then at64 (y - 8) .timeFine
     else if 0x1000 ≤ y ∧ y < 0x1800 ∧ y % 0x80 < 0x48 then at64 (y % 8) (.perf ((y - 0x1000) / 0x80) (y % 0x80 / 8))
     else none)
  else
    (let y := x - 0x20000
     if y = 0 then at32 .telemetry else if y = 0x10 then at32 .thmAlert else if y = 0x14 then at32 .thmStatus
     else if y = 0x18 then at32 .thmCount else if y = 0x20 then at32 .powerLimit else none)

/-- The ISL block of Islet `n` (R112, R145, R479). -/
def spotIsl (n x : Nat) : Spot :=
  if x = 0x10 then at32 (.stallLimit n) else if x = 0x14 then at32 (.spStatus n)
  else if x = 0x18 ∨ x = 0x1C then at32 (.spCount n ((x - 0x18) / 4)) else if x = 0x20 ∨ x = 0x24 then at32 (.stallSq n ((x - 0x20) / 4))
  else if x = 0x28 then at32 (.fullCount n)
  else if 0x100 ≤ x ∧ x < 0x180 then at32 (.tagWord n ((x - 0x100) / 4))
  else if 0x180 ≤ x ∧ x < 0x200 then at32 (.freeMap n ((x - 0x180) / 4))
  else if 0x200 ≤ x ∧ x < 0x280 then at32 (.sealedWord n ((x - 0x200) / 4))
  else if x = 0x300 then at32 (.qabort n)
  else if 0x2000 ≤ x ∧ x < 0x4000 then
    let t := (x - 0x2000) / 0x40
    (match x % 0x40 with
      | 0x00 => at32 (.tdCtrl n t)
      | 0x04 => at32 (.tdScale n t)
      | 0x08 => at32 (.tdId n t)
      | 0x0C => at32 (.tdLcols n t)
      | 0x10 => at32 (.tdRowOrg n t)
      | 0x14 => at32 (.tdColOrg n t)
      | 0x18 => at64 0 (.tdBase n t)
      | 0x1C => at64 4 (.tdBase n t)
      | 0x20 => at32 (.tdStride n t)
      | _ => none)
  else none

/-- The STR block of port `p` (R323). -/
def spotStr (p x : Nat) : Spot :=
  if x = 0 then at32 (.strState p) else if x = 8 ∨ x = 0xC then at64 (x - 8) (.strSerial p) else if x = 0x10 then at32 (.strCtrl p)
  else if x = 0x14 then at32 (.lostLimit p) else if x = 0x18 then at32 (.strStatus p)
  else if x = 0x1C ∨ x = 0x20 then at32 (.strCount p ((x - 0x1C) / 4)) else if x = 0x24 then at32 (.syncLast p)
  else if 0x30 ≤ x ∧ x < 0x40 then at32 (.strCredit p ((x - 0x30) / 4)) else if x = 0x40 then at32 (.strRtt p) else none

/-- The HBM and LAG blocks, from 0x0030_0000. -/
def spotHbm (x : Nat) : Spot :=
  if x < 8 then at32 (.hbmStack (x / 4)) else if x = 0x10 then at32 .eccStatus else if x = 0x14 then at32 .eccCount
  else if x = 0x18 ∨ x = 0x1C then at64 (x - 0x18) .eccLast else if x = 0x20 then at32 .fillStatus
  else if 0x10100 ≤ x ∧ x < 0x10140 then at32 (.waymask ((x - 0x10100) / 4)) else none

/-- The DBG block, from 0x0050_0000 (R405, R345). -/
def spotDbg (x : Nat) : Spot :=
  if x = 0 then at32 .dbgSession else if x = 0x20 then at32 .dbgRelease else if x = 0x40 ∨ x = 0x44 then at64 (x - 0x40) .dbgMemAddr
  else if x = 0x48 then at32 .dbgMemData else if x = 0x100 then at32 .dbgLogIndex
  else if 0x110 ≤ x ∧ x < 0x130 then at32 (.dbgLogEntry ((x - 0x110) / 4)) else none

/-- The PART block, from 0x0060_0000 (R405, R374, R170, R201, R324). -/
def spotPart (x : Nat) : Spot :=
  if x < 0x400 then
    (match x % 0x40 with
      | 0 => at32 (.partStatus (x / 0x40))
      | 4 => at32 (.reportSeq (x / 0x40))
      | 8 => at32 (.clearTime (x / 0x40))
      | _ => none)
  else if x < 0x4C0 then at32 (.granule ((x - 0x400) / 4))
  else if 0x800 ≤ x ∧ x < 0xA00 then
    (let p := (x - 0x800) / 0x20
     let y := x % 0x20
     if y < 8 then at64 y (.packageId p) else if y < 16 then at64 (y - 8) (.packageDst p)
     else if y = 0x10 then at32 (.packageInfo p) else none)
  else if 0x4000 ≤ x ∧ x < 0x4C00 then at32 (.freeze ((x - 0x4000) / 4))
  else if 0x8000 ≤ x ∧ x < 0x9000 then at32 (.cue ((x - 0x8000) / 0x100) (x % 0x100 / 4))
  else if 0xC000 ≤ x ∧ x < 0x10000 then
    (let p := (x - 0xC000) / 0x400
     let w := x % 0x400 / 0x40
     let y := x % 0x40
     if y = 0 then at32 (.winCtrl p w) else if y < 8 then none else if y < 0x10 then at64 (y - 8) (.winBase p w)
     else if y < 0x18 then at64 (y - 0x10) (.winSize p w) else if y < 0x20 then at64 (y - 0x18) (.winLimit p w)
     else if y < 0x28 then at64 (y - 0x20) (.winCount p w) else if y < 0x30 then at64 (y - 0x28) (.winCommitted p w) else none)
  else none

/-- The register at an aligned offset of register space. -/
def regAt (o : Nat) : Spot :=
  if o < 0x10000 then spotSmall o
  else if o < 0x20000 then spotHif (o - 0x10000)
  else if o < 0x50000 then spotSmall o
  else if o < 0x60000 then spotGpio (o - 0x50000)
  else if o < 0x70000 then spotXb (o - 0x60000)
  else if o < 0x90000 then spotErr (o - 0x70000)
  else if o < 0xC0000 then spotNum (o - 0x90000)
  else if 0x100000 ≤ o ∧ o < 0x200000 then spotIsl ((o - 0x100000) / 0x10000) (o % 0x10000)
  else if 0x200000 ≤ o ∧ o < 0x2A0000 then spotStr ((o - 0x200000) / 0x10000) (o % 0x10000)
  else if 0x300000 ≤ o ∧ o < 0x320000 then spotHbm (o - 0x300000)
  else if 0x500000 ≤ o ∧ o < 0x510000 then spotDbg (o - 0x500000)
  else if 0x600000 ≤ o ∧ o < 0x610000 then spotPart (o - 0x600000)
  else none

/-- The target port of an offset (R326). -/
def portOf (o : Nat) : Nat :=
  if 0x50000 ≤ o ∧ o < 0x60000 then 4
  else if 0xA0000 ≤ o ∧ o < 0xB0000 then 5
  else if o < 0xC0000 then 0
  else if 0x100000 ≤ o ∧ o < 0x200000 then 1
  else if 0x200000 ≤ o ∧ o < 0x2A0000 then 2
  else if 0x300000 ≤ o ∧ o < 0x320000 then 3
  else if 0x600000 ≤ o ∧ o < 0x700000 then 6
  else if 0x400000 ≤ o ∧ o < 0x500000 then 7
  else if 0x500000 ≤ o ∧ o < 0x600000 then 8
  else if 0x1000000 ≤ o ∧ o < 0x1010000 then 9
  else if 0x1010000 ≤ o ∧ o < 0x1020000 then 10
  else if 0x1020000 ≤ o ∧ o < 0x1030000 then 11
  else 15

/-! ### What they read -/

/-- A field of a register at a bit position. -/
def fieldAt {w : Nat} (lo : Nat) (v : BitVec w) : Nat := v.toNat * 2 ^ lo

/-- A flag of a register. -/
def flagAt (lo : Nat) (b : Bool) : Nat := b2n b * 2 ^ lo

/-- Two 16-bit counts. -/
def counts (a b : BitVec 16) : Nat := a.toNat + fieldAt 16 b

/-- Word `k` of a 1,024-bit map. -/
def mapWord (m : BitVec 1024) (k : Nat) : Nat := m.toNat / 2 ^ (32 * k) % 2 ^ 32

/-- The PORT_VERIFIED bits (R55). -/
def State.verifiedPorts (s : State) : Nat :=
  (List.range 10).foldl (fun m p => m + flagAt p (s.port p).verified) 0

/-- ID registers. -/
def State.readId (s : State) : Reg → Nat
  | .idRevision => fieldAt 0 s.fuses.revLetter + fieldAt 8 s.fuses.revNumber
  | .idLot0 => s.fuses.lot.toNat % 2 ^ 30
  | .idLot1 => s.fuses.lot.toNat / 2 ^ 30 + fieldAt 6 s.fuses.wafer + fieldAt 16 s.fuses.dieX + fieldAt 24 s.fuses.dieY
  | .idSerial => s.fuses.serial.toNat
  | .idSecver => fieldAt 0 s.mgt.fusedSv + fieldAt 8 s.mgt.runningSv
  | .idOpkey => installedSlots s.fuses + fieldAt 4 s.fuses.revoked
  | .idPlace => s.die + fieldAt 6 s.mgt.slot + fieldAt 9 s.mgt.tray + fieldAt 12 s.mgt.product + flagAt 14 s.leadDie
      + flagAt 15 s.mgt.machineMode + flagAt 16 s.mgt.machineLead
  | .idPortMap => fieldAt 0 s.mgt.portWired + s.verifiedPorts * 2 ^ 16
  | _ => 0

/-- HIF_QSTATUS.STATE (R230). -/
def QState.code : QState → Nat
  | .disabled => 0
  | .idle => 1
  | .active => 2
  | .parked => 3

/-- Queue and ring registers (R200, R230). -/
def State.readRings (s : State) : Reg → Nat
  | .qBase q => (s.queue q).base.toNat
  | .qDb q => (s.queue q).db.toNat
  | .qCfg q => fieldAt 0 (s.queue q).sizeLog2 + fieldAt 8 (s.queue q).cqSel
  | .qCtrl q => flagAt 0 (s.queue q).enable + flagAt 1 (s.queue q).park
  | .qGen q => (s.queue q).gen.toNat
  | .qStatus q => (s.queue q).st.code + flagAt 8 (s.queue q).genMismatch + fieldAt 16 (s.queue q).genCount
  | .qCons q => (s.queue q).cons.toNat
  | .qProd q => (s.queue q).prod.toNat
  | .qHalt q => fieldAt 0 (s.queue q).cause + flagAt 8 (s.queue q).halted
  | .qHaltSeq q => (s.queue q).haltSeq.toNat
  | .cqBase c => (s.ring c).base.toNat
  | .cqCfg c => fieldAt 0 (s.ring c).sizeLog2 + fieldAt 8 (s.ringVector c) + flagAt 31 (s.ring c).enable
  | .cqHead c => (s.ring c).head.toNat
  | .cqTail c => (s.ring c).tail.toNat
  | .cqStatus c => flagAt 0 (s.ring c).full + flagAt 1 (s.ring c).coalesce + flagAt 8 (s.ring c).fullSeen + fieldAt 16 (s.ring c).fullCount
  | _ => 0

/-- STAGE of MGT_GOOSE_STATUS (R374). -/
def Stage.code : Stage → Nat
  | .rom => 0
  | .fwLoad => 1
  | .ready => 2
  | .recovery => 3

/-- RESET_KIND of MGT_BOOT. -/
def ResetKind.code : ResetKind → Nat
  | .cold => 0
  | .brownout => 1
  | .warmPin => 2
  | .perst => 3

/-- The code of domain `d` in PWR_STATE: 3 in transition. -/
def State.pwrCode (s : State) (d : Nat) : Nat := if (s.domain d).target.isSome then 3 else (s.domain d).st.rank

/-- Access-fault log, Goose, boot and power registers (R346, R374, R435 and 16). -/
def State.readMgt (s : State) : Reg → Nat
  | .accErr => flagAt 0 s.bus.logged
  | .accErrCount => s.bus.logCount.toNat
  | .accErrInfo => fieldAt 0 s.bus.logCause + flagAt 4 s.bus.logWrite + fieldAt 8 s.bus.logFn + flagAt 13 s.bus.logFwd
      + fieldAt 16 s.bus.logEn + fieldAt 24 s.bus.logDie
  | .accErrAddr => s.bus.logOff.toNat + fieldAt 32 s.bus.logBar
  | .gooseStatus => s.mgt.stage.code + flagAt 2 s.mgt.trngReady + flagAt 3 s.mgt.slotRunning + fieldAt 4 s.mgt.staged
      + flagAt 8 s.mgt.trngFail + fieldAt 16 s.mgt.trngFailCount
  | .nonce => s.mgt.nonce.toNat
  | .bootReg => flagAt 0 s.mgt.cfgReady + flagAt 1 s.mgt.bootDone + fieldAt 4 s.mgt.hbmFail + s.mgt.resetKind.code * 2 ^ 8
      + flagAt 11 s.mgt.prevTrip + fieldAt 12 s.mgt.recoveryCause
  | .bootTime => counts s.mgt.readyT s.mgt.doneT
  | .paceCap => s.power.paceCap.toNat
  | .volt => s.power.volt.toNat
  | .pgvStatus => flagAt 0 s.power.shortfall + flagAt 1 s.power.pmbusFault
  | .pgvCount => counts s.power.shortCount s.power.pmbusCount
  | .pmbusLast => s.power.pmbusLast.toNat
  | .pwrState j => (List.range 16).foldl (fun m i => m + (if 16 * j + i < 35 then s.pwrCode (16 * j + i) else 0) * 4 ^ i) 0
  | .wakeArmed => fieldAt 0 s.power.wakePorts + fieldAt 16 s.power.wakePins
  | .aon => flagAt 0 s.power.lp + fieldAt 4 s.power.loadUa
  | .resetCause => flagAt 0 s.power.brownout + flagAt 1 s.power.trip + flagAt 2 s.power.inLp
  | .resetCount => counts s.power.brownCount s.power.tripCount
  | .telemetry => fieldAt 0 s.power.powerW + fieldAt 16 s.power.tempC
  | .thmAlert => fieldAt 0 s.power.thresholdC + fieldAt 8 s.power.hystC + flagAt 16 s.power.alert
  | .thmStatus => flagAt 0 s.power.alertSeen
  | .thmCount => s.power.alertCount.toNat
  | .powerLimit => fieldAt 0 s.power.limitW + flagAt 16 s.power.overLimit
  | _ => 0

/-- Bits of the shared GPIO registers that an access sees: all, or those of the partition's pins (R487); while main I/O
is not ON the main bank reads 0 (R498). -/
def State.pinMask (s : State) (fn : Nat) : BitVec 24 :=
  (if s.on 32 then (0xFFFFFF : BitVec 24) else 0xFF) &&& (if fn = 0 then (0xFFFFFF : BitVec 24) else s.ownedPins (.part (fn - 1)))

/-- GPIO_PENDING. -/
def State.pendingPins (s : State) : BitVec 24 := (List.range 24).foldl (fun m k => setBit m k (s.pinPending k)) 0

/-- GPIO and tray registers, seen through function `fn` (R502, R55). -/
def State.readGpio (s : State) (fn : Nat) : Reg → Nat
  | .gpioIn => (s.gpio.level &&& s.pinMask fn).toNat
  | .gpioOut => (s.gpio.out &&& s.pinMask fn).toNat
  | .gpioRise => (s.gpio.rise &&& s.pinMask fn).toNat
  | .gpioFall => (s.gpio.fall &&& s.pinMask fn).toNat
  | .gpioPending => (s.pendingPins &&& s.pinMask fn).toNat
  | .gpioDeny => s.gpio.deny.toNat
  | .gpioPstat => if s.on 32 then s.gpio.pstat.toNat else 0
  | .gpioOwner j => (List.range 4).foldl (fun m i => m + (s.pin (4 * j + i)).owner.toNat * 256 ^ i) 0
  | .gpioCfg k => if s.pinAlive k then (s.pin k).cfgWord else 0
  | .gpioEcnt k => if s.pinAlive k then (s.pin k).ecnt else 0
  | .gpioIsel f => if s.on 32 then (Table.get 0 s.gpio.isel f).toNat else 0
  | .gpioPwm n => if s.on 32 then (Table.get 0 s.gpio.pwm n).toNat else 0
  | .gpioTach n => if s.on 32 then (Table.get 0 s.gpio.tach n).toNat else 0
  | .gpioCapt n => if s.on 32 then (Table.get 0 s.gpio.capt n).toNat else 0
  | .fanDuty n => if s.leadDie then (s.fanDuty n).toNat else 0
  | .fanTach n => if s.leadDie then (Table.get 0 s.gpio.fanRpm n).toNat + flagAt 16 (s.gpio.fanStalled.getLsbD n) else 0
  | _ => 0

/-- A sealed port (R326). -/
def sealedPort (n : Nat) : Bool := decide (7 ≤ n) && decide (n ≤ 11)

/-- A count as a tenant sees it (R343, R397). -/
def coarse (n : Nat) : Nat := n / 4096 * 4096

/-- The full value of partition `p`'s counters appears through the PF while it is debug-observed (R343, R397). -/
def State.seenFull (s : State) (fn p : Nat) : Bool := fn == 0 && (s.part p).observed

/-- Bus-matrix and debug registers (R345, R405). -/
def State.readXb (s : State) (fn : Nat) : Reg → Nat
  | .tport n => flagAt 0 (s.bus.roundRobin.getLsbD n) + flagAt 1 (s.bus.hold.getLsbD n) + flagAt 2 (s.bus.parkBit.getLsbD n)
      + flagAt 3 (sealedPort n)
  | .hifQos f => (Table.get 4 s.bus.hifQos f).toNat
  | .holdStatus => s.bus.held.toNat
  | .holdAddr => s.bus.holdAddr.toNat
  | .holdInfo => fieldAt 0 s.bus.holdMaster + flagAt 3 s.bus.holdWrite + fieldAt 4 s.bus.holdFn + fieldAt 9 s.bus.holdPort
  | .loss m =>
    let v := (Table.get 0 s.bus.loss m).toNat
    if 1 ≤ m ∧ m ≤ 16 ∧ !s.seenFull fn (m - 1) then coarse v else v
  | .dbgSession => flagAt 0 s.bus.dbgOpen + flagAt 1 s.bus.dbgJtag + fieldAt 16 s.bus.dbgMask
  | .dbgMemAddr => s.bus.dbgAddr.toNat
  | .dbgMemData => s.bus.dbgData.toNat
  | .dbgLogIndex => s.bus.dbgIndex.toNat
  | _ => 0

/-- Which blocks hold a W1C bit that is set (R479). -/
def State.summary (s : State) : Nat :=
  let u := s.up
  flagAt 0 ((List.range 48).any (fun q => (s.num q).flags != 0 || (s.num q).trapped))
    + flagAt 1 ((List.range 16).any (fun n => (s.islet n).stall || (s.islet n).corrected || (s.islet n).uncorr))
    + flagAt 2 (u.corrected || u.uncorr)
    + flagAt 3 ((List.range 10).any (fun p =>
        let t := s.port p
        t.creditLate || t.synced || t.rxDiscard || t.retrained))
    + flagAt 4 (s.power.shortfall || s.power.pmbusFault) + flagAt 5 s.power.alertSeen
    + flagAt 6 (s.bus.logged || (List.range 65).any (fun q => (s.queue q).genMismatch) || s.rings.any (fun r => r.2.fullSeen))
    + flagAt 7 u.breach + flagAt 8 (u.scrubCorr || u.scrubUncorr || u.scrubLate)
    + flagAt 9 (s.power.brownout || s.power.trip) + flagAt 10 s.mgt.trngFail

/-- Ports held by the ledger (R480). -/
def State.heldPorts (s : State) : Nat := (List.range 10).foldl (fun m p => m + flagAt p (s.port p).held) 0

/-- ERR and LDG registers (R479, R480). -/
def State.readErr (s : State) : Reg → Nat
  | .errSummary => s.summary
  | .scrubHbm => fieldAt 0 s.up.hbmPassS + flagAt 31 s.up.hbmEn
  | .scrubSp => fieldAt 0 s.up.spPassMs + flagAt 31 s.up.spEn
  | .scrubStatus => flagAt 0 s.up.scrubCorr + flagAt 1 s.up.scrubUncorr + flagAt 2 s.up.scrubLate
  | .scrubCount0 => counts s.up.scrubCorrCount s.up.scrubUncorrCount
  | .scrubCount1 => s.up.scrubLateCount.toNat
  | .scrubPos k => s.patrolPos k
  | .scrubPasses => counts s.up.passes0 s.up.passes1
  | .isletFail => s.mgt.islFail.toNat
  | .poisonLog k => (Table.get 0 s.up.poisonLog k).toNat
  | .poisonHead => fieldAt 0 s.up.poisonHead + fieldAt 16 s.up.poisonTotal
  | .ldgStatus => flagAt 0 s.up.breach + flagAt 1 s.up.frozen + s.heldPorts * 2 ^ 16
  | .ldgCount => s.up.breachCount.toNat
  | .breachInfo => fieldAt 0 s.up.breachKind + fieldAt 8 s.up.breachObj + fieldAt 16 s.up.breachSub + fieldAt 24 s.up.breachPart
  | .snap k => (Table.get 0 s.up.snap k).toNat
  | .recovery 0 => counts s.up.recSync s.up.recLost
  | .recovery 1 => counts s.up.recMachine s.up.recTenant
  | .recovery 2 => s.up.recSelftest.toNat
  | .ldgTag n => (s.islet n).fills.toNat + fieldAt 32 (s.islet n).takes
  | .ldgEvt e => (s.ring (evRing e)).raised.toNat + fieldAt 32 (s.ring (evRing e)).coalesced
  | _ => 0

/-- The counts of a NUM record. -/
def Num.cnt (n : Num) : Nat → Nat
  | 0 => counts n.cInv n.cDivz
  | 1 => counts n.cOvf n.cUnf
  | _ => counts n.cInx n.cTrap

/-- NUM, TIME and PERF registers (R85, R397, R398, R405). -/
def State.readNum (s : State) (fn : Nat) : Reg → Nat
  | .numCtrl q => flagAt 0 (s.num q).trapEn
  | .numFlags q => fieldAt 0 (s.num q).flags + flagAt 8 (s.num q).trapped
  | .numCnt q k => (s.num q).cnt k
  | .trapSeq q => (s.num q).seq.toNat
  | .trapOp q => fieldAt 0 (s.num q).opcode + fieldAt 8 (s.num q).queue
  | .trapOffset q => (s.num q).offset.toNat
  | .trapIndex q => (s.num q).index.toNat
  | .timeUs => s.us
  | .timeFine => s.time
  | .perf p k =>
    let v := (Table.get 0 (s.part p).perf k).toNat
    if s.seenFull fn p then v else coarse v
  | _ => 0

/-- The tensor table entry `t` of Islet `n`. -/
def State.tdesc (s : State) (n t : Nat) : TDesc := Table.get {} (s.islet n).tds t

/-- ISL registers (R112, R145). -/
def State.readIsl (s : State) : Reg → Nat
  | .stallLimit n => (s.islet n).stallLimit.toNat
  | .spStatus n => flagAt 0 (s.islet n).stall + flagAt 1 (s.islet n).corrected + flagAt 2 (s.islet n).uncorr
  | .spCount n 0 => counts (s.islet n).stallCount (s.islet n).corrCount
  | .spCount n _ => (s.islet n).uncorrCount.toNat
  | .stallSq n 0 => (s.islet n).stallSq0.toNat
  | .stallSq n _ => (s.islet n).stallSq1.toNat
  | .fullCount n => (s.islet n).fullCount
  | .tagWord n k => mapWord (s.islet n).tags k
  | .freeMap n k => mapWord (s.islet n).free k
  | .sealedWord n k => mapWord (s.islet n).sealed k
  | .tdCtrl n t => fieldAt 0 (s.tdesc n t).format + flagAt 4 (s.tdesc n t).mem + flagAt 5 (s.tdesc n t).valid
  | .tdScale n t => (s.tdesc n t).scale.toNat
  | .tdId n t => (s.tdesc n t).tid.toNat
  | .tdLcols n t => (s.tdesc n t).lcols.toNat
  | .tdRowOrg n t => (s.tdesc n t).rowOrg.toNat
  | .tdColOrg n t => (s.tdesc n t).colOrg.toNat
  | .tdBase n t => (s.tdesc n t).base.toNat
  | .tdStride n t => (s.tdesc n t).stride.toNat
  | _ => 0

/-- STATE of STR_STATE (R323). -/
def LinkState.code : LinkState → Nat
  | .off => 0
  | .sleep => 1
  | .down => 2
  | .training => 3
  | .quiet => 4
  | .keying => 5
  | .up => 6

/-- STATE of HBM_STACK_n. -/
def State.stackCode (s : State) (k : Nat) : Nat :=
  let d := s.domain (20 + k)
  match d.st with
  | .off => if d.target.isSome then 1 else 0
  | .ret => 2
  | .on => 3

/-- Link, HBM and Lagoon registers (R323 and 10). How much of what STR_CREDIT has outstanding is RETURNED is the free value that the read
has just taken (DEDUCED, log entry 33). -/
def State.readLink (s : State) : Reg → Nat
  | .strState p =>
    let t := s.port p
    t.st.code + flagAt 3 t.enabled + flagAt 4 t.asleep + flagAt 5 t.asleepOff + fieldAt 8 t.cause + fieldAt 16 t.partnerDie
  | .strSerial p => (s.port p).partnerSerial.toNat
  | .strCtrl p => flagAt 0 (s.port p).wakeSend
  | .lostLimit p => (s.port p).lostLimit.toNat
  | .strStatus p =>
    let t := s.port p
    flagAt 0 t.creditLate + flagAt 1 t.synced + flagAt 2 t.rxDiscard + flagAt 3 t.retrained
  | .strCount p 0 => counts (s.port p).lateCount (s.port p).syncCount
  | .strCount p _ => counts (s.port p).discCount (s.port p).retrCount
  | .syncLast p => (s.port p).syncLast.toNat
  | .strCredit p v =>
    let c := (s.port p).credit v
    let back := c.onWay (Config.freeValue 32 (s.freeCtr - 1))
    c.granted % 256 + c.held % 256 * 2 ^ 8 + (c.granted - c.held - back) % 256 * 2 ^ 16 + back % 256 * 2 ^ 24
  | .strRtt p => (s.port p).rtt.toNat
  | .hbmStack k => s.stackCode k + fieldAt 4 (Table.get 0 s.up.refresh k)
  | .eccStatus => flagAt 0 s.up.corrected + flagAt 1 s.up.uncorr
  | .eccCount => counts s.up.corrCount s.up.uncorrCount
  | .eccLast => s.up.eccLast.toNat
  | .fillStatus =>
    let busy := s.fillBusy
    flagAt 0 busy + Nat.min 255 (s.up.fill.length - b2n busy) * 2 ^ 8
  | .waymask p => (s.part p).wayMask.toNat
  | _ => 0

/-- A byte of PART_GRANULE as function `fn` sees it: a VF sees its own granules (R405). -/
def State.granuleByte (s : State) (fn g : Nat) : Nat :=
  let o := s.owner g
  if fn = 0 ∨ o = fn - 1 then o else 0xFF

/-- PART, CUE and window registers (R405, R374, R170, R201, R324). -/
def State.readPart (s : State) (fn : Nat) : Reg → Nat
  | .partStatus p =>
    let t := s.part p
    t.state.code + flagAt 2 t.observed + flagAt 3 t.localRoute + flagAt 4 t.ideReq + flagAt 5 t.ideSecure + fieldAt 16 t.islets
  | .reportSeq p => (s.part p).reportSeq.toNat
  | .clearTime p => (s.part p).clearTime.toNat
  | .granule k => (List.range 4).foldl (fun m j => m + s.granuleByte fn (4 * k + j) * 256 ^ j) 0
  | .packageId p => (s.part p).pkgId.toNat
  | .packageDst p => (s.part p).pkgDst.toNat
  | .packageInfo p =>
    let t := s.part p
    fieldAt 0 t.pkgFrames + fieldAt 16 t.bindCount + flagAt 31 t.loaded
  | .freeze k => (List.range 32).foldl (fun m j => m + flagAt j (Table.get false s.frozen (32 * k + j))) 0
  | .cue p k => if fn = 0 then 0 else (s.cue p k).toNat
  | .winCtrl p w =>
    let x := s.win p w
    flagAt 0 x.isOpen + flagAt 1 x.binding + flagAt 2 x.scratch + flagAt 3 x.closing + flagAt 4 (s.pinned p w)
      + fieldAt 8 x.srcDie + fieldAt 16 x.srcPart
  | .winBase p w => (s.win p w).base.toNat
  | .winSize p w => (s.win p w).size.toNat
  | .winLimit p w => (s.win p w).limit.toNat
  | .winCount p w => (s.win p w).count.toNat
  | .winCommitted p w => (s.win p w).committed.toNat
  | _ => 0

/-- The value of a register as function `fn` sees it: each block gives the value of its own registers. -/
def State.readReg (s : State) (fn : Nat) (r : Reg) : Nat :=
  match r with
  | .idRevision | .idLot0 | .idLot1 | .idSerial | .idSecver | .idOpkey | .idPlace | .idPortMap => s.readId r
  | .qBase _ | .qDb _ | .qCfg _ | .qCtrl _ | .qGen _ | .qStatus _ | .qCons _ | .qProd _ | .qHalt _ | .qHaltSeq _ | .qResume _
  | .cqBase _ | .cqCfg _ | .cqHead _ | .cqTail _ | .cqStatus _ => s.readRings r
  | .kick => 0
  | .accErr | .accErrCount | .accErrInfo | .accErrAddr | .gooseStatus | .nonce | .bootReg | .bootTime | .paceCap | .volt | .pgvStatus
  | .pgvCount | .pmbusLast | .pwrState _ | .wakeArmed | .aon | .resetCause | .resetCount | .telemetry | .thmAlert | .thmStatus
  | .thmCount | .powerLimit => s.readMgt r
  | .gpioIn | .gpioOut | .gpioSet | .gpioClr | .gpioTgl | .gpioRise | .gpioFall | .gpioPending | .gpioDeny | .gpioPstat
  | .gpioOwner _ | .gpioCfg _ | .gpioEcnt _ | .gpioIsel _ | .gpioPwm _ | .gpioTach _ | .gpioCapt _ | .fanDuty _ | .fanTach _ => s.readGpio fn r
  | .tport _ | .hifQos _ | .holdStatus | .holdAddr | .holdInfo | .loss _ | .dbgSession | .dbgRelease | .dbgMemAddr | .dbgMemData
  | .dbgLogIndex | .dbgLogEntry _ => s.readXb fn r
  | .errSummary | .scrubHbm | .scrubSp | .scrubStatus | .scrubCount0 | .scrubCount1 | .scrubPos _ | .scrubPasses | .isletFail
  | .poisonLog _ | .poisonHead | .ldgStatus | .ldgCount | .breachInfo | .snap _ | .ldgRelease | .recovery _ | .ldgTag _ | .ldgEvt _ =>
    s.readErr r
  | .numCtrl _ | .numFlags _ | .numCnt _ _ | .trapSeq _ | .trapOp _ | .trapOffset _ | .trapIndex _ | .timeUs | .timeFine
  | .perf _ _ => s.readNum fn r
  | .stallLimit _ | .spStatus _ | .spCount _ _ | .stallSq _ _ | .fullCount _ | .tagWord _ _ | .freeMap _ _ | .sealedWord _ _ | .qabort _
  | .tdCtrl _ _ | .tdScale _ _ | .tdId _ _ | .tdLcols _ _ | .tdRowOrg _ _ | .tdColOrg _ _ | .tdBase _ _ | .tdStride _ _ => s.readIsl r
  | .strState _ | .strSerial _ | .strCtrl _ | .lostLimit _ | .strStatus _ | .strCount _ _ | .syncLast _ | .strCredit _ _ | .strRtt _
  | .hbmStack _ | .eccStatus | .eccCount | .eccLast | .fillStatus | .waymask _ => s.readLink r
  | .partStatus _ | .reportSeq _ | .clearTime _ | .granule _ | .packageId _ | .packageDst _ | .packageInfo _ | .freeze _ | .cue _ _
  | .winCtrl _ _ | .winBase _ _ | .winSize _ _ | .winLimit _ _ | .winCount _ _ | .winCommitted _ _ => s.readPart fn r

end Sys2Proof.Machine
end

