-- ==== Sys2Proof/Machine/Strait.lean ====
section
/-!
DEFINITION. Strait links (11): what a port sends, the liveness checks, training, keying, CREDIT_SYNC with
resumption and the lost path, sleep and wake, and the flits that carry window data and gathers.
-/

namespace Sys2Proof.Machine

/-! ### Sending (R296, R298, R299, R328) -/

/-- Effective QoS of a waiting flit (R328). -/
def Waiting.qos (x : Waiting) : Nat := Nat.min 15 (x.flit.qos.toNat + x.lost / 64)

/-- The port starts new credited flits: it is UP and does not drain for a sleep (R312). -/
def Port.starts (t : Port) : Bool := t.st == .up && t.sleepTo.isNone && t.draining.isNone

/-- A waiting flit is eligible: the port starts new flits, or it is the sleep negotiation's own; a credit of its channel is held and the
replay buffer has room (R296, R298, R312). -/
def Port.eligible (t : Port) (x : Waiting) : Bool :=
  (t.starts || (t.st == .up && x.sleep)) && decide (0 < (t.credit x.flit.vc.toNat).held) && decide (t.replay.length < 256)

/-- The position of the best of some waiting flits: the first of the highest effective QoS (DESIGN CHOICE, log entry 34). -/
def bestWaiting : List (Waiting × Nat) → Option (Waiting × Nat)
  | [] => none
  | x :: rest =>
    match bestWaiting rest with
    | none => some x
    | some y => if y.1.qos ≤ x.1.qos then some x else some y

/-- The credited flit that is sent at this flit slot. -/
def Port.pick (t : Port) : Option (Waiting × Nat) := bestWaiting (t.txq.zipIdx.filter (fun x => t.eligible x.1))

/-- The first channel with freed credits to return. -/
def Port.toReturn (t : Port) : Option Nat := (List.range 4).find? (fun v => decide (0 < (t.credit v).back))

/-- ACK_SEQ and returned credits of one channel that every sent flit carries (R290, R296): of the link's traffic, or before this end's
CREDIT_SYNC of the exchange's KEY flits, which use MGT alone. -/
def Port.stamp (t : Port) (f : Flit) : Flit × Port :=
  if t.st == .up || t.keying.syncSent then
    match t.toReturn with
    | none => ({ f with ack := seqOf t.rxSeq, crVc := 0, crCount := 0 }, t)
    | some v =>
      let c := t.credit v
      let n := Nat.min 255 c.back
      ({ f with ack := seqOf t.rxSeq, crVc := BitVec.ofNat 2 v, crCount := BitVec.ofNat 8 n },
       t.setCredit v { c with back := c.back - n, taken := c.taken - n, retSent := c.retSent + n })
  else
    let k := t.keying
    let n := Nat.min 255 k.credit.back
    ({ f with ack := k.rxSeq, crVc := if n = 0 then 0 else 3, crCount := BitVec.ofNat 8 n },
     { t with keying := { k with credit := { k.credit with back := k.credit.back - n, taken := k.credit.taken - n, retSent := k.credit.retSent + n } } })

/-- Send a flit: its 256 bytes leave (R290, R292, R293). -/
def State.stampSend (s : State) (p : Nat) (f : Flit) : State :=
  let x := (s.port p).stamp f
  (s.setPort p x.2).emit (.flit p (x.2.wire x.1))

/-- Bytes of window data that a flit of this die sends for its source partition (R294, R397). -/
def State.countSent (s : State) (f : Flit) : State :=
  if f.typ = 0x20 ∧ f.src.toNat = s.die then s.perfAdd (leAt f.body 0 1 / 16) 7 (leAt f.body 4 1) else s

/-- This end has answered a partner that goes to sleep: it goes to DOWN, which is no exit into SLEEP or OFF and is reported (R300, R312;
the cause is DISABLED, DEDUCED, log entry 88). -/
def State.partnerSleeps (s : State) (p : Nat) (off : Bool) : State :=
  (s.setPort p { (s.port p).unlinked s.time with st := .down, asleep := true, asleepOff := off }).linkDown p causeDisabled

/-- Send the picked flit: it takes a credit and a sequence number and stays in the replay buffer; the other eligible flits have lost the
slot. A flit that is only passed on frees the slot in which it came (R43, R296). -/
def State.sendPicked (s : State) (p : Nat) (x : Waiting) (i : Nat) : State :=
  let t := s.port p
  let v := x.flit.vc.toNat
  let c := t.credit v
  let f := { x.flit with seq := seqOf (t.txSeq + 1), qos := BitVec.ofNat 4 x.qos }
  let rest := (t.txq.map (fun y => if t.eligible y then { y with lost := y.lost + 1 } else y)).eraseIdx i
  let t := { t.setCredit v { c with held := c.held - 1 } with txSeq := t.txSeq + 1, replay := t.replay ++ [{ x with flit := f, hop := none }],
                                                              txq := rest }
  let s := ((s.setPort p t).countSent f).stampSend p f
  let s := match x.hop with
    | some (q, w) => s.freeSlot q w
    | none => s
  match x.sleep, t.draining with
  | true, some off => s.partnerSleeps p off
  | _, _ => s

/-- The running totals of credits that this end has returned (R308). -/
def Port.returned (t : Port) : List Nat := (List.range 4).map (fun v => (t.credit v).retSent)

/-- The CREDIT_SYNC of this end (R308): epoch, granted credits, returned totals, the last SEQ accepted and the MAC. Its header acknowledges
the KEY flits of the exchange. -/
def State.syncFlit (s : State) (p : Nat) : Flit :=
  let t := s.port p
  let fields := t.epoch.toNat :: ((List.range 4).map (fun v => (t.credit v).granted) ++ t.returned ++ [(seqOf t.rxSeq).toNat])
  { s.ctlFlit typSync with ack := t.keying.rxSeq
                           body := Config.noteBody Note.sync.code.1 (fields ++ (Config.linkMac t.resume fields).map BitVec.toNat) }

/-- Send the CREDIT_SYNC: what follows it belongs to the link's traffic. -/
def State.sendSync (s : State) (p : Nat) : State :=
  let f := s.syncFlit p
  let t := s.port p
  (s.setPort p { t with keying := { t.keying with syncDue := false, syncSent := true } }).emit (.flit p (t.wire f))

/-- Send the next KEY flit of the exchange: it takes a credit and a number of the exchange. -/
def State.sendKeyFlit (s : State) (p : Nat) : State :=
  let t := s.port p
  let k := t.keying
  match k.txq with
  | [] => s
  | f :: rest =>
    let f := { f with seq := k.txSeq + 1 }
    (s.setPort p { t with keying := { k with txSeq := k.txSeq + 1, txq := rest, replay := k.replay ++ [f],
                                             credit := { k.credit with held := k.credit.held - 1 } } }).stampSend p f

/-- FLIT_SLOT in KEYING: link control first, then KEY flits to be sent again, then the next KEY flit, then this end's CREDIT_SYNC once the
partner has every KEY flit, else IDLE. -/
def State.keyingSlot (s : State) (p : Nat) : State :=
  let t := s.port p
  let k := t.keying
  match t.ctl, k.resend with
  | f :: rest, _ => (s.setPort p { t with ctl := rest }).stampSend p f
  | [], f :: rest => (s.setPort p { t with keying := { k with resend := rest } }).stampSend p f
  | [], [] =>
    if !k.txq.isEmpty && decide (0 < k.credit.held) then s.sendKeyFlit p
    else if k.syncDue && k.txq.isEmpty && k.replay.isEmpty then s.sendSync p
    else s.stampSend p (s.ctlFlit typIdle)

/-- FLIT_SLOT in UP: link control first, then flits to be sent again, then the best credited flit, else IDLE. -/
def State.upSlot (s : State) (p : Nat) : State :=
  let t := s.port p
  match t.ctl, t.resend with
  | f :: rest, _ => (s.setPort p { t with ctl := rest }).stampSend p f
  | [], w :: rest => (s.setPort p { t with resend := rest }).stampSend p w.flit
  | [], [] =>
    match t.pick with
    | some (x, i) => s.sendPicked p x i
    | none => s.stampSend p (s.ctlFlit typIdle)

/-- FLIT_SLOT (R296, R298, R299, R301): a port in QUIET answers HOLD, and so does one that is not enabled while it trains; in QUIET a
refusal that waits goes first (R305). -/
def execFlitSlot (p : Nat) (s : State) : Outcome :=
  let t := s.port p
  match t.st with
  | .up => .next ((s.upSlot p).trySleep p)
  | .keying => .next (s.keyingSlot p)
  | .quiet =>
    if t.keying.txq.isEmpty then .next (s.emit (.hold p))
    else
      let s := s.sendKeyFlit p
      .next (if (s.port p).keying.txq.isEmpty then s.setPort p { s.port p with keying := {} } else s)
  | .training => if t.enabled then stutter s else .next (s.emit (.hold p))
  | _ => stutter s

/-! ### Link control as it arrives (R291, R298, R299) -/

/-- IDLE_RECEIVE: credits and ACK_SEQ only. -/
def execIdleReceive (p : Nat) (raw : List Byte) (s : State) : Outcome := s.controlReceive p typIdle raw (fun _ s => s)

/-- NAK_RECEIVE (R298): everything after ACK_SEQ is sent again; eight for the same SEQ retrain the link. -/
def execNakReceive (p : Nat) (raw : List Byte) (s : State) : Outcome :=
  s.controlReceive p typNak raw (fun f s =>
    let t := s.port p
    if !t.alive then s
    else
      let n := if t.nakCount ≠ 0 ∧ t.nakSeq = f.ack then t.nakCount + 1 else 1
      if 8 ≤ n then (s.setPort p { t with nakCount := 0 }).retrain p causeNakLimit
      else if t.st == .up then s.setPort p { t with nakSeq := f.ack, nakCount := n, resend := t.replay }
      else s.setPort p { t with nakSeq := f.ack, nakCount := n, keying := { t.keying with resend := t.keying.replay } })

/-- PROBE_SEND (R299): a PROBE every 64 µs. -/
def execProbeSend (p : Nat) (s : State) : Outcome :=
  let t := s.port p
  if !t.alive || t.probeAt.isSome then stutter s
  else
    let s := s.advanceTo (t.lastProbe + 6400)
    .next ((s.setPort p { t with probeAt := some s.time, lastProbe := s.time }).sendCtl p typProbe)

/-- PROBE_RECEIVE (R299): it is echoed. -/
def execProbeReceive (p : Nat) (raw : List Byte) (s : State) : Outcome := s.controlReceive p typProbe raw (fun _ s => s.sendCtl p typEcho)

/-- PROBE_ECHO_RECEIVE (R299): the round trip, in ns. -/
def execProbeEchoReceive (p : Nat) (raw : List Byte) (ns : Nat) (s : State) : Outcome :=
  s.controlReceive p typEcho raw (fun _ s =>
    let t := s.port p
    if t.probeAt.isSome then s.setPort p { t with probeAt := none, rtt := BitVec.ofNat 16 (Nat.min 0xFFFF ns) } else s)

/-- The liveness checks run (R299, R301, R447): not while the partner sleeps, nor in KEYING while it answers HOLD. -/
def Port.checked (t : Port) : Bool := t.alive && !t.asleep && !(t.st == .keying && t.holdSeen)

/-- SILENCE_TIMEOUT (R299, R301): no valid flit for 4 µs; a partner that sends HOLD is not silent. -/
def execSilenceTimeout (p : Nat) (s : State) : Outcome :=
  let t := s.port p
  if t.checked && !t.holdSeen then .next ((s.advanceTo (t.heard + 400)).retrain p causeSilence) else stutter s

/-- PROBE_TIMEOUT (R299): no PROBE_ECHO for 4 µs. -/
def execProbeTimeout (p : Nat) (s : State) : Outcome :=
  let t := s.port p
  match t.probeAt with
  | some at_ => if t.checked then .next ((s.advanceTo (at_ + 400)).retrain p causeProbe) else stutter s
  | none => stutter s

/-- CREDIT_DEADLINE (R299): a freed credit has not been returned for 2 µs. -/
def execCreditDeadline (p vc : Nat) (s : State) : Outcome :=
  let t := s.port p
  if t.alive && decide (0 < (t.credit vc).back) then
    let s := s.advanceTo ((t.credit vc).freedAt + 200)
    .next ((s.setPort p { t with creditLate := true, lateCount := satInc t.lateCount }).raiseEvent 16 0x0303 noQueue 0
      [BitVec.ofNat 8 p, BitVec.ofNat 8 vc])
  else stutter s

/-- FLIT_CRC_FAILURE (R291, R292, R298, R302): the flit is discarded; a failed CRC is answered with NAK, a reserved type
is counted, and before the port is enabled every flit is. -/
def execFlitCrcFailure (p : Nat) (raw : List Byte) (s : State) : Outcome :=
  let t := s.port p
  if !t.hears || (crcOk raw && flitTypes.contains (rawType raw)) then stutter s
  else if !t.enabled then .next (s.rxDiscard p)
  else if !t.alive then stutter s
  else if crcOk raw then .next (s.rxDiscard p)
  else .next (s.sendCtl p typNak)

/-- FEC_LOCK_LOSS (R307). -/
def execFecLockLoss (p : Nat) (s : State) : Outcome := .next (s.retrain p causeFecLoss)

/-! ### The machine ends (R46, R311) -/

/-- Every transfer to or from die `d` loses the bytes that are not counted (R311). -/
def State.dropTransfers (s : State) (d port : Nat) : State :=
  (Table.keys s.xfers).foldl (fun s k =>
    let x := s.xfer k
    if x.die = d ∧ 0 < x.open then s.loseBytes k x.open d port else s) s

/-- A window with a source on another die closes without reconciliation; a WINDOW_CLOSE of it ends DONE. The sources of a BINDING_SET
window are other dies. -/
def State.dropWindow (s : State) (p w : Nat) : State :=
  let x := s.win p w
  if !x.isOpen || (!x.binding && decide (x.srcDie.toNat = s.die)) then s
  else
    let s := s.setWin p w { x with isOpen := false, closing := false }
    let s := match s.mgmtBusy (48 + p) 0x8D with
      | some r => if r.aux = [w] then s.mgmtDone (48 + p) x.count.toNat else s
      | none => s
    s.settleWindowWaits p w

/-- Pushes that wait for a reset die are served no more (R311). -/
def State.dropPushes (s : State) (d : Nat) : State :=
  (List.range 16).foldl (fun (s : State) n =>
    let i := s.islet n
    s.setIslet n { i with pushes := i.pushes.filter (fun u => u.served || decide (u.die ≠ d)) }) s

/-- Die `d` has been reset, so the machine ends on this die (R46, R311, DEDUCED, log entry 25); LINK_DOWN names the port towards it.
MACHINE_LEAD, 1 on die 0 of a machine (R55), is 0 outside one (DEDUCED, log entry 86). -/
def State.machineEnd (s : State) (d p : Nat) : State :=
  let s := s.linkDown p causeMachineEnd
  let s := { s with mgt := { s.mgt with machineMode := false, machineLead := false, machineMask := 0 },
                    up := { s.up with recMachine := satInc s.up.recMachine } }
  let s := (List.range 16).foldl (fun (s : State) q => (s.setPart q { s.part q with others := [] }).othersDone q) s
  let s := (s.dropTransfers d p).dropPushes d
  let s := (List.range 16).foldl (fun s q => (List.range 16).foldl (fun s w => s.dropWindow q w) s) s
  let s := s.dropOpens (fun x => x == d) d p
  let gone : Table Grant := s.grants.filter (fun g => decide (g.1 / 256 ≠ d))
  ({ s with grants := gone, hostFifo := [], queues := s.queues.filter (fun k => decide (k.1 < 128)) } : State).settleRevokes

/-- This die has found that its partner was reset: it tells the other dies of the machine, to which the reset die may have no link (DEDUCED,
log entry 25). -/
def State.partnerReset (s : State) (d p : Nat) : State :=
  ((s.otherDies.filter (· ≠ d)).foldl (fun s e => s.forward e .ended [d]) s).machineEnd d p

/-! ### Training (R300, R301) -/

/-- The partner that R38, R39 or R40 predict for port `p`: its die. For a lone card (product 0) none of them predicts one, and no rule
says what its wired ports expect: every partner differs from the prediction and is MISWIRED (DESIGN CHOICE, log entry 85). -/
def State.expectedDie (s : State) (p : Nat) : Option Nat :=
  let d := s.die
  match s.mgt.product.toNat with
  | 0 => none
  | 1 => if p < 2 then some (d ^^^ 1) else none
  | k => if p < 7 then some (d / 8 * 8 + (d % 8 ^^^ (p + 1)))
         else if k = 3 ∧ p < 10 then some ((d / 8 ^^^ 2 ^ (p - 7)) * 8 + d % 8) else none

/-- A partner that slept in OFF, or this port's own OFF, leaves nothing to resume: the link keys afresh (R313). -/
def Port.afresh (t : Port) : Port :=
  { t.dropKeys with epoch := 0, fresh := true, lost := false, credits := [], txSeq := 0, rxSeq := 0, replay := [], resend := [] }

/-- PARTNER_TRAINING (R300, R301): a port that is ON trains, and answers HOLD while it is not enabled. -/
def execPartnerTraining (p : Nat) (s : State) : Outcome :=
  let t := s.port p
  let may := s.on (22 + p) && !t.held && (t.st == .down || (t.st == .quiet && !t.enabled) || (t.st == .training && t.asleep))
  if !may then stutter s
  else
    let u := if t.asleepOff then t.afresh else t
    let s := s.setPort p { u with st := .training, asleep := false, asleepOff := false, wakeAt := none,
                                  leftUp := if t.asleep then s.time else t.leftUp }
    .next (if t.enabled then s else s.emit (.hold p))

/-! ### Keying (R303 to R305, R41) -/

/-- The Goose may key: fresh random values exist (R450). -/
def State.mayKey (s : State) : Bool := s.mgt.trngReady && s.mgt.stage == .ready

/-- The bytes of a keying message. -/
def keyBytes (m : KeyMsg) (step : Nat) : List Byte :=
  Config.keyBytes step [m.serial.toNat, m.die.toNat, m.port, m.secVer.toNat, m.epoch.toNat, beNat m.nonce, beNat m.pub] m.proof

/-- The hello of this end on port `p` with a private key (R41, R303): serial, die and port numbers, security version, epoch or zero, a fresh
nonce and the ephemeral public key. -/
def State.ownHello (s : State) (p d : Nat) : KeyMsg :=
  { serial := s.fuses.serial, die := BitVec.ofNat 6 s.die, port := p, secVer := s.mgt.runningSv, epoch := (s.port p).epoch,
    nonce := s.random 32, pub := publicKey d, proof := [], verified := true }

/-- A fresh ephemeral private key. -/
def State.ephemeral (s : State) : Nat × State := (privateKey (s.random 48), s.freeTaken)

/-- Queue a keying message as KEY flits of at most 232 bytes each (R291, R303). -/
def State.sendKey (s : State) (p : Nat) (bytes : List Byte) : State :=
  let t := s.port p
  let pieces := match chunks 232 bytes with
    | [] => [[]]
    | l => l
  let fs := pieces.map (fun b => mkFlit typKey 3 0 ((s.expectedDie p).getD 0) s.die false b)
  s.setPort p { t with keying := { t.keying with txq := t.keying.txq ++ fs } }

/-- The proof that this end sends (R303): its certificate chain, which the identity record holds (R351), and its signature over the hash of
the transcript so far. -/
def State.keyProof (s : State) (talk : List Byte) : List Byte × State :=
  (Memory.bytes s.flash 0x8000 0x4000 ++ s.identitySign talk, s.freeTaken)

/-- The port begins an exchange as initiator: it sends HELLO_I. -/
def State.sendHello (s : State) (p : Nat) : State :=
  let (d, s) := s.ephemeral
  let m := s.ownHello p d
  let s := s.freeTaken
  let t := s.port p
  let k : Keying := { t.keying with step := .sentHello, secret := d, talk := keyBytes m 1, peer := none, txq := [], syncDue := false,
                                    sentAt := s.time }
  (s.setPort p { t with keying := k, hello := none }).sendKey p (keyBytes m 1)

/-- Keying fails its check: a security refusal, told to the partner 16 µs later; both ends go to QUIET (R305). -/
def State.refuseKeying (s : State) (p : Nat) : State :=
  let s := s.sealedEntry { time := s.us, master := BitVec.ofNat 8 (masterNum .goose), part := 0xFF, queue := 0xFF, reason := 0x0B,
                           seq := 0, addr := 0 }
  let s := s.advanceTo (s.time + 1600)
  let t := s.port p
  let s := s.setPort p { (t.unlinked s.time).dropKeys with st := .quiet, refused := true, hello := none
                                                           keying := { t.keying with step := .idle, txq := [], resend := [], syncDue := false } }
  (s.sendKey p (Config.keyBytes 5 [] [])).linkDown p causeRefused

/-- The partner is not where the wiring predicts (R41): the port stays in QUIET. -/
def State.miswired (s : State) (p : Nat) : State :=
  (s.setPort p { (s.port p).unlinked s.time with st := .quiet, verified := false, hello := none }).linkDown p causeMiswired

/-- The checks of a hello: wiring, then the rest (R41, R303); then `k`. -/
def State.keyCheck (s : State) (p : Nat) (m : KeyMsg) (verified : Bool) (k : State → State) : State :=
  if s.expectedDie p ≠ some m.die.toNat ∨ m.port ≠ p then s.miswired p
  else if !verified || m.serial == s.fuses.serial || (pointOf m.pub).isNone then s.refuseKeying p
  else k s

/-- A partner that carries no epoch into a link that has one has been reset (DEDUCED, log entry 25). -/
def State.partnerEpoch (s : State) (p : Nat) (m : KeyMsg) : State :=
  let t := s.port p
  if !t.fresh ∧ m.epoch = 0 ∧ s.mgt.machineMode ∧ s.mgt.machineMask.getLsbD m.die.toNat then s.partnerReset m.die.toNat p else s

/-- The port answers a HELLO_I as responder with HELLO_R (R303, R304). -/
def State.answerHello (s : State) (p : Nat) (m : KeyMsg) : State :=
  s.keyCheck p m true (fun s =>
    let s := s.partnerEpoch p m
    let (d, s) := s.ephemeral
    let own := s.ownHello p d
    let s := s.freeTaken
    let talk := keyBytes m 1
    let (proof, s) := s.keyProof (talk ++ keyBytes own 2)
    let reply := keyBytes ({ own with proof := proof } : KeyMsg) 2
    let t := s.port p
    let k : Keying := { t.keying with step := .sentReply, secret := d, talk := talk ++ reply, peer := some m, txq := [], syncDue := false,
                                      syncSent := false }
    (s.setPort p { t.dropKeys with keying := k, hello := none }).sendKey p reply)

/-- A port enters KEYING (R300, R304): with the link key it goes to the exchange of R308; else it answers a HELLO_I that has come already, or
sends HELLO_I, once the Goose may key. -/
def State.enterKeying (s : State) (p : Nat) : State :=
  let t := s.port p
  let t := { t with st := .keying, asleep := false, asleepOff := false, refused := false, heard := s.time, lastProbe := s.time, probeAt := none,
                    holdSeen := false }
  if t.hasKey then s.setPort p { t with keying := { t.keying with step := .keyed, syncDue := true } }
  else
    let s := s.setPort p t
    if !s.mayKey then s
    else match t.hello with
      | some m => s.answerHello p m
      | none => s.sendHello p

/-- TRAINING_DONE (R300): QUIET while the port is not enabled or a refusal stands, else KEYING. A failure leaves it in DOWN, from which it
trains again at once, or waits while its partner sleeps. -/
def execTrainingDone (p : Nat) (ok : Bool) (s : State) : Outcome :=
  let t := s.port p
  if t.st != .training then stutter s
  else if !ok then .next (if t.asleep then s.setPort p { t with st := .down } else s)
  else
    let u := { t with asleep := false, asleepOff := false }
    if !t.enabled then .next ((s.setPort p { u with st := .quiet }).emit (.hold p))
    else if t.refused then .next (s.setPort p { u with st := .quiet })
    else .next ((s.setPort p u).enterKeying p)

/-- HOLD_RECEIVE (R301, R302, R447). -/
def execHoldReceive (p : Nat) (s : State) : Outcome :=
  let t := s.port p
  if t.alive then .next (s.setPort p { t with holdSeen := true, heard := s.time }) else stutter s

/-- PORT_ENABLE (R302, R446, R451): a wired port in QUIET, the lowest first. -/
def execPortEnable (p : Nat) (s : State) : Outcome :=
  let waits : Nat → Bool := fun k => (s.port k).st == .quiet && !(s.port k).enabled && s.mgt.portWired.getLsbD k
  if s.mayKey && decide (p < 10) && waits p && !(List.range p).any waits then
    .next ((s.setPort p { s.port p with enabled := true, keying := {} }).enterKeying p)
  else stutter s

/-- A write of 1 to KEY_RETRY (R305): a new keying attempt from QUIET. -/
def State.keyAgain (s : State) (p : Nat) : State :=
  let t := s.port p
  if t.st == .quiet && t.enabled then s.enterKeying p else s

/-- A KEY flit is taken in the exchange's order (DEDUCED, log entry 87): whether it was the next one, and the state. A gap is answered with
NAK. -/
def State.takeKeyFlit (p : Nat) (c : Bool × State) (raw : List Byte) : Bool × State :=
  let s := c.2
  let f := readFlit raw
  let t := s.port p
  let k := t.keying.ackTo f
  let s := s.setPort p { t with keying := k, heard := s.time, holdSeen := false }
  if f.seq = k.rxSeq + 1 then
    (c.1, s.setPort p { s.port p with keying := { k with rxSeq := f.seq, credit := { k.credit with back := k.credit.back + 1 } } })
  else if seqAfter f.seq k.rxSeq && t.st == .keying then (false, s.sendCtl p typNak)
  else (false, s)

/-- A keying message arrives in KEY flits: before the port is enabled they are discarded and counted (R302); else, once all are taken, `k`
acts on it in KEYING or QUIET. -/
def State.keyReceive (s : State) (p : Nat) (raws : List (List Byte)) (k : State → State) : Outcome :=
  let t := s.port p
  if raws.isEmpty || !raws.all (s.arrives p typKey) then stutter s
  else if !t.enabled then .next (raws.foldl (fun s _ => s.rxDiscard p) s)
  else if t.st == .up then .next s
  else
    let r := raws.foldl (State.takeKeyFlit p) (true, s)
    .next (if r.1 then k r.2 else r.2)

/-- The partner of an UP link begins a keying: it holds the link key no longer, and the link passes through KEYING again (R307; DEDUCED, log
entry 92). -/
def State.keyGone (s : State) (p : Nat) : State :=
  let t := s.port p
  if t.st != .up then s
  else (s.setPort p { (t.unlinked s.time).dropKeys with st := .keying, keying := { t.keying with step := .idle, syncSent := false } }).linkDown p causeAuth

/-- HELLO_I (R303, R304): answered as responder; where hellos cross, the lower serial stays initiator. One that this end cannot answer
yet is kept. -/
def execHelloI (p : Nat) (raws : List (List Byte)) (m : KeyMsg) (s : State) : Outcome :=
  let new := (s.port p).enabled && raws.all (s.arrives p typKey) && (raws.head?.map (fun r => (readFlit r).seq)) == some ((s.port p).keying.rxSeq + 1)
  (if new then s.keyGone p else s).keyReceive p raws (fun s =>
    let t := s.port p
    if t.st != .keying || !s.mayKey then s.setPort p { t with hello := some m }
    else if t.keying.step == .sentHello && decide (s.fuses.serial.toNat < m.serial.toNat) then s
    else s.answerHello p m)

/-- HELLO_R (R303): the initiator checks and sends FINISH_I. -/
def execHelloR (p : Nat) (raws : List (List Byte)) (m : KeyMsg) (s : State) : Outcome :=
  s.keyReceive p raws (fun s =>
    if (s.port p).st != .keying || (s.port p).keying.step != .sentHello then s
    else s.keyCheck p m m.verified (fun s =>
      let s := s.partnerEpoch p m
      let talk := (s.port p).keying.talk ++ keyBytes m 2
      let (proof, s) := s.keyProof talk
      let last := Config.keyBytes 3 [] proof
      let t := s.port p
      (s.setPort p { t with keying := { t.keying with step := .sentFinish, talk := talk ++ last, peer := some m } }).sendKey p last))

/-- Both ends have what the keys come from (R303): the directional keys, their IV constants and the resume secret are derived from the
ECDH shared secret and the hash of the transcript (their order: DEDUCED, log entry 89). The partner is recorded (R41), and the epoch taken
at the first keying after OFF (R308). -/
def State.keyed (s : State) (p : Nat) (initiator : Bool) : State :=
  let t := s.port p
  let k := t.keying
  match k.peer with
  | none => s
  | some m =>
    let digest := sha k.talk
    let z := ((pointOf m.pub).map (ecdh k.secret)).getD []
    let out := kdf z digest 104
    let a := slice out 0 32
    let b := slice out 32 32
    let x := slice out 64 4
    let y := slice out 68 4
    s.setPort p { t with txKey := if initiator then a else b, rxKey := if initiator then b else a, txIv := if initiator then x else y,
                         rxIv := if initiator then y else x, resume := slice out 72 32, digest := digest
                         epoch := if t.fresh || t.lost then Config.linkEpoch digest else t.epoch
                         txSeq := (seqOf t.txSeq).zeroExtend 64, rxSeq := (seqOf t.rxSeq).zeroExtend 64
                         keying := { k with step := .keyed, syncDue := true }, verified := true
                         partnerSerial := m.serial, partnerDie := m.die }

/-- FINISH_I (R303): the responder checks, sends FINISH_R with the key-confirmation MAC, and is keyed. -/
def execFinishI (p : Nat) (raws : List (List Byte)) (m : KeyMsg) (s : State) : Outcome :=
  s.keyReceive p raws (fun s =>
    let t := s.port p
    if t.st != .keying || t.keying.step != .sentReply then s
    else if !m.verified then s.refuseKeying p
    else
      let s := s.setPort p { t with keying := { t.keying with talk := t.keying.talk ++ Config.keyBytes 3 [] m.proof } }
      let s := s.keyed p false
      s.sendKey p (Config.keyBytes 4 [] (Config.linkMac (s.port p).resume ((s.port p).digest.map BitVec.toNat))))

/-- FINISH_R (R303): the initiator is keyed. -/
def execFinishR (p : Nat) (raws : List (List Byte)) (m : KeyMsg) (s : State) : Outcome :=
  s.keyReceive p raws (fun s =>
    let t := s.port p
    if t.st != .keying || t.keying.step != .sentFinish then s
    else if !m.verified then s.refuseKeying p
    else s.keyed p true)

/-- KEY_REFUSED (R305): the partner has refused the exchange; the sealed log has the reason at this end too. -/
def execKeyRefused (p : Nat) (raws : List (List Byte)) (s : State) : Outcome :=
  s.keyReceive p raws (fun s =>
    if (s.port p).st != .keying then s
    else
      let s := s.sealedEntry { time := s.us, master := BitVec.ofNat 8 (masterNum .goose), part := 0xFF, queue := 0xFF, reason := 0x0B,
                               seq := 0, addr := 0 }
      (s.setPort p { ((s.port p).unlinked s.time).dropKeys with st := .quiet, refused := true, hello := none }).linkDown p causeRefused)

/-- HELLO_RESEND (R447): every 100 µs while the partner answers HOLD, and while it has not accepted the HELLO_I (R298); one that had to wait
for random values leaves now (R450), or the partner's is answered (R304). -/
def execHelloResend (p : Nat) (s : State) : Outcome :=
  let t := s.port p
  if !(t.st == .keying) || !s.mayKey then stutter s
  else if t.keying.step == .idle then .next (s.enterKeying p)
  else if t.keying.step == .sentHello && (t.holdSeen || !t.keying.replay.isEmpty) then
    let s := s.advanceTo (t.keying.sentAt + 10000)
    .next (s.setPort p { t with keying := { t.keying with resend := t.keying.replay, sentAt := s.time } })
  else stutter s

/-! ### CREDIT_SYNC (R308, R309) -/

/-- The link is UP by a path: 0 NEW, 1 REPLAY, 2 LOST (R300, R321). This end's own CREDIT_SYNC leaves first, if it has not yet. -/
def State.enterUp (s : State) (p path : Nat) : State :=
  let t := s.port p
  (s.setPort p { t with st := .up, asleep := false, asleepOff := false, forceLost := false, probeAt := none, fresh := false
                        keying := { t.keying with step := .idle, syncDue := false, syncSent := true }
                        wakeAt := none, nakCount := 0, heard := s.time, lastProbe := s.time }).linkUp p path

/-- Full grants on every channel (R295). -/
def Port.fullCredits (t : Port) : Port :=
  (List.range 4).foldl (fun t v => t.setCredit v { granted := fullGrant v, held := fullGrant v }) t

/-- Credits that a partner has returned and this end has not received (R308). -/
def Port.unseen (t : Port) (m : SyncMsg) (v : Nat) : Nat := m.returned.getD v 0 - (t.credit v).retSeen

/-- Resumption (R308): returns lost in transit are recovered, unacknowledged flits are sent again. -/
def State.resumeLink (s : State) (p : Nat) (m : SyncMsg) : State :=
  let t := s.port p
  let bad := (List.range 4).find? (fun v => decide ((t.credit v).granted < (t.credit v).held + t.unseen m v))
  match bad with
  | some v => s.creditBreach p v (((t.credit v).held + t.unseen m v : Nat) - ((t.credit v).granted : Nat) : Int)
  | none =>
    let last := (List.range 4).foldl (fun n v => n + Nat.min 255 (t.unseen m v) * 256 ^ v) 0
    let u := (List.range 4).foldl (fun u v =>
      let c := t.credit v
      u.setCredit v { c with held := c.held + t.unseen m v, retSeen := c.retSeen + t.unseen m v }) t
    let u := u.ackTo m.lastSeq
    let s := s.setPort p { u with resend := u.replay, synced := true, syncCount := satInc u.syncCount, syncLast := BitVec.ofNat 32 last }
    ({ s with up := { s.up with recSync := satInc s.up.recSync } } : State).enterUp p 1

/-- The transfer and the bytes that a discarded WIN_DATA or GATHER_REQ flit carried. -/
def lostBytes (f : Flit) : Option (Nat × Nat) :=
  if f.typ = 0x20 then some (leAt f.body 2 2, leAt f.body 4 1)
  else if f.typ = 0x10 then some (leAt f.body 2 2, leAt f.body 4 4)
  else none

/-- A flit of the replay buffer is discarded: its source die learns what was lost (R309). Of its own it knows the transfer or push whose
bytes the flit carried. A discarded CTRL flit of another die is reported as 0 bytes towards its destination, so that a WINDOW_OPEN learns
that its route took the lost path (R316; DEDUCED, log entry 90). A FWD flit of this die is sent again, and ring entries are fetched again
(R227). -/
def State.loseFlit (p : Nat) (s : State) (w : Waiting) : State :=
  let f := w.flit
  let far := (s.port p).partnerDie.toNat
  match lostBytes f with
  | none =>
    if f.src.toNat = s.die then (if f.typ = 0x0A then (s.sendFlit f 0).fetchAgain f.dst.toNat else s)
    else if f.typ = 0x09 ∨ f.typ = 0x0A then s.sendNote f.src.toNat .lost [f.dst.toNat, 0, far, p] else s
  | some (x, n) => if f.src.toNat ≠ s.die then s.sendNote f.src.toNat .lost [x, n, far, p] else s.loseBytes (w.key.getD x) n far p

/-- The lost path (R309, R349): what is not acknowledged is discarded, every channel has its full grant, and the keys are given up, so that the
link keys again and takes a new epoch from that keying (DEDUCED, log entry 92). The sequence goes on from what the partner accepted (DEDUCED,
log entry 40). Flits that wait to be passed on hold no slot any more. -/
def State.lostPath (s : State) (p : Nat) (m : SyncMsg) : State :=
  let t := s.port p
  let s := s.setPort p { t.fullCredits.dropKeys with replay := [], resend := [], gone := (t.gone ++ t.replay).filter (fun w => seqAfter w.flit.seq m.lastSeq), lost := true,
                                                     forceLost := false, txSeq := countOf t.txSeq m.lastSeq,
                                                     keying := { t.keying with step := .idle, syncDue := false, syncSent := false } }
  let s := (List.range 10).foldl (fun (s : State) q =>
    s.setPort q { s.port q with txq := (s.port q).txq.map (fun w => if w.hop.map Prod.fst = some p then { w with hop := none } else w) }) s
  s.enterKeying p

/-- The link is UP by a path, and what this end has discarded is reported; a WINDOW_OPEN whose request went that way has lost it (R309, R310,
R316). -/
def State.upReport (s : State) (p path : Nat) : State :=
  let gone := (s.port p).gone
  let s := (s.setPort p { s.port p with lost := false, gone := [] }).enterUp p path
  if path ≠ 2 ∧ gone.isEmpty then s
  else
    let s := gone.foldl (State.loseFlit p) s
    (s.dropOpens (fun d => portToward s.mgt.product.toNat s.die d 0 == p) (s.port p).partnerDie.toNat p).settleRevokes

/-- The link comes up after the lost path: the recovery is recorded (R309). -/
def State.lostUp (s : State) (p : Nat) : State :=
  ({ s with up := { s.up with recLost := satInc s.up.recLost } } : State).upReport p 2

/-- CREDIT_SYNC (R308): the first after OFF, or after a lost resumption, finds the epoch of the keying; others resume, or take the lost path.
This end's own CREDIT_SYNC leaves before anything else. -/
def execCreditSync (p : Nat) (raw : List Byte) (m : SyncMsg) (s : State) : Outcome :=
  s.controlReceive p typSync raw (fun _ s =>
    let t := s.port p
    if t.st != .keying || t.keying.step != .keyed then s
    else
      let s := if t.keying.syncDue then s.setPort p { t with ctl := s.syncFlit p :: t.ctl } else s
      let t := s.port p
      if t.fresh && m.macOk && m.epoch == t.epoch then (s.setPort p t.fullCredits).upReport p 0
      else if t.lost && m.macOk && m.epoch == t.epoch then s.lostUp p
      else if m.epoch == t.epoch && m.macOk && !t.lost && !t.forceLost && decide (s.time ≤ t.leftUp + t.lostLimit.toNat * msTicks) then s.resumeLink p m
      else s.lostPath p m)

/-! ### Window data and gathers (R318, R319, R322) -/

/-- The delivery of a WIN_DATA flit for this die can be made now: its target is ON, or the flit fails its checks. -/
def State.winDataReady (s : State) (f : Flit) : Bool :=
  let x := s.win (leAt f.body 0 1 % 16) (leAt f.body 1 1 % 16)
  decide (f.dst.toNat ≠ s.die) || !s.winDataOk f || s.targetReady (x.base.toNat + leAt f.body 8 6) (leAt f.body 4 1)

/-- WIN_DATA_RECEIVE (R293, R318). -/
def execWinDataReceive (p : Nat) (raw : List Byte) (s : State) : Outcome :=
  if (s.admitted p raw).any (fun f => !s.winDataReady f) then stutter s else s.linkReceive p typWinData raw (fun f s => s.deliverWinData f)

/-- GATHER_REQ_RECEIVE (R167, R322). -/
def execGatherReqReceive (p : Nat) (raw : List Byte) (s : State) : Outcome := s.linkReceive p typGather raw (fun f s => s.deliverGather f)

/-! ### Sleep and wake (R312, R313) -/

/-- SLEEP_REQ (R312): this end drains the link, then answers. -/
def execSleepReq (p : Nat) (raw : List Byte) (off : Bool) (s : State) : Outcome :=
  s.linkReceive p typCtrl raw (fun _ s => (s.setPort p { s.port p with draining := some off }).trySleep p)

/-- Every flit of this end is acknowledged and every credit of it back (R312). -/
def Port.settled (t : Port) : Bool := t.replay.isEmpty && t.resend.isEmpty && (List.range 4).all (fun v => (t.credit v).held == (t.credit v).granted)

/-- SLEEP_ACK (R312): the drained port may enter SLEEP or OFF. -/
def execSleepAck (p : Nat) (raw : List Byte) (s : State) : Outcome :=
  s.linkReceive p typCtrl raw (fun _ s =>
    let t := s.port p
    if t.sleepTo.isSome && t.settled then (s.setPort p { t with sleepAcked := true }).tryQuiesced else s)

/-- WAKE_PATTERN_SEND (R313): a flit waits for a link whose partner sleeps; after a pattern that was not answered the
next comes 1 ms later. -/
def execWakePatternSend (p : Nat) (s : State) : Outcome :=
  let t := s.port p
  if t.st == .down && t.asleep && t.wakeSend && !t.txq.isEmpty && !t.held then
    let s := match t.wakeAt with
      | some at_ => s.advanceTo (at_ + msTicks)
      | none => s
    let u := if t.asleepOff then t.afresh else t
    .next ((s.setPort p { u with st := .training, wakeAt := some s.time, leftUp := s.time }).emit (.wakePattern p))
  else stutter s

/-- WAKE_PATTERN_DETECT (R313, R427): the armed detector of a sleeping, wired port fires. -/
def execWakePatternDetect (p : Nat) (s : State) : Outcome :=
  let t := s.port p
  if (t.st == .sleep || t.st == .off) && s.power.wakePorts.getLsbD p && s.mgt.portWired.getLsbD p then .next (s.fireWake p 1)
  else stutter s

/-- WAKE_TIMEOUT (R313): no training by the time allowed, 25 µs or 650 µs after the pattern of 8 µs, plus 10 µs. -/
def execWakeTimeout (p : Nat) (s : State) : Outcome :=
  let t := s.port p
  match t.wakeAt with
  | some at_ =>
    if t.st == .training && t.asleep then
      let s := s.advanceTo (at_ + 800 + (if t.asleepOff then 65000 else 2500) + 1000)
      .next ((s.setPort p { t with st := .down }).linkDown p causeWakeTimeout)
    else stutter s
  | none => stutter s

end Sys2Proof.Machine
end

