-- ==== Sys2Proof/Machine/Writes.lean ====
section
/-!
DEFINITION. What a register write does, once the access has reached its register (R9): the access codes, the reserved
encodings of R12 and the rules of the owning chapters. The value is that of the whole register: a write of one half
of a 64-bit register keeps the other half (R334).
-/

namespace Sys2Proof.Machine

/-! ### Who writes -/

/-- The access carries the rights of a host function (R325). -/
def fromHost (a : Acc) : Bool := a.master == .hif || a.master == .soundGw

/-- On whose behalf a pin register is written (R481). -/
def writerOf (a : Acc) : Writer :=
  match a.master with
  | .goose => .goose
  | .hif | .soundGw => if a.fn = 0 then .host else .part (a.fn - 1)
  | .dbg | .icpHub => .nobody

/-- A write of a partition's register comes through that partition's VF (R112, R145, R198, R204). -/
def ofOwner (a : Acc) (owner : Option Nat) : Bool :=
  fromHost a && (match owner with
    | some p => decide (a.fn = p + 1)
    | none => false)

/-- A write of a queue's register comes from where it may (R198, R204). -/
def State.setsQueue (s : State) (a : Acc) (q : Nat) : Bool :=
  if q = 64 then fromHost a && decide (a.fn = 0) else ofOwner a (s.queueOwner q)

/-- A write of a ring's register comes from where it may (R204). -/
def setsRing (a : Acc) (c : Nat) : Bool := fromHost a && decide (a.fn = ringFn c)

/-- Log a write in part discarded (R344). -/
def State.logIf (s : State) (b : Bool) (cause : Nat) (a : Acc) : State := if b then s.logAccess cause a true else s

/-- Do `f` where the write is allowed; else it is discarded and logged with cause STATE_RULE. -/
def State.ruled (s : State) (a : Acc) (ok : Bool) (f : State → State) : State :=
  if ok then f s else s.logAccess causeState a true

/-! ### HIF (R204, R210, R211, R230) -/

/-- Set-up registers that a write may change only while the queue is disabled (R210). -/
def State.setUpQueue (s : State) (a : Acc) (q : Nat) (f : Queue → Queue) : State :=
  s.ruled a (s.setsQueue a q && !(s.queue q).enable) (fun s => s.setQueue q (f (s.queue q)))

/-- A write of HIF_KICK (R211, R212). -/
def State.writeKick (s : State) (a : Acc) (v : Nat) : State :=
  let q := v % 128
  if 64 < q then s.logAccess causeReserved a true
  else if a.fn ≠ 0 ∧ s.queueOwner q ≠ some (a.fn - 1) then
    s.refuse (masterNum a.master) (some (a.fn - 1)) 0xFF 0x05 0 a.off
  else s.kick a q

/-- Writes of the HIF registers. -/
def State.writeHif (s : State) (a : Acc) (r : Reg) (v : Nat) : State :=
  match r with
  | .qBase q => s.setUpQueue a q (fun k => { k with base := BitVec.ofNat 64 v })
  | .qDb q => s.setUpQueue a q (fun k => { k with db := BitVec.ofNat 64 v })
  | .qCfg q =>
    let ok := decide (6 ≤ v % 32) && decide (v % 32 ≤ 16)
    if s.setsQueue a q && !(s.queue q).enable then
      (s.setQueue q { s.queue q with sizeLog2 := if ok then BitVec.ofNat 5 v else (s.queue q).sizeLog2,
                                     cqSel := BitVec.ofNat 2 (v / 256) }).logIf (!ok) causeReserved a
    else s.logAccess causeState a true
  | .qCtrl q => s.ruled a (s.setsQueue a q) (fun s => s.writeQctrl a q (bit v 0) (bit v 1))
  | .qGen q => s.ruled a (s.setsQueue a q) (fun s => (s.setQueue q { s.queue q with gen := BitVec.ofNat 32 v }).tellLead q)
  | .qStatus q =>
    s.ruled a (s.setsQueue a q) (fun s => s.setQueue q { s.queue q with genMismatch := (s.queue q).genMismatch && !bit v 8 })
  | .qResume q => s.ruled a (s.setsQueue a q) (fun s => s.writeResume a q (bit v 0) (bit v 1))
  | .cqBase c => s.ruled a (setsRing a c) (fun s => s.setRing c { s.ring c with base := BitVec.ofNat 64 v })
  | .cqCfg c => s.ruled a (setsRing a c) (fun s => s.writeCqcfg a c v)
  | .cqHead c => s.ruled a (setsRing a c) (fun s => s.writeHead a c (BitVec.ofNat 32 v))
  | .cqStatus c =>
    s.ruled a (setsRing a c) (fun s => s.setRing c { s.ring c with fullSeen := (s.ring c).fullSeen && !bit v 8 })
  | .kick => s.writeKick a v
  | .accErr => { s with bus := { s.bus with logged := s.bus.logged && !bit v 0 } }
  | _ => s

/-! ### Power, temperature, power limit (R54, R55, R436) -/

/-- Writes of the W1C and RW registers of 13 and 15. -/
def State.writePower (s : State) (a : Acc) (r : Reg) (v : Nat) : State :=
  match r with
  | .gooseStatus => { s with mgt := { s.mgt with trngFail := s.mgt.trngFail && !bit v 8 } }
  | .pgvStatus =>
    { s with power := { s.power with shortfall := s.power.shortfall && !bit v 0, pmbusFault := s.power.pmbusFault && !bit v 1 } }
  | .resetCause => { s with power := { s.power with brownout := s.power.brownout && !bit v 0, trip := s.power.trip && !bit v 1 } }
  | .thmAlert =>
    let t := v % 256
    let h := bits v 11 8
    let tOk := decide (60 ≤ t) && decide (t ≤ 110)
    let hOk := decide (2 ≤ h)
    ({ s with power := { s.power with thresholdC := if tOk then BitVec.ofNat 8 t else s.power.thresholdC,
                                      hystC := if hOk then BitVec.ofNat 4 h else s.power.hystC } } : State).logIf
      (!(tOk && hOk)) causeReserved a
  | .thmStatus => { s with power := { s.power with alertSeen := s.power.alertSeen && !bit v 0 } }
  | .powerLimit =>
    let w := v % 512
    -- R55 has the write on a tray or rack die discarded; that it is logged as well is R344 (DEDUCED, log entry 84)
    if 2 ≤ s.mgt.product.toNat then s.logAccess causeState a true
    else if w < 150 ∨ 400 < w then s.logAccess causeReserved a true
    else { s with power := { s.power with limitW := BitVec.ofNat 9 w } }
  | _ => s

/-! ### GPIO and fans (R486, R488, R491, R498, R55) -/

/-- A write of a register of main I/O while main I/O is not ON is discarded and logged (R498). -/
def State.mainWrite (s : State) (a : Acc) (f : State → State) : State := s.ruled a (s.on 32) f

/-- The bits of a shared pin register that can be written now, and whether a 1 fell on one that cannot (R498). -/
def State.livePins (s : State) (v : Nat) : BitVec 24 × Bool :=
  let x := BitVec.ofNat 24 v
  if s.on 32 then (x, false) else (x &&& 0xFF, decide (x >>> 8 ≠ 0))

/-- A write of GPIO_OUT, GPIO_SET, GPIO_CLR or GPIO_TGL: `want` names the bits that would change, among the live bits of
the value. -/
def State.writeOut (s : State) (a : Acc) (v : Nat) (want : BitVec 24 → BitVec 24) : State :=
  let (x, lost) := s.livePins v
  let live : BitVec 24 := if s.on 32 then 0xFFFFFF else 0xFF
  (s.changeOut (writerOf a) (want x &&& live)).logIf lost causeState a

/-- The Goose holds PWM unit `n`. -/
def State.goosePwm (s : State) (n : Nat) : Bool := (s.pin (8 + n)).owner == ownGoose

/-- The Goose holds input function `f`: the TACH functions of pins 12 to 15, and those of pins 16 and 17 (R500). -/
def State.gooseInput (s : State) (f : Nat) : Bool :=
  (decide (7 ≤ f ∧ f ≤ 10) && (s.pin (5 + f)).owner == ownGoose) || (f == 15 && (s.pin 17).owner == ownGoose)
    || (f == 16 && (s.pin 16).owner == ownGoose)

/-- A write of GPIO_PSTAT, GPIO_ISEL_f or GPIO_PWM_n comes through the PF or from the Goose (R502). -/
def unitWriter (a : Acc) : Bool := writerOf a == .host || writerOf a == .goose

/-- A write of a function unit that the Goose holds, by another, is discarded and counted in DENY_COUNT (R491). -/
def State.unitWrite (s : State) (a : Acc) (held : Bool) (f : State → State) : State :=
  s.mainWrite a (fun s => s.ruled a (unitWriter a) (fun s => if held && a.master != .goose then s.deny 1 else f s))

/-- Reserved codes in a GPIO_CFG value for a pin (R12, R488). -/
def Pin.cfgReserved (p : Pin) (v : Nat) : Bool :=
  decide (0x14 < v % 64) || (decide (0x10 ≤ p.owner.toNat) && decide (v % 64 ≠ 0)) || decide (bits v 12 11 = 3) || decide (5 < bits v 15 13)

/-- A write of GPIO_CFG_k (R486, R488, R498); that of an armed pin is discarded and logged (R497). -/
def State.writeCfg (s : State) (a : Acc) (k v : Nat) : State :=
  s.ruled a (s.pinAlive k) (fun s =>
    if !s.ownsPin (writerOf a) k then s.deny 1
    else s.ruled a (!(decide (k < 8) && s.power.wakePins.getLsbD k)) (fun s =>
      (s.configurePin k v).logIf ((s.pin k).cfgReserved v) causeReserved a))

/-- Writes of the GPIO block. -/
def State.writeGpio (s : State) (a : Acc) (r : Reg) (v : Nat) : State :=
  match r with
  | .gpioOut => s.writeOut a v (fun x => x ^^^ s.gpio.out)
  | .gpioSet => s.writeOut a v (fun x => x &&& ~~~s.gpio.out)
  | .gpioClr => s.writeOut a v (fun x => x &&& s.gpio.out)
  | .gpioTgl => s.writeOut a v id
  | .gpioRise => (s.clearEdges (writerOf a) false (s.livePins v).1).logIf (s.livePins v).2 causeState a
  | .gpioFall => (s.clearEdges (writerOf a) true (s.livePins v).1).logIf (s.livePins v).2 causeState a
  | .gpioPstat => s.unitWrite a false (fun s => { s with gpio := { s.gpio with pstat := BitVec.ofNat 16 v } })
  | .gpioCfg k => s.writeCfg a k v
  | .gpioIsel f =>
    s.unitWrite a (s.gooseInput f) (fun s =>
      let old := (Table.get 0 s.gpio.isel f).toNat
      let ok := decide (v % 32 < 24)
      let x := BitVec.ofNat 8 ((if ok then v % 32 else old % 32) + b2n (bit v 7) * 128)
      ({ s with gpio := { s.gpio with isel := Table.set 0 s.gpio.isel f x } } : State).logIf (!ok) causeReserved a)
  | .gpioPwm n =>
    s.unitWrite a (s.goosePwm n) (fun s => { s with gpio := { s.gpio with pwm := Table.set 0 s.gpio.pwm n (BitVec.ofNat 32 v) } })
  -- R55 has the write off a lead die discarded; that it is logged as well is R344 (DEDUCED, log entry 84)
  | .fanDuty n => s.ruled a s.leadDie (fun s => s.writeFanDuty n (BitVec.ofNat 8 v))
  | _ => s

/-! ### Bus matrix, ERR, LDG, NUM (R85, R345, R471, R479) -/

/-- Writes of XB_TPORT_n (R331, R332, R345): DECODE and PARK of a sealed port do not take, and any write of them is logged; HOLD outside
a debug session is a reserved encoding. -/
def State.writeTport (s : State) (a : Acc) (n v : Nat) : State :=
  let b := s.bus
  let s := { s with bus := { b with roundRobin := setBit b.roundRobin n (bit v 0) } }
  if sealedPort n then s.logAccess causeState a true
  else
    let ok := !bit v 1 || b.dbgOpen
    ({ s with bus := { s.bus with parkBit := setBit s.bus.parkBit n (bit v 2),
                                  hold := if ok then setBit s.bus.hold n (bit v 1) else s.bus.hold } } : State).logIf
      (!ok) causeReserved a

/-- Writes of the XB, ERR, LDG and NUM registers. -/
def State.writeMatrix (s : State) (a : Acc) (r : Reg) (v : Nat) : State :=
  match r with
  | .tport n => s.writeTport a n v
  | .hifQos f =>
    if v % 16 = 15 then s.logAccess causeReserved a true
    else { s with bus := { s.bus with hifQos := Table.set 4 s.bus.hifQos f (BitVec.ofNat 4 v) } }
  | .scrubStatus =>
    { s with up := { s.up with scrubCorr := s.up.scrubCorr && !bit v 0, scrubUncorr := s.up.scrubUncorr && !bit v 1,
                               scrubLate := s.up.scrubLate && !bit v 2 } }
  | .ldgStatus => { s with up := { s.up with breach := s.up.breach && !bit v 0 } }
  | .ldgRelease => s.ledgerRelease a (bit v 0) (BitVec.ofNat 10 (v / 2 ^ 16))
  | .numCtrl q => s.setNum q { s.num q with trapEn := bit v 0 }
  | .numFlags q =>
    s.setNum q { s.num q with flags := (s.num q).flags &&& ~~~(BitVec.ofNat 5 v), trapped := (s.num q).trapped && !bit v 8 }
  | _ => s

/-! ### Islets (R101, R102, R112, R145, R477) -/

/-- Squares of Islet `n` that an open window covers (R102). -/
def State.windowSquares (s : State) (n : Nat) : List Nat :=
  (List.range 16).flatMap (fun p => (List.range 16).flatMap (fun w =>
    let x := s.opened p w
    match placeOf x.base.toNat with
    | .scratch k o => if x.isOpen && x.scratch && k == n then rangeSquares o x.size.toNat else []
    | _ => []))

/-- A write of ISL_FREE_MAP_k: a bit under an open window stays set, and the write is logged (R102). -/
def State.writeFreeMap (s : State) (a : Acc) (n k v : Nat) : State :=
  let i := s.islet n
  let covered := (s.windowSquares n).filter (fun x => x / 32 == k && i.free.getLsbD x)
  let kept := covered.filter (fun x => !bit v (x % 32))
  let free := (List.range 32).foldl (fun m j => setBit m (32 * k + j) (bit v j || covered.contains (32 * k + j))) i.free
  (s.setIslet n { i with free := free }).logIf (!kept.isEmpty) causeState a

/-- A field of a tensor table entry. -/
def State.setTdesc (s : State) (n t : Nat) (f : TDesc → TDesc) : State :=
  let i := s.islet n
  s.setIslet n { i with tds := Table.set {} i.tds t (f (s.tdesc n t)) }

/-- Writes of the ISL block through the VF of the Islet's owner. -/
def State.writeIsl (s : State) (a : Acc) (r : Reg) (v : Nat) : State :=
  match r with
  | .stallLimit n =>
    if v % 2 ^ 20 < 16 then s.logAccess causeReserved a true
    else s.setIslet n { s.islet n with stallLimit := BitVec.ofNat 20 v }
  | .spStatus n =>
    let i := s.islet n
    s.setIslet n { i with stall := i.stall && !bit v 0, corrected := i.corrected && !bit v 1, uncorr := i.uncorr && !bit v 2 }
  | .freeMap n k => s.writeFreeMap a n k v
  | .qabort n => s.qabort a n (BitVec.ofNat 3 v)
  | .tdCtrl n t =>
    let ok := decide (v % 16 ≠ 0xF)
    (s.setTdesc n t (fun d => { d with format := if ok then BitVec.ofNat 4 v else d.format, mem := bit v 4, valid := bit v 5 })).logIf
      (!ok) causeReserved a
  | .tdScale n t => s.setTdesc n t (fun d => { d with scale := BitVec.ofNat 32 v })
  | .tdId n t => s.setTdesc n t (fun d => { d with tid := BitVec.ofNat 31 v })
  | .tdLcols n t => s.setTdesc n t (fun d => { d with lcols := BitVec.ofNat 32 v })
  | .tdRowOrg n t => s.setTdesc n t (fun d => { d with rowOrg := BitVec.ofNat 32 v })
  | .tdColOrg n t => s.setTdesc n t (fun d => { d with colOrg := BitVec.ofNat 32 v })
  | .tdBase n t => s.setTdesc n t (fun d => { d with base := BitVec.ofNat 48 v })
  | .tdStride n t => s.setTdesc n t (fun d => { d with stride := BitVec.ofNat 32 v })
  | _ => s

/-- The Islet of a register of the ISL block that takes writes. -/
def Reg.isletWritten : Reg → Option Nat
  | .stallLimit n | .spStatus n | .freeMap n _ | .qabort n | .tdCtrl n _ | .tdScale n _ | .tdId n _ | .tdLcols n _ | .tdRowOrg n _
  | .tdColOrg n _ | .tdBase n _ | .tdStride n _ => some n
  | _ => none

/-! ### Links, HBM, Lagoon (R289, R305, R313, R323) -/

/-- Writes of the STR, HBM and LAG registers. -/
def State.writeLink (s : State) (a : Acc) (r : Reg) (v : Nat) : State :=
  match r with
  | .strCtrl p =>
    let s := s.setPort p { s.port p with wakeSend := bit v 0 }
    if bit v 1 then s.keyAgain p else s
  | .lostLimit p =>
    let ms := v % 1024
    if ms = 0 ∨ 1000 < ms then s.logAccess causeReserved a true else s.setPort p { s.port p with lostLimit := BitVec.ofNat 10 ms }
  | .strStatus p =>
    let t := s.port p
    s.setPort p { t with creditLate := t.creditLate && !bit v 0, synced := t.synced && !bit v 1, rxDiscard := t.rxDiscard && !bit v 2,
                         retrained := t.retrained && !bit v 3 }
  | .eccStatus => { s with up := { s.up with corrected := s.up.corrected && !bit v 0, uncorr := s.up.uncorr && !bit v 1 } }
  | .waymask p =>
    if v % 2 ^ 16 = 0 then s.logAccess causeReserved a true else s.setPart p { s.part p with wayMask := BitVec.ofNat 16 v }
  | _ => s

/-! ### Fields that the Goose writes (R9) -/

/-- A GW field takes a write of the Goose; the registers whose value other state decides (counts of a package, links,
session flags) take what they hold. -/
def State.writeGoose (s : State) (r : Reg) (v : Nat) : State :=
  match r with
  | .idPlace => { s with mgt := { s.mgt with product := BitVec.ofNat 2 (v / 2 ^ 12), machineMode := bit v 15, machineLead := bit v 16 } }
  | .idPortMap => { s with mgt := { s.mgt with portWired := BitVec.ofNat 10 v } }
  | .gooseStatus =>
    { s with mgt := { s.mgt with trngReady := bit v 2, slotRunning := bit v 3, staged := BitVec.ofNat 2 (v / 16),
                                 stage := match v % 4 with
                                   | 0 => .rom
                                   | 1 => .fwLoad
                                   | 2 => .ready
                                   | _ => .recovery } }
  | .idSecver => { s with mgt := { s.mgt with runningSv := BitVec.ofNat 7 (v / 256) } }
  | .nonce => { s with mgt := { s.mgt with nonce := BitVec.ofNat 64 v } }
  | .bootReg =>
    { s with mgt := { s.mgt with cfgReady := bit v 0, bootDone := bit v 1, hbmFail := BitVec.ofNat 2 (v / 16),
                                 recoveryCause := BitVec.ofNat 2 (v / 2 ^ 12),
                                 resetKind := match v / 2 ^ 8 % 8 with
                                   | 0 => .cold
                                   | 1 => .brownout
                                   | 2 => .warmPin
                                   | 3 => .perst
                                   | _ => s.mgt.resetKind } }
  | .bootTime => { s with mgt := { s.mgt with readyT := BitVec.ofNat 16 v, doneT := BitVec.ofNat 16 (v / 2 ^ 16) } }
  | .paceCap => { s with power := { s.power with paceCap := BitVec.ofNat 8 v } }
  | .volt => { s with power := { s.power with volt := BitVec.ofNat 10 v } }
  | .pmbusLast => { s with power := { s.power with pmbusLast := BitVec.ofNat 16 v } }
  | .wakeArmed => { s with power := { s.power with wakePorts := BitVec.ofNat 10 v, wakePins := BitVec.ofNat 8 (v / 2 ^ 16) } }
  | .aon => { s with power := { s.power with lp := bit v 0, loadUa := BitVec.ofNat 12 (v / 16) } }
  | .gpioOwner j =>
    (List.range 4).foldl (fun s i => s.setPin (4 * j + i) { s.pin (4 * j + i) with owner := BitVec.ofNat 8 (v / 256 ^ i) }) s
  | .scrubHbm => { s with up := { s.up with hbmPassS := BitVec.ofNat 17 v, hbmEn := bit v 31 } }
  | .scrubSp => { s with up := { s.up with spPassMs := BitVec.ofNat 16 v, spEn := bit v 31 } }
  | .isletFail => { s with mgt := { s.mgt with islFail := BitVec.ofNat 16 v } }
  | .strState p => s.setPort p { s.port p with enabled := bit v 3 }
  | .dbgSession => { s with bus := { s.bus with dbgOpen := bit v 0, dbgJtag := bit v 1, dbgMask := BitVec.ofNat 16 (v / 2 ^ 16) } }
  | .partStatus p =>
    s.setPart p { s.part p with observed := bit v 2, localRoute := bit v 3, ideReq := bit v 4, ideSecure := bit v 5,
                                islets := BitVec.ofNat 16 (v / 2 ^ 16),
                                state := match v % 4 with
                                  | 0 => .none
                                  | 1 => .created
                                  | 2 => .active
                                  | _ => .clearing }
  | .reportSeq p => s.setPart p { s.part p with reportSeq := BitVec.ofNat 32 v }
  | .clearTime p => s.setPart p { s.part p with clearTime := BitVec.ofNat 32 v }
  | .granule k => (List.range 4).foldl (fun s j => s.setOwner (4 * k + j) (v / 256 ^ j % 256)) s
  | .packageId p => s.setPart p { s.part p with pkgId := BitVec.ofNat 64 v }
  | .packageDst p => s.setPart p { s.part p with pkgDst := BitVec.ofNat 48 v }
  | .packageInfo p => s.setPart p { s.part p with pkgFrames := BitVec.ofNat 16 v, bindCount := BitVec.ofNat 7 (v / 2 ^ 16), loaded := bit v 31 }
  | .freeze k =>
    { s with frozen := (List.range 32).foldl (fun t j => Table.set false t (32 * k + j) (bit v j)) s.frozen }
  | _ => s

/-! ### All of them -/

/-- A write of the whole value of a register that has no effect beyond its block. -/
def State.writeReg (s : State) (a : Acc) (r : Reg) (v : Nat) : State :=
  let s := if a.master = .goose then s.writeGoose r v else s
  match r with
  | .qBase _ | .qDb _ | .qCfg _ | .qCtrl _ | .qGen _ | .qStatus _ | .qResume _ | .cqBase _ | .cqCfg _ | .cqHead _ | .cqStatus _ | .kick
  | .accErr => s.writeHif a r v
  | .gooseStatus | .pgvStatus | .resetCause | .thmAlert | .thmStatus | .powerLimit => s.writePower a r v
  | .gpioOut | .gpioSet | .gpioClr | .gpioTgl | .gpioRise | .gpioFall | .gpioPstat | .gpioCfg _ | .gpioIsel _ | .gpioPwm _ | .fanDuty _ =>
    s.writeGpio a r v
  | .tport _ | .hifQos _ | .scrubStatus | .ldgStatus | .ldgRelease | .numCtrl _ | .numFlags _ => s.writeMatrix a r v
  | .strCtrl _ | .lostLimit _ | .strStatus _ | .eccStatus | .waymask _ => s.writeLink a r v
  | r =>
    match r.isletWritten with
    | some n => s.ruled a (ofOwner a (s.isletOwner n)) (fun s => s.writeIsl a r v)
    | none => s

end Sys2Proof.Machine
end

