-- ==== Sys2Proof/Machine/Access.lean ====
section
/-!
DEFINITION. The path of a register access (12): its shape, whether HIF is held, the requester's rights, the port's
policy for undefined offsets, the answer; the register writes that have rows of their own; debug access (R401,
R402); BAR2 and configuration requests.
-/

namespace Sys2Proof.Machine

/-! ### Shape (R334, R335) -/

/-- Byte enables within the aligned 8 bytes. -/
def enables (a : Acc) : Nat := a.en * 2 ^ (a.off % 8) % 256

/-- The enables of 4-byte half `k`. -/
def halfEn (m k : Nat) : Nat := m / 16 ^ k % 16

/-- The cause of a shape fault of any access. -/
def shapeFault (a : Acc) : Option Nat :=
  if 8 < a.size then some causeWide
  else if (if a.size = 8 then a.off % 8 ≠ 0 else 4 < a.off % 4 + a.size) then some causeUnaligned
  else none

/-- A write with a half enabled in part, or with no byte enabled, is discarded whole. -/
def narrowWrite (m : Nat) : Bool := !(m == 0x0F || m == 0xF0 || m == 0xFF)

/-- Bits of the enabled bytes of a half. -/
def halfMask (n : Nat) : Nat := (List.range 4).foldl (fun v j => if bit n j then v + 0xFF * 256 ^ j else v) 0

/-- The halves that an access touches, lower first. -/
def halves (m : Nat) : List Nat := (List.range 2).filter (fun k => halfEn m k != 0)

/-! ### Where an access arrives (R326, R331, R339, R524, R525) -/

/-- What half of an access reaches. -/
inductive Hit where
  | reg (r : Reg) (hi : Bool)
  | msix (v w : Nat)
  | pba (fn w : Nat)
  /-- A device address outside register space, through port 12 (R326). -/
  | device (addr : Nat)
  | undefined (port : Nat)
  | refused
  deriving DecidableEq, Repr

/-- Vectors of a function's MSI-X table (R226, R524). -/
def vectors (fn : Nat) : Nat := if fn = 0 then 128 else 8

/-- The MSI-X structures at an offset of the HIF block (R230, R524). -/
def msixAt (fn o : Nat) : Option Hit :=
  if 0x18000 ≤ o ∧ o < 0x18000 + 16 * vectors fn then some (.msix (fn * 128 + (o - 0x18000) / 16) ((o - 0x18000) % 16 / 4))
  else if 0x19000 ≤ o ∧ o < 0x19000 + (vectors fn + 63) / 64 * 8 then some (.pba fn ((o - 0x19000) / 4))
  else none

/-- The register or hole at an offset of register space. -/
def plainHit (o : Nat) : Hit :=
  match msixAt 0 o with
  | some h => h
  | none => match regAt o with
    | some (r, hi) => .reg r hi
    | none => .undefined (portOf o)

/-- The master may use port 8 (R326, R399). -/
def State.dbgPort (s : State) (a : Acc) : Bool :=
  match a.master with
  | .goose => true
  | .dbg => s.bus.dbgOpen
  | .hif | .soundGw => s.bus.dbgOpen && a.fn == 0
  | .icpHub => false

/-- Registers that are reached only through the PF (R289, R323, R346, R374, R398, R436, R456, R479, R480), LDG_TAG also through a VF. -/
def pfOnly : Reg → Bool
  | .accErr | .accErrCount | .accErrInfo | .accErrAddr | .gooseStatus | .nonce | .bootReg | .bootTime | .paceCap | .volt | .pgvStatus
  | .pgvCount | .pmbusLast | .pwrState _ | .wakeArmed | .aon | .resetCause | .resetCount | .thmAlert | .thmStatus | .thmCount
  | .errSummary | .scrubHbm | .scrubSp | .scrubStatus | .scrubCount0 | .scrubCount1 | .scrubPos _ | .scrubPasses | .isletFail
  | .poisonLog _ | .poisonHead | .ldgStatus | .ldgCount | .breachInfo | .snap _ | .ldgRelease | .recovery _ | .ldgTag _ | .ldgEvt _
  | .timeFine | .strState _ | .strSerial _ | .strCtrl _ | .lostLimit _ | .strStatus _ | .strCount _ _ | .syncLast _ | .strCredit _ _
  | .strRtt _ | .hbmStack _ | .eccStatus | .eccCount | .eccLast | .fillStatus | .waymask _ => true
  | _ => false

/-- Registers of these in which the Goose writes a field (R9): those it reaches as well (DEDUCED, log entry 84). -/
def gooseField : Reg → Bool
  | .gooseStatus | .nonce | .bootReg | .bootTime | .paceCap | .volt | .pmbusLast | .wakeArmed | .aon | .scrubHbm | .scrubSp | .isletFail
  | .strState _ => true
  | _ => false

/-- Registers of the bus matrix, which only the PF and DBG reach (R345). -/
def xbReg : Reg → Bool
  | .tport _ | .hifQos _ | .holdStatus | .holdAddr | .holdInfo | .loss _ => true
  | _ => false

/-- The master may reach a register of an unsealed port (R13, R326): some are for the PF alone. -/
def masterMay (a : Acc) (r : Reg) : Bool :=
  fromHost a || (if xbReg r then a.master == .dbg else if pfOnly r then a.master == .goose && gooseField r else true)

/-- First offset beyond register space (R262). -/
def regSpace : Nat := 0x4000000

/-- An offset as every requester but a VF reaches it: sealed ports answer few (R326, R331). Outside register space port 12 answers the
masters inside the die. -/
def State.pfHit (s : State) (a : Acc) (write : Bool) (o : Nat) : Hit :=
  let port := portOf o
  if regSpace ≤ o then (if fromHost a then .undefined 15 else .device (o - regSpace))
  else if !sealedPort port then
    (match plainHit o with
      | .reg r hi => if masterMay a r then .reg r hi else .refused
      | h => h)
  else
    let hole : Hit := match plainHit o with
      | .undefined n => if a.master == .goose || a.master == .dbg then .undefined n else .refused
      | h => h
    if a.master == .goose then hole
    else if port == 8 then (if s.dbgPort a then hole else .refused)
    else if port == 7 && a.master == .dbg && !write && s.bus.dbgOpen then hole
    else .refused

/-- The offset of register space that a VF offset mirrors (R524). -/
def vfMirror (v : Nat) : Option Nat :=
  if v < 0x20000 then some v
  else if v < 0x30000 then some (v - 0x20000 + 0x50000)
  else if v < 0x40000 then some (v - 0x30000 + 0x60000)
  else if v < 0x60000 then some (v - 0x40000 + 0x80000)
  else if v < 0x80000 then some (v - 0x60000 + 0xA0000)
  else if v < 0x90000 then some (v - 0x80000 + 0x600000)
  else if v < 0xD0000 then some (0x100000 + (v - 0x90000) / 0x4000 * 0x10000 + (v - 0x90000) % 0x4000)
  else none

/-- The VF offset that mirrors an offset of register space; one that maps nothing where there is none. -/
def vfOffset (o : Nat) : Nat :=
  if o < 0x20000 then o
  else if 0x50000 ≤ o ∧ o < 0x60000 then o - 0x50000 + 0x20000
  else if 0x60000 ≤ o ∧ o < 0x70000 then o - 0x60000 + 0x30000
  else if 0x80000 ≤ o ∧ o < 0xA0000 then o - 0x80000 + 0x40000
  else if 0xA0000 ≤ o ∧ o < 0xC0000 then o - 0xA0000 + 0x60000
  else if 0x600000 ≤ o ∧ o < 0x610000 then o - 0x600000 + 0x80000
  else if 0x100000 ≤ o ∧ o < 0x200000 ∧ o % 0x10000 < 0x4000 then 0x90000 + (o - 0x100000) / 0x10000 * 0x4000 + o % 0x10000
  else 0xFFFF8

/-- The partition to which a register belongs, if it is a resource of one. -/
def State.regPart (s : State) (r : Reg) : Option Nat :=
  match r with
  | .qBase q | .qDb q | .qCfg q | .qCtrl q | .qGen q | .qStatus q | .qCons q | .qProd q | .qHalt q | .qHaltSeq q | .qResume q
  | .numCtrl q | .numFlags q | .numCnt q _ | .trapSeq q | .trapOp q | .trapOffset q | .trapIndex q => s.queueOwner q
  | .cqBase c | .cqCfg c | .cqHead c | .cqTail c | .cqStatus c => if ringFn c = 0 then none else some (ringFn c - 1)
  | .gpioCfg k | .gpioEcnt k => if (s.pin k).owner.toNat < 0x10 then none else s.isletOwner ((s.pin k).owner.toNat - 0x10)
  | .loss m => if 1 ≤ m ∧ m ≤ 16 then some (m - 1) else none
  | .ldgTag n | .stallLimit n | .spStatus n | .spCount n _ | .stallSq n _ | .fullCount n | .tagWord n _ | .freeMap n _
  | .sealedWord n _ | .qabort n | .tdCtrl n _ | .tdScale n _ | .tdId n _ | .tdLcols n _ | .tdRowOrg n _ | .tdColOrg n _ | .tdBase n _
  | .tdStride n _ => s.isletOwner n
  | .ldgEvt e => if e < 16 then some e else none
  | .perf p _ | .partStatus p | .reportSeq p | .clearTime p | .packageId p | .packageDst p | .packageInfo p | .cue p _
  | .winCtrl p _ | .winBase p _ | .winSize p _ | .winLimit p _ | .winCount p _ | .winCommitted p _ | .waymask p => some p
  | .freeze k => if s.owner (k / 4) < 16 then some (s.owner (k / 4)) else none
  | _ => none

/-- How the VF map holds a register (R524): for every partition, for the one that owns it, or not at all. -/
inductive VfSlot where
  | all
  | owner
  | hidden
  deriving DecidableEq, Repr

/-- The VF map. -/
def vfSlot (r : Reg) : VfSlot :=
  match r with
  | .idRevision | .idLot0 | .idLot1 | .idSerial | .idSecver | .idOpkey | .idPlace | .idPortMap | .kick | .gpioIn | .gpioOut | .gpioRise
  | .gpioFall | .gpioPending | .timeUs | .telemetry | .granule _ => .all
  | .qBase _ | .qDb _ | .qCfg _ | .qCtrl _ | .qGen _ | .qStatus _ | .qCons _ | .qProd _ | .qHalt _ | .qHaltSeq _ | .qResume _
  | .cqBase _ | .cqCfg _ | .cqHead _ | .cqTail _ | .cqStatus _ | .gpioCfg _ | .gpioEcnt _ | .ldgTag _ | .numCtrl _ | .numFlags _
  | .numCnt _ _ | .trapSeq _ | .trapOp _ | .trapOffset _ | .trapIndex _ | .perf _ _ | .stallLimit _ | .spStatus _ | .spCount _ _
  | .stallSq _ _ | .fullCount _ | .tagWord _ _ | .freeMap _ _ | .sealedWord _ _ | .qabort _ | .tdCtrl _ _ | .tdScale _ _ | .tdId _ _
  | .tdLcols _ _ | .tdRowOrg _ _ | .tdColOrg _ _ | .tdBase _ _ | .tdStride _ _ | .partStatus _ | .reportSeq _ | .clearTime _
  | .packageId _ | .packageDst _ | .packageInfo _ | .freeze _ | .cue _ _ | .winCtrl _ _ | .winBase _ _ | .winSize _ _
  | .winLimit _ _ | .winCount _ _ | .winCommitted _ _ => .owner
  | .loss m => if 1 ≤ m ∧ m ≤ 16 then .owner else .hidden
  | _ => .hidden

/-- A VF offset as partition `p` reaches it (R525). -/
def State.vfHit (s : State) (p v : Nat) : Hit :=
  match vfMirror v with
  | none => .undefined 15
  | some o =>
    match msixAt (p + 1) o with
    | some h => h
    | none => match regAt o with
      | none => .undefined 15
      | some (r, hi) =>
        (match vfSlot r with
          | .all => .reg r hi
          | .hidden => .undefined 15
          | .owner => if s.regPart r = some p then .reg r hi else .refused)

/-- The access comes through an auxiliary port (R48): the port of every die but the machine lead, a lone card, or the slot-0
card of a pair (R45, R453). -/
def State.auxiliary (s : State) (a : Acc) : Bool := a.master == .hif && decide (s.die ≠ 0)

/-- What half `k` of an access reaches. Nothing takes a write of an auxiliary BAR (R48). -/
def State.hit (s : State) (a : Acc) (write : Bool) (k : Nat) : Hit :=
  let o := a.off / 8 * 8 + 4 * k
  if s.auxiliary a && write then .undefined (portOf o)
  else if fromHost a && a.fn != 0 then s.vfHit (a.fn - 1) o else s.pfHit a write o

/-! ### Debug access to memory (R401) -/

/-- The partition whose resource the address of DBG_MEM_ADDR names, if debug may reach it: in PART_MASK, neither
frozen nor sealed. -/
def State.dbgReach (s : State) : Option Nat :=
  let masked : Option Nat → Option Nat := fun o => match o with
    | some p => if p < 16 ∧ s.bus.dbgMask.getLsbD p then some p else none
    | none => none
  match placeOf s.bus.dbgAddr.toNat with
  | .hbm x | .alias_ x => if s.isFrozen x then none else masked (some (s.owner (granuleOf x)))
  | .scratch n o => if spSize ≤ o ∨ (s.islet n).sealed.getLsbD (squareOf o) then none else masked (s.isletOwner n)
  | .regs o =>
    (match regAt o with
      | some (r, _) => masked (s.regPart r)
      | none => none)
  | _ => none

/-- The access of a register that DBG_MEM makes. -/
def dbgAcc (a : Acc) (o : Nat) : Acc := { a with off := o, size := 4, en := 0xF }

/-- Busy beats (PERF_1, PERF_2) and lost arbitrations (PERF_8, XB_LOSS_m) are timing: a read first counts in a free number
of those that came since the last read (log entries 23, 36). A read of STR_CREDIT takes the free value of its RETURNED (log entry 33). -/
def State.counted (s : State) : Reg → State
  | .perf p k => if k = 1 ∨ k = 2 ∨ k = 8 then (s.perfAdd p k (s.freeValue 64).toNat).freeTaken else s
  | .loss m =>
    let b := s.bus
    ({ s with bus := { b with loss := Table.set 0 b.loss m (satAdd (Table.get 0 b.loss m) (s.freeValue 32).toNat) } } : State).freeTaken
  | .strCredit _ _ => s.freeTaken
  | _ => s

/-- Read 4 bytes at DBG_MEM_ADDR. Poisoned data, and memory that is not ON, give no stated value: a free value (DESIGN CHOICE, log entry
42). -/
def State.dbgLoad (s : State) : Word × State :=
  let unknown : State → Word × State := fun s => (s.freeValue 32, s.freeTaken)
  let got : ReadRes → Word × State := fun r => if r.bad.isNone then (BitVec.ofNat 32 (leNat r.bytes), r.s) else unknown r.s
  match placeOf s.bus.dbgAddr.toNat with
  | .hbm x | .alias_ x => if s.hbmReady x then got (s.readHbm .lagoon x 4) else unknown s
  | .scratch n o => if s.on n then got (s.readSp n o 4) else unknown s
  | .regs o =>
    (match regAt o with
      | some (r, hi) => (BitVec.ofNat 32 ((s.counted r).readReg 0 r / 2 ^ (if hi then 32 else 0)), s.counted r)
      | none => unknown s)
  | _ => unknown s

/-- The Goose may reach a device address outside register space: HBM and the host memory aperture (R262). No other master may. -/
def deviceMay (a : Acc) (x : Nat) : Bool :=
  a.master == .goose && (match placeOf x with
    | .hbm _ => true
    | .host _ => true
    | _ => false)

/-- Read 4 bytes at a device address (R262, R326). What a host read brings, and poisoned data, are free values (DESIGN CHOICE, log
entry 42). -/
def State.deviceRead (s : State) (x : Nat) : Nat × State :=
  match placeOf x with
  | .hbm y =>
    let r := s.readHbm .lagoon y 4
    if s.hbmReady y && r.bad.isNone then (leNat r.bytes, r.s) else ((s.freeValue 32).toNat, s.freeTaken)
  | .host y => ((s.freeValue 32).toNat, s.freeTaken.toHost 0x7F (.hostRead 0 y 4))
  | _ => (0, s)

/-- Write 4 bytes at a device address. -/
def State.deviceWrite (s : State) (x v : Nat) : State :=
  match placeOf x with
  | .hbm y => if s.hbmReady y then (s.writeHbm y (leBytes 4 v)).s else s
  | .host y => s.toHost 0x7F (.hostWrite 0 y (leBytes 4 v))
  | _ => s

/-- Write one half of a register, the other half as it is. -/
def State.writeHalf (s : State) (a : Acc) (r : Reg) (hi : Bool) (v : Nat) : State :=
  let old := s.readReg 0 r
  s.writeReg a r (if hi then old % 2 ^ 32 + v * 2 ^ 32 else old / 2 ^ 32 * 2 ^ 32 + v)

/-- Write 4 bytes at DBG_MEM_ADDR; memory that is not ON takes nothing (DESIGN CHOICE, log entry 42). -/
def State.dbgStore (s : State) (a : Acc) (v : Word) : State :=
  let bytes := leBytes 4 v.toNat
  match placeOf s.bus.dbgAddr.toNat with
  | .hbm x | .alias_ x => if s.hbmReady x then (s.writeHbm x bytes).s else s
  | .scratch n o => if s.on n then (s.writeSp n o bytes).s else s
  | .regs o =>
    (match regAt o with
      | some (r, hi) => s.writeHalf (dbgAcc a o) r hi v.toNat
      | none => s)
  | _ => s

/-! ### The sealed log (R402, R405) -/

/-- The entry that DBG_LOG_INDEX names; entry 0 is the newest. -/
def State.logEntry (s : State) : Option LogEntry := s.bus.sealedLog[s.bus.dbgIndex.toNat]?

/-- The entry may be read: it belongs to no partition, or to one of PART_MASK. -/
def State.logSeen (s : State) (l : LogEntry) : Bool := l.part == 0xFF || s.bus.dbgMask.getLsbD l.part.toNat

/-- Word `k` of an entry. -/
def LogEntry.word (l : LogEntry) : Nat → Nat
  | 0 => l.time % 2 ^ 32
  | 1 => l.time / 2 ^ 32
  | 2 => l.master.toNat + l.part.toNat * 2 ^ 8 + l.queue.toNat * 2 ^ 16 + l.reason.toNat * 2 ^ 24
  | 3 => l.seq.toNat
  | 4 => l.addr.toNat % 2 ^ 32
  | 5 => l.addr.toNat / 2 ^ 32
  | _ => 0

/-- DBG_LOG_ENTRY_k: all-ones for an entry of a partition outside PART_MASK; an entry that does not exist reads 0 (DEDUCED, log
entry 43). -/
def State.logWord (s : State) (k : Nat) : Nat :=
  match s.logEntry with
  | none => 0
  | some l => if s.logSeen l then l.word k else 0xFFFFFFFF

/-- Reading an entry of a partition observes it (R400). -/
def State.logObserved (s : State) : State :=
  match s.logEntry with
  | none => s
  | some l => if s.logSeen l && l.part != 0xFF then s.observe l.part.toNat else s

/-! ### One half of an access that has its rights -/

/-- The view of a register: of a function, or of the PF for the masters inside the die. -/
def viewFn (a : Acc) : Nat := if fromHost a then a.fn else 0

/-- Read a register: its whole value, with its side effects where the half is read whole (R334). -/
def State.readOut (s : State) (a : Acc) (r : Reg) (full : Bool) : Nat × State :=
  match r with
  | .dbgMemData =>
    if !full then (s.bus.dbgData.toNat, s)
    else
      let p := s.dbgReach
      let (v, s) := s.dbgLoad
      let s := { s with bus := { s.bus with dbgData := v } }
      (v.toNat, match p with
        | some p => s.observe p
        | none => s)
  | .dbgLogEntry k => (s.logWord k, if full then s.logObserved else s)
  | .perf _ _ | .loss _ | .strCredit _ _ => ((s.counted r).readReg (viewFn a) r, s.counted r)
  | _ => (s.readReg (viewFn a) r, s)

/-- Write a whole register value. -/
def State.writeOutReg (s : State) (a : Acc) (r : Reg) (v : Nat) : State :=
  match r with
  | .dbgMemData =>
    let p := s.dbgReach
    let s := ({ s with bus := { s.bus with dbgData := BitVec.ofNat 32 v } } : State).dbgStore a (BitVec.ofNat 32 v)
    (match p with
      | some p => s.observe p
      | none => s)
  | .dbgMemAddr => { s with bus := { s.bus with dbgAddr := BitVec.ofNat 48 (v / 4 * 4) } }
  | .dbgLogIndex => { s with bus := { s.bus with dbgIndex := BitVec.ofNat 12 v } }
  | _ => s.writeReg a r v

/-- A word of the MSI-X table: address, data, vector control (PCI Express 5.0, PRESUMED, log entry 39). -/
def State.msixRead (s : State) (v w : Nat) : Nat :=
  if w = 3 then b2n (!Table.get false s.msixOpen v) else (Table.get 0 s.msixWord (4 * v + w)).toNat

/-- Send the message of a pending vector that nothing masks any more (R226). -/
def State.sendPending (s : State) (v : Nat) : State :=
  let c := s.config (v / 128)
  if Table.get false s.msixPend v && Table.get false s.msixOpen v && c.msixOn && !c.msixMask then
    ({ s with msixPend := Table.set false s.msixPend v false } : State).emit (.msix (v / 128) (v % 128))
  else s

/-- A write of one: unmasking a pending vector sends its message. -/
def State.msixWrite (s : State) (v w : Nat) (x : Word) : State :=
  if w < 3 then { s with msixWord := Table.set 0 s.msixWord (4 * v + w) (if w = 0 then x &&& 0xFFFFFFFC else x) }
  else ({ s with msixOpen := Table.set false s.msixOpen v (!x.getLsbD 0) } : State).sendPending v

/-- A word of the Pending Bit Array. -/
def State.pbaRead (s : State) (fn w : Nat) : Nat :=
  (List.range 32).foldl (fun m j => m + flagAt j (decide (32 * w + j < vectors fn) && Table.get false s.msixPend (fn * 128 + 32 * w + j))) 0

/-! ### Holds (R331 to R333) -/

/-- Number of a port in XB registers whose DECODE is HOLD. -/
def State.holds (s : State) (a : Acc) (port : Nat) : Bool :=
  s.bus.hold.getLsbD port && (a.master == .hif || a.master == .icpHub || a.master == .soundGw)

/-- The partition inside whose resources an offset lies (R332): its Islets' blocks, its queues and rings, its records,
its PART, CUE and window blocks. -/
def State.offPart (s : State) (o : Nat) : Option Nat :=
  if 0x100000 ≤ o ∧ o < 0x200000 then s.isletOwner ((o - 0x100000) / 0x10000)
  else if 0x10000 ≤ o ∧ o < 0x12000 then s.queueOwner ((o - 0x10000) / 0x40)
  else if 0x12000 ≤ o ∧ o < 0x12800 then some ((o - 0x12000) / 0x80)
  else if 0x13000 ≤ o ∧ o < 0x13200 then some ((o - 0x13000) / 0x20)
  else if 0x1C000 ≤ o ∧ o < 0x1C400 then s.queueOwner ((o - 0x1C000) / 0x10)
  else if 0x90000 ≤ o ∧ o < 0x90C00 then s.queueOwner ((o - 0x90000) / 0x40)
  else if 0xA1000 ≤ o ∧ o < 0xA1800 then some ((o - 0xA1000) / 0x80)
  else if 0x600000 ≤ o ∧ o < 0x600400 then some ((o - 0x600000) / 0x40)
  else if 0x600800 ≤ o ∧ o < 0x600A00 then some ((o - 0x600800) / 0x20)
  else if 0x60C000 ≤ o ∧ o < 0x610000 then some ((o - 0x60C000) / 0x400)
  else none

/-- Hold an access: capture the first since the last release, freeze the master's path, observe the partition. A VF's offset is captured
as the offset of register space that it mirrors; one that mirrors none, as it is (DEDUCED, log entry 84). -/
def State.holdAccess (s : State) (a : Acc) (write : Bool) (o port left : Nat) (data : BitVec 64) : State :=
  let b := s.bus
  let first := !b.captured
  let b := if first then
      { b with captured := true, holdAddr := BitVec.ofNat 26 (if fromHost a && a.fn != 0 then (vfMirror o).getD o else o), holdMaster := BitVec.ofNat 3 (masterNum a.master), holdWrite := write,
               holdFn := if fromHost a then BitVec.ofNat 5 a.fn else 0, holdPort := BitVec.ofNat 4 port }
    else b
  let b := { b with held := setBit b.held (masterNum a.master) true }
  let b := if a.master == .hif then b
    else { b with heldAccs := Table.set none b.heldAccs (masterNum a.master) (some { acc := a, left := left, write := write, data := data }) }
  let s := { s with bus := b }
  -- a HIF write is posted: it is discarded; its read is answered after 19 µs
  let s := if a.master == .hif && write then s.logAccess causeHeld a true else s
  if !first then s
  else match (if fromHost a && a.fn != 0 then some (a.fn - 1) else s.offPart o) with
    | some p => s.observe p
    | none => s

/-! ### The walk through an access -/

/-- An undefined offset answered as RESPOND does (R331). -/
def State.respondHole (s : State) (a : Acc) (write : Bool) : State :=
  let s := s.logAccess causeUndefined a write
  if a.master == .goose || a.master == .icpHub then s.emit (.decodeError a.master) else s

/-- How far an access has come: the data read so far, or that it is held. -/
inductive Walk where
  | done (s : State) (data : Nat)
  | held (s : State)
  deriving DecidableEq, Repr

/-- Read half after half; `force` answers the first undefined offset as RESPOND. -/
def State.readHalves (a : Acc) : List Nat → Bool → Nat → Nat → State → Walk
  | [], _, _, data, s => .done s data
  | k :: rest, force, left, data, s =>
    let n := halfEn left k
    let put : Nat → Nat := fun v => data + (v % 2 ^ 32 &&& halfMask n) * 2 ^ (32 * k)
    let gone := left - n * 16 ^ k
    match s.hit a false k with
    | .reg r hi =>
      let (v, t) := s.readOut a r (n == 15)
      State.readHalves a rest force gone (put (v / 2 ^ (if hi then 32 else 0))) t
    | .msix v w =>
      if n = 15 then State.readHalves a rest force gone (put (s.msixRead v w)) s
      else State.readHalves a rest force gone (put (s.freeValue 32).toNat) s.freeTaken
    | .pba fn w =>
      if n = 15 then State.readHalves a rest force gone (put (s.pbaRead fn w)) s
      else State.readHalves a rest force gone (put (s.freeValue 32).toNat) s.freeTaken
    | .device x => State.readHalves a rest force gone (put (s.deviceRead x).1) (s.deviceRead x).2
    | .undefined port =>
      if s.holds a port && !force then .held (s.holdAccess a false (a.off / 8 * 8 + 4 * k) port left (BitVec.ofNat 64 data))
      else State.readHalves a rest false gone data (s.respondHole a false)
    | .refused => .done s data

/-- Write half after half. -/
def State.writeHalves (a : Acc) (data : BitVec 64) : List Nat → Bool → Nat → State → Walk
  | [], _, _, s => .done s 0
  | k :: rest, force, left, s =>
    let n := halfEn left k
    let v := data.toNat / 2 ^ (32 * k) % 2 ^ 32
    let gone := left - n * 16 ^ k
    match s.hit a true k with
    | .reg r hi =>
      let old := s.readReg 0 r
      let wide := (s.hit a true 1 == .reg r true && s.hit a true 0 == .reg r false)
      State.writeHalves a data rest force gone
        (s.writeOutReg a r (if !wide then v else if hi then old % 2 ^ 32 + v * 2 ^ 32 else old / 2 ^ 32 * 2 ^ 32 + v))
    | .msix v w =>
      let x := data.toNat / 2 ^ (32 * k) % 2 ^ 32
      if n = 15 then State.writeHalves a data rest force gone (s.msixWrite v w (BitVec.ofNat 32 x))
      else State.writeHalves a data rest force gone (s.freeTaken.msixWrite v w (s.freeValue 32))
    | .pba _ _ => State.writeHalves a data rest force gone s
    | .device x => State.writeHalves a data rest force gone (s.deviceWrite x v)
    | .undefined port =>
      if s.holds a port && !force then .held (s.holdAccess a true (a.off / 8 * 8 + 4 * k) port left data)
      else State.writeHalves a data rest false gone (s.respondHole a true)
    | .refused => .done s 0

/-- The two halves are one 64-bit register, accessed whole (R334). -/
def State.atomic (s : State) (a : Acc) (write : Bool) : Option Reg :=
  match s.hit a write 0, s.hit a write 1 with
  | .reg r false, .reg r' true => if r = r' ∧ enables a = 0xFF then some r else none
  | _, _ => none

/-! ### Rights (R336, R337, R381, R395, R401) -/

/-- An access that a VF may make while its partition is not ACTIVE: a read of the ID block or of PART_STATUS (R381). -/
def idleRead (p : Nat) (write : Bool) (a : Acc) : Bool :=
  !write && (halves (enables a)).all (fun k =>
    let v := a.off / 8 * 8 + 4 * k
    decide (v < 0x10000) || (decide (0x80000 + 0x40 * p ≤ v) && decide (v < 0x80000 + 0x40 * p + 12)))

/-- The reason for which an access is refused (R383), if any of its halves may not be touched. -/
def State.accessReason (s : State) (a : Acc) (write : Bool) : Option Nat :=
  let hs := halves (enables a)
  let mem := hs.any (fun k => s.hit a write k == .reg .dbgMemData false && halfEn (enables a) k == 15)
  let far := hs.any (fun k => match s.hit a write k with
    | .device x => !deviceMay a x
    | _ => false)
  if fromHost a && a.fn != 0 then
    let p := a.fn - 1
    if (s.part p).state != .active && !idleRead p write a then some 0x04
    else if s.ideWaits (some p) then some 0x0D
    else if hs.any (fun k => s.hit a write k == .refused) then some 0x04
    else none
  else if a.master == .dbg && !(s.bus.dbgOpen && s.bus.dbgJtag) then some 0x0C
  else if far then some (if a.master == .dbg then 0x0C else 0x01)
  else if hs.any (fun k => s.hit a write k == .refused) then
    some (if hs.any (fun k => portOf (a.off / 8 * 8 + 4 * k) == 8) then 0x0C else 0x04)
  else if mem && s.dbgReach.isNone then some 0x0C
  else none

/-! ### Answers -/

/-- An all-ones answer. -/
def onesData : Nat := 2 ^ 64 - 1

/-- Answer a read: to a forwarding lead over its link, to any other master at once. -/
def State.answer (s : State) (a : Acc) (data : Nat) : State :=
  if a.master == .soundGw then s.forward 0 .answer [a.fn, data]
  else s.emit (.readAnswer a.fn (BitVec.ofNat 64 data))

/-- The data of an access as its requester gets it: 8 bytes, or the aligned 4 bytes. -/
def readData (a : Acc) (data : Nat) : Nat := if a.size = 8 then data else data / 2 ^ (32 * (a.off % 8 / 4)) % 2 ^ 32

/-- A refused access (R337, R384): the sealed log, the tally of the host's function, all-ones for a read 16 µs after it was accepted. -/
def State.refuseAccess (s : State) (a : Acc) (write : Bool) (reason : Nat) : State :=
  let o := if fromHost a && a.fn != 0 then some (a.fn - 1) else none
  let s := if fromHost a then s.refuse (masterNum a.master) o 0xFF reason 0 a.off
    else s.sealedEntry { time := s.us, master := BitVec.ofNat 8 (masterNum a.master), part := 0xFF, queue := 0xFF,
                         reason := BitVec.ofNat 8 reason, seq := 0, addr := BitVec.ofNat 64 a.off }
  if write then s else if a.master == .soundGw then s.answer a onesData else s.emit (.refusedAnswer a.fn (s.time + 1600))

/-- The master's path is frozen (R331). -/
def State.frozenPath (s : State) (a : Acc) : Bool := s.bus.held.getLsbD (masterNum a.master)

/-- The access concerns the MSI-X structures, which follow PCI Express instead of R334. -/
def touchesMsix (a : Acc) : Bool :=
  let o := if fromHost a && a.fn != 0 then (vfMirror a.off).getD 0 else a.off
  (msixAt (viewFn a) (o / 4 * 4)).isSome

/-- The reason for which an access of the MSI-X structures of a shape outside R334's is refused (R336, R381, R395). -/
def State.msixReason (s : State) (a : Acc) : Option Nat :=
  if fromHost a && a.fn != 0 then
    let p := a.fn - 1
    if (s.part p).state != .active then some 0x04
    else if s.ideWaits (some p) then some 0x0D
    else if (List.range (a.size / 4 + 2)).any (fun j => decide (4 * j < a.off % 4 + a.size) && s.vfHit p (a.off / 4 * 4 + 4 * j) == .refused) then
      some 0x04
    else none
  else none

/-- A read goes on from where its shape and rights have let it. -/
def State.readOn (s : State) (a : Acc) (force : Bool) (left data : Nat) : State :=
  match State.readHalves a (halves left) force left data s with
  | .done s v => s.answer a (readData a v)
  | .held s => s

/-- The host interface does not take memory requests: not configured yet, or the PF sleeps (R430, R445), or a request to an
auxiliary port is none of its one function's 4 KiB BAR0 (R48; PRESUMED, log entry 66). -/
def State.noRequests (s : State) (a : Acc) : Bool :=
  a.master == .hif && (!s.mgt.cfgReady || (s.domain 33).st != .on || (s.power.d3hot && a.fn == 0) || (s.config a.fn).d3hot
    || (s.auxiliary a && (a.fn != 0 || a.bar == 2 || decide (0x1000 ≤ a.off))))

/-- A register read (R334 to R337). -/
def State.busRead (s : State) (a : Acc) : State :=
  if s.noRequests a then s.emit (.unsupported a.fn)
  else match shapeFault a with
    | some c =>
      if touchesMsix a then
        (if s.frozenPath a then s
         else match s.msixReason a with
           | some r => s.refuseAccess a false r
           | none => s.freeTaken.answer a (s.freeValue 64).toNat)
      else (s.logAccess c a false).answer a onesData
    | none =>
      if s.frozenPath a then s
      else match s.accessReason a false with
        | some r => s.refuseAccess a false r
        | none => match s.atomic a false with
          | some r => (s.readOut a r true).2.answer a (s.readOut a r true).1
          | none => s.readOn a false (enables a) 0

/-- A write that has its shape and rights. -/
def State.writeOn (s : State) (a : Acc) (force : Bool) (left : Nat) (data : BitVec 64) : State :=
  match State.writeHalves a data (halves left) force left s with
  | .done s _ => s
  | .held s => s

/-- A write of the MSI-X structures of a shape for which PCI Express states no result: every word it touches takes a
free value (PRESUMED, log entry 39). -/
def State.msixOdd (s : State) (a : Acc) : State :=
  (List.range (a.size / 4 + 2)).foldl (fun s j =>
    let o := a.off / 4 * 4 + 4 * j
    if a.off + a.size ≤ o then s
    else match (if fromHost a && a.fn != 0 then s.vfHit (a.fn - 1) o else plainHit o) with
      | .msix v w => s.freeTaken.msixWrite v w (s.freeValue 32)
      | _ => s) s

/-- A register write (R334 to R337). `data` are the bytes of the access, from its first. -/
def State.busWrite (s : State) (a : Acc) (data : BitVec 64) : State :=
  let laid := data <<< (8 * (a.off % 8))
  if s.noRequests a then s.emit (.unsupported a.fn)
  else
    let odd := (shapeFault a).isSome || narrowWrite (enables a)
    if odd && !touchesMsix a then s.logAccess ((shapeFault a).getD causeNarrow) a true
    else if s.frozenPath a then (if a.master == .hif then s.logAccess causeHeld a true else s)
    else if (shapeFault a).isSome then
      (match s.msixReason a with
        | some r => s.refuseAccess a true r
        | none => s.msixOdd a)
    else if s.auxiliary a then s.logAccess causeState a true
    else match s.accessReason a true with
      | some r => s.refuseAccess a true r
      | none => match s.atomic a true with
        | some r => s.writeOutReg a r laid.toNat
        | none => s.writeOn a false (enables a) laid

/-! ### Releasing held masters (R333) -/

/-- Release one held master: its access completes as RESPOND would have done (R333). -/
def State.releaseMaster (s : State) (m : Nat) : State :=
  if !s.bus.held.getLsbD m then s
  else
    let h := Table.get none s.bus.heldAccs m
    let s := { s with bus := { s.bus with held := setBit s.bus.held m false, captured := false,
                                          heldAccs := Table.set none s.bus.heldAccs m none } }
    match h with
    | none => s
    | some h => if h.write then s.writeOn h.acc true h.left h.data else s.readOn h.acc true h.left h.data.toNat

/-- Release the masters of a mask; ICPs that were frozen fetch again (R331). -/
def State.releaseMasters (s : State) (m : Nat) : State :=
  let t := (List.range 5).foldl (fun s k => if bit m k then s.releaseMaster k else s) s
  if s.bus.held.getLsbD 3 && !t.bus.held.getLsbD 3 then (List.range 48).foldl State.fetchMore t else t

/-- The bits of a write of DBG_RELEASE by DBG or through the PF (R333), once it has its shape and rights. -/
def State.releaseBits (s : State) (a : Acc) (data : BitVec 64) : Nat :=
  let k := if a.off % 8 = 0 then 0 else 1
  let named := a.off / 8 * 8 + 4 * k == 0x500020 && halfEn (enables a) k == 15 && a.master != .goose
  if named && !(s.noRequests a || (shapeFault a).isSome || narrowWrite (enables a) || s.frozenPath a || (s.accessReason a true).isSome)
  then data.toNat % 32 else 0

/-- A register write, DBG_RELEASE among the registers. -/
def State.writeAccess (s : State) (a : Acc) (data : BitVec 64) : State := (s.busWrite a data).releaseMasters (s.releaseBits a data)

/-! ### BAR2 (R229) -/

/-- An access of BAR2: to this die's own view, forwarded to another die of the machine, or outside machine mode. -/
def State.bar2 (s : State) (a : Acc) (write : Bool) (data : BitVec 64) : State :=
  let size := if a.fn = 0 then 2 ^ 26 else 2 ^ 20
  let d := a.off / size
  if s.noRequests a then s.emit (.unsupported a.fn)
  else if s.frozenPath a then (if write then s.logAccess causeHeld a true else s)
  else if !s.mgt.machineMode || !s.mgt.machineLead || !s.mgt.machineMask.getLsbD d then
    (if write then s.logAccess causeState a true else (s.logAccess causeState a false).answer a onesData)
  else if d = s.die then (if write then s.writeAccess a data else s.busRead a)
  else s.forward d .access [a.fn, b2n write, a.off % size, data.toNat, a.size, a.en]

/-! ### Register accesses -/

/-- REGISTER_READ (R334). -/
def execRegisterRead (a : Acc) (s : State) : Outcome :=
  .next (if a.master == .hif && a.bar == 2 then s.bar2 a false 0 else s.busRead a)

/-- REGISTER_WRITE (R9). -/
def execRegisterWrite (a : Acc) (data : BitVec 64) (s : State) : Outcome :=
  .next (if a.master == .hif && a.bar == 2 then s.bar2 a true data else s.writeAccess a data)

/-- The aligned 32-bit access of a master, for function `fn`, to an offset of register space. -/
def accOf (m : Master) (fn o : Nat) : Acc := { accAt fn (if fn = 0 then o else vfOffset o) with master := m }

/-- Write a 32-bit register at an offset of register space. -/
def State.put (s : State) (m : Master) (fn o v : Nat) : Outcome := .next (s.writeAccess (accOf m fn o) (BitVec.ofNat 64 v))

/-- HIF_KICK (R211, R212). -/
def execHifKick (fn q : Nat) (s : State) : Outcome := s.put .hif fn 0x14000 q

/-- Offset of HIF_QCTRL_q. -/
def qctrlOff (q : Nat) : Nat := 0x10014 + 0x40 * q

/-- QUEUE_ENABLE (R210). -/
def execQueueEnable (fn q : Nat) (park : Bool) (s : State) : Outcome := s.put .hif fn (qctrlOff q) (1 + 2 * b2n park)

/-- QUEUE_DISABLE (R210). -/
def execQueueDisable (fn q : Nat) (s : State) : Outcome := s.put .hif fn (qctrlOff q) (2 * b2n (s.queue q).park)

/-- QUEUE_PARK (R210). -/
def execQueuePark (fn q : Nat) (s : State) : Outcome := s.put .hif fn (qctrlOff q) (b2n (s.queue q).enable + 2)

/-- QUEUE_UNPARK (R210). -/
def execQueueUnpark (fn q : Nat) (s : State) : Outcome := s.put .hif fn (qctrlOff q) (b2n (s.queue q).enable)

/-- RESUME (R197). -/
def execResume (fn q : Nat) (s : State) : Outcome := s.put .hif fn (0x1C008 + 0x10 * q) 1

/-- DISCARD (R197). -/
def execDiscard (fn q : Nat) (s : State) : Outcome := s.put .hif fn (0x1C008 + 0x10 * q) 2

/-- Offset of the block of completion ring `c`, or of event ring `c`. -/
def ringOff (event : Bool) (c : Nat) : Nat := (if event then 0x13000 else 0x12000) + 0x20 * c

/-- CQ_ENABLE (R230). -/
def execCqEnable (fn : Nat) (event : Bool) (c : Nat) (cfg : Word) (s : State) : Outcome :=
  s.put .hif fn (ringOff event c + 8) (cfg ||| 0x80000000).toNat

/-- CQ_DISABLE (R230). -/
def execCqDisable (fn : Nat) (event : Bool) (c : Nat) (cfg : Word) (s : State) : Outcome :=
  s.put .hif fn (ringOff event c + 8) (cfg &&& 0x7FFFFFFF).toNat

/-- CQ_HEAD_WRITE (R222). -/
def execCqHeadWrite (fn c : Nat) (head : Word) (s : State) : Outcome := s.put .hif fn (ringOff false c + 12) head.toNat

/-- EQ_HEAD_WRITE (R222, R224). -/
def execEqHeadWrite (fn e : Nat) (head : Word) (s : State) : Outcome := s.put .hif fn (ringOff true e + 12) head.toNat

/-- ISL_QABORT (R477). -/
def execIslQabort (fn n : Nat) (bits : BitVec 3) (s : State) : Outcome := s.put .hif fn (0x100300 + 0x10000 * n) bits.toNat

/-- LDG_RELEASE, SNAPSHOT (R471). -/
def execLdgReleaseSnapshot (fn : Nat) (s : State) : Outcome := s.put .hif fn 0x80020 1

/-- LDG_RELEASE, PORT (R471). -/
def execLdgReleasePort (fn : Nat) (ports : BitVec 10) (s : State) : Outcome := s.put .hif fn 0x80020 (ports.toNat * 2 ^ 16)

/-- KEY_RETRY (R305): WAKE_SEND keeps its value. -/
def execKeyRetry (fn p : Nat) (s : State) : Outcome := s.put .hif fn (0x200010 + 0x10000 * p) (2 + b2n (s.port p).wakeSend)

/-- TRAY_FAN_DUTY_n (R51, R55). -/
def execTrayFanDutyWrite (fn k : Nat) (duty : BitVec 8) (s : State) : Outcome := s.put .hif fn (0x50800 + 4 * k) duty.toNat

/-- GPIO_OUT (R486). -/
def execGpioOutWrite (m : Master) (fn : Nat) (v : BitVec 24) (s : State) : Outcome := s.put m fn 0x50004 v.toNat

/-- GPIO_SET (R486). -/
def execGpioSetWrite (m : Master) (fn : Nat) (v : BitVec 24) (s : State) : Outcome := s.put m fn 0x50008 v.toNat

/-- GPIO_CLR (R486). -/
def execGpioClrWrite (m : Master) (fn : Nat) (v : BitVec 24) (s : State) : Outcome := s.put m fn 0x5000C v.toNat

/-- GPIO_TGL (R486). -/
def execGpioTglWrite (m : Master) (fn : Nat) (v : BitVec 24) (s : State) : Outcome := s.put m fn 0x50010 v.toNat

/-- GPIO_CFG_k (R488, R496). -/
def execGpioCfgWrite (m : Master) (fn k : Nat) (v : Word) (s : State) : Outcome := s.put m fn (0x50100 + 4 * k) v.toNat

/-! ### Debug (R333, R400 to R402) -/

/-- DBG_RELEASE (R333). A HIF path that is held blocks the PF. -/
def execDbgRelease (m : Master) (fn : Nat) (masters : BitVec 5) (s : State) : Outcome := s.put m fn 0x500020 masters.toNat

/-- DBG_MEM_ACCESS (R401): a read or write of DBG_MEM_DATA. -/
def execDbgMemAccess (m : Master) (fn : Nat) (write : Bool) (data : Word) (s : State) : Outcome :=
  let a := accOf m fn 0x500048
  .next (if write then s.writeAccess a (BitVec.ofNat 64 data.toNat) else s.busRead a)

/-- DBG_LOG_READ (R402): a read of DBG_LOG_ENTRY_k. -/
def execDbgLogRead (m : Master) (fn k : Nat) (s : State) : Outcome := .next (s.busRead (accOf m fn (0x500110 + 4 * k)))

/-- A JTAG instruction that moves pins is in force only where it may take effect (R519). -/
def State.jtagMay (s : State) : Bool := s.mgt.stage != .ready || (s.bus.dbgOpen && s.bus.dbgJtag)

/-- DEBUG_CLOSE (R333, R402): DECODE returns to RESPOND and held masters are released; observed flags stay. -/
def execDebugClose (s : State) : Outcome :=
  mgmt 64 0x92 s (fun r => s.mgmtDesc 64 [reservedBad r.entry 24 64]
    (let s := { s with bus := { s.bus with dbgOpen := false, dbgJtag := false, dbgMask := 0, hold := 0 } }
     let s := s.releaseMasters 0x1F
     let pinned := s.bus.jtag == .extest || s.bus.jtag == .highz || s.bus.jtag == .clamp
     let s := if pinned && !s.jtagMay then { s with bus := { s.bus with jtag := .bypass } } else s
     s.mgmtDone 64 0))

/-! ### Host link (R229, R332, R445) -/

/-- HELD_REQUEST_TIMEOUT (R332): a read of a held HIF is answered all-ones after 19 µs. -/
def execHeldRequestTimeout (a : Acc) (s : State) : Outcome :=
  if a.master == .hif && s.frozenPath a then .next ((s.logAccess causeHeld a false).answer a onesData) else stutter s

/-- BAR2_FORWARD (R229): an aligned 32-bit access of BAR2 on the machine lead; its own view answers at home. -/
def execBar2Forward (fn : Nat) (write : Bool) (off : Nat) (data : Word) (s : State) : Outcome :=
  .next (s.bar2 { accAt fn off with bar := 2 } write (BitVec.ofNat 64 data.toNat))

/-- A forwarded ring entry joins its queue (R227), if it is the one that the queue expects next: none is lost or run twice. -/
def State.forwardedEntry (s : State) (q : Nat) (index : Word) (bytes : List Byte) : State :=
  let k := s.queue q
  let e := slice bytes 0 64
  let closing := match s.queueOwner q with
    | some p => (s.part p).state == .clearing
    | none => false
  if !k.enable || closing || index != k.fetched then s
  else
    let k1 := { k with fetched := k.fetched + 1 }
    if k.discarding then (State.discardEntry q (s.setQueue q k1) e).tellLead q
    else if k.halted || decide (8 ≤ k.entries.length) then s
    else ((s.setQueue q { k1 with entries := k.entries ++ [e] }).headArrive q).tellLead q

/-- The machine lead takes over what it has been told of queue `q` of die `d` (R227): an enabled one is polled at once, a halted one is
fetched again from where it stopped. -/
def State.takeQueue (s : State) (d q : Nat) (i : QueueInfo) : State :=
  let key := remoteQueue d q
  let old := s.queue key
  let fresh := !old.enable
  let stops := fresh || i.halted
  let st := if i.park then QState.parked else if fresh || old.park || i.kick then .active else old.st
  if !i.enable then s.setQueue key {}
  else
    (s.setQueue key { old with base := i.base, db := i.db, sizeLog2 := i.sizeLog2, fn := i.fn, gen := i.gen, enable := true, park := i.park,
                               st := st, halted := i.halted, discarding := i.discarding, discardTo := i.discardTo, cons := i.cons,
                               taken := i.fetched, room := i.room, fetched := if stops then i.fetched else old.fetched,
                               fetchOut := if stops then 0 else old.fetchOut, prod := if fresh then i.fetched else old.prod,
                               unchanged := if fresh || i.kick then 0 else old.unchanged, interval := if fresh then 1 else old.interval,
                               pollDue := old.pollDue || fresh || i.kick || (old.park && !i.park) }).fetchMore key

/-- The machine lead passes a write of another die on to its PCIe transaction layer, and tells that die (R228, R250). -/
def State.passOn (s : State) (d fn addr : Nat) (bytes : List Byte) : State := (s.emit (.hostWrite fn addr bytes)).forward d .passed [1]

/-- What arrived cannot be served yet: an access, while the path of forwarded accesses is held (R331), or something for the host, while
the function issues no requests (R430). -/
def State.fwdWaits (s : State) : FwdMsg → Bool
  | .write _ _ _ _ => s.bus.held.getLsbD 4
  | .read _ _ _ => s.bus.held.getLsbD 4
  | .hostWrite fn _ _ => s.fnHeld fn
  | .hostRead fn _ _ => s.fnHeld fn
  | .message fn _ => s.fnHeld fn
  | _ => false

/-- What a FWD flit from die `d` does (R46, R227 to R229, R250, R311, R379, R469). -/
def State.forwarded (s : State) (d : Nat) (m : FwdMsg) : State :=
  let gate : Nat → Nat → Nat → Acc := fun fn off size => { accAt fn off with master := .soundGw, bar := 2, size := size, en := 2 ^ size - 1 }
  let lead := s.mgt.machineMode && s.mgt.machineLead
  match m with
  | .entry q index bytes => s.forwardedEntry q index bytes
  | .polled q prod gen idle =>
    if idle then (if (s.queue q).enable && (s.queue q).st == .active then s.setQueue q { s.queue q with st := .idle } else s)
    else s.polled q prod gen
  | .pollFailed q => s.pollFailed q
  | .data q i addr bytes => s.hostBytes q i addr bytes
  | .readFailed q i addr kind => s.commandFailed q i addr kind
  | .queueIs q k => if lead then s.takeQueue d q k else s
  | .hostWrite fn addr bytes => if lead then s.passOn d fn addr bytes else s
  | .hostRead fn addr len => if lead then s.emit (.hostRead fn addr len) else s
  | .message fn v => if lead then s.message fn v else s
  | .passed n => ({ s with hostFifo := s.hostFifo.drop n } : State).reevaluate
  | .write fn off data size => s.writeAccess (gate fn off size) (BitVec.ofNat 64 data)
  | .read fn off size => s.busRead (gate fn off size)
  | .answer fn data => s.emit (.readAnswer fn data)
  | .halt q => s.ledgerHalt q
  | .ended e => if s.mgt.machineMode then s.machineEnd e (portToward s.mgt.product.toNat s.die e 0) else s
  | .join mask dies => if s.die ≠ 0 ∧ mask.getLsbD s.die then s.joined mask dies else s
  | .part q code => if s.mgt.machineMode then s.partIs d q code else s
  | .act op q ide => s.actHere op q ide

/-- FWD_RECEIVE (R227 to R229). -/
def execFwdReceive (p : Nat) (raw : List Byte) (m : FwdMsg) (s : State) : Outcome :=
  if (s.admitted p raw).any (fun f => decide (f.dst.toNat = s.die) && s.fwdWaits m) then stutter s else s.linkReceive p typFwd raw (fun f s => s.forwarded f.src.toNat m)

/-- What a configuration request writes takes effect (R226, R430): messages that nothing masks any more are sent, and what waited for
Bus Master Enable is posted. The D state of the PF has rows of its own. -/
def State.configure (s : State) (fn : Nat) (c : ConfigAct) : State :=
  let x := s.config fn
  let set : Pcie → State := fun x => { s with pcie := Table.set {} s.pcie fn x }
  match c with
  | .other => s
  | .command b => (set { x with busMaster := b }).releaseHeld
  | .msix on mask => (List.range (vectors fn)).foldl (fun s v => s.sendPending (128 * fn + v)) (set { x with msixOn := on, msixMask := mask })
  | .power d => if fn = 0 then s else (set { x with d3hot := d }).releaseHeld
  | .pme b => set { x with pmeOn := b }

/-- PCIE_CONFIG_REQUEST (R445): CRS until HIF_CFG_READY, then the normal answer. An auxiliary port has one function (R48). -/
def execPcieConfigRequest (fn : Nat) (c : ConfigAct) (s : State) : Outcome :=
  .next (if decide (s.die ≠ 0) && fn != 0 then s.emit (.unsupported fn)
    else if s.mgt.cfgReady then (s.configure fn c).emit (.configAnswer fn false) else s.emit (.configAnswer fn true))

/-- EARLY_MEMORY_REQUEST (R445): Unsupported Request before HIF_CFG_READY. -/
def execEarlyMemoryRequest (fn : Nat) (s : State) : Outcome := if s.mgt.cfgReady then stutter s else .next (s.emit (.unsupported fn))

end Sys2Proof.Machine
end

