-- ==== Sys2Proof/Machine/Boot.lean ====
section
/-!
DEFINITION. Resets and the first second (16), the thermal trip (15), entropy (13), the end of a fill run (10) and the
JTAG instruction (19).
-/

namespace Sys2Proof.Machine

/-! ### The end of a fill run (R277, R284, R425, R440) -/

/-- The key pair that a key's code names: 1 idle, 2 firmware region, 16 + p the at-rest key of partition p (R275). -/
def KeyStore.pair (k : KeyStore) (code : Nat) : List Byte :=
  if code = 1 then k.idle else if code = 2 then k.region else Table.get [] k.atRest (code - 16)

/-- Granule `g` becomes zero plaintext with clear poison under its next key (R275, R284); code 0 is that of its owner. -/
def State.fillGranule (s : State) (key g : Nat) : State :=
  let s := s.writeRaw (g * 2 ^ 28) (2 ^ 28) []
  { s with keys := Table.set [] s.keys g (s.store.pair (if key = 0 then keyOf (s.owner g) else key)) }

/-- A domain raised for a run returns to RET, or serves the next run that needs it (R425). -/
def State.lowerRaised (s : State) (d : Nat) : State :=
  match s.up.fill.findIdx? (fun r => (fillDomains r.granules).contains d) with
  | some i => { s with up := { s.up with fill := s.up.fill.modify i (fun r => { r with raised := d :: r.raised }) } }
  | none => s.enterState d .ret

/-- Step 10 ends: both stacks that were trained enter RET, and the boot is done (R440, R452). -/
def State.bootEnds (s : State) : State :=
  let s := [20, 21].foldl (fun (s : State) d => if s.domSt d == .on then s.enterState d .ret else s) s
  { s with mgt := { s.mgt with bootDone := true, doneT := BitVec.ofNat 16 (Nat.min 0xFFFF ((s.time - s.boot.origin) / 1000)) } }

/-- A run that a tenant switch queued while the TRNG was not ready draws its key now (R371). -/
def State.keyForFill (s : State) (r : FillRun) : State :=
  if 16 ≤ r.key ∧ (s.store.pair r.key).isEmpty then s.newAtRest (r.key - 16) else s

/-- FILL_RUN_DONE (R284): the run at the front of the fill engine's list is complete, and what waited for it goes on. -/
def execFillRunDone (s : State) : Outcome :=
  match s.up.fill with
  | [] => stutter s
  | r :: rest =>
    if !s.mayFill r then stutter s
    else
      let s := s.keyForFill r
      let s := r.granules.foldl (fun s g => s.fillGranule r.key g) s
      let s := { s with up := { s.up with fill := rest } }
      let s := r.raised.foldl State.lowerRaised s
      .next (match r.purpose with
        | 1 => s.endCreate r.part ((s.mgmtBusy 64 0x80).elim r.start Run.start)
        | 2 => s.switchFilled r.part
        | 4 => s.bootEnds
        | _ => s).reevaluate

/-! ### What a reset leaves (R453, R454) -/

/-- Everything a reset of the die clears, at its Reset value; what is outside the die, the fuses and the model's own
fields stay. -/
def State.wiped (s : State) : State :=
  { State.reset with pending := s.pending, out := s.out, freeCtr := s.freeCtr, fuses := s.fuses, flash := s.flash, romKey := s.romKey
                     bus := { State.reset.bus with jtag := s.bus.jtag },
                     boot := { State.reset.boot with perstHigh := s.boot.perstHigh } }

/-- The trip and brown-out bits that a reset other than POR_N low keeps (R454). -/
def Power.kept (w : Power) : Power :=
  { ({} : Power) with brownout := w.brownout, brownCount := w.brownCount, inLp := w.inLp, trip := w.trip, tripCount := w.tripCount }

/-- A warm reset (R454): identity, straps, the slot, TRNG readiness, the time base, the trip bits and ERR_ISLET_FAIL (R474) stay; the Goose looks again whether
XTAL32K_IN toggles (R494). -/
def State.warmed (s : State) (xtal : Bool) : State :=
  let m := s.mgt
  let t := s.wiped
  { t with time := s.time, secDone := s.secDone, power := s.power.kept
           mgt := { t.mgt with slotRunning := m.slotRunning, trngReady := m.trngReady, fusedSv := m.fusedSv, prevTrip := m.prevTrip,
                               slot := m.slot, tray := m.tray, devReports := m.devReports, islFail := m.islFail },
           boot := { t.boot with trngRun := s.boot.trngRun, cold := false, origin := s.time, xtal := xtal } }

/-! ### RECOVERY (R355, R441) -/

/-- The Goose enters RECOVERY: HIF_CFG_READY is set at once. -/
def State.enterRecovery (s : State) (cause : BitVec 2) : State :=
  { s with mgt := { s.mgt with stage := .recovery, cfgReady := true, runningSv := 0x7F, recoveryCause := cause } }

/-! ### Steps 3 to 5 (R440, R35, R36, R351, R446) -/

/-- The board record as the Goose takes it (R36). -/
def boardOf (flash : Memory) : Board :=
  let b := Memory.bytes flash 0xF000 64
  if slice b 0 4 == [0x4F, 0x42, 0x52, 0x44] && decide (leAt b 4 1 ≤ 3) && zeroAt b 8 56 then
    { product := BitVec.ofNat 2 (leAt b 4 1), fans := leAt b 5 1, limitW := leAt b 6 2 }
  else {}

/-- Ports that a product wires (R38 to R40): 0 and 1 of a card, 0 to 6 of a tray, all of a rack. -/
def wiredPorts (product : Nat) : BitVec 10 :=
  if product < 2 then 0x003 else if product = 2 then 0x07F else 0x3FF

/-- THM_POWER_LIMIT after boot (R54, R55): the board record's limit on a card, 420 on a tray or rack. A limit that the
register may not hold leaves it open (DESIGN CHOICE, log entry 3). -/
def State.bootLimit (s : State) (b : Board) : State :=
  let w := s.power
  if 2 ≤ b.product.toNat then { s with power := { w with limitW := 420 } }
  else if 150 ≤ b.limitW ∧ b.limitW ≤ 400 then { s with power := { w with limitW := BitVec.ofNat 9 b.limitW } }
  else { s.freeTaken with power := { w with limitW := s.freeValue 9 } }

/-- Steps 3 to 5 of R440, taken as one (DESIGN CHOICE, log entry 45): RESET_KIND, the boot control record and the board record are
read, the ROM has the firmware encryption key (R349), both stacks start training, and the wired ports rise. `failed` says that the running firmware stopped
verifying before this reset (R356): the cause of that RECOVERY is not stated. -/
def State.romStart (s : State) (kind : ResetKind) (failed : Bool) : State :=
  let b := boardOf s.flash
  let r := bootRecord s.flash
  let s := { s with mgt := { s.mgt with stage := .fwLoad, resetKind := kind, activeSlot := r.1, staged := r.2,
                                        product := b.product, portWired := wiredPorts b.product.toNat },
                    boot := { s.boot with board := b, porHigh := true } }
  let s := s.bootLimit b
  let s := { s with store := { s.store with firmware := s.derive textFwe 32 } }
  let s := ([20, 21] ++ ((List.range 10).filter (fun p => s.mgt.portWired.getLsbD p)).map (· + 22)).foldl
    (fun s d => s.beginMove d .on true 0) s
  if failed then s.freeTaken.enterRecovery (s.freeValue 2) else s

/-- A cold reset's steps 1 to 5: fuses and straps are sensed (R35, R347). -/
def State.coldStart (s : State) (kind : ResetKind) (slot tray : BitVec 3) (xtal failed : Bool) : State :=
  let s := { s with mgt := { s.mgt with slot := slot, tray := tray, fusedSv := BitVec.ofNat 7 (thermometer s.fuses.secVersion) },
                    boot := { s.boot with xtal := xtal } }
  s.romStart kind failed

/-- The running firmware's slot stopped verifying, and this reset carries it into RECOVERY (R356). -/
def State.fwStopped (s : State) : Bool := s.up.fwFailed

/-! ### The resets (R438, R453) -/

/-- POR_N_LOW (R453, R454): the die is held in cold reset. A pulse shorter than 1 ms is outside what R438 promises. -/
def execPorNLow (lowUs : Nat) (s : State) : Outcome :=
  if lowUs < 1000 then .fault .resetTooShort
  else
    let t := s.wiped
    .next { t with mgt := { t.mgt with prevTrip := s.power.trip }, up := { t.up with fwFailed := s.fwStopped } }

/-- POWER_ON_RESET (R440): POR_N rises, the time base starts at 0. -/
def execPowerOnReset (slot tray : BitVec 3) (xtal : Bool) (s : State) : Outcome :=
  if s.boot.porHigh then stutter s
  else
    let failed := s.fwStopped
    let s := { s with time := 0, up := { s.up with fwFailed := false } }
    .next (s.coldStart .cold slot tray xtal failed)

/-- The die has power, is out of cold reset and has not tripped. -/
def State.alive (s : State) : Bool := s.boot.porHigh && !s.power.tripped

/-- WARM_RESET (R453): WARM_RST_N low for at least 10 µs. -/
def execWarmReset (lowUs : Nat) (xtal : Bool) (s : State) : Outcome :=
  if !s.alive then stutter s
  else if lowUs < 10 then .fault .resetTooShort
  else .next ((s.warmed xtal).romStart .warmPin s.fwStopped)

/-- PERST_RESET (R453): on die 0 of a machine, or a lone card, PERST_N falling resets the die; on another die its
auxiliary port alone. -/
def execPerstReset (xtal : Bool) (s : State) : Outcome :=
  if !s.boot.perstHigh then stutter s
  else
    let s := { s with boot := { s.boot with perstHigh := false } }
    if s.alive && decide (s.die = 0) then .next ((s.warmed xtal).romStart .perst s.fwStopped)
    else .next { s with pcie := [], power := { s.power with d3hot := false } }

/-- PERST_N_RISE (R438, R445): the link trains; before POR_N rises it counts as a rise at that moment. -/
def execPerstNRise (s : State) : Outcome := .next { s with boot := { s.boot with perstHigh := true } }

/-- BROWNOUT (R434): BROWNOUT is latched and counted, IN_LP records the regulator's mode, and the die is reset as by a
cold reset: fuses are sensed and the straps sampled again (R454). A tripped die stays stopped (R433). -/
def execBrownout (slot tray : BitVec 3) (xtal : Bool) (s : State) : Outcome :=
  if !s.boot.porHigh then stutter s
  else
    let w := s.power
    let w := { w with brownout := true, brownCount := satInc w.brownCount, inLp := w.lp }
    if w.tripped then .next { s with power := w }
    else
      let m := s.mgt
      let t := s.wiped
      let t := { t with mgt := { t.mgt with prevTrip := m.prevTrip }, power := w.kept }
      .next (t.coldStart .brownout slot tray xtal s.fwStopped)

/-- THERMAL_TRIP (R433): THERMTRIP_N low, TRIP latched, every domain but AON OFF without saving; the die stays
stopped until POR_N is low. -/
def execThermalTrip (sensorC : Int) (s : State) : Outcome :=
  if sensorC < 115 ∨ !s.alive then stutter s
  else
    let w := s.power
    let t := s.wiped
    .next { t with time := s.time, secDone := s.secDone, domains := [], flash := s.flash
                   mgt := { t.mgt with prevTrip := s.mgt.prevTrip, slot := s.mgt.slot, tray := s.mgt.tray },
                   boot := { t.boot with porHigh := true },
                   up := { t.up with fwFailed := s.fwStopped },
                   gpio := s.mainIoLost.gpio
                   power := { w.kept with trip := true, tripCount := satInc w.tripCount, tripped := true, tripPin := true } }

/-! ### Entropy (R370, R371, R450) -/

/-- Conditioned samples after which the TRNG is ready. -/
def trngNeed : Nat := 1024

/-- Ports that waited in KEYING for fresh values begin (R304, R450). -/
def State.startKeying (s : State) : State :=
  (List.range 10).foldl (fun (s : State) p =>
    let t := s.port p
    if s.mayKey && t.st == .keying && t.keying.step == .idle && !t.hasKey then s.enterKeying p else s) s

/-- A signed command that waited for the TRNG starts its refusal time now (R358). -/
def State.signedAgain (s : State) : State :=
  match s.runAt 64 0 with
  | none => s
  | some r =>
    let o := eOpcode r.entry
    if r.phase == .started && (o == 0x91 || o == 0x93 || o == 0x96) then s.setRun 64 0 { r with start := s.time } else s

/-- TRNG_SAMPLE (R370): a conditioned sample is formed; the 1,024th without a failed test makes the TRNG ready, and
MGT_NONCE, if it is still 0, takes fresh bits. -/
def execTrngSample (s : State) : Outcome :=
  if !s.alive then stutter s
  else
    let n := Nat.min trngNeed (s.boot.trngRun + 1)
    let s := { s with boot := { s.boot with trngRun := n } }
    if s.mgt.trngReady || decide (n < trngNeed) then .next s
    else
      let s := if s.mgt.nonce == 0 then s.newNonce else s
      let s : State := { s with mgt := { s.mgt with trngReady := true } }
      .next s.signedAgain.startKeying

/-- TRNG_TEST_FAIL (R371): readiness is cleared, the failure counted, and the start-up condition repeated. -/
def execTrngTestFail (s : State) : Outcome :=
  if !s.alive then stutter s
  else
    let m := s.mgt
    .next { s with mgt := { m with trngReady := false, trngFail := true, trngFailCount := satInc m.trngFailCount },
                   boot := { s.boot with trngRun := 0 } }

/-! ### Steps 7 to 9 (R354, R440 to R442) -/

/-- The code of VOUT_MODE in PMBus 1.3. -/
def pmVoutMode : Nat := 0x20

/-- PMBus set-up (R412): VOUT_MODE is read, whose value is the board's, and OPERATION is written. -/
def State.pmbusSetUp (s : State) : State :=
  let v : BitVec 8 := s.freeValue 8
  let s := (s.freeTaken.emit (.pmbus pmVoutMode v.toNat)).emit (.pmbus pmOperation 0x80)
  { s with power := { s.power with linear16 := decide (v.toNat / 32 = 0), exponent := (BitVec.ofNat 5 v.toNat).toInt } }

/-- FIRMWARE_VERIFIED (R354, R441): the slot to boot first is ACTIVE after a cold reset and SLOT_RUNNING after a warm
one; the other is checked where that one is not valid. The firmware that runs derives its keys. -/
def execFirmwareVerified (s : State) : Outcome :=
  if !s.alive || s.mgt.stage != .fwLoad || s.boot.fwDone then stutter s
  else
    let slot := if s.boot.cold then s.mgt.activeSlot else s.mgt.slotRunning
    if !s.imageValid slot && !s.imageValid (!slot) then .next (s.enterRecovery 1)
    else
      let run := if s.imageValid slot then slot else !slot
      let s := { s with mgt := { s.mgt with slotRunning := run, runningSv := BitVec.ofNat 7 (s.imageSv run) },
                        boot := { s.boot with fwDone := true } }
      .next s.deriveKeys.pmbusSetUp

/-- HBM_TRAINING_DONE (R442): a stack is trained, or has failed one of its three attempts. -/
def execHbmTrainingDone (stack : Nat) (ok : Bool) (s : State) : Outcome :=
  if !s.alive || decide (1 < stack) || s.boot.stackDone.getLsbD stack || s.mgt.stage == .rom then stutter s
  else
    let b := s.boot
    let n := (if stack = 0 then b.attempts0 else b.attempts1) + b2n (!ok)
    let b := if stack = 0 then { b with attempts0 := n } else { b with attempts1 := n }
    if !ok && decide (n < 3) then .next { s with boot := b }
    else
      let s := s.setDomain (20 + stack) { s.domain (20 + stack) with st := if ok then .on else .off, target := none, told := false }
      .next { s with boot := { b with stackDone := setBit b.stackDone stack true },
                     mgt := { s.mgt with hbmFail := setBit s.mgt.hbmFail stack (!ok) } }

/-- The Goose takes a pin of the tray and configures it (R482, R500). -/
def State.trayPin (s : State) (k v : Nat) : State :=
  let s := s.resetPin k
  (s.setPin k { s.pin k with owner := ownGoose }).configurePin k v

/-- The tray-management pins at step 9 (R449, R482, R500). -/
def State.trayPins (s : State) : State :=
  if s.mgt.product.toNat < 2 then s
  else
    let s := s.trayPin 18 0x02020513
    if !s.leadDie then s
    else
      let s := (List.range 4).foldl (fun (s : State) k => (s.trayPin (8 + k) (0x0202008A + k)).trayPin (12 + k) 0x02000880) s
      let s := (s.trayPin 16 0x02206080).trayPin 17 0x02206080
      let sel := (List.range 4).foldl (fun t k => Table.set 0 t (7 + k) (BitVec.ofNat 8 (0x8C + k))) s.gpio.isel
      let sel := Table.set 0 (Table.set 0 sel 15 (0x91 : BitVec 8)) 16 0x90
      let s := { s with gpio := { s.gpio with isel := sel,
                                              fanPulse := (List.range 4).foldl (fun t k => Table.set 0 t k s.time) s.gpio.fanPulse } }
      (List.range 4).foldl State.driveFan s

/-- An instruction that moves pins ends when STAGE reaches READY, unless a debug session enables JTAG (R519). -/
def State.jtagEnds (s : State) : State :=
  let pins := s.bus.jtag == .extest || s.bus.jtag == .highz || s.bus.jtag == .clamp
  if pins && !(s.bus.dbgOpen && s.bus.dbgJtag) then { s with bus := { s.bus with jtag := .bypass } } else s

/-- GOOSE_READY (R440 step 9, R354, R451): the idle key is generated, granule 191 is filled and holds the ICP firmware of the running
image, HIF_CFG_READY and STAGE READY are set, and the fill of the idle granules begins. MGT_NONCE takes fresh bits where no earlier
readiness since the reset gave it a value. -/
def execGooseReady (s : State) : Outcome :=
  if !s.alive || s.mgt.stage != .fwLoad || !s.boot.fwDone || !s.mgt.trngReady || s.boot.stackDone != 3 then stutter s
  else
    let fail := s.mgt.hbmFail
    let firmware := Config.icpFirmware ((s.imageBody s.mgt.slotRunning).getD [])
    let s := { s.freeTaken with store := { s.store with idle := s.random 64 } }
    let s := if fail.getLsbD 1 then s
      else
        let s := s.fillGranule 2 191
        s.writeRaw (191 * 2 ^ 28) (Nat.min (2 ^ 28) firmware.length) (firmware.take (2 ^ 28))
    let s := s.trayPins.jtagEnds
    let t := BitVec.ofNat 16 (Nat.min 0xFFFF ((s.time - s.boot.origin) / 1000))
    let s := if s.mgt.nonce == 0 then s.newNonce else s
    let s := { s with mgt := { s.mgt with stage := .ready, cfgReady := true, readyT := t } }
    let gs := (List.range 191).filter (fun g => !fail.getLsbD (g / 96))
    if gs.isEmpty then .next s.bootEnds
    else .next { s with up := { s.up with fill := s.up.fill ++
                  [{ granules := gs, purpose := 4, part := 0, key := 1, start := s.time }] } }

/-- 380 ms in units of 10 ns. -/
def bootBound : Nat := 38000000

/-- BOOT_DEADLINE (R441): STAGE has not reached READY 380 ms after POR_N rose, or after the release of a warm reset. -/
def execBootDeadline (s : State) : Outcome :=
  if !s.alive || !(s.mgt.stage == .rom || s.mgt.stage == .fwLoad) then stutter s
  else .next ((s.advanceTo (s.boot.origin + bootBound)).enterRecovery 2)

/-! ### JTAG (R519) -/

/-- The instruction that a code names. -/
def jtagOf (code : BitVec 8) : JtagInstr :=
  match code.toNat with
  | 0x00 => .extest
  | 0x01 => .sample
  | 0x02 => .highz
  | 0x03 => .clamp
  | 0x20 => .dbgAccess
  | _ => .bypass

/-- JTAG_INSTRUCTION (R519): EXTEST, HIGHZ and CLAMP take effect only in the early stages or with a debug session that
enables JTAG; otherwise they select the bypass register. -/
def execJtagInstruction (code : BitVec 8) (s : State) : Outcome :=
  let i := jtagOf code
  let pins := i == .extest || i == .highz || i == .clamp
  .next { s with bus := { s.bus with jtag := if pins && !s.jtagMay then .bypass else i } }

end Sys2Proof.Machine
end

