-- ==== Sys2Proof/Machine/Coherence.lean ====
section
/-!
DEFINITION. The coherence messages as events of their own (R256 to R261), non-caching accesses at a slice (R257), and
the upkeep of the HBM stacks that changes no data (R287). Engine commands carry their own transactions through at
once (Memory.lean), ending first any that is under way.
-/

namespace Sys2Proof.Machine

/-! ### Requests (R257, R259) -/

/-- Nothing that the line's transaction waits for is still to come. -/
def LagLine.answered (g : LagLine) : Bool := g.waitInv == 0 && g.recalling.isNone

/-- The directory begins a transaction: it recalls an owner and, for ownership, invalidates the other sharers. -/
def State.beginTxn (s : State) (line agent : Nat) (own : Bool) : State :=
  let g := s.lag line
  s.setLag line { g with txn := some (agent, own),
                         recalling := match g.owner with
                           | some o => if o = agent then none else some (o, own)
                           | none => none,
                         waitInv := if own then setBit g.sharers agent false else 0 }

/-- Grant the line while nothing is awaited, and go on with the waiter list. -/
def State.advanceGo (line : Nat) : Nat → State → State
  | 0, s => s
  | fuel + 1, s =>
    let g := s.lag line
    match g.txn with
    | none => s
    | some (a, own) =>
      if !g.answered then s
      else
        let s := (s.setLag line { g with txn := none }).grantLine line a own
        match (s.lag line).waiters with
        | [] => s
        | (b, own') :: rest => State.advanceGo line fuel ((s.setLag line { s.lag line with waiters := rest }).beginTxn line b own')

/-- The line's transactions go on as far as they can. -/
def State.advanceLine (s : State) (line : Nat) : State := State.advanceGo line 18 s

/-- A request reaches the arbiter of its line: served, or put into the waiter list, which an agent enters once. -/
def State.request (s : State) (agent line : Nat) (own : Bool) : State :=
  let g := s.lag line
  match g.txn with
  | none => (s.beginTxn line agent own).advanceLine line
  | some (a, _) =>
    if a = agent ∨ g.waiters.any (fun w => w.1 == agent) then s
    else s.setLag line { g with waiters := g.waiters ++ [(agent, own)] }

/-- A line that caching agents can request: its slice and stack are ON, and it is not frozen (R272, R274). -/
def State.cacheable (s : State) (agent line : Nat) : Bool :=
  decide (agent < 17) && decide (line * 128 < hbmEnd) && s.hbmReady (line * 128) && !s.isFrozen (line * 128)

/-- READ_SHARED: a read miss. -/
def execReadShared (agent line : Nat) (s : State) : Outcome :=
  whenB (s.cacheable agent line && (s.cached agent line).st == .invalid) s (fun s => s.request agent line false)

/-- An agent has a write of this line to make: bytes in its store buffer; the Goose's writes are its firmware's. -/
def State.writes (s : State) (agent line : Nat) : Bool := decide (agent = gooseAgent) || !(s.storedIn agent line).isEmpty

/-- READ_OWN: a write miss. For a line that a VE cache owns already, the row stands for the write hit that needs no message (R256):
its store buffer drains the line (R236; DESIGN CHOICE, log entry 81). -/
def execReadOwn (agent line : Nat) (s : State) : Outcome :=
  let st := (s.cached agent line).st
  whenB (s.cacheable agent line && s.writes agent line && st != .shared) s (fun s =>
    if st == .invalid then s.request agent line true
    else s.grantLine line agent true)

/-- UPGRADE: a write hit on a Shared line. -/
def execUpgrade (agent line : Nat) (s : State) : Outcome :=
  whenB (s.cacheable agent line && s.writes agent line && (s.cached agent line).st == .shared) s (fun s => s.request agent line true)

/-! ### Evictions and answers (R257 to R260) -/

/-- A recall to this agent is outstanding. -/
def LagLine.recalls (g : LagLine) (agent : Nat) : Bool :=
  match g.recalling with
  | some (a, _) => a == agent
  | none => false

/-- The recall of a line is answered. -/
def State.recallDone (s : State) (line : Nat) : State := (s.setLag line { s.lag line with recalling := none }).advanceLine line

/-- WRITEBACK: a Modified line leaves its cache; one that meets a recall of it answers that recall (R260). -/
def execWriteback (agent line : Nat) (s : State) : Outcome :=
  whenB (s.cacheable agent line && (s.cached agent line).st == .modified) s (fun s =>
    let met := (s.lag line).recalls agent
    let s := s.dropLine agent line
    if met then s.recallDone line else s)

/-- EVICT_CLEAN: an Exclusive or Shared line leaves its cache. -/
def execEvictClean (agent line : Nat) (s : State) : Outcome :=
  whenB (s.cacheable agent line && ((s.cached agent line).st == .exclusive || (s.cached agent line).st == .shared)) s
    (fun s => s.dropLine agent line)

/-- INVALIDATE: the agent accepts the invalidation it was sent and acknowledges it (R258). -/
def execInvalidate (agent line : Nat) (s : State) : Outcome :=
  whenB (decide (agent < 17) && (s.lag line).waitInv.getLsbD agent) s (fun s =>
    let s := s.acceptInv agent line
    let g := s.lag line
    (s.setLag line { g with waitInv := setBit g.waitInv agent false, sharers := setBit g.sharers agent false }).advanceLine line)

/-- RECALL_SHARE: the owner writes back if Modified and goes to Shared. -/
def execRecallShare (agent line : Nat) (s : State) : Outcome :=
  whenB ((s.lag line).recalling == some (agent, false) && (s.cached agent line).st != .invalid) s
    (fun s => (s.recallShared line).recallDone line)

/-- RECALL_OWN: the owner writes back if Modified and goes to Invalid. -/
def execRecallOwn (agent line : Nat) (s : State) : Outcome :=
  whenB ((s.lag line).recalling == some (agent, true) && (s.cached agent line).st != .invalid) s
    (fun s => (s.recallOwned line).recallDone line)

/-- RECALL_ACK: the agent has already given the line up (R260). -/
def execRecallAck (agent line : Nat) (s : State) : Outcome :=
  whenB ((s.lag line).recalls agent && (s.cached agent line).st == .invalid) s (fun s => s.recallDone line)

/-- INVALIDATION_APPLY (R244): the pending invalidation of a line is applied. -/
def execInvalidationApply (agent line : Nat) (s : State) : Outcome :=
  whenB ((s.invs agent).contains line) s (fun s => s.applyInv agent line)

/-! ### Non-caching accesses (R257, R272, R274) -/

/-- Every line of a range has its slice and stack ON; a granule whose key no longer exists is never read (R350), and a block of the
firmware region waits for its rebuild (R356). -/
def State.rangeReady (s : State) (a n : Nat) : Bool :=
  decide (a + n ≤ hbmEnd) && !(s.granuleKey (granuleOf a)).isEmpty && !(s.granuleKey (granuleOf (a + n - 1))).isEmpty
    && !s.up.fwBlocks.any (fun b => decide (b * 32 < a + n) && decide (a < b * 32 + 32)) && (List.range ((a + n + 127) / 128 - a / 128)).all (fun k => s.hbmReady ((a / 128 + k) * 128))

/-- NON_CACHING_ACCESS: a read or a write, whose rights its maker has already shown, is served at the slices. A frozen
frame takes no such write (R148). -/
def execNonCachingAccess (addr len : Nat) (write : Option (List Byte)) (s : State) : Outcome :=
  match write with
  | none => whenB (s.rangeReady addr len) s (fun s => (s.readHbm .lagoon addr len).s)
  | some bytes =>
    let n := bytes.length
    whenB (s.rangeReady addr n && !(List.range ((addr + n + 127) / 128 - addr / 128)).any (fun k => s.isFrozen ((addr / 128 + k) * 128)))
      s (fun s => (s.writeHbm addr bytes).s)

/-! ### Refresh and calibration (R287) -/

/-- HBM_REFRESH: a pseudo-channel is refreshed at the rate in force, which HBM_STACK_n shows. No data change. -/
def execHbmRefresh (stack pc : Nat) (mult : BitVec 2) (s : State) : Outcome :=
  whenB (s.on (20 + stack) && decide (stack < 2) && decide (pc < 32) && mult != 3) s
    (fun s => { s with up := { s.up with refresh := Table.set 0 s.up.refresh stack mult } })

/-- Ticks between calibrations of a stack: 32 ms; the stacks are 16 ms apart. -/
def calPeriod : Nat := 3200000

/-- HBM_PHY_CALIBRATION: the time base reaches the stack's next pause. No data change. -/
def execHbmPhyCalibration (stack : Nat) (s : State) : Outcome :=
  whenB (s.on (20 + stack) && decide (stack < 2) && s.timeRuns) s (fun s =>
    let off := stack * (calPeriod / 2)
    let n := (s.time + calPeriod - 1 - off) / calPeriod
    let last := Table.get 0 s.up.lastCal stack
    let t := if n * calPeriod + off ≤ last then (n + 1) * calPeriod + off else n * calPeriod + off
    { s.advanceTo t with up := { s.up with lastCal := Table.set 0 s.up.lastCal stack t } })

end Sys2Proof.Machine
end

