-- ==== Sys2Proof/Machine/Matrix.lean ====
section
/-!
DEFINITION. The Matrix engine: MX_MATMUL (R71 to R79, R124 to R126, R156).
-/

namespace Sys2Proof.Machine

/-- One level of the canonical tree (R156). -/
def treeLevel {α : Type} (comb : α → α → α × FpFlags) : List α → List α × FpFlags
  | a :: b :: t =>
    let (c, f) := comb a b
    let (r, g) := treeLevel comb t
    (c :: r, f ||| g)
  | l => (l, fNone)

/-- The canonical tree (R156), given fuel for its levels. -/
def treeGo {α : Type} (comb : α → α → α × FpFlags) : Nat → List α → FpFlags → List α × FpFlags
  | 0, l, f => (l, f)
  | fuel + 1, l, f =>
    if l.length ≤ 1 then (l, f)
    else
      let (r, g) := treeLevel comb l
      treeGo comb fuel r (f ||| g)

/-- The canonical tree over a list (R156: levels until one value is left); `d` for an empty one. -/
def tree {α : Type} (comb : α → α → α × FpFlags) (d : α) (l : List α) : α × FpFlags :=
  let (r, f) := treeGo comb l.length l fNone
  (r.headD d, f)

/-- The exact sum of two values as a value. -/
def exactSum (a b : Val) : Flagged :=
  match exAdd .rne a b with
  | (.nan, f) => (.nan false, f)
  | (.inf n, f) => (.inf n, f)
  | (.mag x, f) => (.fin x.neg x.m x.e, f)

/-- An FP32 value's code. -/
def code32 (v : Val) : Nat :=
  match v with
  | .nan _ => nanOf fmtFP32
  | .inf n => (if n then 0x80000000 else 0) + 0x7F800000
  | .fin n m e => (roundFloat (floatFmt fmtFP32) .rne false ⟨n, m, e, false⟩).1

/-- Apply the combined scale to a scalar accumulator for an FP32 output (R79). -/
def scaleScalar (acc s : Val) : Coded := roundExact fmtFP32 .rne (exMul acc s)

/-- Apply the combined scale to a pair for an FP32 output: (hi + lo) × s rounded once (R79). -/
def scalePairTo32 (x : Pair32) (s : Val) : Coded :=
  let (v, f) := exactSum x.hi x.lo
  let (c, g) := roundExact fmtFP32 .rne (exMul v s)
  (c, f ||| g)

/-- Apply the combined scale to a pair for a PAIR32 output (R79): lo' is lo × s plus the exact error hi × s − hi', as one
fused operation with its flags; with s = 1.0 the pair stays as it is. An exact error of nothing is +0, so a zero lo' is -0
only under s = 1.0, and lo' is +0 where hi' is not finite (DEDUCED, log entry 68). -/
def scalePair (x : Pair32) (s : Val) : Coded :=
  let (h2, f) := fpMul fmtFP32 .rne x.hi s
  if !h2.isFin then (pairCode (code32 h2) 0, f)
  else
    let d := (exactSum (exactProduct x.hi s).1 h2.negate).1
    let (l2, g) := if s.eqv Val.one then rne32 x.lo else roundVal fmtFP32 .rne (exFma .rne x.lo s d)
    (pairCode (code32 h2) (code32 l2), f ||| g)

/-- The combined scale s = rne32(sA × sB) (R79). -/
def combinedScale (a b : Word) : Flagged :=
  fpMul fmtFP32 .rne (decodeVal fmtFP32 true a.toNat) (decodeVal fmtFP32 true b.toNat)

/-- One output element of MX_MATMUL from its block products (TREE): code and flags (R74 to R79). -/
def mxTreeElem (aligned pair toPair : Bool) (s : Val) (blocks : List (List Val)) : Coded :=
  if pair then
    let bs := blocks.map (blockPair aligned)
    let (x, f) := tree pairAdd Pair32.zero (bs.map Prod.fst)
    let (c, g) := if toPair then scalePair x s else scalePairTo32 x s
    (c, bs.foldl (fun a b => a ||| b.2) (f ||| g))
  else
    let bs := blocks.map (blockScalar aligned)
    let (x, f) := tree (fpAdd fmtFP32 .rne) Val.zero (bs.map Prod.fst)
    let (c, g) := if toPair then scalePair ⟨x, .zero⟩ s else scaleScalar x s
    (c, bs.foldl (fun a b => a ||| b.2) (f ||| g))

/-- One block result written with OUT_KIND BLOCKS (R126). -/
def mxBlockElem (aligned pair toPair : Bool) (block : List Val) : Coded :=
  if pair then
    let (x, f) := blockPair aligned block
    if toPair then (pairCode (code32 x.hi) (code32 x.lo), f)
    else
      let (v, g) := exactSum x.hi x.lo
      let (c, h) := rne32 v
      (code32 c, f ||| g ||| h)
  else
    let (v, f) := blockScalar aligned block
    (if toPair then pairCode (code32 v) 0 else code32 v, f)

/-- The products of a row of A and a column of B, with the flags of forming them (R72, R77). -/
def products (a b : List Val) : List Val × FpFlags :=
  let ps := (a.zip b).map (fun x => exactProduct x.1 x.2)
  (ps.map Prod.fst, ps.foldl (fun f p => f ||| p.2) fNone)

/-- A produced NaN at an output element, if it is one (R82, R83). -/
def producedAt (c : Ref) (i j code : Nat) (nanIn : Bool) : Option (Nat × Nat) :=
  if isNanCode c.fmt code && !nanIn then some (c.indexOf i j, i * c.o.cols + j) else none

/-- The results of MX_MATMUL from the operands' values. -/
def mxCompute (e : List Byte) (c : Ref) (sa sb : Word) (a : List (List Val)) (b : List (List Val)) : Result :=
  let ctrl := leAt e 48 1
  let aligned := bit ctrl 0
  let pair := bit ctrl 1
  let blocks := bit ctrl 2
  let toPair := c.fmt == fmtPAIR32
  let k := (a.headD []).length
  let cols := transposeRows c.o.cols b Val.zero
  let va : Val := decodeVal fmtFP32 true sa.toNat
  let vb : Val := decodeVal fmtFP32 true sb.toNat
  let (s, fs) := if blocks then (Val.one, fNone) else combinedScale sa sb
  let scaleNan := !blocks && (va.isNan || vb.isNan)
  let cell : List Val → List Val → List (Nat × FpFlags × Bool) := fun ra cb =>
    let (ps, f) := products ra cb
    let cut := piecesOf 256 (k + 1) ps
    if blocks then
      let nans := (piecesOf 256 (k + 1) ((ra.zip cb).map (fun x => x.1.isNan || x.2.isNan)))
      (cut.zip nans).map (fun x =>
        let (v, g) := mxBlockElem aligned pair toPair x.1
        (v, f ||| g, x.2.any id))
    else
      let (v, g) := mxTreeElem aligned pair toPair s cut
      [(v, f ||| g, (ra.any Val.isNan || cb.any Val.isNan || scaleNan))]
  -- per row of A, per column: the list over blocks
  let grid := a.map (fun ra => cols.map (fun cb => cell ra cb))
  let nb := if blocks then (k + 255) / 256 else 1
  let out := (List.range nb).flatMap (fun t => grid.map (fun row => row.map (fun x => x.getD t (0, fNone, false))))
  let fl := out.foldl (fun f row => row.foldl (fun f x => f ||| x.2.1) f) fs
  let traps := out.zipIdx.foldl (fun acc row => row.1.zipIdx.foldl (fun acc x =>
    lowerTrap acc (producedAt c row.2 x.2 x.1.1 x.1.2.2)) acc) none
  ⟨out.map (fun row => row.map Prod.fst), fl, traps⟩

/-- MX_MATMUL (R126): read A and B whole, compute, write C. -/
def execMxMatmul (n : Nat) (s : State) : Outcome :=
  let q := 3 * n
  match s.engineRun q 0x10 with
  | none => .next (s.engineAhead q 0x10)
  | some r =>
    let p := (s.isletOwner n).getD 0
    let i := s.liveIdx q
    let a := refAt r.tds r.entry 24 true false
    let b := refAt r.tds r.entry 32 true false
    let c := refAt r.tds r.entry 40 false true
    let la := s.loadRef p n r a
    match la.stop with
    | some st => .next (State.endStopped s la.s q i { r with readSq := r.readSq ++ la.whole a } st)
    | none =>
      let lb := la.s.loadRef p n r b
      match lb.stop with
      | some st => .next (State.endStopped s lb.s q i { r with readSq := r.readSq ++ la.whole a ++ lb.whole b } st)
      | none =>
        let x := mxCompute r.entry c a.td.scale b.td.scale (a.values la.rows) (b.values lb.rows)
        .next (State.writeResult s lb.s q r c x (lb.s.readsSealed n [a, b]))

end Sys2Proof.Machine
end

