-- ==== Sys2Proof/Machine/Move.lean ====
section
/-!
DEFINITION. The Move engine's commands (R136 to R141, R166): copies, fills, loads of tensor descriptors, and
gather requests. A transfer's bytes move in ascending order, and it stops at the first poisoned word or block
(DEDUCED, log entry 15).
-/

namespace Sys2Proof.Machine

/-- The `i`-th transfer of Islet `n`'s Move queue, past its wait points, with this opcode, whose reads may be made. -/
def State.moveRun (s : State) (n i op : Nat) : Option Run :=
  match s.runAt (3 * n + 2) i with
  | none => none
  | some r =>
    if r.phase == .started && eOpcode r.entry == op && r.waits.isEmpty && s.mayRead (3 * n + 2) i r then some r else none

/-- The source of an MV_COPY: whether it is memory, and its runs. -/
def copySource (r : Run) : Bool × List (Nat × Nat) :=
  if mvSrcSp r.entry then (false, (refAt r.tds r.entry 24 true false).runs)
  else (true, sideRuns r.entry (mvSrc r.entry) (mvSrcStride r.entry))

/-- Lay bytes over runs of addresses in order; the last ones get what is left. -/
def layOver : List (Nat × Nat) → List Byte → List (Nat × List Byte)
  | [], _ => []
  | (a, n) :: t, l => if l.isEmpty then [] else (a, l.take n) :: layOver t (l.drop n)

/-- What a transfer's write side did: the state, the bytes it wrote or sent, and why it stopped. -/
structure Moved where
  s    : State
  sent : Nat
  stop : Option Stop

/-- Write a transfer's bytes to a window of this die, run by run. -/
def windowRuns (p w who : Nat) (frozen : Bool) : List (Nat × List Byte) → State → Moved
  | [], s => ⟨s, 0, none⟩
  | (a, l) :: t, s =>
    let x := s.windowWrite p w who a l frozen
    match x.bad with
    | some info =>
      let stop : Stop := match placeOf a with
        | .scratch k _ => .window ((s.isletOwner k).getD p) info
        | _ => .poison info
      ⟨x.s, x.wrote, some stop⟩
    | none =>
      let y := windowRuns p w who frozen t x.s
      ⟨y.s, x.wrote + y.sent, y.stop⟩

/-- Unseal the squares of this die that a command wrote whole through a local window, at plain addresses (R103). -/
def State.unsealPlain (s : State) (runs : List (Nat × Nat)) (fromSealed : Bool) : State :=
  let own := runs.filterMap (fun u => match placeRun u.1 u.2 with
    | .scratch k o => some (k, o, u.2)
    | _ => none)
  ((own.map Prod.fst).eraseDups).foldl (fun s k => s.unseal k ((own.filter (fun u => u.1 == k)).map Prod.snd) fromSealed) s

/-- Write a transfer's bytes where they go; `sealedRead` says that they come from a sealed square or a frozen
region. Bytes bound for another die are queued as flits under transfer identifier `k`. -/
def State.moveOut (s : State) (p n : Nat) (r : Run) (k : Nat) (bytes : List Byte) (sealedRead : Bool) : Moved :=
  let e := r.entry
  if mvDstSp e then
    let z := refAt r.tds e 32 false true
    let runs := layOver z.runs bytes
    let x := storeRuns p n false false runs s
    ⟨x.s.unseal n (takeRuns (runs.map (fun u => (u.1, u.2.length))) x.sent) sealedRead, x.sent, x.stop⟩
  else
    let runs := layOver (sideRuns e (mvDst e) (mvDstStride e)) bytes
    match r.grantKey with
    | some g =>
      let d := g / 256
      let pd := g / 16 % 16
      let w := g % 16
      let x : Grant := Table.get {} s.grants g
      let plain := runs.map (fun u => ((s.destRun p n (u.1, u.2.length)).2.2, u.2))
      if d = s.die then
        let y := windowRuns pd w p sealedRead plain s
        let t := (y.s.grantSent (some g) y.sent 0).unsealPlain (takeRuns (plain.map (fun u => (u.1, u.2.length))) y.sent) sealedRead
        ⟨t, y.sent, y.stop⟩
      else
        let s := s.sendRuns k d (eQos e) pd p w k x.base sealedRead plain
        ⟨s.grantSent (some g) bytes.length 0, bytes.length, none⟩
    | none =>
      let x := storeRuns p n false true runs s
      ⟨x.s, x.sent, x.stop⟩

/-- The source runs of a transfer in its own scratchpad. -/
def spSource (r : Run) : List (Nat × Nat) := if mvSrcSp r.entry then (copySource r).2 else []

/-- The destination runs of a transfer in its own scratchpad. -/
def spDest (r : Run) : List (Nat × Nat) := if mvDstSp r.entry then (refAt r.tds r.entry 32 false true).runs else []

/-- The transfer of a run whose bytes are at hand: write them, and end the run with the status that the read
or the write side gives. A transfer into a window of another die then waits for WIN_ACK (R185). -/
def State.moveBytes (s0 s : State) (n i : Nat) (r : Run) (bytes : List Byte) (stop : Option Stop) (sealedRead : Bool) : State :=
  let q := 3 * n + 2
  let p := (s.isletOwner n).getD 0
  let remote := match r.grantKey with
    | some g => g / 256 != s.die
    | none => false
  let (k, s) := if remote then s.freshXfer else (0, s)
  let m := s.moveOut p n r k bytes sealedRead
  let m : Moved := { m with s := m.s.perfAdd p 3 m.sent }
  let stop : Option Stop := match m.stop with
    | some st => some st
    | none => stop
  let r := { r with readSq := wholeSquares (spSource r) bytes.length, wroteSq := wholeSquares (spDest r) m.sent }
  if stop = some .wait then s0
  else if remote then
    let (st, info) : BitVec 8 × Nat := match stop with
      | some (.poison x) => (stPoison, x)
      | some (.window _ x) => (stPoison, x)
      | some (.host a x) => (stHostFault, a % 2 ^ 48 + x * 2 ^ 48)
      | _ => (stDone, 0)
    let s := match stop with
      | some (.poison x) => m.s.poisonEvent p q (eSeq r.entry) x 0xFF
      | _ => m.s
    let g := (r.grantKey).getD 0
    let s := s.setXfer k { queue := some q, die := g / 256, part := g / 16 % 16, window := g % 16, total := m.sent,
                           status := st, info := info, grantKey := r.grantKey }
    if m.sent = 0 then s.endWork q i { r with status := st, info := BitVec.ofNat 64 info } false
    else
      -- its reads are made: its holds end, and its takes reach their set points (R95, R96)
      let keep := r.claims.filter (fun w => r.readSq.contains w.square)
      let isl := s.islet n
      let t := (s.setIslet n (isl.unclaim (r.claims.filter (fun w => !r.readSq.contains w.square)))).setRun q i
        { r with phase := .busy, holds := [], claims := keep, xfer := some k }
      (t.settleIslet n).reevaluate
  else match stop with
    | some st => State.endStopped s0 m.s q i r st
    | none => m.s.endWork q i { r with status := stDone } false

/-- A Move read of partition `p` waits while it touches a frame that a running WEIGHT_LOAD has still to
finish (R369). `aux` of that command is destination, bytes and frames written. -/
def State.loadPending (s : State) (p : Nat) (runs : List (Nat × Nat)) : Bool :=
  match s.mgmtBusy (48 + p) 0x8B with
  | none => false
  | some r =>
    let lo := r.aux.getD 0 0
    let hi := lo + r.aux.getD 1 0
    let done := r.aux.getD 2 0
    runs.any (fun u => match placeRun u.1 u.2 with
      | .hbm x => decide (x < hi) && decide (lo < x + u.2) && decide (done < Nat.min hi ((Nat.min (x + u.2) hi + 0x1FFFFF) / 0x200000 * 0x200000))
      | .alias_ x => decide (x < hi) && decide (lo < x + u.2) && decide (done < Nat.min hi ((Nat.min (x + u.2) hi + 0x1FFFFF) / 0x200000 * 0x200000))
      | _ => false)

/-- Every HBM byte and window byte that a transfer writes is behind a slice and a stack that are ON, and every
scratchpad on this die is (R274, R420). -/
def State.destReady (s : State) (p n : Nat) (e : List Byte) : Bool :=
  if mvDstSp e then true
  else (sideRuns e (mvDst e) (mvDstStride e)).all (fun u =>
    let x := s.destRun p n u
    match x.1 with
    | 1 => s.runReady x.2.2 u.2
    | 3 => x.2.1 != s.die || s.targetReady x.2.2 u.2
    | _ => true)

/-- MV_COPY (R136, R137). -/
def execMvCopy (n i : Nat) (s : State) : Outcome :=
  match s.moveRun n i 0x60 with
  | none => stutter s
  | some r =>
    let p := (s.isletOwner n).getD 0
    let (mem, runs) := copySource r
    if (mem && s.loadPending p runs) || !s.destReady p n r.entry then stutter s
    else
      let l := loadRuns p n false r mem runs s
      let refs := if mem then [] else [refAt r.tds r.entry 24 true false]
      if l.stop = some .wait then stutter s
      else .next ((State.moveBytes s l.s n i r l.rows.flatten l.stop (s.readsSealed n refs || s.frozenSource r.entry)).askReads (3 * n + 2))

/-- MV_FILL (R138): the pattern repeats from the first byte of the transfer. -/
def execMvFill (n i : Nat) (s : State) : Outcome :=
  match s.moveRun n i 0x61 with
  | none => stutter s
  | some r =>
    let p := (s.isletOwner n).getD 0
    if !s.destReady p n r.entry then stutter s
    else
      let pat := slice r.entry 48 4
      let bytes := (List.range (mvLength r.entry)).map (fun k => pat.getD (k % 4) 0)
      .next (State.moveBytes s s n i r bytes none false)

/-- A tensor descriptor from its 64 bytes; reserved bits are dropped (R145). -/
def tdescOf (b : List Byte) : TDesc :=
  let c := leAt b 0 4
  { format := BitVec.ofNat 4 c, mem := bit c 4, valid := bit c 5, scale := BitVec.ofNat 32 (leAt b 4 4),
    tid := BitVec.ofNat 31 (leAt b 8 4), lcols := BitVec.ofNat 32 (leAt b 12 4), rowOrg := BitVec.ofNat 32 (leAt b 16 4),
    colOrg := BitVec.ofNat 32 (leAt b 20 4), base := BitVec.ofNat 48 (leAt b 24 8), stride := BitVec.ofNat 32 (leAt b 32 4) }

/-- Store the descriptors that were read whole, from entry `first` on. -/
def Islet.loadTds (i : Islet) (first : Nat) (bytes : List Byte) : Islet :=
  { i with tds := (List.range (bytes.length / 64)).foldl (fun t k =>
      Table.set {} t (first + k) (tdescOf (slice bytes (64 * k) 64))) i.tds }

/-- MV_TDESC_LOAD (R138, R145): entries read whole before a poisoned block stay loaded. -/
def execMvTdescLoad (n i : Nat) (s : State) : Outcome :=
  match s.moveRun n i 0x62 with
  | none => stutter s
  | some r =>
    let q := 3 * n + 2
    let p := (s.isletOwner n).getD 0
    let runs := [(mvSrc r.entry, leAt r.entry 40 4 * 64)]
    if s.loadPending p runs then stutter s
    else
      let l := loadRuns p n false r true runs s
      if l.stop = some .wait then stutter s
      else
        let s1 := l.s.setIslet n ((l.s.islet n).loadTds (leAt r.entry 44 4) l.rows.flatten)
        .next ((match l.stop with
          | some st => State.endStopped s s1 q i r st
          | none => s1.endWork q i { r with status := stDone } false).askReads q)

/-- MV_GATHER_REQ (R166, R168, R322): the request leaves for the owner die, and the command waits for its
bytes and the verdict. -/
def execMvGatherReq (n i : Nat) (s : State) : Outcome :=
  match s.moveRun n i 0x63 with
  | none => stutter s
  | some r =>
    let e := r.entry
    let q := 3 * n + 2
    let p := (s.isletOwner n).getD 0
    let w := r.aux.headD 0
    let x := s.win p w
    let owner := leAt e 44 1 % 64
    let len := mvLength e
    let dst := match placeOf (mvDst e) with
      | .remote _ a => remoteTarget a
      | _ => 0
    let (k, s) := s.freshXfer
    let body := slice (leBytes 1 p ++ leBytes 1 (w + 16 * b2n x.scratch) ++ leBytes 2 k ++ leBytes 4 len
      ++ leBytes 8 (mvSrc e) ++ leBytes 8 (dst - x.base.toNat)) 0 200
    let s := s.sendFlit (mkFlit 0x10 0 (eQos e) owner s.die false body) 0
    let s := s.setXfer k { queue := some q, die := owner, part := p, window := w, total := len, gather := true }
    .next (s.setRun q i { r with phase := .busy, xfer := some k })

end Sys2Proof.Machine
end

