-- ==== Sys2Proof/Machine/Elem.lean ====
section
/-!
DEFINITION. The functions of VX_FUNC (R132): the exact mathematical value, to `elemBits` bits with a sticky
rest, ready to be rounded once. A result of EXP, LOG, TANH, SIGMOID, GELU_TANH or SILU that lies closer to a
rounding boundary than the working precision resolves could round the other way (UNVERIFIED, log entry 21).
-/

namespace Sys2Proof.Machine

/-- Fraction bits of the fixed-point numbers below. -/
def elemBits : Nat := 480

/-- 1 in fixed point. -/
def fixOne : Int := 2 ^ elemBits

/-- A value m × 2^e in fixed point, rounded down. -/
def fixOf (neg : Bool) (m : Nat) (e : Int) : Int :=
  let k := e + elemBits
  let v : Int := if neg then -(m : Int) else m
  if 0 ≤ k then v * 2 ^ k.toNat else v / 2 ^ (-k).toNat

/-- The sum of z^(2i+1) / (2i+1) for i from `i` on: atanh in fixed point; `t` is the current power. -/
def atanhSum : Nat → Nat → Int → Int → Int
  | 0, _, _, _ => 0
  | fuel + 1, i, z2, t => t / (2 * i + 1 : Nat) + atanhSum fuel (i + 1) z2 (t * z2 / fixOne)

/-- atanh of a fixed-point number of magnitude at most 1/3. -/
def atanhFix (z : Int) : Int := atanhSum 160 0 (z * z / fixOne) z

/-- ln 2. -/
def ln2Fix : Int := 2 * atanhFix (fixOne / 3)

/-- The alternating sum of R(1/n)^(2i+1) / (2i+1): arctangent of 1/n in fixed point. -/
def atanInvSum (n : Nat) : Nat → Nat → Int → Int
  | 0, _, _ => 0
  | fuel + 1, i, t =>
    (if i % 2 = 0 then t / (2 * i + 1 : Nat) else -(t / (2 * i + 1 : Nat))) + atanInvSum n fuel (i + 1) (t / ((n * n : Nat) : Int))

/-- π by Machin's formula. -/
def piFix : Int := 4 * (4 * atanInvSum 5 110 0 (fixOne / 5) - atanInvSum 239 35 0 (fixOne / 239))

/-- √(2/π). -/
def sqrt2OverPi : Int := (isqrt ((2 * fixOne * fixOne * fixOne / piFix).toNat) : Nat)

/-- The sum of r^n / n! from n = `n` on; `t` is the current term. -/
def expSum : Nat → Nat → Int → Int → Int
  | 0, _, _, _ => 0
  | fuel + 1, n, r, t => t + expSum fuel (n + 1) r (t * r / fixOne / ((n + 1 : Nat) : Int))

/-- e^t for a fixed-point t: a mantissa y and an exponent k with value y × 2^(k − elemBits). -/
def expFix (t : Int) : Nat × Int :=
  let l := ln2Fix
  let k := t / l
  ((expSum 110 0 (t - k * l) fixOne).toNat, k)

/-- A magnitude just above or just below 2^e. -/
def nearPow (neg above : Bool) (e : Int) : Mag :=
  ⟨neg, if above then 2 ^ 200 else 2 ^ 200 - 1, e - 200, true⟩

/-- A magnitude beyond every format, and one below every format. -/
def hugeMag (neg : Bool) : Mag := ⟨neg, 1, 100000, false⟩
def tinyMag (neg : Bool) : Mag := ⟨neg, 1, -100000, true⟩

/-- |m × 2^e| is at least 2^k. -/
def atLeastPow (m : Nat) (e k : Int) : Bool := decide (k ≤ (Nat.log2 m : Int) + e)

/-- e^x for a finite non-zero x. -/
def expMag (neg : Bool) (m : Nat) (e : Int) : Mag :=
  if atLeastPow m e 11 then (if neg then tinyMag false else hugeMag false)
  else if !atLeastPow m e (-150) then nearPow false (!neg) 0
  else
    let (y, k) := expFix (fixOf neg m e)
    ⟨false, y, k - elemBits, true⟩

/-- ln x for a finite positive x other than 1. -/
def logMag (m : Nat) (e : Int) : Mag :=
  let top := Nat.log2 m
  -- f = m / 2^top in [1, 2), halved when above 4/3
  let f : Int := fixOf false m (-(top : Int))
  let up := decide (4 * fixOne < 3 * f)
  let f := if up then f / 2 else f
  let k : Int := e + top + (if up then 1 else 0)
  let v := 2 * atanhFix ((f - fixOne) * fixOne / (f + fixOne)) + k * ln2Fix
  ⟨decide (v < 0), v.natAbs, -(elemBits : Int), true⟩

/-- 1 / (1 + e^-t) for a fixed-point t of magnitude below 2^11. -/
def sigmoidFix (t : Int) : Mag :=
  if t < 0 then
    let (y, k) := expFix t
    -- y / (2^(elemBits - k) + y)
    let r := divMag false y 0 (2 ^ ((elemBits : Int) - k).toNat + y) 0 400
    { r with sticky := true }
  else
    let (y, k) := expFix (-t)
    let one := 2 ^ ((elemBits : Int) - k).toNat
    let r := divMag false one 0 (one + y) 0 400
    { r with sticky := true }

/-- The sigmoid of a finite non-zero x. -/
def sigmoidMag (neg : Bool) (m : Nat) (e : Int) : Mag :=
  if atLeastPow m e 11 then (if neg then tinyMag false else nearPow false false 0)
  else if !atLeastPow m e (-150) then nearPow false (!neg) (-1)
  else sigmoidFix (fixOf neg m e)

/-- tanh of a finite non-zero x: 2 sigmoid(2x) − 1 for positive x. -/
def tanhMag (neg : Bool) (m : Nat) (e : Int) : Mag :=
  if atLeastPow m e 8 then nearPow neg false 0
  else if !atLeastPow m e (-120) then ⟨neg, m * 2 ^ 200 - 1, e - 200, true⟩
  else
    let (y, k) := expFix (fixOf true m (e + 1))
    -- (1 - z) / (1 + z) with z = y × 2^(k - elemBits)
    let one := 2 ^ ((elemBits : Int) - k).toNat
    let r := divMag neg (one - y) 0 (one + y) 0 400
    { r with sticky := true }

/-- The product of an exact value with an inexact magnitude. -/
def scaleMag (neg : Bool) (m : Nat) (e : Int) (x : Mag) : Mag := ⟨neg != x.neg, m * x.m, e + x.e, x.sticky⟩

/-- x × sigmoid(x) for a finite non-zero x. -/
def siluMag (neg : Bool) (m : Nat) (e : Int) : Mag := scaleMag neg m e (sigmoidMag neg m e)

/-- 0.5x(1 + tanh(√(2/π)(x + 0.044715x³))) = x × sigmoid(2√(2/π)(x + 0.044715x³)) for a finite non-zero x. -/
def geluMag (neg : Bool) (m : Nat) (e : Int) : Mag :=
  if atLeastPow m e 9 then (if neg then tinyMag true else scaleMag false m e (nearPow false false 0))
  else if !atLeastPow m e (-150) then scaleMag neg m e (nearPow false (!neg) (-1))
  else
    let x := fixOf neg m e
    let x3 := x * x / fixOne * x / fixOne
    let u := sqrt2OverPi * (x + 44715 * x3 / 1000000) / fixOne
    let t := 2 * u
    if 2 ^ (elemBits + 11) ≤ t then scaleMag neg m e (nearPow false false 0)
    else if t ≤ -(2 ^ (elemBits + 11) : Int) then tinyMag neg
    else scaleMag neg m e (sigmoidFix t)

/-- 1/√x for a finite positive x. -/
def rsqrtMag (m : Nat) (e : Int) : Mag :=
  let odd := decide (e % 2 ≠ 0)
  let m' := if odd then 2 * m else m
  let e' := if odd then e - 1 else e
  let k : Nat := 80 + Nat.log2 m'
  let v := isqrt (2 ^ (2 * k) / m')
  ⟨false, v, -(k : Int) - e' / 2, v * v * m' != 2 ^ (2 * k)⟩

/-- VX_FUNC (R132): the value before rounding, and its flags. `f` is the FUNC code. -/
def elemFunc (f : Nat) (x : Val) : Exact × FpFlags :=
  let exact : Val → Exact := fun v => match v with
    | .nan _ => .nan
    | .inf n => .inf n
    | .fin n m e => .mag ⟨n, m, e, false⟩
  let zero : Bool → Exact := fun n => .mag ⟨n, 0, 0, false⟩
  let one : Bool → Exact := fun n => .mag ⟨n, 1, 0, false⟩
  let half : Exact := .mag ⟨false, 1, -1, false⟩
  match x with
  | .nan s => (.nan, if s then fInvalid else fNone)
  | .inf n =>
    (match f with
      | 0 => (.inf false, fNone)
      | 1 => (.inf (!n), fNone)
      | 2 => if n then (.nan, fInvalid) else (.inf false, fNone)
      | 3 => if n then (.nan, fInvalid) else (zero false, fNone)
      | 4 => (zero n, fNone)
      | 5 => (if n then zero false else .inf false, fNone)
      | 6 => if n then (.nan, fInvalid) else (.inf false, fNone)
      | 7 => (one n, fNone)
      | 8 => (if n then zero false else one false, fNone)
      | 9 => (if n then zero true else .inf false, fNone)
      | 10 => (if n then zero false else .inf false, fNone)
      | _ => (if n then zero true else .inf false, fNone))
  | .fin n m e =>
    (match f with
      | 0 => (.mag ⟨false, m, e, false⟩, fNone)
      | 1 => (.mag ⟨!n, m, e, false⟩, fNone)
      | 2 => exSqrt x
      | 3 => if m = 0 then (.inf n, fDivZero) else if n then (.nan, fInvalid) else (.mag (rsqrtMag m e), fNone)
      | 4 => exDiv Val.one x
      | 5 => (if m = 0 then one false else .mag (expMag n m e), fNone)
      | 6 => if m = 0 then (.inf true, fDivZero) else if n then (.nan, fInvalid)
             else if m = 2 ^ Nat.log2 m ∧ (Nat.log2 m : Int) + e = 0 then (zero false, fNone)
             else (.mag (logMag m e), fNone)
      | 7 => (if m = 0 then zero n else .mag (tanhMag n m e), fNone)
      | 8 => (if m = 0 then half else .mag (sigmoidMag n m e), fNone)
      | 9 => (if m = 0 then zero n else .mag (geluMag n m e), fNone)
      | 10 => if m = 0 ∨ n then (zero false, fNone) else (exact x, fNone)
      | _ => (if m = 0 then zero n else .mag (siluMag n m e), fNone))

end Sys2Proof.Machine
end

