-- ==== Sys2Proof/Machine/Vector.lean ====
section
/-!
DEFINITION. The Vector engine's commands (R129 to R134, R149 to R165).
-/

namespace Sys2Proof.Machine

/-! ### The mask mixer (R153) -/

/-- mix(seed, tensor, index), modulo 2^64. -/
def mix (seed tensor index : Nat) : Nat :=
  let m := 2 ^ 64
  let x := (seed % m) ^^^ (((tensor * 2 ^ 32) ||| index) % m)
  let x := x ^^^ (x / 2 ^ 33)
  let x := x * 0xA3B195C42F6D0E57 % m
  let x := x ^^^ (x / 2 ^ 29)
  let x := x * 0x7C152D9B64E3A8F1 % m
  x ^^^ (x / 2 ^ 32)

/-- The mixer keeps the element with canonical index `i` (R153). -/
def maskKeeps (seed tid imm i : Nat) : Bool := decide (imm ≤ mix seed tid i / 2 ^ 32)

/-! ### Working format (R130) -/

/-- The working format: FP64 when any operand is FP64. -/
def workFmt (refs : List Ref) : Nat := if refs.any (fun r => r.fmt == fmtFP64 && r.o.off != 52) then fmtFP64 else fmtFP32

/-- Bring a working value to Z's format under a mode (R130). -/
def toZ (w : Nat) (z : Ref) (rm : Rnd) (v : Coded) : Coded :=
  if z.fmt = w then v
  else
    let (c, f) := convertTo z.fmt z.o.signed rm z.o.nanOvf (decodeVal w true v.1)
    (c, v.2 ||| f)

/-- The code of a value in a working format; the value is one of it. -/
def workCode (w : Nat) (v : Val) : Nat := (convertTo w true .rne false v).1

/-- One element's result and whether an input of it was a NaN. -/
structure Cell where
  code  : Nat
  flags : FpFlags
  nanIn : Bool

/-- Gather cells into a result for output `z` (R81 to R83). -/
def gather (z : Ref) (start : FpFlags) (cells : List (List Cell)) : Result :=
  let fl := cells.foldl (fun f row => row.foldl (fun f c => f ||| c.flags) f) start
  let trap := cells.zipIdx.foldl (fun acc row => row.1.zipIdx.foldl (fun acc c =>
    lowerTrap acc (producedAt z row.2 c.2 c.1.code c.1.nanIn)) acc) none
  ⟨cells.map (fun row => row.map Cell.code), fl, trap⟩

/-- Map over rows of X with the row and column numbers. -/
def mapCells (x : List (List Val)) (f : Nat → Nat → Val → Cell) : List (List Cell) :=
  x.zipIdx.map (fun row => row.1.zipIdx.map (fun v => f row.2 v.2 v.1))

/-- Element of Y for row `i`, column `j`; a single row serves every row (R131). -/
def yAt (y : List (List Val)) (i j : Nat) : Val :=
  let row := match y with
    | [r] => r
    | _ => y.getD i []
  row.getD j Val.zero

/-- A binary elementwise command: exact result rounded to the working format, then to Z (R130). -/
def binaryCells (w : Nat) (z : Ref) (rm : Rnd) (op : Val → Val → Exact × FpFlags) (x y : List (List Val)) : List (List Cell) :=
  mapCells x (fun i j a =>
    let b := yAt y i j
    let (c, f) := toZ w z rm (roundExact w rm (op a b))
    ⟨c, f, a.isNan || b.isNan⟩)

/-! ### Loading and running -/

/-- Load operands one after another. -/
def loadRefs (p n : Nat) (r : Run) : List Ref → State → Loads × List (List (List Byte))
  | [], s => (⟨s, [], none⟩, [])
  | x :: t, s =>
    let l := s.loadRef p n r x
    match l.stop with
    | some st => (⟨l.s, l.rows, some st⟩, [])
    | none =>
      let (y, rest) := loadRefs p n r t l.s
      (y, l.rows :: rest)

/-- The squares that a command which stopped while it loaded has read whole: those of the operands it had loaded, and of the one at
which it stopped as far as it came (R95). -/
def readWhole (l : Loads) (refs : List Ref) (rows : List (List (List Byte))) : List Nat :=
  let ins := refs.filter (fun x => !x.writes)
  ((refs.take rows.length).filter (fun x => ins.contains x)).flatMap Ref.squares
    ++ ((refs.drop rows.length).take 1).flatMap l.whole

/-- The outputs of a Vector command: what is written through each operand, the flags and the produced NaN of lowest
index. -/
abbrev Outputs := List (Ref × List (Nat × List Byte)) × FpFlags × Option (Nat × Nat)

/-- What distinguishes one Vector command: its opcode, the operands it loads in order, and its outputs from their
bytes. -/
structure Work where
  op   : Nat
  ins  : Run → List Ref
  outs : Run → List (List (List Byte)) → Outputs

/-- Run a Vector command: load its operands, compute the outputs, write them (R114). -/
def runVector (n : Nat) (w : Work) (s : State) : State :=
  let q := 3 * n + 1
  match s.engineRun q w.op with
  | none => s.engineAhead q w.op
  | some r =>
    let p := (s.isletOwner n).getD 0
    let refs := w.ins r
    let (l, rows) := loadRefs p n r refs s
    match l.stop with
    | some st => State.endStopped s l.s q (s.liveIdx q) { r with readSq := r.readSq ++ readWhole l refs rows } st
    | none =>
      let (outs, fl, trap) := w.outs r rows
      State.writeOutputs s l.s q r outs fl trap (l.s.readsSealed n refs)

/-- The outputs of a command with one ordinary output Z. -/
def oneOutput (z : Ref) (x : Result) : Outputs :=
  ([(z, z.storedRuns x.codes)], x.flags, x.trap)

/-- The values of the `k`-th loaded operand. -/
def valuesOf (x : Ref) (rows : List (List (List Byte))) (k : Nat) : List (List Val) := x.values (rows.getD k [])

/-- ROUND as a mode (R64, R69). -/
def vxMode (e : List Byte) : Rnd := rndOf (vxRound e)

/-- A binary elementwise command. -/
def binaryWork (op : Nat) (f : List Byte → Rnd → Val → Val → Exact × FpFlags) (extraNan : List Byte → Bool) (rounds : Bool) :
    Work where
  op := op
  ins := fun r => [vxX r.tds r.entry, vxY r.tds r.entry]
  outs := fun r rows =>
    let x := vxX r.tds r.entry
    let y := vxY r.tds r.entry
    let z := vxZ r.tds r.entry
    let rm := if rounds then vxMode r.entry else .rne
    let w := workFmt [x, y, z]
    let cells := binaryCells w z rm (f r.entry rm) (valuesOf x rows 0) (valuesOf y rows 1)
    let cells := if extraNan r.entry then cells.map (fun row => row.map (fun (c : Cell) => { c with nanIn := true })) else cells
    oneOutput z (gather z fNone cells)

/-- VX_ADD (R129). -/
def vxAddWork : Work := binaryWork 0x21 (fun _ rm a b => exAdd rm a b) (fun _ => false) true
def execVxAdd (n : Nat) (s : State) : Outcome := .next (runVector n vxAddWork s)
/-- VX_SUB (R129). -/
def vxSubWork : Work := binaryWork 0x22 (fun _ rm a b => exAdd rm a b.negate) (fun _ => false) true
def execVxSub (n : Nat) (s : State) : Outcome := .next (runVector n vxSubWork s)
/-- VX_MUL (R129). -/
def vxMulWork : Work := binaryWork 0x23 (fun _ _ a b => exMul a b) (fun _ => false) true
def execVxMul (n : Nat) (s : State) : Outcome := .next (runVector n vxMulWork s)
/-- VX_DIV (R129). -/
def vxDivWork : Work := binaryWork 0x24 (fun _ _ a b => exDiv a b) (fun _ => false) true
def execVxDiv (n : Nat) (s : State) : Outcome := .next (runVector n vxDivWork s)

/-- The FP32 immediate. -/
def immVal (e : List Byte) : Val := decodeVal fmtFP32 true (vxImm e)

/-- VX_AXPY (R129): a × X + Y fused. -/
def vxAxpyWork : Work := binaryWork 0x25 (fun e rm a b => exFma rm (immVal e) a b) (fun e => (immVal e).isNan) true
def execVxAxpy (n : Nat) (s : State) : Outcome := .next (runVector n vxAxpyWork s)

/-- A minimum or maximum as an exact result. -/
def exMinMax (isMax : Bool) (a b : Val) : Exact × FpFlags :=
  match fpMinMax isMax a b with
  | (.nan _, f) => (.nan, f)
  | (.inf n, f) => (.inf n, f)
  | (.fin n m e, f) => (.mag ⟨n, m, e, false⟩, f)

/-- VX_MIN (R61). -/
def vxMinWork : Work := binaryWork 0x26 (fun _ _ a b => exMinMax false a b) (fun _ => false) false
def execVxMin (n : Nat) (s : State) : Outcome := .next (runVector n vxMinWork s)
/-- VX_MAX (R61). -/
def vxMaxWork : Work := binaryWork 0x27 (fun _ _ a b => exMinMax true a b) (fun _ => false) false
def execVxMax (n : Nat) (s : State) : Outcome := .next (runVector n vxMaxWork s)

/-- The mode of VX_CONVERT for one element (R64, R68). -/
def convertMode (e : List Byte) (z : Ref) (i j : Nat) : Rnd :=
  if vxRound e = 4 then .stoch (mix (vxSeed e) (z.td.tid.toNat ||| 0x80000000) (z.indexOf i j) / 2 ^ 32)
  else rndOf (vxRound e)

/-- VX_CONVERT (R65 to R68): one rounding, directly to Z's format. -/
def vxConvertWork : Work where
  op := 0x20
  ins := fun r => [vxX r.tds r.entry]
  outs := fun r rows =>
    let x := vxX r.tds r.entry
    let z := vxZ r.tds r.entry
    oneOutput z (gather z fNone (mapCells (valuesOf x rows 0) (fun i j a =>
      let (c, f) := convertTo z.fmt z.o.signed (convertMode r.entry z i j) z.o.nanOvf a
      ⟨c, f, a.isNan⟩)))
def execVxConvert (n : Nat) (s : State) : Outcome := .next (runVector n vxConvertWork s)

/-- VX_FUNC (R132). -/
def vxFuncWork : Work where
  op := 0x28
  ins := fun r => [vxX r.tds r.entry]
  outs := fun r rows =>
    let x := vxX r.tds r.entry
    let z := vxZ r.tds r.entry
    let w := workFmt [x, z]
    let rm := vxMode r.entry
    oneOutput z (gather z fNone (mapCells (valuesOf x rows 0) (fun _ _ a =>
      let (c, f) := toZ w z rm (roundExact w rm (elemFunc (vxFunc r.entry) a))
      ⟨c, f, a.isNan⟩)))
def execVxFunc (n : Nat) (s : State) : Outcome := .next (runVector n vxFuncWork s)

/-- Sum values in order from +0, each addition rounded with RNE (R69, R155). -/
def sumBlock (w : Nat) (l : List Val) : Flagged :=
  l.foldl (fun acc v =>
    let (s, f) := fpAdd w .rne acc.1 v
    (s, acc.2 ||| f)) (Val.zero, fNone)

/-- The block sum of values or of their squares (R133, R158). -/
def reduceBlock (w : Nat) (squares : Bool) (l : List Val) : Flagged :=
  if squares then
    let sq := l.map (fun v => fpMul w .rne v v)
    let (s, f) := sumBlock w (sq.map Prod.fst)
    (s, sq.foldl (fun a b => a ||| b.2) f)
  else sumBlock w l

/-- One value in Z's format with RNE. -/
def outRne (w : Nat) (z : Ref) (v : Flagged) : Coded := toZ w z .rne (workCode w v.1, v.2)

/-- The reductions of a sequence: one result (TREE) or one a block (BLOCKS), with the NaN of their inputs. -/
def reduceSeq (w : Nat) (z : Ref) (squares blocks : Bool) (l : List Val) : List Cell :=
  let cut := piecesOf 256 (l.length + 1) l
  let bs := cut.map (reduceBlock w squares)
  if blocks then
    (bs.zip cut).map (fun b =>
      let (c, f) := outRne w z b.1
      ⟨c, f, b.2.any Val.isNan⟩)
  else
    let (v, f) := tree (fpAdd w .rne) Val.zero (bs.map Prod.fst)
    let (c, g) := outRne w z (v, bs.foldl (fun a b => a ||| b.2) f)
    [⟨c, g, l.any Val.isNan⟩]

/-- MAX, MIN or MAXABS of a row (R133). -/
def reduceExtreme (w : Nat) (z : Ref) (func : Nat) (l : List Val) : Cell :=
  let abs : Val → Val := fun v => match v with
    | .fin _ m e => .fin false m e
    | .inf _ => .inf false
    | v => v
  let l' := if func = 4 then l.map abs else l
  let (v, f) := l'.foldl (fun (acc : Flagged) v =>
    let (x, g) := fpMinMax (func != 3) acc.1 v
    (x, acc.2 ||| g)) (.nan false, fNone)
  let (c, g) := outRne w z (v, f)
  ⟨c, g, l.any Val.isNan⟩

/-- VX_REDUCE (R133). -/
def vxReduceWork : Work where
  op := 0x30
  ins := fun r => [vxX r.tds r.entry]
  outs := fun r rows =>
    let x := vxX r.tds r.entry
    let z := vxZ r.tds r.entry
    let w := workFmt [x, z]
    let func := vxFunc r.entry
    let v := valuesOf x rows 0
    let cells : List (List Cell) :=
      if 2 ≤ func then v.map (fun row => [reduceExtreme w z func row])
      else
        let per := v.map (reduceSeq w z (func == 1) (vxBlocks r.entry))
        let nb := if vxBlocks r.entry then (x.o.cols + 255) / 256 else 1
        (List.range nb).flatMap (fun b => per.map (fun l => [l.getD b ⟨0, fNone, false⟩]))
    oneOutput z (gather z fNone cells)
def execVxReduce (n : Nat) (s : State) : Outcome := .next (runVector n vxReduceWork s)

/-- The pairs or FP32 values of a VX_TREE operand (R134). -/
def treeInput (x : Ref) (rows : List (List Byte)) : List (List Pair32) :=
  (x.logical rows).map (fun r => r.map (fun c =>
    if x.fmt = fmtPAIR32 then pairOf c else ⟨decodeVal fmtFP32 true c, .zero⟩))

/-- VX_TREE (R134). -/
def vxTreeWork : Work where
  op := 0x31
  ins := fun r => [vxX r.tds r.entry]
  outs := fun r rows =>
    let x := vxX r.tds r.entry
    let z := vxZ r.tds r.entry
    let nb := vxImm r.entry
    let v := treeInput x (rows.getD 0 [])
    let (sc, fs) := combinedScale x.td.scale z.td.scale
    let scaleNan := (decodeVal fmtFP32 true x.td.scale.toNat).isNan || (decodeVal fmtFP32 true z.td.scale.toNat).isNan
    let pair := x.fmt == fmtPAIR32 || z.fmt == fmtPAIR32
    let cell : Nat → Nat → Cell := fun i j =>
      let ins := (List.range nb).map (fun b => (v.getD (b * z.o.rows + i) []).getD j Pair32.zero)
      let nanIn := scaleNan || ins.any (fun a => a.hi.isNan || a.lo.isNan)
      if pair then
        let (t, f) := tree pairAdd Pair32.zero ins
        let (c, g) := if z.fmt = fmtPAIR32 then scalePair t sc else scalePairTo32 t sc
        ⟨c, f ||| g, nanIn⟩
      else
        let (t, f) := tree (fpAdd fmtFP32 .rne) Val.zero (ins.map Pair32.hi)
        let (c, g) := scaleScalar t sc
        ⟨c, f ||| g, nanIn⟩
    oneOutput z (gather z fs ((List.range z.o.rows).map (fun i => (List.range z.o.cols).map (cell i))))
def execVxTree (n : Nat) (s : State) : Outcome := .next (runVector n vxTreeWork s)

/-! ### Activations (R149 to R152) -/

/-- The elements of an operand in ascending canonical index (R149, R158): logical rows for a tile whose
indices rise along its rows. -/
def inIndexOrder (x : Ref) (v : List (List Val)) : List Val :=
  let l := v.zipIdx.flatMap (fun row => row.1.zipIdx.map (fun a => (x.indexOf row.2 a.2, a.1)))
  (sortBy (fun a b => decide (a.1 ≤ b.1)) l).map Prod.snd

/-- The exponent k of an activation block (R151). -/
def packExp (h : Int) (l : List Val) : Int :=
  let tops := l.filterMap (fun v => match v with
    | .fin _ m e => if m = 0 then none else some ((Nat.log2 m : Int) + e)
    | _ => none)
  match tops with
  | [] => 0
  | t :: ts =>
    let a := ts.foldl (fun a b => if a < b then b else a) t
    let k := a - h
    let k := if k < -133 then -133 else k
    if 127 < k then 127 else k

/-- x × 2^-k. -/
def shiftVal (v : Val) (k : Int) : Val :=
  match v with
  | .fin n m e => .fin n m (e - k)
  | v => v

/-- One activation block (R150, R151): its bytes and flags. -/
def packBlock (zf : Nat) (l : List Val) : List Byte × FpFlags :=
  let cf := if zf = fmtACT8 then fmtE8A else fmtE6
  let k := packExp (if zf = fmtACT8 then 8 else 3) l
  let scale := (convertTo fmtT16 true .rne false (.fin false 1 k)).1
  let cs := l.map (fun v => convertTo cf true .rne false (shiftVal v k))
  let codes := (cs.map Prod.fst) ++ List.replicate (64 - l.length) 0
  (leBytes 2 scale ++ packCodes cf codes, cs.foldl (fun a b => a ||| b.2) fNone)

/-- VX_PACK_ACT (R151). -/
def vxPackActWork : Work where
  op := 0x38
  ins := fun r => [vxX r.tds r.entry]
  outs := fun r rows =>
    let x := vxX r.tds r.entry
    let z := vxZ r.tds r.entry
    let v := (valuesOf x rows 0).flatMap id
    let bs := (piecesOf 64 (v.length + 1) v).map (packBlock z.fmt)
    ([(z, [(z.runAddr 0, bs.flatMap Prod.fst)])], bs.foldl (fun a b => a ||| b.2) fNone, none)
def execVxPackAct (n : Nat) (s : State) : Outcome := .next (runVector n vxPackActWork s)

/-- Cut bytes into blocks of the format. -/
def blocksOf (f : Nat) (l : List Byte) : List (List Byte) := piecesOf (blockBytes f) (l.length + 1) l

/-- VX_UNPACK_ACT (R152). -/
def vxUnpackActWork : Work where
  op := 0x39
  ins := fun r => [vxX r.tds r.entry]
  outs := fun r rows =>
    let x := vxX r.tds r.entry
    let z := vxZ r.tds r.entry
    let w := if z.fmt = fmtFP64 then fmtFP64 else fmtFP32
    let cf := if x.fmt = fmtACT8 then fmtE8A else fmtE6
    let cells := (blocksOf x.fmt ((rows.getD 0 []).flatMap id)).flatMap (fun b =>
      let sc := decodeVal fmtT16 true (leAt b 0 2)
      (rowCodes cf 64 (b.drop 2)).map (fun c =>
        let v := decodeVal cf true c
        let (k, f) := toZ w z .rne (roundExact w .rne (exMul v sc))
        (⟨k, f, v.isNan || sc.isNan⟩ : Cell)))
    oneOutput z (gather z fNone (piecesOf x.o.cols x.o.rows (cells.take x.count)))
def execVxUnpackAct (n : Nat) (s : State) : Outcome := .next (runVector n vxUnpackActWork s)

/-! ### Dropout (R153) -/

/-- VX_DROPOUT (R129, R153): X × sZ where the mixer keeps the element, +0 elsewhere. -/
def vxDropoutWork : Work where
  op := 0x40
  ins := fun r => [vxX r.tds r.entry]
  outs := fun r rows =>
    let x := vxX r.tds r.entry
    let z := vxZ r.tds r.entry
    let w := workFmt [x, z]
    let rm := vxMode r.entry
    let sz := decodeVal fmtFP32 true z.td.scale.toNat
    oneOutput z (gather z fNone (mapCells (valuesOf x rows 0) (fun i j a =>
      if maskKeeps (vxSeed r.entry) z.td.tid.toNat (vxImm r.entry) (z.indexOf i j) then
        let (c, f) := toZ w z rm (roundExact w rm (exMul a sz))
        ⟨c, f, a.isNan || sz.isNan⟩
      else ⟨0, fNone, false⟩)))
def execVxDropout (n : Nat) (s : State) : Outcome := .next (runVector n vxDropoutWork s)

/-- VX_MASK (R153): 1 where kept, 0 elsewhere. -/
def vxMaskWork : Work where
  op := 0x41
  ins := fun _ => []
  outs := fun r _ =>
    let z := vxZ r.tds r.entry
    let cell : Nat → Nat → Cell := fun i j =>
      if maskKeeps (vxSeed r.entry) z.td.tid.toNat (vxImm r.entry) (z.indexOf i j) then
        let (c, f) := convertTo z.fmt z.o.signed .rne z.o.nanOvf Val.one
        ⟨c, f, false⟩
      else ⟨0, fNone, false⟩
    oneOutput z (gather z fNone ((List.range z.o.rows).map (fun i => (List.range z.o.cols).map (cell i))))
def execVxMask (n : Nat) (s : State) : Outcome := .next (runVector n vxMaskWork s)

/-! ### Norms and clipping (R158 to R161) -/

/-- VX_NORM (R158). -/
def vxNormWork : Work where
  op := 0x42
  ins := fun r => [vxX r.tds r.entry]
  outs := fun r rows =>
    let x := vxX r.tds r.entry
    let z := vxZ r.tds r.entry
    let w := workFmt [x, z]
    let l := inIndexOrder x (valuesOf x rows 0)
    oneOutput z (gather z fNone ((reduceSeq w z true (vxBlocks r.entry) l).map (fun c => [c])))
def execVxNorm (n : Nat) (s : State) : Outcome := .next (runVector n vxNormWork s)

/-- Word `k` of a loaded coefficient record (R159). -/
def recWord (record : List Byte) (k : Nat) : Val := decodeVal fmtFP32 true (leAt record (4 * k) 4)

/-- The clip factor (R160). -/
def clipFactor (record : List Byte) : Flagged :=
  let sumsq := recWord record 0
  let clip := recWord record 1
  let (m, f1) := fpSqrt fmtFP32 .rne sumsq
  let cmp := sigFlags [clip]
  let (k0, f2) := if clip.lt m then fpDiv fmtFP32 .rne clip m else (Val.one, fNone)
  let (k, f3) := fpMul fmtFP32 .rne k0 (recWord record 9)
  (k, f1 ||| cmp ||| f2 ||| f3)

/-- VX_CLIP (R161). -/
def vxClipWork : Work where
  op := 0x43
  ins := fun r => [recordRef r.entry, vxX r.tds r.entry]
  outs := fun r rows =>
    let x := vxX r.tds r.entry
    let z := vxZ r.tds r.entry
    let w := workFmt [x, z]
    let rm := vxMode r.entry
    let record := (rows.getD 0 []).flatMap id
    let (k, fk) := clipFactor record
    let recNan := [0, 1, 9].any (fun i => (recWord record i).isNan)
    oneOutput z (gather z fk (mapCells (valuesOf x rows 1) (fun _ _ a =>
      let (c, f) := toZ w z rm (roundExact w rm (exMul a k))
      ⟨c, f, a.isNan || recNan⟩)))
def execVxClip (n : Nat) (s : State) : Outcome := .next (runVector n vxClipWork s)

/-! ### Optimiser moments (R162, R163) -/

/-- Decode position `j` of a MOM8S block (R162). -/
def momSigned (b : List Byte) (j : Nat) : Val :=
  let e := leAt b 0 1
  let q := leAt b (1 + j) 1
  if e = 0xFF ∨ q = 0x80 then .nan false
  else
    let neg := decide (128 ≤ q)
    let m := if neg then 256 - q else q
    if m = 0 then .zero else .fin neg m ((e : Int) - 133)

/-- Decode position `j` of a MOM8U block (R162). -/
def momUnsigned (b : List Byte) (j : Nat) : Val :=
  let e := leAt b 0 1
  let u := leAt b (1 + j) 1
  if e = 0xFF then .nan false else if u = 0 then .zero else .fin false (u * u) ((e : Int) - 143)

/-- Round m × 2^e to the nearest integer, ties to even. -/
def roundNat (m : Nat) (e : Int) : Nat := ((⟨false, m, e, false⟩ : Mag).cut 0).round .rne false

/-- Round the square root of m × 2^e to the nearest integer, ties to even. -/
def roundSqrt (m : Nat) (e : Int) : Nat :=
  if 0 ≤ e then
    let v := m * 2 ^ e.toNat
    let r := isqrt v
    if r * r + r < v then r + 1 else r
  else
    let t := ((-e).toNat + 1) / 2
    let v := m * 2 ^ (2 * t - (-e).toNat)
    let r := isqrt v / 2 ^ t
    let mid := (2 * r + 1) * (2 * r + 1) * 4 ^ t
    if mid < 4 * v ∨ (mid = 4 * v ∧ r % 2 = 1) then r + 1 else r

/-- Largest magnitude of finite values: mantissa and exponent. -/
def largestMag (l : List Val) : Val :=
  l.foldl (fun a v => match v with
    | .fin _ m e => if a.lt (.fin false m e) then .fin false m e else a
    | _ => a) Val.zero

/-- Clamp an integer. -/
def clampInt (lo hi x : Int) : Int := if x < lo then lo else if hi < x then hi else x

/-- The flags of one code against its input (R163). -/
def codeFlags (v decoded : Val) (limited : Bool) : FpFlags :=
  (if v.eqv decoded then fNone else fInexact)
    ||| (if !v.isZero && decoded.isZero then fUnderflow ||| fInexact else fNone)
    ||| (if limited then fOverflow ||| fInexact else fNone)

/-- The flags of a NaN-marked block (R163). -/
def markFlags (l : List Val) : FpFlags :=
  (if l.any (fun v => !v.isNan) then fInexact else fNone) ||| (if l.any Val.isNan then fNone else fInvalid)

/-- Encode a block as MOM8S (R163). The mark of a block with a NaN goes into the padding positions of a short block too
(DESIGN CHOICE, log entry 71). -/
def encodeSigned (l : List Val) : List Byte × FpFlags :=
  let pad := 32 - l.length
  if l.any (fun v => v.isNan || v.isInf) then ((0xFF : Byte) :: List.replicate 32 0x80, markFlags l)
  else match largestMag l with
    | .fin _ m e =>
      if m = 0 then (List.replicate 33 0, fNone)
      else
        let top : Int := (Nat.log2 m : Int) + e
        let ex := clampInt 0 254 (if roundNat m (e + 6 - top) ≤ 127 then top + 127 else top + 128)
        let cs := l.map (fun v => match v with
          | .fin n m e =>
            let q := roundNat m (e + 133 - ex)
            let lim := decide (127 < q)
            let q := if lim then 127 else q
            let byte := if n then (256 - q) % 256 else q
            let d : Val := if q = 0 then .zero else .fin n q (ex - 133)
            (BitVec.ofNat 8 byte, codeFlags v d lim)
          | _ => (0, fNone))
        (BitVec.ofInt 8 ex :: (cs.map Prod.fst ++ List.replicate pad 0), cs.foldl (fun a b => a ||| b.2) fNone)
    | _ => (List.replicate 33 0, fNone)

/-- Encode a block as MOM8U (R163); padding as for MOM8S (DESIGN CHOICE, log entry 71). -/
def encodeUnsigned (l : List Val) : List Byte × FpFlags :=
  let pad := 32 - l.length
  if l.any (fun v => v.isNan || v.isInf || (v.neg && !v.isZero)) then
    (List.replicate 33 (0xFF : Byte), markFlags l)
  else match largestMag l with
    | .fin _ m e =>
      if m = 0 then (List.replicate 33 0, fNone)
      else
        let top : Int := (Nat.log2 m : Int) + e
        let ex := clampInt 0 254 (if roundSqrt m (e + 15 - top) ≤ 255 then top + 128 else top + 129)
        let cs := l.map (fun v => match v with
          | .fin _ m e =>
            let u := roundSqrt m (e + 143 - ex)
            let lim := decide (255 < u)
            let u := if lim then 255 else u
            let d : Val := if u = 0 then .zero else .fin false (u * u) (ex - 143)
            (BitVec.ofNat 8 u, codeFlags v d lim)
          | _ => (0, fNone))
        (BitVec.ofInt 8 ex :: (cs.map Prod.fst ++ List.replicate pad 0), cs.foldl (fun a b => a ||| b.2) fNone)
    | _ => (List.replicate 33 0, fNone)

/-! ### The optimiser step (R164, R165) -/

/-- What VX_OPT_STEP forms at its start: k, A1, A2 and their flags. -/
structure OptStart where
  k  : Val
  a1 : Val
  a2 : Val
  fl : FpFlags

/-- The factors of R165. -/
def optStart (record : List Byte) : OptStart :=
  let (k, f) := clipFactor record
  let (a1, g) := fpSub fmtFP32 .rne Val.one (recWord record 3)
  let (a2, h) := fpSub fmtFP32 .rne Val.one (recWord record 4)
  ⟨k, a1, a2, f ||| g ||| h⟩

/-- opt_element (R165): parameter, first and second moment, and flags. -/
def optElement (record : List Byte) (c : OptStart) (g p m0 v0 : Val) : Val × Val × Val × FpFlags :=
  let mul := fpMul fmtFP32 .rne
  let add := fpAdd fmtFP32 .rne
  let (gk, f1) := mul g c.k
  let (t1, f2) := mul (recWord record 3) m0
  let (t2, f3) := mul c.a1 gk
  let (m, f4) := add t1 t2
  let (t3, f5) := mul (recWord record 4) v0
  let (gg, f6) := mul gk gk
  let (t4, f7) := mul c.a2 gg
  let (v, f8) := add t3 t4
  let (mh, f9) := mul m (recWord record 7)
  let (vh, f10) := mul v (recWord record 8)
  let (rt, f11) := fpSqrt fmtFP32 .rne vh
  let (den, f12) := add rt (recWord record 5)
  let (u, f13) := fpDiv fmtFP32 .rne mh den
  let (wp, f14) := mul (recWord record 6) p
  let (up, f15) := add u wp
  let (st, f16) := mul (recWord record 2) up
  let (p1, f17) := fpSub fmtFP32 .rne p st
  (p1, m, v, f1 ||| f2 ||| f3 ||| f4 ||| f5 ||| f6 ||| f7 ||| f8 ||| f9 ||| f10 ||| f11 ||| f12 ||| f13 ||| f14
    ||| f15 ||| f16 ||| f17)

/-- VX_OPT_STEP (R164, R165). -/
def vxOptStepWork : Work where
  op := 0x44
  ins := fun r => [recordRef r.entry, vxX r.tds r.entry, vxY r.tds r.entry, vxZ r.tds r.entry, vxAuxRef r.tds r.entry]
  outs := fun r rows =>
      let x := vxX r.tds r.entry
      let y := vxY r.tds r.entry
      let z := vxZ r.tds r.entry
      let aux := vxAuxRef r.tds r.entry
      let record := (rows.getD 0 []).flatMap id
      let c := optStart record
      let recNan := (List.range 10).any (fun i => (recWord record i).isNan)
      let g := (valuesOf x rows 1).flatMap id
      let p := (valuesOf y rows 2).flatMap id
      let ms := (blocksOf fmtMOM8S ((rows.getD 3 []).flatMap id)).flatMap (fun b => (List.range 32).map (momSigned b))
      let vs := (blocksOf fmtMOM8U ((rows.getD 4 []).flatMap id)).flatMap (fun b => (List.range 32).map (momUnsigned b))
      let els := ((g.zip p).zip (ms.zip vs)).map (fun t =>
        let (p1, m, v, f) := optElement record c t.1.1 t.1.2 t.2.1 t.2.2
        let (code, h) := convertTo y.fmt true (vxMode r.entry) false p1
        let nanIn := recNan || t.1.1.isNan || t.1.2.isNan || t.2.1.isNan || t.2.2.isNan
        (code, m, v, f ||| h, (p1.isNan || m.isNan || v.isNan) && !nanIn))
      let mb := (piecesOf 32 (els.length + 1) (els.map (fun t => t.2.1))).map encodeSigned
      let vb := (piecesOf 32 (els.length + 1) (els.map (fun t => t.2.2.1))).map encodeUnsigned
      let fl := els.foldl (fun a t => a ||| t.2.2.2.1) c.fl
      let fl := (mb ++ vb).foldl (fun a b => a ||| b.2) fl
      let trap := els.zipIdx.foldl (fun acc t =>
        if t.1.2.2.2.2 then lowerTrap acc (some (y.indexOf (t.2 / y.o.cols) (t.2 % y.o.cols), t.2)) else acc) none
      let codes := piecesOf y.o.cols y.o.rows (els.map Prod.fst)
      ([(y, y.storedRuns codes), (z, [(z.runAddr 0, mb.flatMap Prod.fst)]), (aux, [(aux.runAddr 0, vb.flatMap Prod.fst)])],
        fl, trap)
def execVxOptStep (n : Nat) (s : State) : Outcome := .next (runVector n vxOptStepWork s)

end Sys2Proof.Machine
end

