-- ==== Sys2Proof/Machine/Dispatch.lean ====
section
/-!
DEFINITION. The dispatch: one arm for each command, in the order of the command table.
-/

namespace Sys2Proof.Machine

/-- The effect of one command on everything but the queue of waiting commands. -/
def exec (i : Instr) (s : State) : Host.Outcome State Fault Refusal :=
  match i with
  | .nop q => Sys2Proof.Machine.execNop q s
  | .signal q => Sys2Proof.Machine.execSignal q s
  | .wait q => Sys2Proof.Machine.execWait q s
  | .fence q => Sys2Proof.Machine.execFence q s
  | .tagSet q => Sys2Proof.Machine.execTagSet q s
  | .tagCheck q => Sys2Proof.Machine.execTagCheck q s
  | .mxMatmul n => Sys2Proof.Machine.execMxMatmul n s
  | .vxConvert n => Sys2Proof.Machine.execVxConvert n s
  | .vxAdd n => Sys2Proof.Machine.execVxAdd n s
  | .vxSub n => Sys2Proof.Machine.execVxSub n s
  | .vxMul n => Sys2Proof.Machine.execVxMul n s
  | .vxDiv n => Sys2Proof.Machine.execVxDiv n s
  | .vxAxpy n => Sys2Proof.Machine.execVxAxpy n s
  | .vxMin n => Sys2Proof.Machine.execVxMin n s
  | .vxMax n => Sys2Proof.Machine.execVxMax n s
  | .vxFunc n => Sys2Proof.Machine.execVxFunc n s
  | .vxReduce n => Sys2Proof.Machine.execVxReduce n s
  | .vxTree n => Sys2Proof.Machine.execVxTree n s
  | .vxPackAct n => Sys2Proof.Machine.execVxPackAct n s
  | .vxUnpackAct n => Sys2Proof.Machine.execVxUnpackAct n s
  | .vxDropout n => Sys2Proof.Machine.execVxDropout n s
  | .vxMask n => Sys2Proof.Machine.execVxMask n s
  | .vxNorm n => Sys2Proof.Machine.execVxNorm n s
  | .vxClip n => Sys2Proof.Machine.execVxClip n s
  | .vxOptStep n => Sys2Proof.Machine.execVxOptStep n s
  | .mvCopy n k => Sys2Proof.Machine.execMvCopy n k s
  | .mvFill n k => Sys2Proof.Machine.execMvFill n k s
  | .mvTdescLoad n k => Sys2Proof.Machine.execMvTdescLoad n k s
  | .mvGatherReq n k => Sys2Proof.Machine.execMvGatherReq n k s
  | .partCreate => Sys2Proof.Machine.execPartCreate s
  | .partDestroy => Sys2Proof.Machine.execPartDestroy s
  | .tenantBegin => Sys2Proof.Machine.execTenantBegin s
  | .tenantEnd q => Sys2Proof.Machine.execTenantEnd q s
  | .domainSet => Sys2Proof.Machine.execDomainSet s
  | .wakeArm => Sys2Proof.Machine.execWakeArm s
  | .paceSet => Sys2Proof.Machine.execPaceSet s
  | .voltSet => Sys2Proof.Machine.execVoltSet s
  | .aonLp => Sys2Proof.Machine.execAonLp s
  | .attest q sections => Sys2Proof.Machine.execAttest q sections s
  | .sessionExchange q request ok sections => Sys2Proof.Machine.execSessionExchange q request ok sections s
  | .weightLoad q => Sys2Proof.Machine.execWeightLoad q s
  | .windowOpen q => Sys2Proof.Machine.execWindowOpen q s
  | .windowClose q => Sys2Proof.Machine.execWindowClose q s
  | .selftest q => Sys2Proof.Machine.execSelftest q s
  | .calibrate => Sys2Proof.Machine.execCalibrate s
  | .ledgerAudit q => Sys2Proof.Machine.execLedgerAudit q s
  | .debugOpen => Sys2Proof.Machine.execDebugOpen s
  | .debugClose => Sys2Proof.Machine.execDebugClose s
  | .operatorKeyFuse => Sys2Proof.Machine.execOperatorKeyFuse s
  | .gpioOwn => Sys2Proof.Machine.execGpioOwn s
  | .fwStage => Sys2Proof.Machine.execFwStage s
  | .fwCommit => Sys2Proof.Machine.execFwCommit s
  | .randGet q => Sys2Proof.Machine.execRandGet q s
  | .machineJoin dies => Sys2Proof.Machine.execMachineJoin dies s
  | .scrubConfig => Sys2Proof.Machine.execScrubConfig s
  | .exportSeal q => Sys2Proof.Machine.execExportSeal q s
  | .commandStart q => Sys2Proof.Machine.execCommandStart q s
  | .tagWaitPoint q k => Sys2Proof.Machine.execTagWaitPoint q k s
  | .commandComplete q k => Sys2Proof.Machine.execCommandComplete q k s
  | .completionPost c => Sys2Proof.Machine.execCompletionPost c s
  | .waitTimeout q => Sys2Proof.Machine.execWaitTimeout q s
  | .refusalComplete q k => Sys2Proof.Machine.execRefusalComplete q k s
  | .squareStall n => Sys2Proof.Machine.execSquareStall n s
  | .doorbellPoll q => Sys2Proof.Machine.execDoorbellPoll q s
  | .pollReadComplete q prod gen => Sys2Proof.Machine.execPollReadComplete q prod gen s
  | .queueIdle q => Sys2Proof.Machine.execQueueIdle q s
  | .entryFetchComplete q bytes => Sys2Proof.Machine.execEntryFetchComplete q bytes s
  | .hostReadTimeout t => Sys2Proof.Machine.execHostReadTimeout t s
  | .hostReadError t e => Sys2Proof.Machine.execHostReadError t e s
  | .hifKick fn q => Sys2Proof.Machine.execHifKick fn q s
  | .queueEnable fn q park => Sys2Proof.Machine.execQueueEnable fn q park s
  | .queueDisable fn q => Sys2Proof.Machine.execQueueDisable fn q s
  | .queuePark fn q => Sys2Proof.Machine.execQueuePark fn q s
  | .queueUnpark fn q => Sys2Proof.Machine.execQueueUnpark fn q s
  | .resume fn q => Sys2Proof.Machine.execResume fn q s
  | .discard fn q => Sys2Proof.Machine.execDiscard fn q s
  | .cqEnable fn event c cfg => Sys2Proof.Machine.execCqEnable fn event c cfg s
  | .cqDisable fn event c cfg => Sys2Proof.Machine.execCqDisable fn event c cfg s
  | .cqHeadWrite fn c head => Sys2Proof.Machine.execCqHeadWrite fn c head s
  | .eqHeadWrite fn e head => Sys2Proof.Machine.execEqHeadWrite fn e head s
  | .islQabort fn n bits => Sys2Proof.Machine.execIslQabort fn n bits s
  | .ldgReleaseSnapshot fn => Sys2Proof.Machine.execLdgReleaseSnapshot fn s
  | .ldgReleasePort fn ports => Sys2Proof.Machine.execLdgReleasePort fn ports s
  | .dbgRelease m fn masters => Sys2Proof.Machine.execDbgRelease m fn masters s
  | .keyRetry fn p => Sys2Proof.Machine.execKeyRetry fn p s
  | .trayFanDutyWrite fn k duty => Sys2Proof.Machine.execTrayFanDutyWrite fn k duty s
  | .gpioOutWrite m fn v => Sys2Proof.Machine.execGpioOutWrite m fn v s
  | .gpioSetWrite m fn v => Sys2Proof.Machine.execGpioSetWrite m fn v s
  | .gpioClrWrite m fn v => Sys2Proof.Machine.execGpioClrWrite m fn v s
  | .gpioTglWrite m fn v => Sys2Proof.Machine.execGpioTglWrite m fn v s
  | .gpioCfgWrite m fn k v => Sys2Proof.Machine.execGpioCfgWrite m fn k v s
  | .dbgMemAccess m fn write data => Sys2Proof.Machine.execDbgMemAccess m fn write data s
  | .dbgLogRead m fn k => Sys2Proof.Machine.execDbgLogRead m fn k s
  | .registerWrite a data => Sys2Proof.Machine.execRegisterWrite a data s
  | .heldRequestTimeout a => Sys2Proof.Machine.execHeldRequestTimeout a s
  | .bar2Forward fn write off data => Sys2Proof.Machine.execBar2Forward fn write off data s
  | .pcieConfigRequest fn c => Sys2Proof.Machine.execPcieConfigRequest fn c s
  | .earlyMemoryRequest fn => Sys2Proof.Machine.execEarlyMemoryRequest fn s
  | .flitSlot p => Sys2Proof.Machine.execFlitSlot p s
  | .idleReceive p raw => Sys2Proof.Machine.execIdleReceive p raw s
  | .probeSend p => Sys2Proof.Machine.execProbeSend p s
  | .probeReceive p raw => Sys2Proof.Machine.execProbeReceive p raw s
  | .probeEchoReceive p raw ns => Sys2Proof.Machine.execProbeEchoReceive p raw ns s
  | .silenceTimeout p => Sys2Proof.Machine.execSilenceTimeout p s
  | .probeTimeout p => Sys2Proof.Machine.execProbeTimeout p s
  | .creditDeadline p vc => Sys2Proof.Machine.execCreditDeadline p vc s
  | .nakReceive p raw => Sys2Proof.Machine.execNakReceive p raw s
  | .fecLockLoss p => Sys2Proof.Machine.execFecLockLoss p s
  | .partnerTraining p => Sys2Proof.Machine.execPartnerTraining p s
  | .trainingDone p ok => Sys2Proof.Machine.execTrainingDone p ok s
  | .holdReceive p => Sys2Proof.Machine.execHoldReceive p s
  | .portEnable p => Sys2Proof.Machine.execPortEnable p s
  | .helloI p raws m => Sys2Proof.Machine.execHelloI p raws m s
  | .helloR p raws m => Sys2Proof.Machine.execHelloR p raws m s
  | .finishI p raws m => Sys2Proof.Machine.execFinishI p raws m s
  | .finishR p raws m => Sys2Proof.Machine.execFinishR p raws m s
  | .keyRefused p raws => Sys2Proof.Machine.execKeyRefused p raws s
  | .helloResend p => Sys2Proof.Machine.execHelloResend p s
  | .creditSync p raw m => Sys2Proof.Machine.execCreditSync p raw m s
  | .lostNotice p raw xfer bytes die port => Sys2Proof.Machine.execLostNotice p raw xfer bytes die port s
  | .grant p raw g => Sys2Proof.Machine.execGrant p raw g s
  | .revoke p raw die part window => Sys2Proof.Machine.execRevoke p raw die part window s
  | .revokeAck p raw part window sent => Sys2Proof.Machine.execRevokeAck p raw part window sent s
  | .winDataReceive p raw => Sys2Proof.Machine.execWinDataReceive p raw s
  | .winAck p raw xfer bytes => Sys2Proof.Machine.execWinAck p raw xfer bytes s
  | .gatherReqReceive p raw => Sys2Proof.Machine.execGatherReqReceive p raw s
  | .gatherServiceStart n k => Sys2Proof.Machine.execGatherServiceStart n k s
  | .xferVerdict p raw xfer refused poisoned sent info => Sys2Proof.Machine.execXferVerdict p raw xfer refused poisoned sent info s
  | .fwdReceive p raw m => Sys2Proof.Machine.execFwdReceive p raw m s
  | .sleepReq p raw off => Sys2Proof.Machine.execSleepReq p raw off s
  | .sleepAck p raw => Sys2Proof.Machine.execSleepAck p raw s
  | .wakePatternSend p => Sys2Proof.Machine.execWakePatternSend p s
  | .wakePatternDetect p => Sys2Proof.Machine.execWakePatternDetect p s
  | .wakeTimeout p => Sys2Proof.Machine.execWakeTimeout p s
  | .readShared agent line => Sys2Proof.Machine.execReadShared agent line s
  | .readOwn agent line => Sys2Proof.Machine.execReadOwn agent line s
  | .upgrade agent line => Sys2Proof.Machine.execUpgrade agent line s
  | .writeback agent line => Sys2Proof.Machine.execWriteback agent line s
  | .evictClean agent line => Sys2Proof.Machine.execEvictClean agent line s
  | .invalidate agent line => Sys2Proof.Machine.execInvalidate agent line s
  | .recallShare agent line => Sys2Proof.Machine.execRecallShare agent line s
  | .recallOwn agent line => Sys2Proof.Machine.execRecallOwn agent line s
  | .recallAck agent line => Sys2Proof.Machine.execRecallAck agent line s
  | .nonCachingAccess addr len write => Sys2Proof.Machine.execNonCachingAccess addr len write s
  | .invalidationApply agent line => Sys2Proof.Machine.execInvalidationApply agent line s
  | .hbmPatrolRead stack upsets late => Sys2Proof.Machine.execHbmPatrolRead stack upsets late s
  | .spPatrolRead n upsets => Sys2Proof.Machine.execSpPatrolRead n upsets s
  | .scrubTally => Sys2Proof.Machine.execScrubTally s
  | .refusalTally => Sys2Proof.Machine.execRefusalTally s
  | .firmwareRebuild block => Sys2Proof.Machine.execFirmwareRebuild block s
  | .fillRunDone => Sys2Proof.Machine.execFillRunDone s
  | .weightLoadChunk q => Sys2Proof.Machine.execWeightLoadChunk q s
  | .hbmRefresh stack pc mult => Sys2Proof.Machine.execHbmRefresh stack pc mult s
  | .hbmPhyCalibration stack => Sys2Proof.Machine.execHbmPhyCalibration stack s
  | .quiesceDone q => Sys2Proof.Machine.execQuiesceDone q s
  | .quiesceTimeout q => Sys2Proof.Machine.execQuiesceTimeout q s
  | .domainTransitionDone d => Sys2Proof.Machine.execDomainTransitionDone d s
  | .pinWake k => Sys2Proof.Machine.execPinWake k s
  | .pfD3hot => Sys2Proof.Machine.execPfD3hot s
  | .aonLpExitTlp => Sys2Proof.Machine.execAonLpExitTlp s
  | .pfD0Return => Sys2Proof.Machine.execPfD0Return s
  | .vfFlr fn => Sys2Proof.Machine.execVfFlr fn s
  | .pfFlr => Sys2Proof.Machine.execPfFlr s
  | .ideStreamEnable k => Sys2Proof.Machine.execIdeStreamEnable k s
  | .ideIntegrityFail k => Sys2Proof.Machine.execIdeIntegrityFail k s
  | .getVersion fn request => Sys2Proof.Machine.execGetVersion fn request s
  | .getCapabilities fn request => Sys2Proof.Machine.execGetCapabilities fn request s
  | .negotiateAlgorithms fn request => Sys2Proof.Machine.execNegotiateAlgorithms fn request s
  | .getDigests fn request => Sys2Proof.Machine.execGetDigests fn request s
  | .getCertificate fn request => Sys2Proof.Machine.execGetCertificate fn request s
  | .challenge fn request => Sys2Proof.Machine.execChallenge fn request s
  | .getMeasurements fn request sections => Sys2Proof.Machine.execGetMeasurements fn request sections s
  | .keyExchange fn request => Sys2Proof.Machine.execKeyExchange fn request s
  | .finish fn request ok => Sys2Proof.Machine.execFinish fn request ok s
  | .endSession fn request => Sys2Proof.Machine.execEndSession fn request s
  | .voutPoll mv status => Sys2Proof.Machine.execVoutPoll mv status s
  | .voltSetTimeout => Sys2Proof.Machine.execVoltSetTimeout s
  | .pmbusTelemetryRead mv ma tempC => Sys2Proof.Machine.execPmbusTelemetryRead mv ma tempC s
  | .pmbusAlert status => Sys2Proof.Machine.execPmbusAlert status s
  | .paceShortfall => Sys2Proof.Machine.execPaceShortfall s
  | .powerLimitCheck avgW => Sys2Proof.Machine.execPowerLimitCheck avgW s
  | .thermalAlert avgC => Sys2Proof.Machine.execThermalAlert avgC s
  | .telemetryUpdate avgW avgC => Sys2Proof.Machine.execTelemetryUpdate avgW avgC s
  | .thermalTrip sensorC => Sys2Proof.Machine.execThermalTrip sensorC s
  | .brownout slot tray xtal => Sys2Proof.Machine.execBrownout slot tray xtal s
  | .fanTachUpdate k => Sys2Proof.Machine.execFanTachUpdate k s
  | .fanStall k => Sys2Proof.Machine.execFanStall k s
  | .gpioLevelAccept k level => Sys2Proof.Machine.execGpioLevelAccept k level s
  | .captureEdge f => Sys2Proof.Machine.execCaptureEdge f s
  | .tachSecond => Sys2Proof.Machine.execTachSecond s
  | .syncOutPulse => Sys2Proof.Machine.execSyncOutPulse s
  | .pwmPeriodStart k => Sys2Proof.Machine.execPwmPeriodStart k s
  | .trngSample => Sys2Proof.Machine.execTrngSample s
  | .trngTestFail => Sys2Proof.Machine.execTrngTestFail s
  | .powerOnReset slot tray xtal => Sys2Proof.Machine.execPowerOnReset slot tray xtal s
  | .warmReset lowUs xtal => Sys2Proof.Machine.execWarmReset lowUs xtal s
  | .perstReset xtal => Sys2Proof.Machine.execPerstReset xtal s
  | .firmwareVerified => Sys2Proof.Machine.execFirmwareVerified s
  | .hbmTrainingDone stack ok => Sys2Proof.Machine.execHbmTrainingDone stack ok s
  | .gooseReady => Sys2Proof.Machine.execGooseReady s
  | .bootDeadline => Sys2Proof.Machine.execBootDeadline s
  | .porNLow lowUs => Sys2Proof.Machine.execPorNLow lowUs s
  | .perstNRise => Sys2Proof.Machine.execPerstNRise s
  | .registerRead a => Sys2Proof.Machine.execRegisterRead a s
  | .flitCrcFailure p crc => Sys2Proof.Machine.execFlitCrcFailure p crc s
  | .tachRisingEdge k => Sys2Proof.Machine.execTachRisingEdge k s
  | .jtagInstruction code => Sys2Proof.Machine.execJtagInstruction code s
  | .selftestEnd n passed failing => Sys2Proof.Machine.execSelftestEnd n passed failing s
  | .calibrationEnd => Sys2Proof.Machine.execCalibrationEnd s
  | .auditCreditExchange p raw returned => Sys2Proof.Machine.execAuditCreditExchange p raw returned s
  | .auditWaitTimeout q => Sys2Proof.Machine.execAuditWaitTimeout q s
  | .hostReadReturn q k addr bytes => Sys2Proof.Machine.execHostReadReturn q k addr bytes s
  | .flashProgramDone => Sys2Proof.Machine.execFlashProgramDone s
  | .fuseBlowDone readBackOk => Sys2Proof.Machine.execFuseBlowDone readBackOk s

end Sys2Proof.Machine
end

