-- ==== Sys2Proof/Safety.lean ====
section
/-!
DEFINITION. What counts as a safe run of the block: every waiting command is well formed, and no step ends in a fault or a
refusal. The one fault of the model is a reset pulse shorter than the board must give (R516).
-/

namespace Sys2Proof.Machine

/-- An outcome that is a next state. -/
def Completes (o : Host.Outcome State Fault Refusal) : Prop := ∃ t, o = .next t

/-- Every command that waits names things the die has. -/
def State.commanded (s : State) : Bool := s.pending.all Instr.wellFormed

/-- `t` is reached from `s` by steps that each answer a next state. -/
inductive ReachedFrom : State → State → Prop where
  | refl (s : State) : ReachedFrom s s
  | tail {s t u : State} : ReachedFrom s t → step t = .next u → ReachedFrom s u

/-- A run from `s` is safe: no step of it ends in a fault or a refusal. -/
def SafeFrom (s : State) : Prop := ∀ t, ReachedFrom s t → Completes (step t)

/-- A command that is not a reset pulse: only those can fault. -/
def resetPulse : Instr → Bool
  | .porNLow _ => true
  | .warmReset _ _ => true
  | _ => false

end Sys2Proof.Machine
end

