-- ==== Sys2Proof/Certificates/Slice0/Obligations.lean ====
section
/-!
DEFINITION. The statements for the provers. `Ended`, `Reaches` and the other definitions under `Sys2Proof.Claims` are the
words in which they are said; the rest of their vocabulary is the model's own.
-/

open Sys2Proof Sys2Proof.Machine

namespace Sys2Proof.Claims

/-- The `i`-th started command of queue `q` has ended with a status and INFO; its completion is to be posted. -/
def Ended (t : State) (q i : Nat) (status : BitVec 8) (info : Nat) : Prop :=
  ∃ r, t.runAt q i = some r ∧ r.phase = .done ∧ r.status = status ∧ r.info = BitVec.ofNat 64 info

/-- Every memory of the model is in its canonical form. -/
def MemoryCanonical (s : State) : Prop := Memory.wf s.hbm = true ∧ Memory.wf s.scratch = true ∧ Memory.wf s.flash = true

/-- No fuse bit of `f` is lost in `g`, and the fuses that no command blows are the same. -/
def FusesRise (f g : Fuses) : Prop :=
  f.revoked &&& g.revoked = f.revoked ∧ f.secVersion &&& g.secVersion = f.secVersion ∧
  (∀ k, f.slotHash.getD k 0 &&& g.slotHash.getD k 0 = f.slotHash.getD k 0) ∧
  g.lot = f.lot ∧ g.wafer = f.wafer ∧ g.dieX = f.dieX ∧ g.dieY = f.dieY ∧ g.serial = f.serial ∧
  g.revLetter = f.revLetter ∧ g.revNumber = f.revNumber ∧ g.deviceSeed = f.deviceSeed

/-- The Vector commands with the work of each (R129, R133, R134, R151 to R153, R158 to R165). -/
def vectorWorks : List ((Nat → Instr) × Work) :=
  [(.vxConvert, vxConvertWork), (.vxAdd, vxAddWork), (.vxSub, vxSubWork), (.vxMul, vxMulWork), (.vxDiv, vxDivWork),
   (.vxAxpy, vxAxpyWork), (.vxMin, vxMinWork), (.vxMax, vxMaxWork), (.vxFunc, vxFuncWork), (.vxReduce, vxReduceWork),
   (.vxTree, vxTreeWork), (.vxPackAct, vxPackActWork), (.vxUnpackAct, vxUnpackActWork), (.vxDropout, vxDropoutWork),
   (.vxMask, vxMaskWork), (.vxNorm, vxNormWork), (.vxClip, vxClipWork), (.vxOptStep, vxOptStepWork)]

/-- The effect that a command has on the state, as an answer of `exec`. -/
def Does (c : Instr) (s t : State) : Prop := exec c s = .next t

/-- A 32-bit access of master `m` for function `fn`, at offset `o` of register space or its mirror in the VF's space, reaches
the register `r`: the host interface takes it, the master's path is not frozen, and its rights hold (R325, R334 to R337). -/
def Reaches (s : State) (m : Master) (fn o : Nat) (write : Bool) (r : Reg) : Prop :=
  let a := accOf m fn o
  a.off % 4 = 0 ∧ s.noRequests a = false ∧ s.frozenPath a = false ∧ s.accessReason a write = none ∧
  s.hit a write (a.off % 8 / 4) = .reg r false ∧ s.hit a write 1 ≠ .reg r true

/-- Function `fn` may set queue `q` (R198, R204): the PF queue 64, a VF the queues of its partition. -/
def MaySet (s : State) (fn q : Nat) : Prop := (q = 64 ∧ fn = 0) ∨ (q ≠ 64 ∧ ∃ p, s.queueOwner q = some p ∧ fn = p + 1)

/-- The writer behind a 32-bit access of master `m` for function `fn` (R325, R481). -/
def onBehalf (m : Master) (fn : Nat) : Writer :=
  match m with
  | .goose => .goose
  | .hif | .soundGw => if fn = 0 then .host else .part (fn - 1)
  | .dbg | .icpHub => .nobody

/-- No field check of a command fails. -/
def Clean (checks : List (Nat × Bool)) : Prop := ∀ c, c ∈ checks → c.2 = false

/-- The state in which the command `r` at the front of ring `q` has ended with a status and INFO and nothing else has changed. -/
def ended (s : State) (q : Nat) (r : Run) (status : BitVec 8) (info : Nat) : State :=
  s.setRun q 0 { r with phase := .done, status := status, info := BitVec.ofNat 64 info }

/-- The same for MALFORMED with a sub-code and detail (R218, R219). -/
def malformed (s : State) (q : Nat) (r : Run) (sub detail : Nat) : State := ended s q r stMalformed (malformedInfo (sub, detail)).toNat

/-- The state in which the command `r` at the front of ring `q` waits for another event, keeping `aux`. -/
def waits (s : State) (q : Nat) (r : Run) (aux : List Nat) : State := s.setRun q 0 { r with phase := .busy, aux := aux }

/-- The bytes `raw` are taken on port `p` as flit `f` (R291 to R293, R296, R298, R302): they arrive as a flit of type `typ`, the port is
enabled and UP, the flit is keyed and its tag verifies, the credits it returns are outstanding, it is the next of its sequence, and its
channel has a slot. -/
def Taken (s : State) (p typ : Nat) (raw : List Byte) (f : Flit) : Prop :=
  s.arrives p typ raw = true ∧ (s.port p).enabled = true ∧ (s.port p).st = .up ∧ (readFlit raw).keyed = true ∧
  (s.port p).open raw = some f ∧
  (f.crCount.toNat = 0 ∨
    ((s.port p).credit f.crVc.toNat).held + f.crCount.toNat ≤ ((s.port p).credit f.crVc.toNat).granted) ∧
  ((s.takeHeader p f).port p).st = .up ∧ f.seq = seqOf (((s.takeHeader p f).port p).rxSeq + 1) ∧
  (((s.takeHeader p f).port p).credit f.vc.toNat).taken < fullGrant f.vc.toNat

/-- They are taken, and the flit is for this die. -/
def Accepts (s : State) (p typ : Nat) (raw : List Byte) (f : Flit) : Prop := Taken s p typ raw f ∧ f.dst.toNat = s.die

/-- The state in which an accepted flit's content acts: acknowledgement and credits are taken, and its slot is occupied. -/
def accepted (s : State) (p : Nat) (f : Flit) : State :=
  let u := s.takeHeader p f
  let t := u.port p
  let c := t.credit f.vc.toNat
  u.setPort p ({ t with rxSeq := t.rxSeq + 1 }.setCredit f.vc.toNat { c with taken := c.taken + 1 })

/-- The state after `f` has acted with `k`: its slot is free and its credit is to be returned (R296). -/
def delivered (s : State) (p : Nat) (f : Flit) (k : State → State) : State := (k (accepted s p f)).freeSlot p f.vc.toNat

/-- A keying message is read on port `p` (R302, R303): its KEY flits arrive while the port is enabled and in KEYING, each the next of the
exchange. -/
def Keys (s : State) (p : Nat) (raws : List (List Byte)) : Prop :=
  raws ≠ [] ∧ raws.all (s.arrives p typKey) = true ∧ (s.port p).enabled = true ∧ (s.port p).st = .keying ∧
  (raws.foldl (State.takeKeyFlit p) (true, s)).1 = true

/-- The state in which a keying message is read: its flits are taken. -/
def heard (s : State) (p : Nat) (raws : List (List Byte)) : State := (raws.foldl (State.takeKeyFlit p) (true, s)).2

/-- A keying message passes its checks (R41, R303). -/
def Genuine (s : State) (p : Nat) (m : KeyMsg) : Prop :=
  s.expectedDie p = some m.die.toNat ∧ m.port = p ∧ m.serial ≠ s.fuses.serial ∧ (pointOf m.pub).isSome = true

/-- The command `c` is the arrival on port `p` of one flit of type `typ`, whose bytes are `raw` (R291). -/
inductive Carries (p : Nat) (raw : List Byte) : Nat → Instr → Prop where
  | idle : Carries p raw 0x00 (.idleReceive p raw)
  | probe : Carries p raw 0x01 (.probeReceive p raw)
  | echo (ns : Nat) : Carries p raw 0x02 (.probeEchoReceive p raw ns)
  | nak : Carries p raw 0x03 (.nakReceive p raw)
  | sync (m : SyncMsg) : Carries p raw 0x04 (.creditSync p raw m)
  | lost (x n d q : Nat) : Carries p raw 0x09 (.lostNotice p raw x n d q)
  | grant (g : GrantMsg) : Carries p raw 0x09 (.grant p raw g)
  | revoke (d q w : Nat) : Carries p raw 0x09 (.revoke p raw d q w)
  | revokeAck (q w n : Nat) : Carries p raw 0x09 (.revokeAck p raw q w n)
  | sleepReq (off : Bool) : Carries p raw 0x09 (.sleepReq p raw off)
  | sleepAck : Carries p raw 0x09 (.sleepAck p raw)
  | audit (l : List Nat) : Carries p raw 0x09 (.auditCreditExchange p raw l)
  | fwd (m : FwdMsg) : Carries p raw 0x0A (.fwdReceive p raw m)
  | gather : Carries p raw 0x10 (.gatherReqReceive p raw)
  | winAck (x n : Nat) : Carries p raw 0x18 (.winAck p raw x n)
  | verdict (x : Nat) (refused poisoned : Bool) (n info : Nat) : Carries p raw 0x19 (.xferVerdict p raw x refused poisoned n info)
  | winData : Carries p raw 0x20 (.winDataReceive p raw)

/-- What flit `f` asks of this die cannot be done yet, and the command that brings it waits (R274, R331, R430). -/
def Delayed (s : State) (f : Flit) : Instr → Prop
  | .winDataReceive _ _ => s.winDataReady f = false
  | .fwdReceive _ _ m => f.dst.toNat = s.die ∧ s.fwdWaits m = true
  | _ => False

/-- Kinds of state, for what a command may change. -/
inductive Kind where
  | outputs | free | time | goose | boot | power | domains | upkeep | bus | pins | queues | rings | msix | islets |
  nums | parts | owners | frozen | keys | hbm | caches | scratch | flash | fuses | switches | ports | grants | xfers |
  remotes | sessions
  deriving DecidableEq, Repr

/-- What is of one kind is the same in `t` as in `s`. -/
def Same (s t : State) : Kind → Prop
  | .outputs => t.out = s.out
  | .free => t.freeCtr = s.freeCtr
  | .time => t.time = s.time ∧ t.secDone = s.secDone
  | .goose => t.mgt = s.mgt
  | .boot => t.boot = s.boot
  | .power => t.power = s.power
  | .domains => t.domains = s.domains
  | .upkeep => t.up = s.up
  | .bus => t.bus = s.bus
  | .pins => t.gpio = s.gpio
  | .queues => t.queues = s.queues ∧ t.lastRing = s.lastRing ∧ t.hostFifo = s.hostFifo
  | .rings => t.rings = s.rings ∧ t.msixPend = s.msixPend
  | .msix => t.msixWord = s.msixWord ∧ t.msixOpen = s.msixOpen ∧ t.pcie = s.pcie
  | .islets => t.islets = s.islets
  | .nums => t.nums = s.nums
  | .parts => t.parts = s.parts
  | .owners => t.owners = s.owners
  | .frozen => t.frozen = s.frozen
  | .keys => t.keys = s.keys ∧ t.store = s.store
  | .hbm => t.hbm = s.hbm ∧ t.hbmPoison = s.hbmPoison ∧ t.hbmErr = s.hbmErr
  | .caches => t.caches = s.caches ∧ t.invQueue = s.invQueue ∧ t.lagoon = s.lagoon ∧ t.plru = s.plru
  | .scratch => t.scratch = s.scratch ∧ t.spPoison = s.spPoison ∧ t.spErr = s.spErr
  | .flash => t.flash = s.flash
  | .fuses => t.fuses = s.fuses ∧ t.romKey = s.romKey
  | .switches => t.switches = s.switches
  | .ports => t.ports = s.ports
  | .grants => t.grants = s.grants
  | .xfers => t.xfers = s.xfers ∧ t.nextXfer = s.nextXfer
  | .remotes => t.remotes = s.remotes
  | .sessions => t.sessions = s.sessions ∧ t.ideOn = s.ideOn ∧ t.ideKeys = s.ideKeys

/-- Whatever next state command `c` answers, it has left everything alone but these kinds of state; it has left the queue of
waiting commands alone. -/
def Frame (may : List Kind) (c : Instr) : Prop :=
  ∀ s t, exec c s = .next t → t.pending = s.pending ∧ ∀ k, k ∉ may → Same s t k

/-- The kinds that an event of the block may change: raising one writes its ring, through the machine lead where the die is not the lead;
a breach found on the way halts the queues of what it names, whose transfers to other dies stop, and tells other dies. -/
def events : List Kind := [.outputs, .power, .upkeep, .queues, .rings, .islets, .parts, .ports, .grants, .xfers]

/-- These, and more. -/
def also (more : List Kind) : List Kind := events ++ more

/-- The kinds that an access of the register space may change: a write may close a session, end an aperture's ownership, start a port
or halt a queue. -/
def registerKinds : List Kind := also [.free, .time, .goose, .boot, .bus, .pins, .msix, .nums, .owners, .frozen, .hbm, .caches,
  .scratch, .switches]

/-- The byte of HBM at an address as the coherence protocol gives it (R256, R257): from the cache of the line's owner where that
has it Modified, else from the point of coherence. -/
def hbmSeen (s : State) (a : Nat) : Byte :=
  match (s.lag (a / 128)).owner with
  | some o => if (s.cached o (a / 128)).st = .modified then Memory.byte (s.cached o (a / 128)).data (a % 128) else Memory.byte s.hbm a
  | none => Memory.byte s.hbm a

/-- No coherence message is under way, and the Lagoon lists lines of HBM only. -/
def Coherent (s : State) : Prop :=
  (∀ l, (s.lag l).txn = none) ∧ (∀ a, s.invs a = []) ∧ (∀ l, l ∈ Table.keys s.lagoon → l < 2 ^ 40)

end Sys2Proof.Claims

open Sys2Proof.Claims

/-! ### The block -/

/-- A step takes the command at the front of the queue and is exec of it on the state with the queue's rest. -/
def Obligations.StepRunsFront : Prop :=
  ∀ (s : State) (c : Instr) (rest : List Instr), s.pending = c :: rest → step s = exec c { s with pending := rest }

/-- With no command waiting the block idles: its time base counts 10 ns while POR_N is high and the die has not tripped.
That an empty queue lets one count pass is the model's choice (log entry 1). -/
def Obligations.EmptyQueueIdles : Prop :=
  ∀ s : State, s.pending = [] →
    step s = .next (if s.boot.porHigh && !s.power.tripped then { s with time := s.time + 1 } else s)

/-- No command ends a run but a reset pulse too short (R516): every other command answers a next state in every state, well
formed or not, and the two reset rows stop exactly below the width that R438 and R453 ask of the board, the warm reset where the die runs. -/
def Obligations.OnlyShortResetsStop : Prop :=
  ∀ (c : Instr) (s : State),
    (resetPulse c = false → Completes (exec c s)) ∧
    (∀ us, (us < 1000 → exec (.porNLow us) s = .fault .resetTooShort) ∧ (1000 ≤ us → Completes (exec (.porNLow us) s))) ∧
    (∀ us x, 10 ≤ us → Completes (exec (.warmReset us x) s)) ∧
    (∀ us x, s.alive = true → us < 10 → exec (.warmReset us x) s = .fault .resetTooShort)

/-- What reset leaves (R411, R436, R376's states, R405, R230): the pace and the voltage, the domains, no partition, no
enabled queue or ring, every granule but the firmware region unowned, and no command waiting. -/
def Obligations.ResetState : Prop :=
  State.reset.power.paceCap = 90 ∧ State.reset.power.volt = 750 ∧
  (∀ d, (State.reset.domain d).st = if d = 32 ∨ d = 33 ∨ d = 34 then .on else .off) ∧
  (∀ p, (State.reset.part p).state = .none ∧ (State.reset.part p).islets = 0) ∧
  (∀ q, (State.reset.queue q).enable = false ∧ (State.reset.queue q).st = .disabled) ∧
  (∀ c, (State.reset.ring c).enable = false) ∧
  (∀ g, State.reset.owner g = if g = 191 then 0xFE else 0xFF) ∧
  State.reset.boot.porHigh = false ∧ State.reset.pending = []

/-- Memory is in its canonical form at reset. -/
def Obligations.MemoryCanonicalAtReset : Prop :=
 MemoryCanonical State.reset

/-- Every step keeps the canonical form of HBM, scratchpads and boot flash: equal memories are equal data. -/
def Obligations.MemoryCanonicalKept : Prop :=
  ∀ s t : State, MemoryCanonical s → step s = .next t → MemoryCanonical t

/-- R348: over every command, a fuse bit changes only from 0 to 1, and only where the Goose has blown the fuses that
OPERATOR_KEY_FUSE or FW_COMMIT asked for. -/
def Obligations.FusesOnlyRise : Prop :=
  ∀ (c : Instr) (s t : State), exec c s = .next t →
    FusesRise s.fuses t.fuses ∧
    ((∀ ok, c ≠ .fuseBlowDone ok) ∨ (s.mgmtBusy 64 0x93 = none ∧ s.mgmtBusy 64 0x96 = none) → t.fuses = s.fuses)

/-- A byte of memory after a write: the byte written inside its extent, the old one outside it (R241 for one byte). -/
def Obligations.MemoryReadAfterWrite : Prop :=
  ∀ (m : Memory) (a b : Nat) (l : List Byte),
    Memory.byte (Memory.write m a l) b = if a ≤ b ∧ b < a + l.length then l.getD (b - a) 0 else Memory.byte m b

/-! ### The life of a command -/

/-- NOP, SIGNAL and WAIT, once they have started, end their work DONE with INFO 0 (R187, R188). FENCE drains the store buffer of its Islet
for a release, and on a VX queue it applies the pending invalidations for an acquire, the release first; a release waits while a slice or
stack of a line to drain is not ON, and at SYSTEM scope until the machine lead has passed the queue's host writes on (R189, R242, R243,
R250). TAG_CHECK changes no tag; its INFO holds how many squares differ from STATE and the lowest (R190). -/
def Obligations.CommonCommands : Prop :=
  (∀ (q : Nat) (s : State) (r : Run),
     let i := s.liveIdx q
     (s.commonRun q 0 = some r → exec (.nop q) s = .next (s.endWork q i { r with status := stDone, info := 0 } false)) ∧
     (s.commonRun q 1 = some r → exec (.signal q) s = .next (s.endWork q i { r with status := stDone, info := 0 } false)) ∧
     (s.commonRun q 2 = some r → exec (.wait q) s = .next (s.endWork q i { r with status := stDone, info := 0 } false))) ∧
  (∀ (q : Nat) (s : State) (r : Run), s.commonRun q 3 = some r →
     let scope := bits (leAt r.entry 24 1) 1 0
     let kind := bits (leAt r.entry 24 1) 3 2
     let n := q / 3
     let done (u : State) : State := u.finish q (u.liveIdx q) stDone 0
     (2 ≤ kind → (s.storesReady n = false ∨ scope = 2 ∧ s.passedOn q = false) → exec (.fence q) s = .next s) ∧
     ((s.storesReady n = true ∧ (scope ≠ 2 ∨ s.passedOn q = true)) ∨ kind < 2 →
       (qKind q ≠ .vx ∨ kind % 2 = 0 → exec (.fence q) s = .next (done (if 2 ≤ kind then s.drainStores n else s))) ∧
       (qKind q = .vx → kind % 2 = 1 →
         exec (.fence q) s = .next (done ((if 2 ≤ kind then s.drainStores n else s).applyAllInvs n))))) ∧
  (∀ (q : Nat) (s : State) (r : Run), s.commonRun q 5 = some r →
     let v := leAt r.entry 24 4
     let sq : Nat → Nat := fun j => v % 1024 + j * (if bit v 21 then 32 else 1)
     let bad := ((List.range (bits v 20 10)).map sq).filter (fun k => (s.islet (q / 3)).tagFull k != bit v 22)
     exec (.tagCheck q) s = .next (s.finish q (s.liveIdx q) stDone (bad.length + bad.headD 0 * 2 ^ 32)))

/-- TAG_SET over a range in which no square is claimed (R190, R100): every square of the range takes STATE and no other
square changes, each change is counted as a fill or a take, and the command ends DONE with the number of changes. -/
def Obligations.TagSet : Prop :=
  ∀ (q : Nat) (s : State) (r : Run), s.commonRun q 4 = some r → r.steps = 0 → r.owed = 0 →
    let v := leAt r.entry 24 4
    let cnt := bits v 20 10
    let sq : Nat → Nat := fun j => v % 1024 + j * (if bit v 21 then 32 else 1)
    let full := bit v 22
    let n := q / 3
    let i := s.islet n
    1 ≤ cnt → sq (cnt - 1) < 1024 → (∀ j, j < cnt → i.isClaimed (sq j) = false) →
    ∃ tags : BitVec 1024,
      (∀ k, k < 1024 → tags.getLsbD k = if ∃ j, j < cnt ∧ sq j = k then full else i.tags.getLsbD k) ∧
      (let c := ((List.range cnt).filter (fun j => i.tagFull (sq j) != full)).length
       let i' : Islet := { i with tags := tags, stallTold := false,
                                  fills := if full then i.fills + BitVec.ofNat 32 c else i.fills,
                                  takes := if full then i.takes else i.takes + BitVec.ofNat 32 c }
       let u := ((s.setIslet n i').setRun q (s.liveIdx q) { r with steps := cnt, owed := c, waitAt := s.time }).judgeTag i n
       exec (.tagSet q) s = .next (u.finish q (u.liveIdx q) stDone c).reevaluate)

/-- Changing the tag of a square (R100, R467): the tag is as set, no other tag changes, and where fills less takes equal
the number of FULL squares they still do. -/
def Obligations.TagLedger : Prop :=
  ∀ (i : Islet) (sq : Nat) (full : Bool), sq < 1024 →
    (∀ k, k < 1024 → (i.setTag sq full).tagFull k = if k = sq then full else i.tagFull k) ∧
    (i.fills - i.takes = BitVec.ofNat 32 i.fullCount →
      (i.setTag sq full).fills - (i.setTag sq full).takes = BitVec.ofNat 32 (i.setTag sq full).fullCount)

/-- The end of a command's work on an Islet's queue (R95 to R98): the holds and waits of the run end; where the status is DONE
or NAN_TRAP the tag of every square it claimed to fill is FULL and those claims are dropped. Else every claim is dropped, and only the
squares change that it had written whole, which are FULL, or had read for the last time while nobody else held them, which are EMPTY. What
follows is the ledger's check, the due takes, the waits and the next entry at the head. -/
def Obligations.WorkEnds : Prop :=
  ∀ (s : State) (q i : Nat) (r : Run), q < 48 →
    let n := q / 3
    let isl := s.islet n
    let fills := r.claims.filter (fun w => w.mode == .writeFill)
    let rest := r.claims.filter (fun w => w.mode != .writeFill)
    let done : Run := { r with holds := [], waits := [], phase := .done }
    let filled := fills.foldl (fun (x : Islet) w => x.setTag w.square true) isl
    let partly := (s.setRun q i done).reachedSoFar n done isl
    let after (u : State) : State := (((u.judgeTag isl n).settleIslet n).reevaluate).headArrive q
    (r.status = stDone ∨ r.status = stNanTrap →
      s.endWork q i r false = after ((s.setIslet n (filled.unclaim fills)).setRun q i { done with claims := rest })) ∧
    (r.status ≠ stDone → r.status ≠ stNanTrap →
      s.endWork q i r false = after ((s.setIslet n (partly.unclaim r.claims)).setRun q i { done with claims := [] })) ∧
    (∀ w, w ∈ fills → w.square < 1024 → filled.tagFull w.square = true) ∧
    (∀ k, k < 1024 →
      (∀ w, w ∈ r.claims → w.square = k → (w.mode = .writeFill → k ∉ r.wroteSq) ∧ (w.mode = .readTake → k ∉ r.readSq)) →
        partly.tagFull k = isl.tagFull k)

/-- COMMAND_START. On an engine queue (R113, R142) checks 1 to 5 end the command MALFORMED; else a failed rights check starts its
refusal; else it has started, with its wait points before it. On a control ring (R193, R194, R355) the ring the Goose serves next
starts its head; in RECOVERY every opcode but NOP, FW_STAGE and FW_COMMIT ends NOT_READY; a common command with a reserved field
ends MALFORMED. -/
def Obligations.CommandStarts : Prop :=
  (∀ (q : Nat) (s : State) (e : List Byte) (rest : List (List Byte)),
     q < 48 → s.canStart q = true → (s.queue q).entries = e :: rest →
     let n := q / 3
     let i := s.islet n
     let r : Run := { entry := e, start := s.time, phase := .started, tds := i.tds, free := i.free, trapEn := (s.num q).trapEn,
                      waitAt := s.time }
     let s0 := if eWaitKind e ≠ 0 ∧ qKind q = .vx then s.applyAllInvs n else s
     let s1 := s0.setIslet n { s0.islet n with stallTold := false }
     let next (u : State) : State := (u.headArrive q).askMoves q
     (∀ m, s1.startChecks q i.tds i.free e = some m →
       exec (.commandStart q) s =
         .next (next (s1.popHead q { r with phase := .done, status := stMalformed, info := malformedInfo m }))) ∧
     (∀ reason, s1.startChecks q i.tds i.free e = none → s1.rightsCheck ((s1.isletOwner n).getD 0) n i.tds e = some reason →
       exec (.commandStart q) s =
         .next (next ((s1.refuse 3 (s1.isletOwner n) q reason (eSeq e) 0).popHead q { r with phase := .refused }))) ∧
     (s1.startChecks q i.tds i.free e = none → s1.rightsCheck ((s1.isletOwner n).getD 0) n i.tds e = none →
       exec (.commandStart q) s =
         .next (next ((s1.reserve q i.tds e).popHead q
           { r with waits := waitPoints i.tds i.free e, aux := s1.startKeys q e })))) ∧
  (∀ (q : Nat) (s : State) (e : List Byte) (rest : List (List Byte)),
     48 ≤ q → s.canStart q = true → (s.queue q).entries = e :: rest → s.gooseNext = some q →
     let t := s.popHead q { entry := e, start := s.time, phase := .started, waitAt := s.time }
     let done : State → Host.Outcome State Fault Refusal := fun u => .next { u with lastRing := q }
     (t.mgt.stage = .recovery → eOpcode e ≠ 0 → eOpcode e ≠ 0x95 → eOpcode e ≠ 0x96 →
       exec (.commandStart q) s = done (t.finish q 0 stNotReady 0)) ∧
     (t.mgt.stage ≠ .recovery ∨ eOpcode e = 0 ∨ eOpcode e = 0x95 ∨ eOpcode e = 0x96 →
       (∀ o, eOpcode e < 6 → commonDesc (qKind q) e = some o →
         exec (.commandStart q) s = done (t.finish q 0 stMalformed (malformedInfo (subDesc, o)).toNat)) ∧
       (6 ≤ eOpcode e ∨ commonDesc (qKind q) e = none → exec (.commandStart q) s = done t)))

/-- TAG_WAIT_POINT (R95 to R97, R245): a started command of an engine queue passes its next wait point where the square has
the tag it waits for and no other command claims it: a READ_KEEP holds the square, the other modes claim it. On a VX
queue the pending invalidations are applied first; on an MV queue no earlier transfer may still wait. -/
def Obligations.WaitPointPassed : Prop :=
  ∀ (q i : Nat) (s : State) (r : Run) (w : WaitPoint) (rest : List WaitPoint),
    q < 48 → s.runAt q i = some r → r.phase = .started → r.waits = w :: rest →
    (qKind q = .mv → ∀ j x, j < i → s.runAt q j = some x → x.phase = .started → x.waits = []) →
    (s.islet (q / 3)).isClaimed w.square = false → (s.islet (q / 3)).tagFull w.square = (w.mode != .writeFill) →
    let s0 := if qKind q = .vx then s.applyAllInvs (q / 3) else s
    let isl : Islet := { s0.islet (q / 3) with stallTold := false }
    (w.mode = .readKeep →
      exec (.tagWaitPoint q i) s =
        .next (((s0.setIslet (q / 3) isl).setRun q i
          { r with waits := rest, holds := w.square :: r.holds, waitAt := s0.time }).askMoves q)) ∧
    (w.mode ≠ .readKeep →
      exec (.tagWaitPoint q i) s =
        .next (((s0.setIslet (q / 3) { isl with claimed := setBit isl.claimed w.square true }).setRun q i
          { r with waits := rest, claims := r.claims ++ [w], waitAt := s0.time }).askMoves q))

/-- A completion whose ring is enabled, has room and holds nothing back is written at once (R209, R214, R216): 16 bytes at BASE plus
16 times the index modulo the size, the phase bit by the pass, the tail and the queue's consumer index one on. A ring is full where tail
less head is its size (R220). COMPLETION_POST (R220) writes the only completion that waits for an enabled ring with room. Both on a die
that writes to its host itself. -/
def Obligations.CompletionsWritten : Prop :=
  (∀ (s : State) (k : Completion),
     let c := s.queueRing k.queue
     let r := s.ring c
     r.enable = true → r.used ≠ 2 ^ r.sizeLog2.toNat → r.waiting = [] → s.hostHeld c = false → s.follower = false →
     let t := s.postRaw k
     let size := 2 ^ r.sizeLog2.toNat
     let phase := if r.tail.toNat / size % 2 = 0 then 1 else 0
     Out.hostWrite (ringFn c) (r.base.toNat + r.tail.toNat % size * 16)
       (leBytes 4 k.seq.toNat ++ leBytes 1 k.status.toNat ++ leBytes 1 (phase + 2 * k.queue) ++ leBytes 2 0
         ++ leBytes 8 k.info.toNat) ∈ t.out ∧
     (t.ring c).tail = r.tail + 1 ∧ (t.ring c).waiting = [] ∧ (t.queue k.queue).cons = (s.queue k.queue).cons + 1) ∧
  (∀ (c : Nat) (s : State) (k : Completion), c ≤ 64 →
     let r := s.ring c
     r.waiting = [k] → r.enable = true → r.used ≠ 2 ^ r.sizeLog2.toNat → s.hostHeld c = false → s.follower = false →
     (s.queue k.queue).cons = (s.queue k.queue).written → r.generated = r.tail + 1 →
     ∃ t, exec (.completionPost c) s = .next t ∧ (t.ring c).tail = r.tail + 1 ∧ (t.ring c).waiting = [] ∧
       (t.queue k.queue).cons = (s.queue k.queue).cons + 1 ∧
       Out.hostWrite (ringFn c) (r.base.toNat + r.tail.toNat % 2 ^ r.sizeLog2.toNat * 16)
         (completionBytes k (if r.tail.toNat / 2 ^ r.sizeLog2.toNat % 2 = 0 then 1 else 0)) ∈ t.out)

/-- COMMAND_COMPLETE (R182, R185, R195, R140, R82): a finished command's effects become visible; the oldest then posts its
completion, a NAN_TRAP after its event. A status that halts the queue records the halt, stops what is in flight, whose commands complete
ABORTED, and posts QUEUE_HALTED; any other lets the next entry reach the head. A frozen ICP completes nothing (R331), a Vector engine's
stores wait for their stack (R274), and host writes of the queue for the machine lead (R250). -/
def Obligations.CommandCompletes : Prop :=
  ∀ (q i : Nat) (s : State) (r : Run), s.runAt q i = some r → r.phase = .done → r.claims = [] →
    (s.icpHeld q = true ∨ (qKind q = .vx ∧ s.storesReady (q / 3) = false) ∨ s.passedOn q = false →
      exec (.commandComplete q i) s = .next s.settleRevokes) ∧
    (s.icpHeld q = false → (qKind q = .vx → s.storesReady (q / 3) = true) → s.passedOn q = true →
      (i ≠ 0 → qKind q = .mv → exec (.commandComplete q i) s = .next (s.settleEffects q i).settleRevokes) ∧
      (i = 0 → ∀ (x : Run) (rest : List Run), ((s.settleEffects q 0).queue q).run = x :: rest →
        let u0 := s.settleEffects q 0
        let u1 := u0.setQueue q { u0.queue q with run := rest, idleAt := u0.time }
        let u := match x.trap with
          | some (index, offset) =>
            if x.status = stNanTrap then u1.raiseEvent (u1.queueEvent q) 0x0201 q (eSeq x.entry) (leBytes 4 index ++ leBytes 4 offset)
            else u1
          | none => u1
        let v := u.postCompletion { queue := q, seq := eSeq x.entry, status := x.status, info := x.info, irq := eIrq x.entry }
        (haltsQueue x.status = false → x.halts = false → exec (.commandComplete q i) s = .next (v.headArrive q).settleRevokes) ∧
        (haltsQueue x.status = true ∨ x.halts = true →
          let w := v.recordHalt q x.status (eSeq x.entry)
          let w := State.postAborted q (w.queue q).run.length (w.stopFrom q 0 stAborted)
          let w := if q < 48 then (w.settleIslet (q / 3)).reevaluate else w
          exec (.commandComplete q i) s = .next (w.haltEvent q x.status.toNat (eSeq x.entry) 0).settleRevokes)))

/-- WAIT_TIMEOUT (R188), REFUSAL_COMPLETE (R384) and SQUARE_STALL (R109, R110). A WAIT whose time is up passes where its
condition holds and else becomes a finished STALL_TIMEOUT; a refusal completes REFUSED 16 µs after its start; an Islet that has been
stalled for its limit keeps what its engines wait for and its owner hears of it once. -/
def Obligations.DelaysEnd : Prop :=
  (∀ (q : Nat) (s : State) (e : List Byte) (rest : List (List Byte)),
    let k := s.queue q
    let t := s.advanceTo (k.headTime + leAt e 24 4 * 100)
    k.entries = e :: rest → k.headOk = true → k.passed = false → eOpcode e = 2 → leAt e 24 4 ≠ 0 → k.halted = false →
      (t.waitHolds q e = true → exec (.waitTimeout q) s = .next (t.setQueue q { k with passed := true })) ∧
      (t.waitHolds q e = false → exec (.waitTimeout q) s =
        .next ((t.popHead q { entry := e, start := t.time, phase := .done, status := stStallTimeout }).complete q k.run.length))) ∧
  (∀ (q i : Nat) (s : State) (r : Run), s.runAt q i = some r → r.phase = .refused →
    exec (.refusalComplete q i) s =
      .next (((s.advanceTo (r.start + 1600)).setRun q i { r with phase := .done, status := stRefused, info := 0 }).complete q
        i).settleRevokes) ∧
  (∀ (n p : Nat) (s : State), n < 16 → s.isletOwner n = some p → s.isletStalled n = true → (s.islet n).stallTold = false →
    let i := s.islet n
    let t := s.advanceTo (s.stallBegan n + i.stallLimit.toNat * 100)
    let w0 := stallField (t.tagWaitOf (3 * n)) + stallField (t.tagWaitOf (3 * n + 1)) * 2 ^ 16
    let w1 := stallField (t.tagWaitOf (3 * n + 2))
    exec (.squareStall n) s =
      .next ((t.setIslet n { i with stall := true, stallCount := satInc i.stallCount, stallTold := true,
                                    stallSq0 := BitVec.ofNat 32 w0, stallSq1 := BitVec.ofNat 32 w1 }).raiseEvent p 0x0202 noQueue 0
        (leBytes 4 w0 ++ leBytes 4 w1 ++ leBytes 1 n)))

/-! ### The engines -/

/-- MX_MATMUL (R126, R82): past its wait points, where A and B load and C stores without a stop, C holds what the block
products of A and B give, its squares are unsealed unless an operand was sealed, and the command ends DONE, or
NAN_TRAP with the produced NaN of lowest index where trapping was enabled at its start. Past those of A and B alone it keeps what it may
not write yet (R95); before that it does what lies before the wait point at which it stands. -/
def Obligations.MatrixMultiply : Prop :=
  ∀ (n : Nat) (s : State),
    (s.engineRun (3 * n) 0x10 = none → exec (.mxMatmul n) s = .next (s.engineAhead (3 * n) 0x10)) ∧
    (∀ r : Run, s.engineRun (3 * n) 0x10 = some r →
      let p := (s.isletOwner n).getD 0
      let a := refAt r.tds r.entry 24 true false
      let b := refAt r.tds r.entry 32 true false
      let c := refAt r.tds r.entry 40 false true
      let la := s.loadRef p n r a
      let lb := la.s.loadRef p n r b
      let x := mxCompute r.entry c a.td.scale b.td.scale (a.values la.rows) (b.values lb.rows)
      let hidden := lb.s.readsSealed n [a, b]
      la.stop = none → lb.stop = none →
        (r.waits = [] →
          let w := storeAll ((lb.s.isletOwner n).getD 0) n [(c.td.mem, c.storedRuns x.codes)] lb.s
          w.2.2 = none →
            exec (.mxMatmul n) s = .next ((w.1.unseal n (if c.td.mem then [] else c.runs) hidden).endWork (3 * n) (w.1.liveIdx (3 * n))
              { r with flags := x.flags, status := (trapStatus r x.trap).1, info := (trapStatus r x.trap).2, trap := x.trap } false)) ∧
        (r.waits ≠ [] →
          exec (.mxMatmul n) s = .next (State.writePending s lb.s (3 * n) r
            { outs := [(c.td.mem, c.storedRuns x.codes)], all := if c.td.mem then [] else c.runs, flags := x.flags, trap := x.trap,
              hidden := hidden })))

/-- The Vector commands (R114, R129, R81, R82): each loads its operands in order, writes the outputs that its work gives for their
bytes, and ends DONE, or NAN_TRAP where trapping was enabled at its start and a NaN was produced; past the wait points of its inputs alone
it keeps what it may not write yet (R95). One that meets poison ends
POISON with its INFO and tells its partition (R107, R280, R457); one whose host read failed ends HOST_FAULT with the address and
kind (R526); one whose operand has not come yet waits. -/
def Obligations.VectorCommands : Prop :=
  ∀ (c : Nat → Instr) (w : Work), (c, w) ∈ vectorWorks → ∀ (n : Nat) (s : State),
    let q := 3 * n + 1
    (s.engineRun q w.op = none → exec (c n) s = .next (s.engineAhead q w.op)) ∧
    (∀ r : Run, s.engineRun q w.op = some r →
      let p := (s.isletOwner n).getD 0
      let refs := w.ins r
      let l := loadRefs p n r refs s
      let o := w.outs r l.2
      let hidden := l.1.s.readsSealed n refs
      let read := { r with readSq := r.readSq ++ readWhole l.1 refs l.2 }
      (l.1.stop = none → r.waits = [] →
        let st := storeAll ((l.1.s.isletOwner n).getD 0) n (plainOuts o.1) l.1.s
        st.2.2 = none →
          exec (c n) s = .next ((st.1.unseal n (spOuts o.1) hidden).endWork q (st.1.liveIdx q)
            { r with flags := o.2.1, status := (trapStatus r o.2.2).1, info := (trapStatus r o.2.2).2, trap := o.2.2 } false)) ∧
      (l.1.stop = none → r.waits ≠ [] →
        exec (c n) s = .next (State.writePending s l.1.s q r
          { outs := plainOuts o.1, all := spOuts o.1, flags := o.2.1, trap := o.2.2, hidden := hidden })) ∧
      (∀ info, l.1.stop = some (.poison info) →
        exec (c n) s = .next ((l.1.s.poisonEvent ((l.1.s.queueOwner q).getD 0) q (eSeq r.entry) info 0xFF).endWork q (s.liveIdx q)
          { read with status := stPoison, info := BitVec.ofNat 64 info } false)) ∧
      (∀ a k, l.1.stop = some (.host a k) →
        exec (c n) s = .next (l.1.s.endWork q (s.liveIdx q)
          { read with status := stHostFault, info := BitVec.ofNat 64 (a % 2 ^ 48 + k * 2 ^ 48) } false)) ∧
      (l.1.stop = some .wait → exec (c n) s = .next s))

/-- The exact sum and product of two finite values, at any common unit 2^q: no bit is lost before the one rounding (R64, R72). A
zero sum of opposite signs is +0, or -0 when rounding down. -/
def Obligations.ExactSumAndProduct : Prop :=
  ∀ (rm : Rnd) (n1 n2 : Bool) (m1 m2 : Nat) (e1 e2 : Int),
    (∃ x : Mag, exAdd rm (.fin n1 m1 e1) (.fin n2 m2 e2) = (.mag x, fNone) ∧ x.sticky = false ∧
      (∀ q, q ≤ e1 → q ≤ e2 → q ≤ 0 → signedAt x.neg x.m x.e q = signedAt n1 m1 e1 q + signedAt n2 m2 e2 q) ∧
      (x.m = 0 → n1 ≠ n2 → x.neg = (rm == .rdn))) ∧
    (∃ x : Mag, exMul (.fin n1 m1 e1) (.fin n2 m2 e2) = (.mag x, fNone) ∧ x.sticky = false ∧ x.m = m1 * m2 ∧ x.e = e1 + e2 ∧
      x.neg = (n1 != n2))

/-- Rounding an exact magnitude m × 2^e to units of 2^q (R64, R68): to nearest it is never more than half a unit away, and a tie
goes to the even count; toward zero, up and down it is the neighbour on that side; where the unit divides it, it is exact. -/
def Obligations.RoundingOfMagnitude : Prop :=
  ∀ (neg : Bool) (m : Nat) (e q : Int),
    let c := ({ neg := neg, m := m, e := e } : Mag).cut q
    (q ≤ e → ∀ rm, (∀ x, rm ≠ .stoch x) → c.round rm neg = m * 2 ^ (e - q).toNat) ∧
    (e < q →
      let u := 2 ^ (q - e).toNat
      (2 * m ≤ 2 * (c.round .rne neg * u) + u ∧ 2 * (c.round .rne neg * u) ≤ 2 * m + u) ∧
      (2 * m = 2 * (c.round .rne neg * u) + u ∨ 2 * (c.round .rne neg * u) = 2 * m + u → c.round .rne neg % 2 = 0) ∧
      (c.round .rtz neg * u ≤ m ∧ m < c.round .rtz neg * u + u) ∧
      (neg = false → c.round .rdn neg = c.round .rtz neg ∧ m ≤ c.round .rup neg * u ∧ c.round .rup neg * u < m + u) ∧
      (neg = true → c.round .rup neg = c.round .rtz neg ∧ m ≤ c.round .rdn neg * u ∧ c.round .rdn neg * u < m + u))

/-- The Move commands (R136 to R138, R145, R166, R185): a transfer reads its source, writes its bytes in the order of its
destination's runs and ends DONE when every byte is written on this die; one into a window of another die has made its reads, and waits
for its acknowledgements; a gather request leaves for the owner die and waits. -/
def Obligations.MoveCommands : Prop :=
  ∀ (n i : Nat) (s : State) (r : Run),
    let q := 3 * n + 2
    let p := (s.isletOwner n).getD 0
    let here : Bool := match r.grantKey with
      | some g => g / 256 == s.die
      | none => true
    let finished : State → List Byte → Bool → State := fun u bytes hide =>
      let m := u.moveOut p n r 0 bytes hide
      (m.s.perfAdd p 3 m.sent).endWork q i { r with readSq := wholeSquares (spSource r) bytes.length,
                                                    wroteSq := wholeSquares (spDest r) m.sent, status := stDone } false
    let inFlight : State → List Byte → Bool → State := fun u bytes hide =>
      let k := u.freshXfer.1
      let m := u.freshXfer.2.moveOut p n r k bytes hide
      let g := r.grantKey.getD 0
      let x : Xfer := { queue := some q, die := g / 256, part := g / 16 % 16, window := g % 16, total := m.sent,
                        status := stDone, info := 0, grantKey := r.grantKey }
      let read := wholeSquares (spSource r) bytes.length
      let v := (m.s.perfAdd p 3 m.sent).setXfer k x
      let t := (v.setIslet n ((v.islet n).unclaim (r.claims.filter (fun w => !read.contains w.square)))).setRun q i
        { r with readSq := read, wroteSq := wholeSquares (spDest r) m.sent, phase := .busy, holds := [],
                 claims := r.claims.filter (fun w => read.contains w.square), xfer := some k }
      (t.settleIslet n).reevaluate
    (s.moveRun n i 0x60 = some r → s.destReady p n r.entry = true →
      let mem := (copySource r).1
      let runs := (copySource r).2
      let l := loadRuns p n false r mem runs s
      let hide := s.readsSealed n (if mem then [] else [refAt r.tds r.entry 24 true false]) || s.frozenSource r.entry
      (mem = true → s.loadPending p runs = false) → l.stop = none → l.s.die = s.die → l.s.isletOwner n = s.isletOwner n →
        (here = true → (l.s.moveOut p n r 0 l.rows.flatten hide).stop = none →
          exec (.mvCopy n i) s = .next ((finished l.s l.rows.flatten hide).askReads q)) ∧
        (here = false →
          let m := l.s.freshXfer.2.moveOut p n r l.s.freshXfer.1 l.rows.flatten hide
          m.stop = none → m.sent ≠ 0 → exec (.mvCopy n i) s = .next ((inFlight l.s l.rows.flatten hide).askReads q))) ∧
    (s.moveRun n i 0x61 = some r → s.destReady p n r.entry = true →
      let bytes := (List.range (mvLength r.entry)).map (fun k => (slice r.entry 48 4).getD (k % 4) 0)
      (here = true → (s.moveOut p n r 0 bytes false).stop = none → exec (.mvFill n i) s = .next (finished s bytes false)) ∧
      (here = false →
        let m := s.freshXfer.2.moveOut p n r s.freshXfer.1 bytes false
        m.stop = none → m.sent ≠ 0 → exec (.mvFill n i) s = .next (inFlight s bytes false))) ∧
    (s.moveRun n i 0x62 = some r →
      let runs := [(mvSrc r.entry, leAt r.entry 40 4 * 64)]
      let l := loadRuns p n false r true runs s
      s.loadPending p runs = false → l.stop = none →
        exec (.mvTdescLoad n i) s =
          .next (((l.s.setIslet n ((l.s.islet n).loadTds (leAt r.entry 44 4) l.rows.flatten)).endWork q i
            { r with status := stDone } false).askReads q)) ∧
    (s.moveRun n i 0x63 = some r →
      let w := r.aux.headD 0
      let x := s.win p w
      let len := mvLength r.entry
      let owner := leAt r.entry 44 1 % 64
      let k := s.freshXfer.1
      let off := match placeOf (mvDst r.entry) with
        | .remote _ a => remoteTarget a - x.base.toNat
        | _ => 0 - x.base.toNat
      let body := slice (leBytes 1 p ++ leBytes 1 (w + 16 * b2n x.scratch) ++ leBytes 2 k ++ leBytes 4 len
        ++ leBytes 8 (mvSrc r.entry) ++ leBytes 8 off) 0 200
      exec (.mvGatherReq n i) s =
        .next (((s.freshXfer.2.sendFlit (mkFlit 0x10 0 (eQos r.entry) owner s.freshXfer.2.die false body) 0).setXfer k
          { queue := some q, die := owner, part := p, window := w, total := len, gather := true }).setRun q i
            { r with phase := .busy, xfer := some k }))

/-- A store to a scratchpad (R107, R241): where no word of it is poisoned, each byte of its extent takes the new value; whatever
happens, no byte of any scratchpad outside the extent changes, and HBM is as it was. An engine's runs change no byte outside
them, and a store to device memory changes no scratchpad. A tensor-table load (R145) sets each descriptor read whole to the one
its 64 bytes give, and no other. -/
def Obligations.ScratchpadStores : Prop :=
  (∀ (s : State) (n off : Nat) (bytes : List Byte),
     let w := s.writeSp n off bytes
     (w.bad = none → ∀ k, k < bytes.length → Memory.byte w.s.scratch (spKey n off + k) = bytes.getD k 0) ∧
     (∀ a, (a < spKey n off ∨ spKey n off + bytes.length ≤ a) → Memory.byte w.s.scratch a = Memory.byte s.scratch a) ∧
     w.s.hbm = s.hbm ∧ w.s.flash = s.flash ∧ w.s.hbmPoison = s.hbmPoison) ∧
  (∀ (p n : Nat) (vx : Bool) (runs : List (Nat × List Byte)) (s : State) (a : Nat),
     ((∀ u, u ∈ runs → a < spKey n u.1 ∨ spKey n u.1 + u.2.length ≤ a) →
       Memory.byte (storeRuns p n vx false runs s).s.scratch a = Memory.byte s.scratch a) ∧
     (storeRuns p n vx true runs s).s.scratch = s.scratch) ∧
  (∀ (i : Islet) (first : Nat) (bytes : List Byte) (j : Nat),
     Table.get {} (i.loadTds first bytes).tds j =
       if first ≤ j ∧ j < first + bytes.length / 64 then tdescOf (slice bytes (64 * (j - first)) 64) else Table.get {} i.tds j)

/-- A store to HBM at the point of coherence (R241, R257, R281): where no poison stops it, each byte of its extent reads as the new
value and every other byte of HBM reads as before; no scratchpad changes. -/
def Obligations.HbmStore : Prop :=
  ∀ (s : State) (a : Nat) (bytes : List Byte), Coherent s → a + bytes.length ≤ hbmEnd →
    let w := s.writeHbm a bytes
    w.bad = none → ∀ b, b < hbmEnd →
      hbmSeen w.s b = (if a ≤ b ∧ b < a + bytes.length then bytes.getD (b - a) 0 else hbmSeen s b) ∧ w.s.scratch = s.scratch

/-! ### Rings, registers and the host -/

/-- The register map of the rows that are register writes or reads (R230, R436, R480, R502, R403): offset and register. -/
def Obligations.RowRegisters : Prop :=
  plainHit 0x14000 = .reg .kick false ∧
  (∀ q, q ≤ 64 → plainHit (0x10014 + 0x40 * q) = .reg (.qCtrl q) false ∧ plainHit (0x1C008 + 0x10 * q) = .reg (.qResume q) false) ∧
  (∀ c, c ≤ 64 → plainHit (0x12000 + 0x20 * c + 8) = .reg (.cqCfg c) false ∧ plainHit (0x12000 + 0x20 * c + 12) = .reg (.cqHead c) false) ∧
  (∀ e, e ≤ 16 → plainHit (0x13000 + 0x20 * e + 8) = .reg (.cqCfg (evRing e)) false ∧
    plainHit (0x13000 + 0x20 * e + 12) = .reg (.cqHead (evRing e)) false) ∧
  (∀ n, n < 16 → plainHit (0x100300 + 0x10000 * n) = .reg (.qabort n) false) ∧
  plainHit 0x80020 = .reg .ldgRelease false ∧ (∀ p, p < 10 → plainHit (0x200010 + 0x10000 * p) = .reg (.strCtrl p) false) ∧
  (∀ k, k < 4 → plainHit (0x50800 + 4 * k) = .reg (.fanDuty k) false) ∧
  plainHit 0x50004 = .reg .gpioOut false ∧ plainHit 0x50008 = .reg .gpioSet false ∧ plainHit 0x5000C = .reg .gpioClr false ∧
  plainHit 0x50010 = .reg .gpioTgl false ∧ (∀ k, k < 24 → plainHit (0x50100 + 4 * k) = .reg (.gpioCfg k) false) ∧
  plainHit 0x500048 = .reg .dbgMemData false ∧ (∀ k, k < 8 → plainHit (0x500110 + 4 * k) = .reg (.dbgLogEntry k) false)

/-- HIF_KICK and HIF_QCTRL (R210, R211, R213): a KICK of an enabled queue makes it poll at once, an IDLE one counting its polls anew, and a
halted one keeps it; a KICK of a disabled one is logged (R211). ENABLE starts a queue at index 0 with a poll due, or halts it on the first
failing set-up rule; DISABLE ends an idle one, and is logged for one that is not (R210, R470); PARK stops the polling and UNPARK starts it
with a poll. A die of a machine tells its lead (R227). -/
def Obligations.QueueControl : Prop :=
  ∀ (fn q : Nat) (s : State), q ≤ 64 →
    let k := s.queue q
    let started (park : Bool) : Queue :=
      { k with enable := true, park := park, st := .active, cons := 0, written := 0, prod := 0, fetched := 0, unchanged := 0,
               interval := 1, pollDue := true }
    (Reaches s .hif fn 0x14000 true .kick → (fn = 0 ∨ s.queueOwner q = some (fn - 1)) →
      (k.enable = false → exec (.hifKick fn q) s = .next (s.logAccess causeState (accOf .hif fn 0x14000) true)) ∧
      (k.enable = true → k.halted = true → exec (.hifKick fn q) s = .next (s.setQueue q { k with kickHeld := true })) ∧
      (k.enable = true → k.halted = false →
        exec (.hifKick fn q) s = .next ((s.setQueue q (if k.st = .idle then { k with pollDue := true, unchanged := 0, st := .active }
          else { k with pollDue := true })).tellLead q))) ∧
    (Reaches s .hif fn (qctrlOff q) true (.qCtrl q) → MaySet s fn q →
      (∀ park, k.enable = false → k.base.toNat % 4096 = 0 → k.db.toNat % 64 = 0 → (s.ring (s.queueRing q)).enable = true →
        exec (.queueEnable fn q park) s = .next ((s.setQueue q (started park)).tellLead q)) ∧
      (∀ park, k.enable = false → k.base.toNat % 4096 ≠ 0 →
        exec (.queueEnable fn q park) s = .next ((s.setQueue q (started park)).ringFaultAt q 1)) ∧
      (∀ park, k.enable = false → k.base.toNat % 4096 = 0 → k.db.toNat % 64 ≠ 0 →
        exec (.queueEnable fn q park) s = .next ((s.setQueue q (started park)).ringFaultAt q 2)) ∧
      (∀ park, k.enable = false → k.base.toNat % 4096 = 0 → k.db.toNat % 64 = 0 → (s.ring (s.queueRing q)).enable = false →
        exec (.queueEnable fn q park) s = .next ((s.setQueue q (started park)).ringFaultAt q 3)) ∧
      (k.enable = true → k.cons = k.prod → k.run = [] → s.ledgerHeld q = false →
        exec (.queueDisable fn q) s = .next ((s.setQueue q
          { k with enable := false, st := .disabled, halted := false, ringFault := 0, entries := [], headOk := false, passed := false,
                   pollOut := false, pollDue := false, kickHeld := false, fetchOut := 0, discarding := false, discardTo := none,
                   unchanged := 0 }).tellLead q)) ∧
      (k.enable = true → (k.cons ≠ k.prod ∨ k.run ≠ [] ∨ s.ledgerHeld q = true) →
        exec (.queueDisable fn q) s =
          .next (((s.setQueue q k).tellLead q).logAccess causeState (accOf .hif fn (qctrlOff q)) true)) ∧
      (k.enable = true → exec (.queuePark fn q) s =
        .next ((s.setQueue q (if k.park then k else { k with park := true, st := .parked })).tellLead q)) ∧
      (k.enable = true → exec (.queueUnpark fn q) s =
        .next ((s.setQueue q (if k.park then { k with park := false, st := .active, pollDue := true } else k)).tellLead q)) ∧
      (k.enable = false → exec (.queuePark fn q) s = .next (s.setQueue q { k with park := true }) ∧
        exec (.queueUnpark fn q) s = .next (s.setQueue q { k with park := false })))

/-- RESUME and DISCARD of a halted queue (R196, R197, R213): a write to a queue that is not halted, that discards already, or that the ledger
holds is logged; RESUME goes on, polling at once after a ring fault of cause 5 or 6, or halts again on one of cause 1 to 3; DISCARD reads
the doorbell record. -/
def Obligations.HaltsEnd : Prop :=
  ∀ (fn q : Nat) (s : State), q ≤ 64 →
    let k := s.queue q
    let reads := s.setQueue q { k with discarding := true, discardTo := none, ringFault := 0 }
    Reaches s .hif fn (0x1C008 + 0x10 * q) true (.qResume q) → MaySet s fn q →
      (k.halted = false ∨ k.discarding = true ∨ s.ledgerHeld q = true ∨ (s.up.fwFailed = true ∧ q < 48) →
        exec (.resume fn q) s = .next (s.logAccess causeState (accOf .hif fn (0x1C008 + 0x10 * q)) true) ∧
        exec (.discard fn q) s = .next (s.logAccess causeState (accOf .hif fn (0x1C008 + 0x10 * q)) true)) ∧
      (k.halted = true → k.discarding = false → s.ledgerHeld q = false → (s.up.fwFailed = false ∨ 48 ≤ q) →
        (k.ringFault = 0 ∨ 4 ≤ k.ringFault →
          exec (.resume fn q) s = .next
            ((s.setQueue q { k with halted := false, ringFault := 0, discarding := false, discardTo := none,
                                    pollDue := k.pollDue || decide (5 ≤ k.ringFault) || k.kickHeld, kickHeld := false }).fetchMore q)) ∧
        (1 ≤ k.ringFault → k.ringFault ≤ 3 →
          exec (.resume fn q) s =
            .next ((s.setQueue q { k with halted := false, ringFault := 0 }).ringFaultAt q k.ringFault)) ∧
        (s.hostOpen q = true →
          exec (.discard fn q) s = .next
            ((reads.setQueue q { reads.queue q with pollOut := true, pollDue := false }).emit
              (.hostRead (reads.queueFn q) k.db.toNat 8))) ∧
        (s.hostOpen q = false → exec (.discard fn q) s = .next (reads.tellLead q)))

/-- R222: a write to HIF_CQHEAD or HIF_EQHEAD whose value would make the ring hold more than its size is discarded and
logged. -/
def Obligations.HeadBeyondRing : Prop :=
  ∀ (fn c : Nat) (head : Word) (s : State),
    (c ≤ 64 → fn = ringFn c → Reaches s .hif fn (0x12000 + 0x20 * c + 12) true (.cqHead c) →
      2 ^ (s.ring c).sizeLog2.toNat < ((s.ring c).tail - head).toNat →
        exec (.cqHeadWrite fn c head) s = .next (s.logAccess causeState (accOf .hif fn (0x12000 + 0x20 * c + 12)) true)) ∧
    (c ≤ 16 → fn = ringFn (evRing c) → Reaches s .hif fn (0x13000 + 0x20 * c + 12) true (.cqHead (evRing c)) →
      2 ^ (s.ring (evRing c)).sizeLog2.toNat < ((s.ring (evRing c)).tail - head).toNat →
        exec (.eqHeadWrite fn c head) s = .next (s.logAccess causeState (accOf .hif fn (0x13000 + 0x20 * c + 12)) true))

/-- A head that the ring can hold is taken, and what waited for room follows (R220, R224). CQ_ENABLE and CQ_DISABLE (R230): an
aligned disabled ring with a size from 2^6 to 2^16 starts at tail 0, and what waited is posted, while one that is not aligned is logged; a
ring that no enabled queue names is disabled, and one that is named is logged; a reserved size is logged (R12). -/
def Obligations.RingControl : Prop :=
  (∀ (fn c : Nat) (head : Word) (s : State),
     (c ≤ 64 → fn = ringFn c → Reaches s .hif fn (0x12000 + 0x20 * c + 12) true (.cqHead c) →
       let r : Ring := { s.ring c with head := head }
       ((s.ring c).tail - head).toNat ≤ 2 ^ (s.ring c).sizeLog2.toNat →
         exec (.cqHeadWrite fn c head) s =
           .next ((State.releaseRing r.waiting.length c (s.setRing c { r with fullTold := r.fullTold && r.full })).reportFull c)) ∧
     (c ≤ 16 → fn = ringFn (evRing c) → Reaches s .hif fn (0x13000 + 0x20 * c + 12) true (.cqHead (evRing c)) →
       let r : Ring := { s.ring (evRing c) with head := head }
       ((s.ring (evRing c)).tail - head).toNat ≤ 2 ^ (s.ring (evRing c)).sizeLog2.toNat →
         exec (.eqHeadWrite fn c head) s =
           .next ((s.setRing (evRing c) { r with fullTold := r.fullTold && r.full }).markerDue c))) ∧
  (∀ (fn c : Nat) (ev : Bool) (cfg : Word) (s : State),
     let key := if ev then evRing c else c
     let o := (if ev then 0x13000 else 0x12000) + 0x20 * c + 8
     let r := s.ring key
     let size := cfg.toNat % 32
     let vec := cfg.toNat / 2 ^ 8 % 2 ^ 7
     let set : Ring := { r with sizeLog2 := BitVec.ofNat 5 size, vector := some (BitVec.ofNat 7 vec) }
     let logged := (s.setRing key set).logAccess causeState (accOf .hif fn o) true
     (if ev then c ≤ 16 else c ≤ 64) → fn = ringFn key → Reaches s .hif fn o true (.cqCfg key) → (fn = 0 ∨ vec < 8) →
       (6 ≤ size → size ≤ 16 →
         (r.enable = false → r.base.toNat % 4096 = 0 →
           let t := (s.setRing key set).setRing key { set with enable := true, tail := 0, fullTold := false,
                                                               generated := if key < 128 then BitVec.ofNat 32 r.waiting.length else r.generated }
           exec (.cqEnable fn ev c cfg) s = .next ((t.ringRoom key).bootPost key)) ∧
         (r.enable = false → r.base.toNat % 4096 ≠ 0 → exec (.cqEnable fn ev c cfg) s = .next logged) ∧
         (r.enable = true → s.ringNamed key = false →
           exec (.cqDisable fn ev c cfg) s =
             .next ((s.setRing key set).setRing key { set with enable := false, coalesce := false, fullTold := false })) ∧
         (r.enable = true → s.ringNamed key = true → exec (.cqDisable fn ev c cfg) s = .next logged)) ∧
       (size < 6 ∨ 16 < size → r.enable = false → exec (.cqDisable fn ev c cfg) s =
         .next ((s.setRing key { r with vector := some (BitVec.ofNat 7 vec) }).logAccess causeReserved (accOf .hif fn o) true)))

/-- Polling (R207, R210, R211, R213): what a due poll asks, and what its data do. Fetches and host reads (R212, R213, R526): fetched
entries join the prefetch buffer in order; bytes that a command asked for are kept for it; a failed read faults the ring or
fails the command with its kind. For the queues of other dies (R227), kept at 128 × die + queue, the machine lead tells the die what is new,
hands the entries on in ring order with their indexes, and hands on the bytes and the failures of its commands. -/
def Obligations.PollsAndReads : Prop :=
  (∀ (q : Nat) (s : State),
     let k := s.queue q
     let asked (u : State) : State :=
       (u.setQueue q { u.queue q with pollOut := true, pollDue := false }).emit (.hostRead (u.queueFn q) (u.queue q).db.toNat 8)
     let k1 : Queue := { k with pollOut := false, polledAt := s.time }
     let back := if k.st = .idle then Nat.min 64 (2 * k.interval) else k.interval
     let still (x : Queue) : Queue := { x with unchanged := k.unchanged + 1, st := if k.park then .parked else k.st, interval := back }
     let news (prod : Word) : Queue :=
       { k1 with prod := prod, unchanged := 0, st := if k.park then .parked else if k.st = .idle then .active else k.st }
     (k.enable = true → k.pollOut = false → s.hostOpen q = true → k.discarding = false → k.halted = false →
       (k.pollDue = true ∨ k.st = .active → exec (.doorbellPoll q) s = .next (asked (s.fetchMore q))) ∧
       (k.pollDue = false → k.st = .idle → exec (.doorbellPoll q) s = .next (asked (s.advanceTo (k.polledAt + k.interval * 100))))) ∧
     (k.pollOut = true → k.discarding = false → k.halted = false → k.enable = true → ∀ prod gen,
       (q < 128 →
         (gen ≠ k.gen → exec (.pollReadComplete q prod gen) s =
           .next (s.setQueue q (still { k1 with genMismatch := true, genCount := satInc k.genCount }))) ∧
         (gen = k.gen → prod = k.prod → exec (.pollReadComplete q prod gen) s = .next ((s.setQueue q (still k1)).fetchMore q)) ∧
         (gen = k.gen → prod ≠ k.prod → 2 ^ 31 ≤ (prod - k.prod).toNat →
           exec (.pollReadComplete q prod gen) s = .next ((s.setQueue q k1).ringFaultAt q 5)) ∧
         (gen = k.gen → prod ≠ k.prod → (prod - k.prod).toNat < 2 ^ 31 → 2 ^ k.sizeLog2.toNat < (prod - k.cons).toNat →
           exec (.pollReadComplete q prod gen) s = .next ((s.setQueue q k1).ringFaultAt q 6)) ∧
         (gen = k.gen → prod ≠ k.prod → (prod - k.prod).toNat < 2 ^ 31 → (prod - k.cons).toNat ≤ 2 ^ k.sizeLog2.toNat →
           exec (.pollReadComplete q prod gen) s = .next ((s.setQueue q (news prod)).fetchMore q))) ∧
       (128 ≤ q →
         let told := (s.setQueue q k1).forward (q / 128) .polled [q % 128, prod.toNat, gen.toNat, 0]
         (gen ≠ k.gen → exec (.pollReadComplete q prod gen) s = .next (told.setQueue q (still k1))) ∧
         (gen = k.gen → prod = k.prod → exec (.pollReadComplete q prod gen) s = .next ((s.setQueue q (still k1)).fetchMore q)) ∧
         (gen = k.gen → prod ≠ k.prod → (prod - k.prod).toNat < 2 ^ 31 → (prod - k.cons).toNat ≤ 2 ^ k.sizeLog2.toNat →
           exec (.pollReadComplete q prod gen) s = .next ((told.setQueue q (news prod)).fetchMore q)))) ∧
     (k.enable = true → k.st = .active → 128 ≤ k.unchanged → k.entries = [] → k.run = [] → k.fetchOut = 0 →
       let idle := s.setQueue q { k with st := .idle, interval := 1 }
       (q < 128 → s.ringHeld q = false → exec (.queueIdle q) s = .next idle) ∧
       (q < 128 → s.ringHeld q = true → exec (.queueIdle q) s = .next s) ∧
       (128 ≤ q → k.fetched = k.cons →
         exec (.queueIdle q) s = .next (idle.forward (q / 128) .polled [q % 128, k.prod.toNat, k.gen.toNat, 1])))) ∧
  (∀ (q : Nat) (s : State),
     let k := s.queue q
     (∀ bytes, k.fetchOut ≠ 0 → s.hostOpen q = true →
       let es := (List.range k.fetchOut).map (fun j => slice bytes (64 * j) 64)
       let k1 : Queue := { k with fetchOut := 0, fetched := k.fetched + BitVec.ofNat 32 k.fetchOut }
       (q < 128 → k.discarding = false → k.halted = false → exec (.entryFetchComplete q bytes) s =
         .next (((s.setQueue q { k1 with entries := k.entries ++ es }).headArrive q).fetchMore q)) ∧
       (128 ≤ q → exec (.entryFetchComplete q bytes) s =
         .next (((es.zipIdx.foldl (fun (u : State) e =>
           u.forward (q / 128) .entry (q % 128 :: (k.fetched + BitVec.ofNat 32 e.2).toNat :: e.1.map BitVec.toNat)) s).setQueue q
             k1).fetchMore q))) ∧
     (∀ i addr bytes r, q < 128 → (s.hostOpen q = true ∨ s.feederOpen q = true) → s.readsHost q i addr = some r →
       ∃ buf, exec (.hostReadReturn q i addr bytes) s = .next (s.setRun q i { r with hostBuf := buf }) ∧
         ∀ a, Table.get none buf a = if addr ≤ a ∧ a < addr + bytes.length then bytes[a - addr]? else Table.get none r.hostBuf a) ∧
     (∀ i addr bytes, 128 ≤ q → s.hostOpen q = true →
       exec (.hostReadReturn q i addr bytes) s = .next (s.forward (q / 128) .data (q % 128 :: i :: addr :: bytes.map BitVec.toNat))) ∧
     (k.pollOut = true → k.discarding = false → k.halted = false → k.enable = true → q < 128 →
       let t := (s.setQueue q { k with pollOut := false, polledAt := s.time }).ringFaultAt q 4
       exec (.hostReadTimeout (.poll q)) s = .next t ∧ (∀ e, exec (.hostReadError (.poll q) e) s = .next t)) ∧
     (k.fetchOut ≠ 0 → k.halted = false → k.enable = true → q < 128 →
       let t := (s.setQueue q { k with fetchOut := 0, discarding := false, discardTo := none }).ringFaultAt q 4
       exec (.hostReadTimeout (.fetch q)) s = .next t ∧ (∀ e, exec (.hostReadError (.fetch q) e) s = .next t)) ∧
     (∀ i addr r, q < 128 → s.mgmtBusy q 0x8B = none → s.readsHost q i addr = some r →
       exec (.hostReadTimeout (.command q i addr)) s = .next (s.setRun q i { r with hostErr := some (addr, 3) }) ∧
       exec (.hostReadError (.command q i addr) .unsupportedRequest) s = .next (s.setRun q i { r with hostErr := some (addr, 1) }) ∧
       exec (.hostReadError (.command q i addr) .completerAbort) s = .next (s.setRun q i { r with hostErr := some (addr, 2) })))

/-- The pin output registers (R486, R498): of the bits that a write would change, those of pins the writer owns (R481,
R482) change; where another would have, DENY_COUNT rises once. While main I/O is not ON only bits [7:0] can change, and a 1 on another bit
is logged (log entry 84). Nothing else changes. -/
def Obligations.PinOutputs : Prop :=
  (∀ (m : Master) (fn : Nat) (v : BitVec 24) (s : State),
     let own := s.ownedPins (onBehalf m fn)
     let out := s.gpio.out
     let live : BitVec 24 := if s.on 32 then 0xFFFFFF else 0xFF
     let turned (o : Nat) (want : BitVec 24) : State :=
       let w := want &&& live
       let deny := if w &&& ~~~own = 0 then s.gpio.deny else satInc s.gpio.deny
       let t : State := { s with gpio := { s.gpio with out := out ^^^ (w &&& own), deny := deny } }
       if s.on 32 = false ∧ v >>> 8 ≠ 0 then t.logAccess causeState (accOf m fn o) true else t
     (Reaches s m fn 0x50004 true .gpioOut → exec (.gpioOutWrite m fn v) s = .next (turned 0x50004 (v ^^^ out))) ∧
     (Reaches s m fn 0x50008 true .gpioSet → exec (.gpioSetWrite m fn v) s = .next (turned 0x50008 (v &&& ~~~out))) ∧
     (Reaches s m fn 0x5000C true .gpioClr → exec (.gpioClrWrite m fn v) s = .next (turned 0x5000C (v &&& out))) ∧
     (Reaches s m fn 0x50010 true .gpioTgl → exec (.gpioTglWrite m fn v) s = .next (turned 0x50010 v))) ∧
  (∀ (s : State) (w : Writer) (k : Nat), k < 24 →
     let o := (s.pin k).owner
     let n := o.toNat - 0x10
     ((s.ownedPins w).getLsbD k = true ↔ match w with
       | .host => o = 0
       | .goose => o = 1 ∨ (0x10 ≤ o.toNat ∧ s.isletOwner n = none)
       | .part p => 0x10 ≤ o.toNat ∧ s.isletOwner n = some p
       | .nobody => False))

/-- GPIO_CFG_k (R486, R488, R496 to R498): by the pin's owner with no reserved code, the pin takes the fields and its interrupt is judged
again; that of an armed pin is logged; by another, DENY_COUNT rises and nothing else changes; of a pin of main I/O while it is not ON, it is
logged. Pins and fans (R491, R494, R50, R51, R55): an accepted level is kept
with its edge and count; a capture is the time of the edge at the ball and 5 to 7 ticks (R520; log entry 95 for the row's moment);
tachometers, SYNC_OUT and PWM periods read the time base and the selected pins; the fans'
speed and stall follow; a duty written on a die that is not its tray's lead is logged (log entry 84). -/
def Obligations.PinUnits : Prop :=
  (∀ (m : Master) (fn k : Nat) (v : Word) (s : State), k < 24 → Reaches s m fn (0x50100 + 4 * k) true (.gpioCfg k) →
     let p := s.pin k
     let w := v.toNat
     let armed : Bool := decide (k < 8) && s.power.wakePins.getLsbD k
     let logged := s.logAccess causeState (accOf m fn (0x50100 + 4 * k)) true
     let taken : Pin := { p with func := BitVec.ofNat 6 w, oe := bit w 6, drive := BitVec.ofNat 2 (w / 2 ^ 7), slew := bit w 9, od := bit w 10,
                                 pull := BitVec.ofNat 2 (w / 2 ^ 11), irq := BitVec.ofNat 3 (w / 2 ^ 13),
                                 debounce := BitVec.ofNat 8 (w / 2 ^ 16), sleep := BitVec.ofNat 2 (w / 2 ^ 24), configured := true }
     (8 ≤ k → s.on 32 = false → exec (.gpioCfgWrite m fn k v) s = .next logged) ∧
     ((k < 8 ∨ s.on 32 = true) →
       (s.ownsPin (onBehalf m fn) k = true → armed = true → exec (.gpioCfgWrite m fn k v) s = .next logged) ∧
       (s.ownsPin (onBehalf m fn) k = true → armed = false → w % 64 ≤ 0x14 → (p.owner.toNat < 0x10 ∨ w % 64 = 0) →
         w / 2 ^ 11 % 4 ≠ 3 → w / 2 ^ 13 % 8 ≤ 5 → exec (.gpioCfgWrite m fn k v) s = .next (State.edgeRaise s (s.setPin k taken) k)) ∧
       (s.ownsPin (onBehalf m fn) k = false →
         exec (.gpioCfgWrite m fn k v) s = .next { s with gpio := { s.gpio with deny := satInc s.gpio.deny } }))) ∧
  ((∀ (k : Nat) (level : Bool) (s : State), k < 24 → s.boot.porHigh = true → (k < 8 ∨ s.on 32 = true) →
     s.gpio.level.getLsbD k ≠ level →
     let g := s.gpio
     let p := s.pin k
     let g' : Gpio := { g with level := setBit g.level k level, rise := if level then setBit g.rise k true else g.rise,
                               fall := if level then g.fall else setBit g.fall k true }
     let p' : Pin := if level then { p with riseCount := satInc p.riseCount } else { p with fallCount := satInc p.fallCount }
     exec (.gpioLevelAccept k level) s = .next (State.edgeRaise s (({ s with gpio := g' } : State).setPin k p') k)) ∧
   (∀ (f : Nat) (s : State), (11 ≤ f ∧ f < 15 ∨ f = 17) → (Table.get 0 s.gpio.isel f).getLsbD 7 = true → s.on 32 = true →
     ∃ late, 5 ≤ late ∧ late ≤ 7 ∧ exec (.captureEdge f) s = .next { s with freeCtr := s.freeCtr + 1, gpio := { s.gpio with
       capt := Table.set 0 s.gpio.capt (if f = 17 then 4 else f - 11) (BitVec.ofNat 64 (s.time + late)) } }) ∧
   (∀ (k : Nat) (s : State), ∃ g : Gpio, exec (.tachRisingEdge k) s = .next { s with gpio := g } ∧
     g = { s.gpio with pulses := g.pulses, fanPulse := g.fanPulse, fanStalled := g.fanStalled } ∧
     ∀ n, Table.get 0 g.pulses n =
       if n < 4 ∧ s.inputPin (7 + n) = some k then Table.get 0 s.gpio.pulses n + 1 else Table.get 0 s.gpio.pulses n) ∧
   (∀ s : State, s.timeRuns = true →
     let t := s.atSecond 0
     t.time % second = 0 ∧
     (s.on 32 = false → exec .tachSecond s = .next t) ∧
     (s.on 32 = true → ∃ tach, exec .tachSecond s = .next { t with gpio := { s.gpio with tach := tach, pulses := [] } } ∧
       ∀ n, n < 4 → Table.get 0 tach n = BitVec.ofNat 16 (Nat.min 0xFFFF (Table.get 0 s.gpio.pulses n)))) ∧
   (∀ s : State, s.timeRuns = true → s.on 32 = true →
     let t := s.atSecond 1
     exec .syncOutPulse s = .next { t with gpio := { s.gpio with syncHigh := true, syncAt := t.time } }) ∧
   (∀ (k : Nat) (s : State), k < 4 → s.on 32 = true →
     exec (.pwmPeriodStart k) s = .next { s with gpio := { s.gpio with pwmNow := Table.set 0 s.gpio.pwmNow k (Table.get 0 s.gpio.pwm k),
                                                                        pwmStart := Table.set 0 s.gpio.pwmStart k s.time } }) ∧
   (∀ (k : Nat) (s : State), k < 4 → s.mgt.slot = 0 → s.mgt.stage = .ready →
     exec (.fanTachUpdate k) s = .next { s with gpio := { s.gpio with
       fanRpm := Table.set 0 s.gpio.fanRpm k (BitVec.ofNat 16 (Nat.min 0xFFFF ((Table.get 0 s.gpio.tach k).toNat * 30))) } } ∧
     (s.fanDuty k ≠ 0 → s.gpio.fanStalled.getLsbD k = false →
       let t := s.advanceTo (Table.get 0 s.gpio.fanPulse k + 2 * second)
       exec (.fanStall k) s = .next (({ t with gpio := { s.gpio with fanStalled := setBit s.gpio.fanStalled k true } } : State).raiseEvent
         16 0x0502 noQueue 0 [2, BitVec.ofNat 8 k, s.power.tempC]))) ∧
   (∀ (fn k : Nat) (duty : BitVec 8) (s : State), k < 4 → Reaches s .hif fn (0x50800 + 4 * k) true (.fanDuty k) →
     let g := s.gpio
     let g' : Gpio := { g with fanDuty := Table.set 0xFF g.fanDuty k duty,
                               fanPulse := if s.fanDuty k = 0 then Table.set 0 g.fanPulse k s.time else g.fanPulse,
                               fanStalled := if duty = 0 then setBit g.fanStalled k false else g.fanStalled }
     let t : State := { s with gpio := g' }
     (s.mgt.slot = 0 →
       exec (.trayFanDutyWrite fn k duty) s = .next (if (s.pin (8 + k)).owner = 1 ∧ s.on 32 = true then t.driveFan k else t))) ∧
   (∀ (m : Master) (fn k : Nat) (duty : BitVec 8) (s : State), k < 4 → m ≠ .soundGw → s.mgt.slot ≠ 0 →
     Reaches s m fn (0x50800 + 4 * k) true (.fanDuty k) →
       exec (.registerWrite (accOf m fn (0x50800 + 4 * k)) (BitVec.ofNat 64 duty.toNat)) s =
         .next (s.logAccess causeState (accOf m fn (0x50800 + 4 * k)) true)))

/-- The other register rows (R477, R471, R305, R333): ISL_QABORT ends what waits at a tag, and is logged for an engine that does not wait;
LDG_RELEASE clears an ownerless
snapshot and releases held ports; KEY_RETRY keys a QUIET port again; DBG_RELEASE completes held accesses. -/
def Obligations.ReleaseRows : Prop :=
  ∀ (fn : Nat) (s : State),
    (∀ n (bits : BitVec 3), n < 16 → (∃ p, s.isletOwner n = some p ∧ fn = p + 1) →
      Reaches s .hif fn (0x100300 + 0x10000 * n) true (.qabort n) →
      let qs := ((List.range 3).filter (fun k => bits.getLsbD k)).map (fun k => 3 * n + k)
      ((∀ q, q ∈ qs → (s.tagWaitOf q).isSome = true) →
        exec (.islQabort fn n bits) s = .next (qs.foldl State.abortWaiting s)) ∧
      ((∃ q, q ∈ qs ∧ s.tagWaitOf q = none) →
        exec (.islQabort fn n bits) s =
          .next ((qs.foldl State.abortWaiting s).logAccess causeState (accOf .hif fn (0x100300 + 0x10000 * n)) true))) ∧
    (Reaches s .hif fn 0x80020 true .ldgRelease →
      (s.up.frozen = true → s.up.breachPart = 0xFF →
        exec (.ldgReleaseSnapshot fn) s = .next { s with up := { s.up with frozen := false } }) ∧
      (s.up.frozen = true → s.up.breachPart ≠ 0xFF →
        exec (.ldgReleaseSnapshot fn) s = .next (s.logAccess causeState (accOf .hif fn 0x80020) true)) ∧
      (∀ ports, ∃ t, exec (.ldgReleasePort fn ports) s = .next t ∧
        (∀ p, p < 10 → t.port p = if ports.getLsbD p = true ∧ (s.port p).held = true
          then { s.port p with held := false, forceLost := true, st := if s.on (22 + p) then .training else (s.port p).st }
          else s.port p) ∧
        t = { s with ports := t.ports })) ∧
    (∀ p, p < 10 → Reaches s .hif fn (0x200010 + 0x10000 * p) true (.strCtrl p) →
      let s0 := s.setPort p (s.port p)
      ((s.port p).st = .quiet → (s.port p).enabled = true → exec (.keyRetry fn p) s = .next (s0.enterKeying p)) ∧
      ((s.port p).st ≠ .quiet ∨ (s.port p).enabled = false → exec (.keyRetry fn p) s = .next s0)) ∧
    (∀ (m : Master) (masters : BitVec 5), m ≠ .goose → Reaches s m fn 0x500020 true .dbgRelease →
      exec (.dbgRelease m fn masters) s = .next (s.releaseMasters masters.toNat))

/-- DBG_MEM and DBG_LOG (R400 to R402): a write of DBG_MEM_DATA in reach is stored at DBG_MEM_ADDR and observes the partition; a read
answers what stands there; a log entry of a partition outside PART_MASK reads all-ones. A register access in general (R9, R334,
R336, R337): an aligned whole write of a 32-bit register takes effect and a read of one answers its value; a read of HIF without
the right is refused, recorded, and answered all-ones 16 µs later. -/
def Obligations.RegisterAccess : Prop :=
  (∀ (m : Master) (fn : Nat) (s : State),
     (∀ p data, Reaches s m fn 0x500048 true .dbgMemData → s.dbgReach = some p →
       exec (.dbgMemAccess m fn true data) s =
         .next ((({ s with bus := { s.bus with dbgData := data } } : State).dbgStore (accOf m fn 0x500048) data).observe p)) ∧
     (∀ p data, Reaches s m fn 0x500048 false .dbgMemData → s.dbgReach = some p →
       let t : State := { s.dbgLoad.2 with bus := { s.dbgLoad.2.bus with dbgData := s.dbgLoad.1 } }
       exec (.dbgMemAccess m fn false data) s = .next ((t.observe p).answer (accOf m fn 0x500048) s.dbgLoad.1.toNat)) ∧
     (∀ k l, k < 8 → Reaches s m fn (0x500110 + 4 * k) false (.dbgLogEntry k) → s.bus.sealedLog[s.bus.dbgIndex.toNat]? = some l →
       (l.part = 0xFF → exec (.dbgLogRead m fn k) s = .next (s.answer (accOf m fn (0x500110 + 4 * k)) (l.word k % 2 ^ 32))) ∧
       (l.part ≠ 0xFF → s.bus.dbgMask.getLsbD l.part.toNat = false →
         exec (.dbgLogRead m fn k) s = .next (s.answer (accOf m fn (0x500110 + 4 * k)) 0xFFFFFFFF)) ∧
       (l.part ≠ 0xFF → s.bus.dbgMask.getLsbD l.part.toNat = true →
         exec (.dbgLogRead m fn k) s = .next ((s.observe l.part.toNat).answer (accOf m fn (0x500110 + 4 * k)) (l.word k % 2 ^ 32))))) ∧
  (∀ (m : Master) (fn o : Nat) (s : State), m ≠ .soundGw →
     let a := accOf m fn o
     (∀ r (v : Word), Reaches s m fn o true r → a.off ≠ 0x500020 →
       exec (.registerWrite a (BitVec.ofNat 64 v.toNat)) s = .next (s.writeOutReg a r v.toNat)) ∧
     (∀ r, Reaches s m fn o false r →
       (∀ k, r ≠ .dbgLogEntry k) → r ≠ .dbgMemData →
       exec (.registerRead a) s =
         .next ((s.counted r).emit (.readAnswer fn (BitVec.ofNat 64 ((s.counted r).readReg (if m = .hif then fn else 0) r % 2 ^ 32))))) ∧
     (∀ reason, m = .hif → a.off % 4 = 0 → s.noRequests a = false → s.frozenPath a = false →
       s.accessReason a false = some reason →
       exec (.registerRead a) s =
         .next ((s.refuse 0 (if fn = 0 then none else some (fn - 1)) 0xFF reason 0 a.off).emit (.refusedAnswer fn (s.time + 1600)))))

/-- The host link (R48, R226, R229, R332, R430, R445): configuration requests get CRS until HIF_CFG_READY, and a command then takes effect;
memory requests before it are unsupported; an auxiliary port, that of every die but die 0 (log entry 66), has one function, and an aligned
write through it changes no register and is logged; a held read of HIF is
answered all-ones after its time; BAR2 outside machine mode is logged and answered all-ones, and an access of another die is forwarded. -/
def Obligations.HostLink : Prop :=
  ∀ (fn : Nat) (s : State),
    (∀ c, s.die ≠ 0 → fn ≠ 0 → exec (.pcieConfigRequest fn c) s = .next { s with out := .unsupported fn :: s.out }) ∧
    (∀ c, s.die = 0 ∨ fn = 0 →
      (s.mgt.cfgReady = false → exec (.pcieConfigRequest fn c) s = .next { s with out := .configAnswer fn true :: s.out }) ∧
      (s.mgt.cfgReady = true → exec (.pcieConfigRequest fn c) s = .next ((s.configure fn c).emit (.configAnswer fn false)))) ∧
    (∀ b, let t : State := { s with pcie := Table.set {} s.pcie fn { s.config fn with busMaster := b } }
      s.configure fn (.command b) = t.releaseHeld ∧ (t.config fn).busMaster = b ∧
      ∀ f, f ≠ fn → t.config f = s.config f) ∧
    (s.mgt.cfgReady = false → exec (.earlyMemoryRequest fn) s = .next { s with out := .unsupported fn :: s.out }) ∧
    (∀ a : Acc, a.master = .hif → s.bus.held.getLsbD 0 = true →
      exec (.heldRequestTimeout a) s =
        .next ((s.logAccess causeHeld a false).emit (.readAnswer a.fn (BitVec.ofNat 64 (2 ^ 64 - 1))))) ∧
    (∀ (write : Bool) (off : Nat) (data : Word),
      let a : Acc := { accAt fn off with bar := 2 }
      let size := if fn = 0 then 2 ^ 26 else 2 ^ 20
      s.noRequests a = false →
      (s.frozenPath a = true → exec (.bar2Forward fn write off data) s = .next (if write then s.logAccess causeHeld a true else s)) ∧
      (s.frozenPath a = false →
        (s.mgt.machineMode = false →
          exec (.bar2Forward fn write off data) s = .next (if write then s.logAccess causeState a true
            else (s.logAccess causeState a false).emit (.readAnswer fn (BitVec.ofNat 64 (2 ^ 64 - 1))))) ∧
        (s.mgt.machineMode = true → s.mgt.machineLead = true → s.mgt.machineMask.getLsbD (off / size) = true → off / size ≠ s.die →
          exec (.bar2Forward fn write off data) s =
            .next (s.forward (off / size) .access [fn, if write then 1 else 0, off % size, data.toNat, 4, 15])))) ∧
    (∀ (o : Nat) (v : BitVec 64),
      let a := accOf .hif 0 o
      s.die ≠ 0 → o % 4 = 0 → s.noRequests a = false → s.frozenPath a = false →
      exec (.registerWrite a v) s = .next (s.logAccess causeState a true))

/-! ### Management commands -/

/-- TENANT_BEGIN on the operator ring (R377, R379): a die that is not the machine's lead refuses it; PART_STATE unless the partition is
CREATED on every die that holds it; else it is ACTIVE with its IDE_REQUIRED and REPORT_SEQ 0, and the command is DONE: at once, or, where
other dies hold the partition, when the last of them has acted. -/
def Obligations.TenantBegin : Prop :=
  ∀ (s : State) (r : Run), s.mgmtRun 64 0x82 = some r →
    let e := r.entry
    let p := leAt e 24 1 % 16
    let ide := bit (leAt e 25 1) 0
    let checks := [(24, decide (leAt e 24 1 / 16 ≠ 0)), (25, decide (leAt e 25 1 / 2 ≠ 0)), reservedBad e 26 64]
    let t := s.beginTenant p ide
    (∀ o, firstBad checks = some o → exec .tenantBegin s = .next (malformed s 64 r subDesc o)) ∧
    (Clean checks →
      (s.follower = true → exec .tenantBegin s = .next (malformed s 64 r subMachinePart 24)) ∧
      (s.follower = false →
        ((s.part p).state ≠ .created ∨ (s.part p).othersAre 1 = false →
          exec .tenantBegin s = .next (malformed s 64 r subPartState 24)) ∧
        ((s.part p).state = .created → (s.part p).othersAre 1 = true →
          (t.part p).state = .active ∧ (t.part p).ideReq = ide ∧ (t.part p).reportSeq = 0 ∧
          (∀ k, k ≠ p → t.part k = s.part k) ∧
          ((s.part p).wide = false → exec .tenantBegin s = .next (ended t 64 r stDone 0)) ∧
          ((s.part p).wide = true → exec .tenantBegin s = .next (waits (t.actElsewhere 0 p ide) 64 r [p]) ∧
            ∀ u : State, u.mgmtBusy 64 0x82 = some { r with phase := .busy, aux := [p] } → (u.part p).othersAre 2 = true →
              u.switchOf p = none → u.othersDone p = ended u 64 { r with phase := .busy, aux := [p] } stDone 0))))

/-- PART_CREATE (R376, R379): its checks in order, the first that fails deciding; else, once the TRNG is ready (R371), the partition has a
new at-rest key, the owners are recorded, the named Islets cleared and the named granules filled under that key, or, with no granule, the
partition is CREATED. -/
def Obligations.PartCreate : Prop :=
  ∀ (s : State) (r : Run), s.mgmtRun 64 0x80 = some r → s.mgt.bootDone = true →
    let e := r.entry
    let p := leAt e 24 1 % 16
    let isl := leAt e 26 2
    let gm := leAt e 32 24
    let ns := (List.range 16).filter (fun n => bit isl n)
    let gs := (List.range 191).filter (fun g => bit gm g)
    let checks :=
      [(24, decide (leAt e 24 1 / 16 ≠ 0)),
       (25, decide (leAt e 25 1 / 2 ≠ 0) || (bit (leAt e 25 1) 0 && !(decide (s.die ≠ 0) && s.boot.perstHigh))),
       (26, isl == 0 && gm == 0), reservedBad e 28 32, (32, bit gm 191 || gs.any (fun g => s.mgt.hbmFail.getLsbD (g / 96))),
       reservedBad e 56 64]
    let answer := exec .partCreate s
    let leadHas : Prop := Table.get 0 (s.part p).others 0 = 1 ∨ Table.get 0 (s.part p).others 0 = 2
    (∀ o, firstBad checks = some o → answer = .next (malformed s 64 r subDesc o)) ∧
    (Clean checks →
      ((s.part p).state ≠ .none → answer = .next (malformed s 64 r subPartState 24)) ∧
      ((s.part p).state = .none → (∃ n, n ∈ ns ∧ (s.isletOwner n).isSome = true) → answer = .next (malformed s 64 r subOwned 26)) ∧
      ((s.part p).state = .none → (∀ n, n ∈ ns → s.isletOwner n = none) →
        ((∃ g, g ∈ gs ∧ s.owner g ≠ 0xFF) → answer = .next (malformed s 64 r subOwned 32)) ∧
        ((∀ g, g ∈ gs → s.owner g = 0xFF) →
          (s.follower = true → ¬ leadHas → answer = .next (malformed s 64 r subMachinePart 24)) ∧
          (s.follower = false ∨ leadHas →
            ((∃ g, g ∈ gs ∧ g < 96) → s.settled 20 = .off → answer = .next (malformed s 64 r subDomainOrder 20)) ∧
            ((∃ g, g ∈ gs ∧ 96 ≤ g) → s.settled 21 = .off → ((∃ g, g ∈ gs ∧ g < 96) → s.settled 20 ≠ .off) →
              answer = .next (malformed s 64 r subDomainOrder 21)) ∧
            ((∀ g, g ∈ gs → s.settled (20 + g / 96) ≠ .off) → s.mgt.trngReady = false → answer = .next s) ∧
            ((∀ g, g ∈ gs → s.settled (20 + g / 96) ≠ .off) → s.mgt.trngReady = true →
              let t0 := s.setPart p { s.part p with islets := BitVec.ofNat 16 isl, localRoute := bit (leAt e 25 1) 0 }
              let t1 := gs.foldl (fun u g => u.setOwner g p) (t0.newAtRest p)
              let t2 := ns.foldl (fun u n => u.clearIslet n none) t1
              let t3 := (t2.mgmtWait 64 [p]).tellPart p 4
              (t0.newAtRest p).store.atRest = Table.set [] s.store.atRest p (s.random 64) ∧
              (∀ g, g ∈ gs → t1.owner g = p) ∧
              answer = .next (if gs.isEmpty then t3.endCreate p r.start else t3.queueFill gs 1 p (16 + p)))))))

/-- TENANT_END, PART_DESTROY and the resets of a function (R396, R378, R379, R382): the switch of an ACTIVE (or, to destroy, CREATED)
partition starts, on the machine's lead only; every cue counter and window of it is gone, its keys too, its state is CLEARING, and VF_FLR
does the same as the operator's TENANT_END where the die has VFs (R48). At its end (R396 step 8, R184, R204) the completion is posted on
the issuing ring, the partition is CREATED again or released, and TENANT_CLEARED tells the operator. PF_FLR (R382) gives the operator ring
and its two rings their reset values. That steps 1 to 6 are one step is the model's choice (log entry 19). -/
def Obligations.TenantSwitch : Prop :=
  (∀ (s : State),
     (∀ q r, s.mgmtRun q 0x83 = some r →
       let p := if q = 64 then leAt r.entry 24 1 % 16 else q - 48
       let checks := if q = 64 then [(24, decide (leAt r.entry 24 1 / 16 ≠ 0)), reservedBad r.entry 25 64] else [reservedBad r.entry 24 64]
       (∀ o, firstBad checks = some o → exec (.tenantEnd q) s = .next (malformed s q r subDesc o)) ∧
       (Clean checks →
         (s.follower = true → exec (.tenantEnd q) s = .next (malformed s q r subMachinePart 24)) ∧
         (s.follower = false →
           ((s.part p).state ≠ .active → exec (.tenantEnd q) s = .next (malformed s q r subPartState 24)) ∧
           ((s.part p).state = .active →
             exec (.tenantEnd q) s = .next ((waits s q r [p]).startSwitch p (some q) false r.start))))) ∧
     (∀ r, s.mgmtRun 64 0x81 = some r →
       let p := leAt r.entry 24 1 % 16
       let checks := [(24, decide (leAt r.entry 24 1 / 16 ≠ 0)), reservedBad r.entry 25 64]
       (∀ o, firstBad checks = some o → exec .partDestroy s = .next (malformed s 64 r subDesc o)) ∧
       (Clean checks →
         (s.follower = true → exec .partDestroy s = .next (malformed s 64 r subMachinePart 24)) ∧
         (s.follower = false →
           ((s.part p).state = .none ∨ (s.part p).state = .clearing →
             exec .partDestroy s = .next (malformed s 64 r subPartState 24)) ∧
           ((s.part p).state = .created ∨ (s.part p).state = .active →
             exec .partDestroy s = .next ((waits s 64 r [p]).startSwitch p (some 64) true r.start))))) ∧
     (∀ fn, 1 ≤ fn → fn ≤ 16 →
       let t0 := (s.resetConfig fn).setSession fn {}
       let t := { t0 with ideOn := Table.set false t0.ideOn fn false }.ideInsecure fn
       (s.die ≠ 0 → exec (.vfFlr fn) s = .next s) ∧
       (s.die = 0 → t.config fn = {} ∧ t.session fn = {} ∧ (t.part (fn - 1)).ideSecure = false ∧
         exec (.vfFlr fn) s = .next (if (s.part (fn - 1)).state = .active then t.startSwitch (fn - 1) none false s.time else t))) ∧
     (∀ p issuer destroy start,
       let t := s.startSwitch p issuer destroy start
       (∀ k, t.cue p k = 0) ∧ (∀ w, t.win p w = {}) ∧ (t.part p).state = .clearing ∧ (t.part p).loaded = false ∧
       (t.part p).halted = false ∧ (t.part p).ideSecure = false ∧ t.session (p + 1) = {} ∧
       Table.get [] t.store.content p = [] ∧
       (destroy = true → Table.get [] t.store.atRest p = []))) ∧
  (∀ (s : State) (p us start : Nat) (issuer : Option Nat) (destroy : Bool), p < 16 →
     s.switchOf p = some { start := start, issuer := issuer, destroy := destroy, took := some us } →
     s.follower = true ∨ (s.part p).othersAre (if destroy then 0 else 1) = true →
     let by_ := (issuer.getD noQueue, (issuer.map s.ringSeq).getD 0)
     let s1 := s.setSwitch p none
     let s2 := match issuer with
       | some q => (s1.mgmtDone q us).complete q 0
       | none => s1
     let s3 := s2.resetPartRings p
     let s4 := if destroy then (s3.releasePart p).tellPart p 0 else s3.nowCreated p by_.1 by_.2
     s.endSwitch p = s4.raiseEvent 16 0x0602 by_.1 by_.2 ([BitVec.ofNat 8 p, 0, 0, 0] ++ leBytes 4 us) ∧
     (∀ q, s2.queueOwner q = some p → s3.queue q = {}) ∧
     (∀ j, j < 4 → s3.ring (4 * p + j) =
       { ({} : Ring) with waiting := (s2.ring (4 * p + j)).waiting,
                          generated := BitVec.ofNat 32 (s2.ring (4 * p + j)).waiting.length }) ∧
     (s3.ring (evRing p)).enable = false ∧ (s3.ring (evRing p)).raised = 0 ∧
     (destroy = true → (s4.part p).state = .none ∧ (s4.part p).islets = 0 ∧ ∀ g, g < 192 → s4.owner g ≠ p)) ∧
  (∀ s : State,
    (s.die ≠ 0 → exec .pfFlr s = .next (s.resetConfig 0)) ∧
    (s.die = 0 → ∃ t u : State, exec .pfFlr s = .next t ∧ t = u.releaseHeld ∧
     u.queue 64 = { ({} : Queue) with run := (s.queue 64).run } ∧
     u.ring 64 = { ({} : Ring) with waiting := (s.ring 64).waiting, generated := BitVec.ofNat 32 (s.ring 64).waiting.length } ∧
     (u.ring (evRing 16)).enable = false ∧ (u.ring (evRing 16)).base = 0 ∧ (u.ring (evRing 16)).raised = (s.ring (evRing 16)).raised ∧
     u.session 0 = {} ∧ u.power.d3hot = false ∧ u.config 0 = {} ∧
     (∀ q, q ≠ 64 → u.queue q = s.queue q) ∧ (∀ c, c ≠ 64 → c ≠ evRing 16 → u.ring c = s.ring c) ∧
     u.parts = s.parts ∧ u.hbm = s.hbm ∧ u.scratch = s.scratch ∧ u.ports = s.ports))

/-- PACE_SET (R408): MALFORMED for a failing field, PACE_ORDER below the voltage that CAP requires, else the new cap and DONE; nothing
else changes. -/
def Obligations.PaceSet : Prop :=
  ∀ (s : State) (r : Run), s.mgmtRun 64 0x86 = some r →
    let cap := leAt r.entry 24 1
    let checks := [(24, decide (cap < 10) || decide (195 < cap)), reservedBad r.entry 25 64]
    (∀ o, firstBad checks = some o → exec .paceSet s = .next (malformed s 64 r subDesc o)) ∧
    (Clean checks → s.power.volt.toNat < requiredMv cap → exec .paceSet s = .next (ended s 64 r stPaceOrder 0)) ∧
    (Clean checks → requiredMv cap ≤ s.power.volt.toNat →
      exec .paceSet s = .next (ended { s with power := { s.power with paceCap := BitVec.ofNat 8 cap } } 64 r stDone 0))

/-- VOLT_SET, its polls and its timeout (R409), for a regulator in ULINEAR16; VOUT_COMMAND is the ceiling of the target in the regulator's
unit, so the rail is never set below it (R413). That any STATUS_WORD but 0 reports a fault, and that no poll is made past the 5 ms, is the
model's choice (log entry 94). AON_LP and the D states of the PF (R429, R430): AON_LP
names the lowest domain that is ON, or its load; once it is done, D3hot puts the host interface and the Goose in RET; a TLP, or the
return to D0, ends it. -/
def Obligations.VoltageAndLowPower : Prop :=
  (∀ (mv : Nat) (n : Int),
     (n < 0 → mv * 2 ^ (-n).toNat ≤ 1000 * voutCommand mv n ∧ 1000 * voutCommand mv n < mv * 2 ^ (-n).toNat + 1000) ∧
     (0 ≤ n → mv ≤ 1000 * (voutCommand mv n * 2 ^ n.toNat) ∧ 1000 * (voutCommand mv n * 2 ^ n.toNat) < mv + 1000 * 2 ^ n.toNat)) ∧
  (∀ (s : State) (r : Run),
     (s.mgmtRun 64 0x87 = some r → s.power.linear16 = true →
       let mv := leAt r.entry 24 2
       let checks := [(24, decide (mv < 600) || decide (900 < mv)), reservedBad r.entry 26 64]
       Clean checks →
       (largestCap mv < s.power.paceCap.toNat → exec .voltSet s = .next (ended s 64 r stPaceOrder 0)) ∧
       (s.power.paceCap.toNat ≤ largestCap mv →
         let t : State := { s with power := { s.power with voltGoal := some mv, voltGood := 0, voltPrev := s.power.volt.toNat,
                                                           voltStart := s.time } }
         exec .voltSet s = .next (waits (t.emit (.pmbus 0x21 (voutCommand mv s.power.exponent))) 64 r []))) ∧
     (∀ goal, s.power.voltGoal = some goal → s.mgmtBusy 64 0x87 = some r →
       let t := s.advanceTo (s.time + 5000)
       let back : State → BitVec 16 → State := fun u status =>
         malformed (({ u with power := { u.power with voltGoal := none, voltGood := 0 } } : State).emit
           (.pmbus 0x21 (voutCommand s.power.voltPrev s.power.exponent))) 64 r subPmbus status.toNat
       let due := s.time + 5000 ≤ s.power.voltStart + 500000
       (∀ mv status, ¬ due → exec (.voutPoll mv status) s = .next s) ∧
       (∀ mv status, due → status ≠ 0 → exec (.voutPoll mv status) s = .next (back t status)) ∧
       (∀ mv, due → goal ≤ mv + 15 → mv ≤ goal + 15 → 1 ≤ s.power.voltGood → exec (.voutPoll mv 0) s =
         .next (ended { t with power := { s.power with voltGoal := none, voltGood := 0, volt := BitVec.ofNat 10 goal } } 64 r stDone 0)) ∧
       (∀ mv, due → goal ≤ mv + 15 → mv ≤ goal + 15 → s.power.voltGood = 0 →
         exec (.voutPoll mv 0) s = .next { t with power := { s.power with voltGood := 1 } }) ∧
       (∀ mv, due → (mv + 15 < goal ∨ goal + 15 < mv) → exec (.voutPoll mv 0) s = .next { t with power := { s.power with voltGood := 0 } }) ∧
       exec .voltSetTimeout s = .next (back (s.advanceTo (s.power.voltStart + 500000)) 0))) ∧
  (∀ s : State,
     (∀ r, s.mgmtRun 64 0x88 = some r → (reservedBad r.entry 24 64).2 = false →
       let load := knownLoad s.power.wakePorts s.power.wakePins
       (∀ d, d < 33 → (s.settled d = .on ∨ s.domSt d = .on) → (∀ k, k < d → s.settled k ≠ .on ∧ s.domSt k ≠ .on) →
         exec .aonLp s = .next (malformed s 64 r subAonState d)) ∧
       ((∀ d, d < 33 → s.settled d ≠ .on ∧ s.domSt d ≠ .on) →
         (2600 < load → exec .aonLp s = .next (malformed s 64 r subBudget load)) ∧
         (load ≤ 2600 → exec .aonLp s = .next (ended { s with power := { s.power with aonLp := true } } 64 r stDone 0)))) ∧
     (s.power.d3hot = false → s.domSt 33 = .on →
       (s.power.aonLp = false → exec .pfD3hot s = .next { s with power := { s.power with d3hot := true } }) ∧
       (s.power.aonLp = true → ∃ t, exec .pfD3hot s = .next t ∧ t.domSt 33 = .ret ∧ t.domSt 34 = .ret ∧
         t.power = { s.power with d3hot := true, lp := true } ∧ (∀ d, d ≠ 33 → d ≠ 34 → t.domain d = s.domain d) ∧
         t = { s with power := t.power, domains := t.domains })) ∧
     (s.power.aonLp = true ∨ s.power.lp = true →
       exec .aonLpExitTlp s =
         .next ((({ s with power := { s.power with aonLp := false, lp := false } } : State).wakeDomain 33 3).wakeDomain 34 3)) ∧
     (s.power.d3hot = true → s.on 33 = true →
       exec .pfD0Return s = .next ({ s with power := { s.power with d3hot := false } } : State).releaseHeld))

/-- DOMAIN_SET, WAKE_ARM, and what ends them (R416 to R422, R426, R427, R497): a clean DOMAIN_SET quiesces the ON Islets it lowers
and asks the UP ports it lowers to sleep, then waits; when all is ready, or at its timeout, it proceeds or ends BUSY; a transition that
may finish takes its restore delay and reaches its state; an armed pin that fired disarms itself and raises its targets. -/
def Obligations.DomainCommands : Prop :=
  ∀ s : State,
    (∀ r, s.mgmtRun 64 0x84 = some r → s.mgt.bootDone = true →
      let e := r.entry
      let checks :=
        [(24, setDomains.all (fun d => targetCode e 24 d == 0)), (29, decide (leAt e 29 1 / 64 ≠ 0)),
         (30, decide (1000 < leAt e 30 2)), (34, decide (leAt e 34 1 / 16 ≠ 0)), reservedBad e 35 64]
      (∀ o, firstBad checks = some o → exec .domainSet s = .next (malformed s 64 r subDesc o)) ∧
      (∀ d, d < 33 → Clean checks → s.breaksOrder e 24 d = true → (∀ k, k < d → s.breaksOrder e 24 k = false) →
        exec .domainSet s = .next (malformed s 64 r subDomainOrder d)) ∧
      (Clean checks → (∀ d, d < 33 → s.breaksOrder e 24 d = false) →
        (∀ d, d < 16 → targetCode e 24 d = 3 → s.windowOn d = false) →
        (∀ k, k < 2 → targetCode e 24 (20 + k) = 3 → s.stackOwned k = false) →
        let t := setDomains.foldl (fun (u : State) d =>
          match targetState (targetCode e 24 d) with
          | none => u
          | some x =>
            if (u.domSt d).rank ≤ x.rank then u
            else if d < 16 ∧ u.domSt d = .on then u.setIslet d { u.islet d with quiesce := true }
            else if 22 ≤ d ∧ d < 32 ∧ (u.port (d - 22)).st = .up then
              (u.setPort (d - 22) { u.port (d - 22) with sleepTo := some x, sleepAcked := false }).sleepNote (d - 22) .sleepReq (x == .off)
            else u) s
        exec .domainSet s = .next (t.mgmtWait 64 [1]))) ∧
    (∀ r, s.mgmtBusy 64 0x84 = some r → r.aux.headD 0 = 1 → s.mgmtBusy 64 0x8E = none →
      (s.loweringReady r.entry = true → exec (.quiesceDone 64) s = .next (s.startTransitions r.entry)) ∧
      (let t := s.advanceTo (r.start + leAt r.entry 30 2 * 100000)
       exec (.quiesceTimeout 64) s =
         .next (if t.loweringReady r.entry then t.startTransitions r.entry else t.quiesceFailed r.entry))) ∧
    (∀ q r, s.mgmtBusy q 0x8E = some r →
      let n := r.aux.getD 0 16
      (r.aux.getD 2 0 = 0 → s.quiet n = true → (s.islet n).testing = false → s.on n = true →
        exec (.quiesceDone q) s = .next (waits (s.setIslet n { s.islet n with testing := true }) q r [n, r.aux.getD 1 0, 1])) ∧
      (r.aux.getD 2 0 ≠ 1 → s.testReady r = false →
        let t := ended (s.advanceTo (r.start + leAt r.entry 28 4 * 100000)) q r stBusy 0
        exec (.quiesceTimeout q) s = .next ((t.setIslet n { t.islet n with quiesce := t.keepsQuiet n }).reevaluate))) ∧
    (∀ d x, (s.domain d).target = some x → s.mayMove d = true → (d = 20 ∨ d = 21 → s.mgt.bootDone = true) →
      ∃ t, exec (.domainTransitionDone d) s = .next t ∧
        (d < 33 → (s.domain d).wake = none → (t.domSt d = x ∧ (t.domain d).target = none)) ∧
        s.time ≤ t.time ∧ (s.domain d).began + restoreDelay d (s.domSt d) x ≤ t.time) ∧
    (∀ r, s.mgmtRun 64 0x85 = some r →
      let e := r.entry
      let src := leAt e 24 1
      let p := s.pin (src - 16)
      (bit (leAt e 25 1) 0 = true → 16 ≤ src → src < 24 → p.configured = true → p.func = 0 → p.oe = false → p.irq ≠ 0 →
        leAt e 25 1 / 2 = 0 → (reservedBad e 26 40).2 = false → (∀ d, d < 33 → targetCode e 40 d ≤ 1) → leAt e 45 1 / 64 = 0 →
        (reservedBad e 46 48).2 = false → leAt e 50 1 / 16 = 0 → (reservedBad e 51 64).2 = false →
        (∀ d, d < 16 → targetCode e 40 d = 1 → ∃ k, 16 ≤ k ∧ k < 20 ∧ s.wouldBe e 40 k = .on) →
        (∀ k, k < 4 → targetCode e 40 (16 + k) = 1 → s.wouldBe e 40 (20 + k / 2) ≠ .off) →
        let t := s.setArm src true (setDomains.filter (fun d => decide (targetCode e 40 d = 1)))
        exec .wakeArm s = .next (ended (t.setPin (src - 16) { t.pin (src - 16) with fired := false }) 64 r stDone 0)) ∧
      (bit (leAt e 25 1) 0 = false → src < 10 → leAt e 25 1 / 2 = 0 → (reservedBad e 26 40).2 = false → leAt e 45 1 / 64 = 0 →
        (reservedBad e 46 48).2 = false → leAt e 50 1 / 16 = 0 → (reservedBad e 51 64).2 = false →
        exec .wakeArm s =
          .next (ended (s.setArm src false (setDomains.filter (fun d => decide (targetCode e 40 d = 1)))) 64 r stDone 0))) ∧
    (∀ k, k < 8 → (s.pin k).fired = true → s.power.wakePins.getLsbD k = true →
      exec (.pinWake k) s = .next ((s.setPin k { s.pin k with fired := false }).fireWake (16 + k) 2))

/-- The regulator, the power limit and the temperature (R54, R398, R410, R412, R414, R432 to R434): what each reading, alert and trip
writes and reports. The resets, the boot and the randomness (R370, R371, R438 to R443, R451 to R455, R519); that steps 1 to 5 of the
boot are one step is the model's choice (log entry 45). A pulse shorter than the manual asks of the board has no stated outcome
(R516) and stops the model. -/
def Obligations.SupplyAndBoot : Prop :=
  (∀ s : State,
     let w := s.power
     let therm : State → List Byte → State := fun u l => u.raiseEvent 16 0x0502 noQueue 0 l
     (s.gooseUp = true →
       (∀ mv ma tempC, exec (.pmbusTelemetryRead mv ma tempC) s =
         .next { s with power := { w with lastMv := mv, lastMa := ma, lastTemp := tempC } }) ∧
       (∀ avgW avgC, exec (.telemetryUpdate avgW avgC) s =
         .next { s with power := { w with powerW := BitVec.ofNat 10 (Nat.min avgW 0x3FF), tempC := BitVec.ofInt 8 avgC } }) ∧
       (∀ status, exec (.pmbusAlert status) s =
         .next ((therm { s with power := { w with pmbusLast := status, pmbusFault := true, pmbusCount := satInc w.pmbusCount } }
           [3, 0, w.tempC]).emit (.pmbus 3 0)))) ∧
     (w.tripped = false → s.boot.porHigh = true →
       let t : State := { s with power := { w with shortfall := true, shortCount := satInc w.shortCount,
                                                   shortTold := some (s.time / 10000000) } }
       exec .paceShortfall s = .next (if w.shortTold = some (s.time / 10000000) then t else therm t [4, 0, w.tempC])) ∧
     (w.tripped = false → ∀ avgW,
       let t : State := { s with power := { w with overLimit := decide (w.limitW.toNat < avgW) } }
       exec (.powerLimitCheck avgW) s = .next (if w.limitW.toNat < avgW ∧ w.overLimit = false then therm t [1, 0, w.tempC] else t)) ∧
     (w.tripped = false → ∀ avgC : Int,
       ((w.thresholdC.toNat : Int) ≤ avgC → w.alert = false → exec (.thermalAlert avgC) s =
         .next (therm { s with power := { w with alert := true, alertSeen := true, alertCount := satInc w.alertCount } } [0, 0, w.tempC])) ∧
       (avgC < (w.thresholdC.toNat : Int) - w.hystC.toNat →
         exec (.thermalAlert avgC) s = .next { s with power := { w with alert := false } })) ∧
     (∀ sensorC : Int, 115 ≤ sensorC → s.boot.porHigh = true → w.tripped = false →
       ∃ t, exec (.thermalTrip sensorC) s = .next t ∧ (∀ d, t.domSt d = .off) ∧ t.power.trip = true ∧
         t.power.tripCount = satInc w.tripCount ∧ t.power.tripped = true ∧ t.fuses = s.fuses ∧ t.flash = s.flash ∧
         (∀ q, t.queue q = {}) ∧ t.hbm = [] ∧ t.scratch = [] ∧ t.time = s.time) ∧
     (s.boot.porHigh = true → ∀ slot tray xtal,
       ∃ t, exec (.brownout slot tray xtal) s = .next t ∧ t.power.brownout = true ∧ t.power.brownCount = satInc w.brownCount ∧ t.power.inLp = w.lp ∧
         t.power.trip = w.trip ∧ t.fuses = s.fuses ∧ t.flash = s.flash ∧
         (w.tripped = false → t.mgt.resetKind = .brownout ∧ t.mgt.slot = slot ∧ t.mgt.tray = tray ∧ t.hbm = [] ∧ t.scratch = [] ∧ (∀ q, t.queue q = {}) ∧ ∀ p, (t.part p).state = .none))) ∧
  (∀ s : State,
     (∀ lowUs, lowUs < 1000 → exec (.porNLow lowUs) s = .fault .resetTooShort) ∧
     (∀ lowUs, 1000 ≤ lowUs → ∃ t, exec (.porNLow lowUs) s = .next t ∧ t.boot.porHigh = false ∧ t.mgt.prevTrip = s.power.trip ∧
       t.hbm = [] ∧ t.scratch = [] ∧ t.parts = [] ∧ t.queues = [] ∧ t.fuses = s.fuses ∧ t.flash = s.flash ∧ t.power = {}) ∧
     (s.boot.porHigh = false → s.up.fwFailed = false → ∀ slot tray xtal,
       ∃ t, exec (.powerOnReset slot tray xtal) s = .next t ∧ t.boot.porHigh = true ∧ t.time = 0 ∧ t.mgt.stage = .fwLoad ∧
         t.mgt.slot = slot ∧ t.mgt.tray = tray ∧ t.mgt.resetKind = .cold ∧ t.fuses = s.fuses ∧ t.flash = s.flash ∧ t.queues = s.queues) ∧
     (s.alive = true → s.up.fwFailed = false →
       (∀ lowUs xtal, lowUs < 10 → exec (.warmReset lowUs xtal) s = .fault .resetTooShort) ∧
       (∀ lowUs xtal, 10 ≤ lowUs → ∃ t, exec (.warmReset lowUs xtal) s = .next t ∧ t.mgt.resetKind = .warmPin ∧ t.mgt.stage = .fwLoad ∧
         t.time = s.time ∧ t.boot.origin = s.time ∧ t.mgt.slotRunning = s.mgt.slotRunning ∧ t.mgt.trngReady = s.mgt.trngReady ∧
         t.mgt.slot = s.mgt.slot ∧ t.mgt.tray = s.mgt.tray ∧ t.power.trip = s.power.trip ∧ t.hbm = [] ∧ t.scratch = [] ∧ t.parts = [] ∧
         t.fuses = s.fuses ∧ t.flash = s.flash) ∧
       (s.boot.perstHigh = true → s.die = 0 → ∀ xtal, ∃ t, exec (.perstReset xtal) s = .next t ∧ t.mgt.resetKind = .perst ∧ t.boot.perstHigh = false ∧
         t.hbm = [] ∧ t.parts = [] ∧ t.fuses = s.fuses) ∧
       (s.boot.perstHigh = true → s.die ≠ 0 → ∀ xtal, exec (.perstReset xtal) s =
         .next { s with boot := { s.boot with perstHigh := false }, pcie := [], power := { s.power with d3hot := false } })) ∧
     exec .perstNRise s = .next { s with boot := { s.boot with perstHigh := true } } ∧
     (s.alive = true →
       (s.boot.trngRun + 1 < 1024 → exec .trngSample s = .next { s with boot := { s.boot with trngRun := s.boot.trngRun + 1 } }) ∧
       (1024 ≤ s.boot.trngRun + 1 → s.mgt.trngReady = false → s.mgt.nonce ≠ 0 → exec .trngSample s =
         .next ({ s with boot := { s.boot with trngRun := 1024 }, mgt := { s.mgt with trngReady := true } } : State).signedAgain.startKeying) ∧
       exec .trngTestFail s = .next
         { s with mgt := { s.mgt with trngReady := false, trngFail := true, trngFailCount := satInc s.mgt.trngFailCount },
                  boot := { s.boot with trngRun := 0 } } ∧
       (s.mgt.stage = .fwLoad → s.boot.fwDone = false →
         let first := if s.boot.cold then s.mgt.activeSlot else s.mgt.slotRunning
         (s.imageValid first = false → s.imageValid (!first) = false → exec .firmwareVerified s = .next (s.enterRecovery 1)) ∧
         (s.imageValid first = true ∨ s.imageValid (!first) = true → ∃ t, exec .firmwareVerified s = .next t ∧ t.boot.fwDone = true ∧
           t.mgt.slotRunning = (if s.imageValid first then first else !first) ∧ t.mgt.runningSv = BitVec.ofNat 7 (s.imageSv t.mgt.slotRunning) ∧
           t.store.identity = beBytes 48 (privateKey (s.derive textId 48)) ∧ t.store.binding = beBytes 48 (privateKey (s.derive textBind 48)) ∧
           t.store.region = s.derive textFwr 64 ∧ t.store.firmware = [] ∧ Out.pmbus 1 0x80 ∈ t.out)) ∧
       (s.mgt.stage = .rom ∨ s.mgt.stage = .fwLoad →
         exec .bootDeadline s = .next ((s.advanceTo (s.boot.origin + 38000000)).enterRecovery 2)) ∧
       (∀ stack, stack < 2 → s.boot.stackDone.getLsbD stack = false → s.mgt.stage ≠ .rom →
         ∃ t, exec (.hbmTrainingDone stack true) s = .next t ∧ t.domSt (20 + stack) = .on ∧ t.boot.stackDone.getLsbD stack = true ∧
           t.mgt.hbmFail.getLsbD stack = false) ∧
       (s.mgt.stage = .fwLoad → s.boot.fwDone = true → s.mgt.trngReady = true → s.boot.stackDone = 3 → s.mgt.hbmFail = 0 →
         ∃ t, exec .gooseReady s = .next t ∧ t.mgt.stage = .ready ∧ t.mgt.cfgReady = true ∧
           (s.mgt.nonce ≠ 0 → t.mgt.nonce = s.mgt.nonce) ∧ t.store = { s.store with idle := s.random 64 } ∧
           t.up.fill = s.up.fill ++ [{ granules := List.range 191, purpose := 4, part := 0, key := 1, start := s.time }] ∧
           Table.get [] t.keys 191 = s.store.region ∧ t.fuses = s.fuses)) ∧
     (∀ code, ∃ j, exec (.jtagInstruction code) s = .next { s with bus := { s.bus with jtag := j } } ∧
       (code ≠ 0 → code ≠ 1 → code ≠ 2 → code ≠ 3 → code ≠ 0x20 → j = .bypass) ∧
       (code = 0 ∨ code = 2 ∨ code = 3 → s.mgt.stage = .ready → ¬ (s.bus.dbgOpen = true ∧ s.bus.dbgJtag = true) → j = .bypass)))

/-- Attestation and SPDM (R389, R392 to R395): ATTEST counts, signs and writes a report and ends DONE with its length, once the TRNG is
ready (R371); each request of a function's mailbox is answered, with GET_VERSION starting the transcript anew, KEY_EXCHANGE opening a
session unless one stands, FINISH making it live and END_SESSION ending it with its IDE stream; an exchange on a ring is answered into
host memory; enabling the stream of a live session gives it its six keys. -/
def Obligations.GooseServices : Prop :=
  ∀ s : State,
    (∀ q r others, s.mgmtRun q 0x89 = some r →
      let p := if q = 64 then none else some (q - 48)
      let l := (s.report p (slice r.entry 32 32) others).1
      let t := (s.report p (slice r.entry 32 32) others).2
      (s.mgt.trngReady = false → exec (.attest q others) s = .next s) ∧
      (s.mgt.trngReady = true → exec (.attest q others) s =
        .next (ended (t.toHost q (.hostWrite (ringOwnerFn q) (leAt r.entry 24 8) l)) q r stDone l.length))) ∧
    (∀ fn request, fn ≤ 16 → s.gooseUp = true → s.exchanging fn = false →
      let v := s.session fn
      let said (code : Nat) : List Byte := Config.spdmResponse fn code v.transcript request []
      let kept (u : State) (old : List Byte) (x : Session) (answer : List Byte) : State :=
        (u.setSession fn { x with transcript := old ++ request ++ answer }).emit (.spdm fn answer)
      (s.die ≠ 0 → fn ≠ 0 → ∀ ok others,
        ∀ c ∈ [.getVersion fn request, .getCapabilities fn request, .negotiateAlgorithms fn request, .getDigests fn request,
               .getCertificate fn request, .challenge fn request, .getMeasurements fn request others, .keyExchange fn request,
               .finish fn request ok, .endSession fn request], exec c s = .next s) ∧
      (s.die = 0 ∨ fn = 0 →
        exec (.getVersion fn request) s = .next (kept (s.setSession fn { v with transcript := [] }) [] v (said 0x84)) ∧
        exec (.getCapabilities fn request) s = .next (kept s v.transcript v (said 0xE1)) ∧
        exec (.negotiateAlgorithms fn request) s = .next (kept s v.transcript v (said 0xE3)) ∧
        exec (.getDigests fn request) s = .next (kept s v.transcript v (said 0x81)) ∧
        exec (.getCertificate fn request) s = .next (kept s v.transcript v (said 0x82)) ∧
        (s.mgt.trngReady = true → exec (.challenge fn request) s = .next (kept s v.transcript v (said 0x83))) ∧
        (s.mgt.trngReady = true → ∀ others,
          let p := if fn = 0 then none else some (fn - 1)
          let l := Config.spdmResponse fn 0xE0 v.transcript request (s.report p (slice request 4 32) others).1
          exec (.getMeasurements fn request others) s = .next (kept (s.report p (slice request 4 32) others).2 v.transcript v l)) ∧
        (v.opening = true ∨ v.live = true → exec (.keyExchange fn request) s = .next (kept s v.transcript v [0x12, 0x7F, 0x0A, 0x00])) ∧
        (v.opening = false → v.live = false → s.mgt.trngReady = true →
          let w := { v with opening := true, secret := Config.spdmSecret fn v.transcript request s.freeCtr,
                            keys := Config.spdmKeys fn v.transcript request s.freeCtr }
          exec (.keyExchange fn request) s = .next (kept (s.freeTaken.setSession fn w) v.transcript w (said 0xE4))) ∧
        (v.opening = true →
          (let w := { v with opening := false, live := true }
           exec (.finish fn request true) s = .next (kept (s.setSession fn w) v.transcript w (said 0xE5))) ∧
          exec (.finish fn request false) s = .next (kept (s.setSession fn { transcript := v.transcript }) v.transcript {} (said 0xE5))) ∧
        (∀ ok, v.opening = false → exec (.finish fn request ok) s = .next (kept s v.transcript v (said 0xE5))) ∧
        exec (.endSession fn request) s = .next (kept (s.endSession fn) [] {} (said 0xEC)))) ∧
    (∀ q r request ok others l t got, s.mgmtRun q 0x8A = some r →
      let e := r.entry
      let len := leAt e 32 4
      let cap := leAt e 36 4
      4 ≤ len → len ≤ 4096 → 4 ≤ cap → cap ≤ 16384 → (reservedBad e 48 64).2 = false → hostGot r (leAt e 24 8) len = some got →
      s.respond (ringOwnerFn q) (leAt request 1 1) request ok others = some (l, t) → l.length ≤ cap →
      exec (.sessionExchange q request ok others) s =
        .next (ended (t.toHost q (.hostWrite (ringOwnerFn q) (leAt e 40 8) l)) q r stDone l.length)) ∧
    (∀ k, 1 ≤ k → k ≤ 16 →
      let t : State := { s with ideOn := Table.set false s.ideOn k true }
      let u : State := { t with ideKeys := Table.set [] s.ideKeys k (s.streamKeys k) }
      ((s.session k).live = true → exec (.ideStreamEnable k) s =
        .next (u.setPart (k - 1) { u.part (k - 1) with ideSecure := true }).releaseHeld) ∧
      ((s.session k).live = false → exec (.ideStreamEnable k) s = .next t) ∧
      ∃ x, exec (.ideIntegrityFail k) s = .next x ∧ (x.part (k - 1)).ideSecure = false ∧ Table.get [] x.ideKeys k = [] ∧
        x.sessions = s.sessions)

/-- Signed commands, keys and firmware (R357 to R361, R399, R402): they wait for the TRNG; once the block has come, MGT_NONCE takes fresh
bits and a block that fails is refused with reason 0x09; an accepted one acts; fuses are blown and the flash written by the events that
end the commands. A block passes if every field is as R357 and R358 say and its signature is the fused key's. -/
def Obligations.SignedCommands : Prop :=
  ∀ (s : State) (r : Run) (blk : List Byte), hostGot r (leAt r.entry 56 8) 272 = some blk →
    let e := r.entry
    let s1 := s.newNonce
    let refused := s1.mgmtRefuse 64 0x09
    let heldBack (c : Instr) : Prop := s.mgt.trngReady = false → exec c s = .next s
    s1.mgt.nonce = s.freeValue 64 ∧
    (∀ key, s.authOk e blk key = true →
      slice blk 0 4 = magicOaut ∧ leAt blk 8 8 = s.mgt.nonce.toNat ∧ leAt blk 16 8 = s.fuses.serial.toNat ∧
      leAt blk 24 1 = eOpcode e ∧ slice blk 32 48 = sha (slice e 24 32 ++ key) ∧
      s.fuses.revoked.getLsbD (leAt blk 4 1) = false ∧ sha384 (slice blk 80 96) = s.fuses.slotHash.getD (leAt blk 4 1) 0 ∧
      ecdsaVerify (slice blk 80 96) (sha384 (slice blk 0 176)) (slice blk 176 96) = true) ∧
    (s.mgmtRun 64 0x91 = some r → leAt e 26 1 / 2 = 0 → (reservedBad e 27 56).2 = false → leAt e 56 8 % 8 = 0 →
      heldBack .debugOpen ∧
      (s.mgt.trngReady = true → s.authOk e blk [] = false → exec .debugOpen s = .next refused) ∧
      (s.mgt.trngReady = true → s.authOk e blk [] = true →
        let m := BitVec.ofNat 16 (leAt e 24 2)
        let u := s1.authorised e
        let v : State := { u with bus := { u.bus with dbgOpen := true, dbgJtag := bit (leAt e 26 1) 0, dbgMask := m } }
        let t := (List.range 16).foldl (fun (x : State) p =>
          if m.getLsbD p = true ∧ ((x.part p).state = .created ∨ (x.part p).state = .active) then x.observeBy p 64 (eSeq e) else x) v
        exec .debugOpen s = .next (t.mgmtDone 64 0))) ∧
    (s.mgmtRun 64 0x93 = some r → leAt e 25 1 ≤ 3 → (reservedBad e 26 32).2 = false → (reservedBad e 40 56).2 = false →
      leAt e 56 8 % 8 = 0 →
      let slot := leAt e 25 1
      let inst := installedSlots s.fuses
      let rev := s.fuses.revoked.toNat
      (leAt e 24 1 = 1 → leAt e 32 8 = 0 → bit inst slot = true → bit rev slot = false →
        (∃ k, k < 4 ∧ k ≠ slot ∧ bit inst k = true ∧ bit rev k = false) →
        heldBack .operatorKeyFuse ∧
        (s.mgt.trngReady = true → exec .operatorKeyFuse s =
          .next (if s.authOk e blk [] then (s1.authorised e).mgmtWait 64 [1, slot] else refused))) ∧
      (∀ key, leAt e 24 1 = 0 → hostGot r (leAt e 32 8) 96 = some key → bit inst slot = false → bit rev slot = false →
        (inst = 0 → leAt e 56 8 = 0 → exec .operatorKeyFuse s = .next (waits s 64 r [0, slot, (sha384 key).toNat])) ∧
        (inst ≠ 0 → heldBack .operatorKeyFuse ∧
          (s.mgt.trngReady = true → exec .operatorKeyFuse s =
            .next (if s.authOk e blk key then (s1.authorised e).mgmtWait 64 [0, slot, (sha384 key).toNat] else refused))))) ∧
    (s.mgmtRun 64 0x96 = some r → leAt e 24 1 / 4 = 0 → (reservedBad e 25 56).2 = false →
      let act := bit (leAt e 24 1) 0
      let raise := bit (leAt e 24 1) 1
      let m := s.mgt
      let leaves := if raise then Nat.max m.fusedSv.toNat m.runningSv.toNat else m.fusedSv.toNat
      let go (u : State) : State :=
        if raise = true ∧ m.fusedSv.toNat < m.runningSv.toNat then u.mgmtWait 64 [0]
        else if act then u.mgmtWait 64 [2] else u.mgmtDone 64 m.fusedSv.toNat
      (act = true → m.staged ≠ 0) → (m.staged ≠ 0 → leaves ≤ s.imageSv (m.staged == 2)) →
      (m.stage ≠ .recovery → leAt e 56 8 % 8 = 0 → (act = true ∨ raise = true) →
        heldBack .fwCommit ∧
        (s.mgt.trngReady = true →
          exec .fwCommit s = .next (if s.authOk e blk [] then go (s1.authorised e) else refused))) ∧
      (m.stage = .recovery → act = true → raise = false → exec .fwCommit s = .next (go s)))

/-- What ends the key and firmware commands (R348, R351, R359 to R361, R402): the fuses that are blown, the slot and record that are
written, with nothing else of the fuses or the flash changed, and DEBUG_CLOSE. -/
def Obligations.FusesAndFlash : Prop :=
  ∀ (s : State) (r : Run),
    let e := r.entry
    (s.mgmtBusy 64 0x93 = some r →
      (∀ slot, r.aux = [1, slot] → slot < 4 → ∃ f, exec (.fuseBlowDone true) s = .next (ended { s with fuses := f } 64 r stDone 0) ∧
        f = { s.fuses with revoked := setBit s.fuses.revoked slot true }) ∧
      (∀ slot h, r.aux = [0, slot, h] → slot < 4 → ∃ f, exec (.fuseBlowDone true) s = .next (ended { s with fuses := f } 64 r stDone 0) ∧
        f = { s.fuses with slotHash := f.slotHash } ∧
        ∀ k, k < 4 → f.slotHash.getD k 0 = if k = slot then s.fuses.slotHash.getD k 0 ||| BitVec.ofNat 384 h else s.fuses.slotHash.getD k 0)) ∧
    (s.mgmtBusy 64 0x93 = none → s.mgmtBusy 64 0x96 = some r → r.aux = [0] →
      let v := raiseSv s.fuses.secVersion s.mgt.runningSv.toNat
      let t : State := { s with fuses := { s.fuses with secVersion := v }, mgt := { s.mgt with fusedSv := BitVec.ofNat 7 (thermometer v) } }
      v &&& s.fuses.secVersion = s.fuses.secVersion ∧
      (s.mgt.runningSv.toNat ≤ 64 → thermometer v = Nat.max (thermometer s.fuses.secVersion) s.mgt.runningSv.toNat) ∧
      exec (.fuseBlowDone true) s = .next (if bit (leAt e 24 1) 0 then waits t 64 r [2] else ended t 64 r stDone (thermometer v))) ∧
    (s.mgmtRun 64 0x95 = some r → (reservedBad e 36 64).2 = false → ∀ h body,
      hostGot r (leAt e 24 8) 256 = some h → hostGot r (leAt e 24 8 + 256) (leAt e 32 4 - 256) = some body →
      (imageHeaderOk h (256 + leAt h 8 4) = false → exec .fwStage s = .next (malformed s 64 r subFwImage 24)) ∧
      (imageHeaderOk h (256 + leAt h 8 4) = true → leAt e 32 4 ≠ 256 + leAt h 8 4 →
        exec .fwStage s = .next (malformed s 64 r subFwImage 32)) ∧
      (imageHeaderOk h (256 + leAt h 8 4) = true → leAt e 32 4 = 256 + leAt h 8 4 → exec .fwStage s = .next (waits s 64 r [0]))) ∧
    (s.mgmtBusy 64 0x95 = some r →
      let other := !s.mgt.slotRunning
      (∀ l, r.aux = [0] → hostGot r (leAt e 24 8) (leAt e 32 4) = some l →
        exec .flashProgramDone s =
          .next (waits { s with flash := Memory.write s.flash (if other then 0x900000 else 0x100000) l } 64 r [1])) ∧
      (r.aux = [1] →
        let t := s.writeRecord s.mgt.activeSlot (if other then 2 else 1)
        (t.imageValid other = true →
          exec .flashProgramDone s = .next (ended t 64 r stDone ((if other then 1 else 0) + t.imageSv other * 256))) ∧
        (t.imageValid other = false → exec .flashProgramDone s = .next (t.refuseStage r)))) ∧
    (s.mgmtBusy 64 0x95 = none → s.mgmtBusy 64 0x96 = some r → r.aux = [2] →
      exec .flashProgramDone s = .next (ended (s.writeRecord (s.mgt.staged == 2) 0) 64 r stDone s.mgt.fusedSv.toNat)) ∧
    exec (.fuseBlowDone false) s = .next s ∧
    (s.mgmtRun 64 0x92 = some r → (reservedBad e 24 64).2 = false →
      let t := ({ s with bus := { s.bus with dbgOpen := false, dbgJtag := false, dbgMask := 0, hold := 0 } } : State).releaseMasters 0x1F
      let moves : Prop := t.bus.jtag = .extest ∨ t.bus.jtag = .highz ∨ t.bus.jtag = .clamp
      (moves → t.jtagMay = false → exec .debugClose s =
        .next (({ t with bus := { t.bus with jtag := .bypass } } : State).mgmtDone 64 0)) ∧
      (¬ moves ∨ t.jtagMay = true → exec .debugClose s = .next (t.mgmtDone 64 0)))

/-- Other commands of the operator and the tenants (R46, R366 to R368, R372, R403, R462, R483, R484): RAND_GET, MACHINE_JOIN,
SCRUB_CONFIG, EXPORT_SEAL, GPIO_OWN, WEIGHT_LOAD and its chunks. -/
def Obligations.OtherManagement : Prop :=
  ∀ (s : State) (q : Nat) (r : Run),
    let e := r.entry
    (s.mgmtRun q 0x97 = some r → 1 ≤ leAt e 32 4 → leAt e 32 4 ≤ 4096 → (reservedBad e 36 64).2 = false →
      (s.mgt.trngReady = false → exec (.randGet q) s = .next (ended s q r stNotReady 0)) ∧
      (s.mgt.trngReady = true → exec (.randGet q) s =
        .next (ended ((s.toHost q (.hostWrite (ringOwnerFn q) (leAt e 24 8) (s.random (leAt e 32 4)))).freeTaken) q r stDone (leAt e 32 4)))) ∧
    (s.mgmtRun 64 0x98 = some r → (reservedBad e 32 64).2 = false → ∀ dies,
      let mask := BitVec.ofNat 64 (leAt e 24 8)
      (s.die ≠ 0 ∨ mask.getLsbD 0 = false → exec (.machineJoin dies) s = .next (malformed s 64 r subJoin 0)) ∧
      (s.die = 0 → mask.getLsbD 0 = true →
        (∀ d, d < 64 → mask.getLsbD d = true → s.joinFails dies d = true → (∀ k, k < d → mask.getLsbD k = true → s.joinFails dies k = false) →
          exec (.machineJoin dies) s = .next (malformed s 64 r subJoin d)) ∧
        ((∀ d, d < 64 → mask.getLsbD d = true → s.joinFails dies d = false) →
          let others := (List.range 64).filter (fun d => mask.getLsbD d && decide (d ≠ s.die))
          let t := (others.foldl (fun u d => u.forward d .join (joinArgs mask dies)) s).joined mask dies
          t.mgt.machineMode = true ∧ t.mgt.machineLead = true ∧ t.mgt.machineMask = mask ∧
          exec (.machineJoin dies) s = .next (ended t 64 r stDone 0)))) ∧
    (s.mgmtRun 64 0x99 = some r → leAt e 24 1 / 4 = 0 → (reservedBad e 25 28).2 = false → 4 ≤ leAt e 28 4 → leAt e 28 4 ≤ 86400 →
      10 ≤ leAt e 32 4 → leAt e 32 4 ≤ 60000 → (reservedBad e 36 64).2 = false →
      exec .scrubConfig s = .next (ended { s with up := { s.up with hbmEn := bit (leAt e 24 1) 0, spEn := bit (leAt e 24 1) 1,
                                                                    hbmPassS := BitVec.ofNat 17 (leAt e 28 4),
                                                                    spPassMs := BitVec.ofNat 16 (leAt e 32 4) } } 64 r stDone 0)) ∧
    (s.mgmtRun q 0x9A = some r → ∀ key, hostGot r (leAt e 48 8) 96 = some key →
      let src := leAt e 24 8
      let len := leAt e 40 8
      1 ≤ len → len < 2 ^ 32 →
      (pointOf key = none → exec (.exportSeal q) s = .next (malformed s q r subKeyPoint 48)) ∧
      (∀ z, pointOf key = some z →
        (s.ownsHbm (q - 48) src len = false ∨ s.touchesFrozen src len = true →
          exec (.exportSeal q) s = .next (s.mgmtRefuse q 0x0E)) ∧
        (s.ownsHbm (q - 48) src len = true → s.touchesFrozen src len = false → s.mgt.trngReady = true → s.runReady src len = true →
          let x := s.readHbm .lagoon src len
          x.bad = none →
          let l := x.s.exportBytes e z key x.bytes
          exec (.exportSeal q) s =
            .next ((x.s.toHost q (.hostWrite (ringOwnerFn q) (leAt e 32 8) l)).freeTaken.mgmtDone q l.length)))) ∧
    (s.mgmtRun 64 0x94 = some r →
      let pins := leAt e 24 4
      let o := leAt e 28 1
      let named := (List.range 24).filter (fun k => bit pins k)
      pins % 2 ^ 24 ≠ 0 → pins / 2 ^ 24 = 0 → (o = 0 ∨ 0x10 ≤ o ∧ o < 0x20) → (reservedBad e 29 64).2 = false →
      (∀ k, k ∈ named → (s.pin k).owner ≠ 1 ∧ (0x10 ≤ o → 8 ≤ k ∧ (s.isletOwner (o - 0x10)).isSome = true) ∧
        (k < 8 → s.power.wakePins.getLsbD k = false)) →
      let ch := named.filter (fun k => (s.pin k).owner != BitVec.ofNat 8 o)
      let t := ch.foldl (fun u k => (u.resetPin k).setPin k { (u.resetPin k).pin k with owner := BitVec.ofNat 8 o }) s
      exec .gpioOwn s = .next (t.mgmtDone 64 ch.length)) ∧
    (s.mgmtBusy q 0x8B = some r →
      let p := q - 48
      (∀ dst body done h l, r.aux = [dst, body, done] → hostGot r (leAt e 24 8) 256 = some h →
        let c := (done - dst) / 65536
        let n := leAt h 6 2
        let span := chunkAt e n body c
        let len := span.2 - 16
        let opened := gcmOpen (Table.get [] s.store.content p) (slice h 24 8 ++ leBytes 4 c) (slice h 8 8 ++ leBytes 4 c) (slice l 0 len)
          (slice l len 16)
        hostGot r span.1 span.2 = some l →
        (opened = none → exec (.weightLoadChunk q) s = .next (s.loadFailed q r subBodyAuth c)) ∧
        (∀ plain, opened = some plain →
          let data := slice plain 0 ((len + 31) / 32 * 32)
          let t := ((s.freeze (frameOf done)).writeRaw done data.length data).mgmtWait q [dst, body, done + len]
          Table.get false (s.freeze (frameOf done)).frozen (frameOf done) = true ∧
          (s.runReady done data.length = true → done + len < dst + body →
            exec (.weightLoadChunk q) s = .next (t.askChunk q e n body (c + 1))) ∧
          (∀ ents, s.runReady done data.length = true → dst + body ≤ done + len →
            hostGot r (leAt e 24 8 + 256) (160 * n) = some ents →
            let u := t.packageLoaded p dst body h ents
            (u.part p).loaded = true ∧ (u.part p).pkgId = BitVec.ofNat 64 (leAt h 8 8) ∧
            (u.part p).pkgDigest = sha384 (slice h 0 144 ++ ents) ∧ Table.get [] u.store.content p = [] ∧
            exec (.weightLoadChunk q) s = .next ((u.mgmtDone q (loadedFrames body)).reevaluate)))) ∧
      (∀ dst body done sub detail, r.aux = [dst, body, done, sub, detail] →
        exec (.weightLoadChunk q) s = .next (s.loadFailed q r sub detail)) ∧
      (∀ dst body done more sub detail, r.aux = dst :: body :: done :: more →
        let n := loadedFrames (done - dst) * 0x200000
        (s.runReady dst n = true →
          s.loadFailed q r sub detail = ((s.setContent p []).writeRaw dst n []).mgmtMal q sub detail) ∧
        (s.runReady dst n = false → s.loadFailed q r sub detail = waits s q r [dst, body, done, sub, detail]))) ∧
    (s.mgmtRun q 0x8B = some r → ∀ h ents,
      let p := q - 48
      let dst := leAt e 32 8
      let n := leAt h 6 2
      let body := leAt h 16 8
      let room := (body + 0x1FFFFF) / 0x200000 * 0x200000
      let mine := (chunks 160 ents).filter (fun w => leAt w 0 8 == s.fuses.serial.toNat)
      leAt e 24 8 % 64 = 0 → dst % 0x200000 = 0 → (reservedBad e 48 64).2 = false → hostGot r (leAt e 24 8) 256 = some h →
      packageHeaderBad h (leAt e 40 8) = none → hostGot r (leAt e 24 8 + 256) (160 * n) = some ents → wrapsBad n ents = false →
      ((s.part p).loaded = true → (s.part p).pkgId.toNat = leAt h 8 8 ∧ (s.part p).pkgDst.toNat = dst) →
      (∀ w, w < 16 → (s.win p w).isOpen = true → (s.win p w).scratch = false →
        (s.win p w).base.toNat + (s.win p w).size.toNat ≤ dst ∨ dst + body ≤ (s.win p w).base.toNat) →
      (∀ k, s.packageKey h ents = some k ↔
        mine ≠ [] ∧ (∀ w, w ∈ mine → s.unwrap h w = some k) ∧ slice (sha (textKcv ++ k)) 0 16 = slice h 32 16 ∧
        ecdsaVerify (slice h 48 96) (sha384 (slice h 0 144 ++ ents)) (slice h 144 96) = true) ∧
      (s.ownsHbm p dst room = false ∨ s.packageKey h ents = none → exec (.weightLoad q) s = .next (s.mgmtRefuse q 0x08)) ∧
      (∀ k, s.ownsHbm p dst room = true → s.packageKey h ents = some k →
        exec (.weightLoad q) s = .next (((s.setContent p k).mgmtWait q [dst, body, dst]).askChunk q e n body 0)))

/-! ### Tests, audits and upkeep -/

/-- SELFTEST and what ends it (R473, R474): the checks in order; else the Islet is quiesced and, once quiet, tested; at the end its
scratchpad is zero, its tags EMPTY with counts 0, ERR_ISLET_FAIL shows a failure, and the completion and then SELFTEST_DONE are
posted. When WAIT_MS is over, the test of an Islet that is quiet begins, and any other ends BUSY. -/
def Obligations.SelfTest : Prop :=
  (∀ (q : Nat) (s : State) (r : Run), s.mgmtRun q 0x8E = some r →
    let e := r.entry
    let n := leAt e 24 1
    let active : Prop := ∃ p, s.isletOwner n = some p ∧ (s.part p).state = .active
    n < 16 → leAt e 25 1 < 2 → (reservedBad e 26 28).2 = false → leAt e 28 4 ≤ 1000 → (reservedBad e 32 64).2 = false →
      (q ≠ 64 → s.isletOwner n ≠ some (q - 48) → exec (.selftest q) s = .next (s.mgmtRefuse q 0x01)) ∧
      (q = 64 → active → exec (.selftest q) s = .next (ended s q r stBusy 0)) ∧
      ((q ≠ 64 → s.isletOwner n = some (q - 48)) → (q = 64 → ¬ active) →
        (s.on n = false → exec (.selftest q) s = .next (malformed s q r subTargetState 24)) ∧
        (s.on n = true → exec (.selftest q) s =
          .next (waits (s.setIslet n { s.islet n with quiesce := true }) q r [n, leAt e 25 1, 0])))) ∧
  (∀ (q n kind : Nat) (s : State) (r : Run), s.mgmtBusy q 0x8E = some r →
    (r.aux = [n, kind, 0] → s.quiet n = true → (s.islet n).testing = false → s.on n = true →
      exec (.quiesceDone q) s = .next (waits (s.setIslet n { s.islet n with testing := true }) q r [n, kind, 1])) ∧
    (r.aux = [n, kind, 0] →
      let u := s.advanceTo (r.start + leAt r.entry 28 4 * msTicks)
      let t := ended u q r stBusy 0
      (s.quiet n = true ∧ (s.islet n).testing = false ∧ s.on n = true →
        exec (.quiesceTimeout q) s = .next (waits (u.setIslet n { u.islet n with testing := true }) q r [n, kind, 1])) ∧
      (s.quiet n = false ∨ (s.islet n).testing = true ∨ s.on n = false →
        exec (.quiesceTimeout q) s = .next ((t.setIslet n { t.islet n with quiesce := t.keepsQuiet n }).reevaluate))) ∧
    (r.aux = [n, kind, 1] → q ≤ 64 → (∀ c x, 48 ≤ c → c < q → s.mgmtBusy c 0x8E = some x → x.aux.take 1 = [n] → x.aux.getD 2 0 ≠ 1) →
      ∀ (passed : Bool) (failing : Nat),
      let info := b2n passed + 256 * (if passed then 0 else if kind = 0 then Nat.min failing 0xFFFFFF else failing % 8)
      let data := leBytes 1 n ++ leBytes 1 kind ++ leBytes 1 (b2n passed) ++ leBytes 1 0 ++ leBytes 4 info
      let t := ended (s.clearSp n) q r stDone info
      let t := t.setIslet n { t.islet n with testing := false, quiesce := t.keepsQuiet n }
      let t : State := { t with up := { t.up with recSelftest := satInc t.up.recSelftest },
                                mgt := { t.mgt with islFail := setBit t.mgt.islFail n (!passed) } }
      let t := t.complete q 0
      let t := if q = 64 then t else t.raiseEvent (q - 48) 0x0701 q (eSeq r.entry) data
      exec (.selftestEnd n passed failing) s = .next (t.raiseEvent 16 0x0701 q (eSeq r.entry) data).reevaluate)) ∧
  (∀ (s : State) (n : Nat), n < 16 →
    (∀ off, off < 2 ^ 22 → Memory.byte (s.clearSp n).scratch (spKey n off) = 0) ∧
    (∀ m off, m ≠ n → off < 2 ^ 22 → Memory.byte (s.clearSp n).scratch (spKey m off) = Memory.byte s.scratch (spKey m off)) ∧
    ((s.clearSp n).islet n).tags = 0 ∧ ((s.clearSp n).islet n).sealed = 0 ∧ ((s.clearSp n).islet n).fills = 0 ∧
    ((s.clearSp n).islet n).takes = 0 ∧ ((s.clearSp n).islet n).tds = (s.islet n).tds)

/-- CALIBRATE and LEDGER_AUDIT with what ends them (R472, R475): calibration waits for a target in the required state and posts
CALIBRATION_DONE; an audit asks the other dies, and ends, once nothing is waited for, with how many objects it
checked and skipped and how many breaches it found, then LEDGER_AUDIT_DONE. -/
def Obligations.CalibrationAndAudit : Prop :=
  (∀ (s : State) (r : Run), s.mgmtRun 64 0x8F = some r →
    let kind := leAt r.entry 24 1
    let target := leAt r.entry 25 1
    let ready : Prop := (kind = 1 → s.on (20 + target) = true) ∧ (kind = 2 → (s.port target).st = .up)
    kind < 3 → target ≤ (if kind = 0 then 0 else if kind = 1 then 1 else 9) → (reservedBad r.entry 26 64).2 = false →
      (ready → exec .calibrate s = .next (waits s 64 r [kind, target])) ∧
      (¬ ready → exec .calibrate s = .next (malformed s 64 r subTargetState 25))) ∧
  (∀ (s : State) (r : Run), s.mgmtBusy 64 0x8F = some r →
    exec .calibrationEnd s =
      .next (((ended s 64 r stDone 0).complete 64 0).raiseEvent 16 0x0702 64 (eSeq r.entry) (r.aux.map (BitVec.ofNat 8)))) ∧
  (∀ (q : Nat) (s : State) (r : Run), s.mgmtRun q 0x90 = some r →
    let e := r.entry
    let kinds := leAt e 24 1
    let part := leAt e 25 1
    1 ≤ kinds → kinds < 32 → (reservedBad e 26 28).2 = false → leAt e 28 4 ≤ 1000 → (reservedBad e 32 64).2 = false →
      (q ≠ 64 ∧ bit kinds 0 = true → exec (.ledgerAudit q) s = .next (malformed s q r subDesc 24)) ∧
      (q ≠ 64 → bit kinds 0 = false → part ≠ q - 48 → exec (.ledgerAudit q) s = .next (malformed s q r subDesc 25)) ∧
      (q = 64 → ((16 ≤ part ∧ part ≠ 0xFF) ∨ (bit kinds 0 = true ∧ part ≠ 0xFF)) →
        exec (.ledgerAudit q) s = .next (malformed s q r subDesc 25)) ∧
      ((q ≠ 64 ∧ bit kinds 0 = false ∧ part = q - 48) ∨ (q = 64 ∧ (part = 0xFF ∨ (part < 16 ∧ bit kinds 0 = false))) →
        let codes := (s.auditedPorts e).map codePort ++ (s.auditedWindows e).map (fun x => codeWindow x.1 x.2)
        exec (.ledgerAudit q) s = .next ((s.askOthers e).mgmtWait q (0 :: 0 :: codes)).tryAudits)) ∧
  (∀ (p : Nat) (raw : List Byte) (f : Flit) (returned : List Nat) (s : State), Accepts s p 0x09 raw f →
    exec (.auditCreditExchange p raw returned) s = .next (delivered s p f (fun t =>
      let found := (List.range 4).filterMap (fun v => (creditOff ((t.port p).credit v) (returned.getD v 0)).map (fun d => codeCredit p v d))
      (t.auditStep 64 (codePort p) found false).tryAudits))) ∧
  (∀ (c : Credit) (returned : Nat), creditOff c returned = none ↔ c.retSeen ≤ returned ∧ c.held + (returned - c.retSeen) ≤ c.granted) ∧
  (∀ (q : Nat) (s : State) (r : Run), s.mgmtBusy q 0x90 = some r →
    let t := s.advanceTo (r.start + leAt r.entry 28 4 * msTicks)
    exec (.auditWaitTimeout q) s =
      .next (((r.aux.drop 2).filter (fun c => codeWaits c && (decide (0x200 ≤ c) || (t.port (c - 0x100)).st != .up))).foldl
        (fun u c => u.auditStep q c [] true) t).tryAudits ∧
    (∀ c, c ∈ r.aux.drop 2 → codeWaits c = true → s.auditEnd q = s) ∧
    (r.aux.drop 2 = [] →
      let o := s.auditObjects r.entry
      let checked := r.aux.getD 0 0 + o.count
      let skipped := r.aux.getD 1 0
      let t := (ended s q r stDone (checked % 2 ^ 16 + skipped * 2 ^ 16 + o.found.length * 2 ^ 32)).complete q 0
      let t := t.raiseEvent (s.queueEvent q) 0x0402 q (eSeq r.entry) (leBytes 2 checked ++ leBytes 2 skipped ++ leBytes 2 o.found.length)
      s.auditEnd q = o.found.foldl (fun u x => u.judge (some x)) t))

/-- The patrols and what they lead to (R282, R356, R458 to R461, R388): a single-bit error is corrected and tallied; one that is
uncorrectable is marked, counted and reported with its ACTION; tallies are posted and cleared; a firmware block is written again
from the running slot, or every engine queue halts. The fill engine (R275, R284, R425): the granules of the run at the front of its list
read zero under their keys, the domains raised for it go back, and what waited for it goes on. Refresh and calibration
change no data (R287). -/
def Obligations.Upkeep : Prop :=
  ((∀ (stack : Nat) (upsets : List (Nat × Nat)) (late : Bool) (s : State), stack < 2 → s.up.hbmEn = true → s.on (20 + stack) = true →
     s.filling (s.patrolPos stack) = false → s.granuleKey (granuleOf (s.patrolPos stack)) ≠ [] →
     let t : State := { s with hbmErr := upsets.foldl (fun t u => Table.set 0 t u.1 (Nat.min 2 (Table.get 0 t u.1 + u.2))) s.hbmErr }
     let t := if late then { t with up := { t.up with scrubLate := true, scrubLateCount := satInc t.up.scrubLateCount } } else t
     exec (.hbmPatrolRead stack upsets late) s =
       .next ((t.patrolBlock (s.patrolPos stack / 32)).setPatrolPos stack (s.patrolPos stack + 32))) ∧
   (∀ (x : State) (block : Nat),
     let s := x.recallDirty (block / 4)
     let a := block * 32
     let o := s.ownerPart a
     let own := match o with
       | some p => s.relAddr p a
       | none => a
     let g := s.lag (block / 4)
     let clean (t : State) : State := { t with hbmErr := Table.set 0 t.hbmErr block 0 }
     let u := s.scrubUncorrectable
     (Table.get 0 s.hbmErr block = 0 → x.patrolBlock block = s) ∧
     (Table.get 0 s.hbmErr block = 1 → x.patrolBlock block = (clean s).scrubTallied o own a) ∧
     (2 ≤ Table.get 0 s.hbmErr block → Table.get false s.hbmPoison block = true → x.patrolBlock block = clean s) ∧
     (2 ≤ Table.get 0 s.hbmErr block → Table.get false s.hbmPoison block = false →
       (o.isSome = true →
         let w := ({ clean u with hbmPoison := Table.set false s.hbmPoison block true } : State).logPoison a 0 false false
         (g.present = true → x.patrolBlock block = (w.setLag (block / 4) { g with dirty := true }).scrubEvent o own a 3) ∧
         (g.present = false → x.patrolBlock block = w.scrubEvent o own a 0)) ∧
       (o = none → s.owner (granuleOf a) ≠ 0xFE → x.patrolBlock block = ((clean u).writeRaw a 32 []).scrubEvent o own a 1) ∧
       (o = none → s.owner (granuleOf a) = 0xFE → x.patrolBlock block = (u.needsRebuild block).scrubEvent o own a 2))) ∧
   (∀ (n : Nat) (upsets : List (Nat × Nat)) (s : State), n < 16 → s.up.spEn = true → s.on n = true →
     let t : State := { s with spErr := upsets.foldl (fun t u =>
       if u.1 < 0x100000 then Table.set 0 t (spWord n u.1) (Nat.min 2 (Table.get 0 t (spWord n u.1) + u.2)) else t) s.spErr }
     let v := (s.islet n).patrolPos
     let u := ((List.range 32).map (fun k => 32 * v + k)).foldl (State.patrolWord n) t
     exec (.spPatrolRead n upsets) s = .next (u.setIslet n { u.islet n with patrolPos := (v + 1) % 32768 })) ∧
   (∀ (s : State), s.timeRuns = true →
     (∃ t, exec .scrubTally s = .next t ∧ (∀ p, p < 16 → (t.part p).scrubs = 0) ∧ t.up.opScrubs = 0) ∧
     (∃ t, exec .refusalTally s = .next t ∧ (∀ p, p < 16 → (t.part p).refSec = 0) ∧ t.bus.pfRefSec = 0)) ∧
   (∀ (block : Nat) (s : State), s.up.fwBlocks.contains block = true → s.mgt.stage = .ready → s.runReady (block * 32) 32 = true →
     let t : State := { s with up := { s.up with fwBlocks := s.up.fwBlocks.erase block } }
     (∀ b, s.imageValid s.mgt.slotRunning = true → s.imageBody s.mgt.slotRunning = some b →
       exec (.firmwareRebuild block) s =
         .next (t.writeRaw (block * 32) 32 (slice (Config.icpFirmware b) (block * 32 - 191 * 2 ^ 28) 32))) ∧
     (s.imageValid s.mgt.slotRunning = false →
       let u := t.scrubEvent none 0 (block * 32) 2
       exec (.firmwareRebuild block) s =
         .next ((List.range 48).foldl State.ledgerHaltQueue { u with up := { u.up with fwFailed := true } })))) ∧
  ((∀ (s : State) (r : FillRun) (rest : List FillRun), s.up.fill = r :: rest →
     (s.mayFill r = false → exec .fillRunDone s = .next s) ∧
     (s.mayFill r = true →
       let t := r.granules.foldl (fun u g => u.fillGranule r.key g) (s.keyForFill r)
       let t : State := { t with up := { t.up with fill := rest } }
       let t := r.raised.foldl State.lowerRaised t
       (r.purpose = 1 → exec .fillRunDone s = .next (t.endCreate r.part ((t.mgmtBusy 64 0x80).elim r.start Run.start)).reevaluate) ∧
       (r.purpose = 2 → exec .fillRunDone s = .next (t.switchFilled r.part).reevaluate) ∧
       (r.purpose = 4 → exec .fillRunDone s = .next t.bootEnds.reevaluate) ∧
       (r.purpose = 3 → exec .fillRunDone s = .next t.reevaluate))) ∧
   (∀ (s : State) (key g a : Nat),
     Memory.byte (s.fillGranule key g).hbm a = (if g * 2 ^ 28 ≤ a ∧ a < (g + 1) * 2 ^ 28 then 0 else Memory.byte s.hbm a) ∧
     (s.fillGranule key g).granuleKey g = s.store.pair (if key = 0 then keyOf (s.owner g) else key) ∧
     (∀ b, g * 2 ^ 23 ≤ b → b < (g + 1) * 2 ^ 23 → Table.get false (s.fillGranule key g).hbmPoison b = false)) ∧
   (∀ (s : State) (stack pc : Nat) (mult : BitVec 2), stack < 2 → s.on (20 + stack) = true →
     (pc < 32 → mult ≠ 3 → exec (.hbmRefresh stack pc mult) s =
       .next { s with up := { s.up with refresh := Table.set 0 s.up.refresh stack mult } }) ∧
     (s.timeRuns = true → Table.get 0 s.up.lastCal stack ≤ s.time → ∃ t x, exec (.hbmPhyCalibration stack) s =
       .next { s.advanceTo t with up := { s.up with lastCal := Table.set 0 s.up.lastCal stack t } } ∧
       t = x * 3200000 + stack * 1600000 ∧ Table.get 0 s.up.lastCal stack < t)))

/-! ### The Strait -/

/-- The 256 bytes of every flit open to the same flit (R290, R292, R293): no field of the header and no byte of the payload is lost, the
reserved bytes are zero, and the CRC is right; encrypted under any key and IV where it is keyed, in the clear where it is not. -/
def Obligations.FlitEncoding : Prop :=
  ∀ (f : Flit) (key iv : List Byte),
    let raw := f.wire key iv
    raw.length = 256 ∧ crcOk raw = true ∧ rawType raw = f.typ.toNat ∧ slice raw 6 2 = [0, 0] ∧
    (f.keyed = true → slice raw 232 16 = List.replicate 16 0 ∧ openFlit raw key iv = some { f with body := slice f.body 0 200 }) ∧
    (f.keyed = false → openFlit raw key iv = some { f with body := slice f.body 0 232 })

/-- What a flit slot sends (R296, R298, R299, R301, R305, R328): link control first, then flits sent again, then the eligible flit of the
highest effective QoS, the earliest of equals (log entry 34), else IDLE; in KEYING the exchange's flits (log entry 87); HOLD in QUIET and,
before the port is enabled, in TRAINING. What arrives (R291, R298, R299, R302): a flit takes acknowledgement and credits, PROBE is echoed,
its echo gives the round trip, NAK sends again or retrains at the eighth; a CRC that fails is answered with NAK, a reserved type is
discarded and counted, and so is every flit before the port is enabled. -/
def Obligations.LinkControl : Prop :=
  ((∀ (p : Nat) (s : State),
     let t := s.port p
     let k := t.keying
     (t.st = .up →
       (∀ f rest, t.ctl = f :: rest → exec (.flitSlot p) s = .next (((s.setPort p { t with ctl := rest }).stampSend p f).trySleep p)) ∧
       (∀ w rest, t.ctl = [] → t.resend = w :: rest →
         exec (.flitSlot p) s = .next (((s.setPort p { t with resend := rest }).stampSend p w.flit).trySleep p)) ∧
       (∀ x i, t.ctl = [] → t.resend = [] → t.pick = some (x, i) → exec (.flitSlot p) s = .next ((s.sendPicked p x i).trySleep p)) ∧
       (t.ctl = [] → t.resend = [] → t.pick = none → exec (.flitSlot p) s = .next ((s.stampSend p (s.ctlFlit 0)).trySleep p))) ∧
     (t.st = .keying →
       (∀ f rest, t.ctl = f :: rest → exec (.flitSlot p) s = .next ((s.setPort p { t with ctl := rest }).stampSend p f)) ∧
       (∀ f rest, t.ctl = [] → k.resend = f :: rest →
         exec (.flitSlot p) s = .next ((s.setPort p { t with keying := { k with resend := rest } }).stampSend p f)) ∧
       (t.ctl = [] → k.resend = [] →
         (k.txq ≠ [] → 0 < k.credit.held → exec (.flitSlot p) s = .next (s.sendKeyFlit p)) ∧
         (k.txq = [] → k.syncDue = true → k.replay = [] → exec (.flitSlot p) s = .next (s.sendSync p)) ∧
         (k.txq = [] ∨ k.credit.held = 0 → ¬ (k.txq = [] ∧ k.syncDue = true ∧ k.replay = []) →
           exec (.flitSlot p) s = .next (s.stampSend p (s.ctlFlit 0))))) ∧
     (t.st = .quiet → k.txq = [] → exec (.flitSlot p) s = .next { s with out := .hold p :: s.out }) ∧
     (t.st = .training → t.enabled = false → exec (.flitSlot p) s = .next { s with out := .hold p :: s.out }) ∧
     (∀ f, let x := t.stamp f
       (s.stampSend p f).out = .flit p (x.2.wire x.1) :: s.out ∧ x.1.typ = f.typ ∧ x.1.seq = f.seq ∧ x.1.body = f.body ∧
       (t.st = .up → x.1.ack = seqOf t.rxSeq ∧ (t.credit x.1.crVc.toNat).back = (x.2.credit x.1.crVc.toNat).back + x.1.crCount.toNat))) ∧
   (∀ t : Port,
     (∀ x, t.eligible x = true ↔ t.st = .up ∧ (x.sleep = true ∨ (t.sleepTo = none ∧ t.draining = none)) ∧
       0 < (t.credit x.flit.vc.toNat).held ∧ t.replay.length < 256) ∧
     (∀ x i, t.pick = some (x, i) ↔ t.txq[i]? = some x ∧ t.eligible x = true ∧
       ∀ (j : Nat) (y : Waiting), t.txq[j]? = some y → t.eligible y = true → y.qos ≤ x.qos ∧ (y.qos = x.qos → i ≤ j)) ∧
     (t.pick = none ↔ ∀ y, y ∈ t.txq → t.eligible y = false))) ∧
  (∀ (p : Nat) (raw : List Byte) (s : State), (s.port p).enabled = true → (s.port p).alive = true →
     let f := readFlit raw
     let t := s.takeHeader p f
     let u := t.port p
     (s.arrives p 0 raw = true → exec (.idleReceive p raw) s = .next t) ∧
     (s.arrives p 1 raw = true → exec (.probeReceive p raw) s = .next (t.sendCtl p 2)) ∧
     (∀ ns, s.arrives p 2 raw = true → exec (.probeEchoReceive p raw ns) s = .next (if u.probeAt = none then t
       else t.setPort p { u with probeAt := none, rtt := BitVec.ofNat 16 (Nat.min 0xFFFF ns) })) ∧
     (s.arrives p 3 raw = true →
       let n := if u.nakCount ≠ 0 ∧ u.nakSeq = f.ack then u.nakCount + 1 else 1
       (u.alive = false → exec (.nakReceive p raw) s = .next t) ∧
       (u.alive = true → 8 ≤ n → exec (.nakReceive p raw) s = .next ((t.setPort p { u with nakCount := 0 }).retrain p causeNakLimit)) ∧
       (u.st = .up → n < 8 → exec (.nakReceive p raw) s =
         .next (t.setPort p { u with nakSeq := f.ack, nakCount := n, resend := u.replay })) ∧
       (u.st = .keying → n < 8 → exec (.nakReceive p raw) s =
         .next (t.setPort p { u with nakSeq := f.ack, nakCount := n, keying := { u.keying with resend := u.keying.replay } }))) ∧
     (crcOk raw = false → exec (.flitCrcFailure p raw) s = .next (s.sendCtl p 3)) ∧
     (crcOk raw = true → rawType raw ∉ flitTypes → exec (.flitCrcFailure p raw) s = .next (s.rxDiscard p)) ∧
     ((s.port p).st = .up →
       let c := (s.port p).credit f.crVc.toNat
       f.crCount.toNat = 0 ∨ c.held + f.crCount.toNat ≤ c.granted →
       u.replay = (s.port p).replay.filter (fun w => seqAfter w.flit.seq f.ack) ∧
       (u.credit f.crVc.toNat).held = c.held + f.crCount.toNat) ∧
     ((s.port p).probeAt = none →
       let v := s.advanceTo ((s.port p).lastProbe + 6400)
       exec (.probeSend p) s = .next ((v.setPort p { s.port p with probeAt := some v.time, lastProbe := v.time }).sendCtl p 1))) ∧
  (∀ (p : Nat) (raw : List Byte) (s : State), (s.port p).enabled = false → (s.port p).hears = true →
     let d := s.setPort p { s.port p with rxDiscard := true, discCount := satInc (s.port p).discCount }
     (∀ typ c, Carries p raw typ c → s.arrives p typ raw = true → exec c s = .next d) ∧
     (crcOk raw = false ∨ rawType raw ∉ flitTypes → exec (.flitCrcFailure p raw) s = .next d) ∧
     (s.arrives p 8 raw = true → ∀ m,
       ∀ c ∈ [.helloI p [raw] m, .helloR p [raw] m, .finishI p [raw] m, .finishR p [raw] m, .keyRefused p [raw]], exec c s = .next d))

/-- A flit on a channel that is accepted acts, and its slot is free again (R293, R296, R318, R322, R227, R228, R229, R250); one of another
die takes the queue of the port towards it, with its slot (R42, R43); one that is not keyed is discarded and counted, one whose tag fails
retrains the link with cause AUTH, and one ahead of its turn is answered with NAK (R298). -/
def Obligations.FlitsDelivered : Prop :=
  (∀ (p : Nat) (raw : List Byte) (f : Flit) (s : State),
    (Accepts s p 0x20 raw f → s.winDataReady f = true →
      exec (.winDataReceive p raw) s = .next (delivered s p f (fun t => t.deliverWinData f))) ∧
    (Accepts s p 0x10 raw f → exec (.gatherReqReceive p raw) s = .next (delivered s p f (fun t => t.deliverGather f))) ∧
    (∀ m, Accepts s p 0x0A raw f → s.fwdWaits m = false →
      exec (.fwdReceive p raw m) s = .next (delivered s p f (fun t => t.forwarded f.src.toNat m))) ∧
    (∀ typ c, Carries p raw typ c → 8 < typ → s.arrives p typ raw = true →
      (Taken s p typ raw f → f.dst.toNat ≠ s.die →
        let t := accepted s p f
        let q := portToward s.mgt.product.toNat s.die f.dst.toNat 0
        exec c s = .next (t.setPort q { t.port q with txq := (t.port q).txq ++ [{ flit := f, hop := some (p, f.vc.toNat) }] })) ∧
      ((s.port p).enabled = true → (s.port p).st = .up →
        ((readFlit raw).keyed = false → exec c s = .next (s.rxDiscard p)) ∧
        ((readFlit raw).keyed = true → (s.port p).open raw = none → exec c s = .next (s.retrain p causeAuth)) ∧
        ((readFlit raw).keyed = true → (s.port p).open raw = some f → ¬ Delayed s f c →
          let t := s.takeHeader p f
          let u := t.port p
          u.st = .up → f.seq ≠ seqOf (u.rxSeq + 1) →
            exec c s = .next (if seqAfter f.seq (seqOf u.rxSeq) then t.sendCtl p 3 else t))))) ∧
  (∀ (t : State) (d q : Nat) (index : Word) (bytes : List Byte),
    let k := t.queue q
    (index ≠ k.fetched → t.forwarded d (.entry q index bytes) = t) ∧
    (index = k.fetched → k.enable = true → (∀ p, t.queueOwner q = some p → (t.part p).state ≠ .clearing) → k.discarding = false →
      k.halted = false → k.entries.length < 8 →
      t.forwarded d (.entry q index bytes) =
        ((t.setQueue q { k with fetched := k.fetched + 1, entries := k.entries ++ [slice bytes 0 64] }).headArrive q).tellLead q) ∧
    (∀ n, t.forwarded d (.passed n) = { t with hostFifo := t.hostFifo.drop n }.reevaluate) ∧
    (∀ fn data, t.forwarded d (.answer fn data) = { t with out := .readAnswer fn data :: t.out }) ∧
    (t.mgt.machineMode = true → t.mgt.machineLead = true →
      (∀ fn addr, t.forwarded d (.hostWrite fn addr bytes) =
        { t with out := .hostWrite fn addr bytes :: t.out }.forward d .passed [1]) ∧
      (∀ fn addr len, t.forwarded d (.hostRead fn addr len) = { t with out := .hostRead fn addr len :: t.out }) ∧
      (∀ fn v, t.forwarded d (.message fn v) = t.message fn v)) ∧
    (∀ fn off size,
      let a : Acc := { accAt fn off with master := .soundGw, bar := 2, size := size, en := 2 ^ size - 1 }
      (∀ data, t.forwarded d (.write fn off data size) = t.writeAccess a (BitVec.ofNat 64 data)) ∧
      t.forwarded d (.read fn off size) = t.busRead a) ∧
    (∀ mask dies, t.die ≠ 0 → mask.getLsbD t.die = true →
      let u := t.forwarded d (.join mask dies)
      u.mgt.machineMode = true ∧ u.mgt.machineLead = false ∧ u.mgt.machineMask = mask))

/-- Where a link leaves UP or KEYING, trains and sleeps (R299 to R302, R307, R312, R313, R321). -/
def Obligations.LinkStates : Prop :=
  (∀ (p : Nat) (s : State),
    let t := s.port p
    let down (u : State) (cause : Nat) : State := (u.setPort p
      { (if cause = 4 then t.dropKeys else t).unlinked u.time with st := .training, retrained := true, retrCount := satInc t.retrCount }).linkDown
        p cause
    (t.alive = true → exec (.fecLockLoss p) s = .next (down s 7)) ∧
    (t.alive = true → t.asleep = false → t.holdSeen = false →
      exec (.silenceTimeout p) s = .next (down (s.advanceTo (t.heard + 400)) 1) ∧
      (∀ x, t.probeAt = some x → exec (.probeTimeout p) s = .next (down (s.advanceTo (x + 400)) 2))) ∧
    (∀ vc, t.alive = true → 0 < (t.credit vc).back → exec (.creditDeadline p vc) s =
      .next (((s.advanceTo ((t.credit vc).freedAt + 200)).setPort p { t with creditLate := true, lateCount := satInc t.lateCount }).raiseEvent
        16 0x0303 noQueue 0 [BitVec.ofNat 8 p, BitVec.ofNat 8 vc])) ∧
    (t.alive = true → exec (.holdReceive p) s = .next (s.setPort p { t with holdSeen := true, heard := s.time })) ∧
    (s.on (22 + p) = true → t.held = false →
      t.st = .down ∨ (t.st = .quiet ∧ t.enabled = false) ∨ (t.st = .training ∧ t.asleep = true) →
      let u := s.setPort p { (if t.asleepOff then t.afresh else t) with
        st := .training, asleep := false, asleepOff := false, wakeAt := none, leftUp := if t.asleep then s.time else t.leftUp }
      (t.enabled = true → exec (.partnerTraining p) s = .next u) ∧
      (t.enabled = false → exec (.partnerTraining p) s = .next { u with out := .hold p :: u.out })) ∧
    (t.st = .training →
      let w : Port := { t with asleep := false, asleepOff := false }
      (t.asleep = true → exec (.trainingDone p false) s = .next (s.setPort p { t with st := .down })) ∧
      (t.asleep = false → exec (.trainingDone p false) s = .next s) ∧
      (t.enabled = false → exec (.trainingDone p true) s = .next ((s.setPort p { w with st := .quiet }).emit (.hold p))) ∧
      (t.enabled = true → t.refused = true → exec (.trainingDone p true) s = .next (s.setPort p { w with st := .quiet })) ∧
      (t.enabled = true → t.refused = false → exec (.trainingDone p true) s = .next ((s.setPort p w).enterKeying p))) ∧
    (s.mayKey = true → p < 10 → (∀ k, k ≤ p → ((s.port k).st = .quiet ∧ (s.port k).enabled = false ∧ s.mgt.portWired.getLsbD k = true ↔ k = p)) →
      exec (.portEnable p) s = .next ((s.setPort p { t with enabled := true, keying := {} }).enterKeying p)) ∧
    (t.st = .down → t.asleep = true → t.wakeSend = true → t.txq ≠ [] → t.held = false →
      let v := match t.wakeAt with
        | some x => s.advanceTo (x + 100000)
        | none => s
      exec (.wakePatternSend p) s = .next ((v.setPort p { (if t.asleepOff then t.afresh else t) with st := .training, wakeAt := some v.time, leftUp := v.time }).emit (.wakePattern p))) ∧
    (t.st = .sleep ∨ t.st = .off → s.power.wakePorts.getLsbD p = true → s.mgt.portWired.getLsbD p = true →
      exec (.wakePatternDetect p) s = .next (s.fireWake p 1)) ∧
    (∀ x, t.wakeAt = some x → t.st = .training → t.asleep = true →
      exec (.wakeTimeout p) s =
        .next (((s.advanceTo (x + (if t.asleepOff then 66800 else 4300))).setPort p { t with st := .down }).linkDown p 8))) ∧
  (∀ (p : Nat) (raw : List Byte) (f : Flit) (s : State), Accepts s p 0x09 raw f →
    (∀ off, exec (.sleepReq p raw off) s =
      .next (delivered s p f (fun u => (u.setPort p { u.port p with draining := some off }).trySleep p))) ∧
    exec (.sleepAck p raw) s = .next (delivered s p f (fun u =>
      if (u.port p).sleepTo.isSome && (u.port p).settled then (u.setPort p { u.port p with sleepAcked := true }).tryQuiesced else u))) ∧
  (∀ (p : Nat) (s : State) (off : Bool), (s.port p).draining = some off → (s.port p).drained = true → (s.port p).acking = false →
    s.trySleep p = (s.setPort p { s.port p with acking := true }).sleepNote p .sleepAck off)

/-- Keying (R41, R303 to R305, R447): the initiator's hello names this end's serial, die and port; each message in its step moves the
exchange on; one that fails its check is refused with a sealed-log entry and stays QUIET; a partner on another port or die than the wiring
predicts is MISWIRED. CREDIT_SYNC (R308, R309): the first of a keying takes full credits; one within the limit resumes, recovering the
returns that were lost and sending again what was not acknowledged; any other takes the lost path, which keys again. What is checked of a
message beyond its fields is a verdict operand (log entry 4). -/
def Obligations.KeyingAndSync : Prop :=
  (∀ (p : Nat) (raws : List (List Byte)) (s : State), Keys s p raws →
     let h := heard s p raws
     let t := h.port p
     let k := t.keying
     let fails (m : KeyMsg) (ok : Bool) (a : Host.Outcome State Fault Refusal) : Prop :=
       (s.expectedDie p ≠ some m.die.toNat ∨ m.port ≠ p → a = .next (h.miswired p)) ∧
       (s.expectedDie p = some m.die.toNat → m.port = p → (ok = false ∨ m.serial = s.fuses.serial ∨ pointOf m.pub = none) →
         a = .next (h.refuseKeying p))
     (∀ m, s.mayKey = false → exec (.helloI p raws m) s = .next (h.setPort p { t with hello := some m })) ∧
     (∀ m, s.mayKey = true → k.step = .sentHello → s.fuses.serial.toNat < m.serial.toNat → exec (.helloI p raws m) s = .next h) ∧
     (∀ m, s.mayKey = true → (k.step ≠ .sentHello ∨ m.serial.toNat ≤ s.fuses.serial.toNat) →
       (Genuine s p m → ∃ u, exec (.helloI p raws m) s = .next u ∧ (u.port p).keying.step = .sentReply ∧ (u.port p).txKey = [] ∧
         (u.port p).keying.peer = some m ∧ (u.port p).hello = none ∧ (u.port p).keying.txq ≠ []) ∧
       fails m true (exec (.helloI p raws m) s)) ∧
     (∀ m, k.step = .sentHello →
       (Genuine s p m → m.verified = true → ∃ u, exec (.helloR p raws m) s = .next u ∧ (u.port p).keying.step = .sentFinish ∧
         (u.port p).keying.peer = some m ∧ (u.port p).keying.txq ≠ []) ∧
       fails m m.verified (exec (.helloR p raws m) s)) ∧
     (∀ m, k.step = .sentReply →
       (m.verified = false → exec (.finishI p raws m) s = .next (h.refuseKeying p)) ∧
       (∀ x, m.verified = true → k.peer = some x → ∃ u, exec (.finishI p raws m) s = .next u ∧ (u.port p).keying.step = .keyed ∧
         (u.port p).keying.syncDue = true ∧ (u.port p).verified = true ∧ (u.port p).partnerSerial = x.serial ∧
         (u.port p).partnerDie = x.die ∧ (u.port p).keying.txq ≠ [])) ∧
     (∀ m, k.step = .sentFinish →
       (m.verified = false → exec (.finishR p raws m) s = .next (h.refuseKeying p)) ∧
       (∀ x z, m.verified = true → k.peer = some x → pointOf x.pub = some z →
         let digest := sha k.talk
         let out := kdf (ecdh k.secret z) digest 104
         ∃ u, exec (.finishR p raws m) s = .next u ∧ (u.port p).keying.step = .keyed ∧ (u.port p).verified = true ∧
           (u.port p).partnerSerial = x.serial ∧ (u.port p).partnerDie = x.die ∧ (u.port p).txKey = slice out 0 32 ∧
           (u.port p).rxKey = slice out 32 32 ∧ (u.port p).txIv = slice out 64 4 ∧ (u.port p).rxIv = slice out 68 4 ∧
           (u.port p).resume = slice out 72 32)) ∧
     (∃ u, exec (.keyRefused p raws) s = .next u ∧ (u.port p).st = .quiet ∧ (u.port p).refused = true ∧ (u.port p).txKey = [] ∧
       (u.port p).cause = 6 ∧ ∃ e, u.bus.sealedLog.head? = some e ∧ e.reason = 0x0B)) ∧
  (∀ (p : Nat) (s : State),
     let t := s.port p
     (t.st = .keying → s.mayKey = true → t.keying.step = .idle → exec (.helloResend p) s = .next (s.enterKeying p)) ∧
     (t.st = .keying → s.mayKey = true → t.keying.step = .sentHello → (t.holdSeen = true ∨ t.keying.replay ≠ []) →
       let v := s.advanceTo (t.keying.sentAt + 10000)
       exec (.helloResend p) s = .next (v.setPort p { t with keying := { t.keying with resend := t.keying.replay, sentAt := v.time } })) ∧
     (t.txKey = [] → t.hello = none → s.mayKey = true →
       let u := s.enterKeying p
       (u.port p).st = .keying ∧ (u.port p).keying.step = .sentHello ∧ (u.port p).keying.secret = privateKey (s.random 48) ∧
       ∃ m, (u.port p).keying.talk = keyBytes m 1 ∧ m.serial = s.fuses.serial ∧ m.die = BitVec.ofNat 6 s.die ∧ m.port = p ∧
         m.secVer = s.mgt.runningSv ∧ m.epoch = t.epoch ∧ m.pub = publicKey (privateKey (s.random 48)) ∧
         (u.port p).keying.txq.flatMap Flit.body = keyBytes m 1) ∧
     (t.txKey ≠ [] → ((s.enterKeying p).port p).st = .keying ∧ ((s.enterKeying p).port p).keying.step = .keyed ∧
       ((s.enterKeying p).port p).keying.syncDue = true) ∧
     ((s.refuseKeying p).port p).st = .quiet ∧ ((s.refuseKeying p).port p).refused = true ∧ ((s.refuseKeying p).port p).txKey = [] ∧
     (∃ e, (s.refuseKeying p).bus.sealedLog.head? = some e ∧ e.reason = 0x0B) ∧
     ((s.miswired p).port p).st = .quiet ∧ ((s.miswired p).port p).verified = false ∧ ((s.miswired p).port p).cause = 5) ∧
  (∀ (p : Nat) (raw : List Byte) (m : SyncMsg) (s : State), s.arrives p 4 raw = true → (s.port p).enabled = true →
     (s.port p).st = .keying → (s.port p).keying.step = .keyed →
     let h := s.takeHeader p (readFlit raw)
     let h := if (h.port p).keying.syncDue then h.setPort p { h.port p with ctl := h.syncFlit p :: (h.port p).ctl } else h
     let t := h.port p
     let good : Prop := m.macOk = true ∧ m.epoch = t.epoch
     let late : Prop := t.forceLost = true ∨ t.leftUp + t.lostLimit.toNat * 100000 < s.time
     (t.fresh = true → good → exec (.creditSync p raw m) s = .next ((h.setPort p t.fullCredits).upReport p 0)) ∧
     (t.fresh = false → t.lost = true → good → exec (.creditSync p raw m) s = .next (h.lostUp p)) ∧
     (t.fresh = false → t.lost = false → good → ¬ late →
       exec (.creditSync p raw m) s = .next (h.resumeLink p m) ∧
       ((∀ v, v < 4 → (t.credit v).held + (m.returned.getD v 0 - (t.credit v).retSeen) ≤ (t.credit v).granted) →
         let u := (h.resumeLink p m).port p
         u.st = .up ∧ u.resend = u.replay ∧ u.replay = t.replay.filter (fun w => seqAfter w.flit.seq m.lastSeq) ∧
         (∀ v, v < 4 → (u.credit v).held = (t.credit v).held + (m.returned.getD v 0 - (t.credit v).retSeen)))) ∧
     (¬ good ∨ (t.fresh = false ∧ t.lost = false ∧ late) →
       exec (.creditSync p raw m) s = .next (h.lostPath p m) ∧
       (t.hello = none →
         let u := (h.lostPath p m).port p
         u.st = .keying ∧ u.replay = [] ∧ u.txKey = [] ∧ u.lost = true ∧
         u.gone = (t.gone ++ t.replay).filter (fun w => seqAfter w.flit.seq m.lastSeq) ∧
         (∀ v, v < 4 → (u.credit v).held = (if v = 2 then 128 else if v = 3 then 16 else 32)))) ∧
     (∀ v, v < 4 → (t.fullCredits.credit v).held = (if v = 2 then 128 else if v = 3 then 16 else 32)))

/-! ### Windows, transfers and coherence -/

/-- WINDOW_OPEN (R314 to R316): with the fields in order, a window past the scratchpad, over a square that is not free-running or
without rights is turned away; a binding or local window opens at once, one with a source on another die once that die has the
grant. Grants and closing (R316, R320): the source die stores a grant and says so; closing stops the grant first and ends, once
nothing that passed it is in flight, with SENT against COUNT. The flits that carry this are the model's (log entry 11). -/
def Obligations.Windows : Prop :=
  (∀ (q : Nat) (s : State) (r : Run), s.mgmtRun q 0x8C = some r →
     let e := r.entry
     let p := q - 48
     let w := leAt e 24 1
     let k := leAt e 25 1
     let d := leAt e 26 1
     let base := leAt e 32 6
     let size := leAt e 40 6
     let limit := leAt e 48 6
     let past : Prop := bit k 1 = true ∧ ∃ n o, placeOf base = .scratch n o ∧ spSize < o + size
     let held : Prop := bit k 1 = true ∧ ∃ n o, placeOf base = .scratch n o ∧
       ∃ x, x ∈ rangeSquares o size ∧ (s.islet n).free.getLsbD x = false
     let rights : Prop := (bit k 1 = true ∧ ∃ n o, placeOf base = .scratch n o ∧ s.isletOwner n = some p) ∨
       (bit k 1 = false ∧ ∃ a, placeOf base = .hbm a ∧ s.ownsHbm p a size = true ∧ s.touchesFrozen a size = false)
     let x : Window := { isOpen := true, binding := bit k 0, scratch := bit k 1, srcDie := BitVec.ofNat 6 d,
                         srcPart := BitVec.ofNat 4 (leAt e 27 1), base := BitVec.ofNat 48 base, size := BitVec.ofNat 48 size,
                         limit := BitVec.ofNat 48 limit }
     let g : Grant := { present := true, srcPart := leAt e 27 1, scratch := bit k 1, base := base, size := size, limit := limit }
     w < 16 → (s.win p w).isOpen = false → k < 4 → (bit k 0 = true → bit k 1 = true ∧ (s.part p).loaded = true) →
     d < 64 → (bit k 0 = false → d ≠ s.die → s.mgt.machineMode = true ∧ s.mgt.machineMask.getLsbD d = true) →
     leAt e 27 1 < 16 → (reservedBad e 28 32).2 = false → base % 8 = 0 →
     (∀ j, j < 16 → j ≠ w → (s.win p j).isOpen = true →
       (s.win p j).base.toNat + (s.win p j).size.toNat ≤ base ∨ base + size ≤ (s.win p j).base.toNat) →
     (reservedBad e 38 40).2 = false → size ≠ 0 → size % 8 = 0 → (reservedBad e 46 48).2 = false → limit ≠ 0 →
     (reservedBad e 54 64).2 = false →
       (past → exec (.windowOpen q) s = .next (malformed s q r subExtent 32)) ∧
       (¬ past → held → exec (.windowOpen q) s = .next (malformed s q r subTag 32)) ∧
       (¬ past → ¬ held → ¬ rights → exec (.windowOpen q) s = .next (s.mgmtRefuse q 0x07)) ∧
       (¬ past → ¬ held → rights →
         (bit k 0 = true → exec (.windowOpen q) s = .next (ended (s.setWin p w x) q r stDone 0)) ∧
         (bit k 0 = false → d = s.die → exec (.windowOpen q) s =
           .next (ended { s.setWin p w x with grants := Table.set {} s.grants (grantKey d p w) g } q r stDone 0)) ∧
         (bit k 0 = false → d ≠ s.die → exec (.windowOpen q) s =
           .next (waits (s.sendNote d .grant [s.die, p, w, g.srcPart, b2n g.scratch, base, size, limit]) q r [w, d])))) ∧
  ((∀ (p : Nat) (raw : List Byte) (f : Flit) (g : GrantMsg) (s : State), Accepts s p 0x09 raw f →
     let x : Grant :=
       { present := true, srcPart := g.srcPart, scratch := g.scratch, base := g.base, size := g.size, limit := g.limit }
     (g.die ≠ s.die → exec (.grant p raw g) s = .next (delivered s p f (fun t =>
       ({ t with grants := Table.set {} t.grants (grantKey g.die g.part g.window) x } : State).sendNote g.die .granted [g.part, g.window]))) ∧
     (∀ r d, g.die = s.die → (accepted s p f).mgmtBusy (48 + g.part) 0x8C = some r → r.aux = [g.window, d] →
       exec (.grant p raw g) s = .next (delivered s p f (fun t =>
         ended (t.setWin g.part g.window (openedWindow r.entry)) (48 + g.part) r stDone 0)))) ∧
   (∀ (q : Nat) (s : State) (r : Run), s.mgmtRun q 0x8D = some r → (reservedBad r.entry 25 64).2 = false →
     let p := q - 48
     let w := leAt r.entry 24 1
     let x := s.win p w
     let t := waits (s.setWin p w { x with closing := true }) q r [w]
     let k := grantKey s.die p w
     (16 ≤ w → exec (.windowClose q) s = .next (malformed s q r subDesc 24)) ∧
     (w < 16 → (x.isOpen = false ∨ x.closing = true) → exec (.windowClose q) s = .next (malformed s q r subDesc 24)) ∧
     (w < 16 → x.isOpen = true → x.closing = false →
       (x.binding = true → exec (.windowClose q) s = .next (t.tryClose p w)) ∧
       (x.binding = false → x.srcDie.toNat = s.die → exec (.windowClose q) s =
         .next ({ t with grants := Table.set {} s.grants k { Table.get {} s.grants k with revoking := true } } : State).settleRevokes) ∧
       (x.binding = false → x.srcDie.toNat ≠ s.die → exec (.windowClose q) s = .next (t.sendNote x.srcDie.toNat .revoke [p, w])))) ∧
   (∀ (s : State) (p w : Nat) (r : Run), s.mgmtBusy (48 + p) 0x8D = some r → r.aux = [w] →
     let x := s.win p w
     x.closing = true → (x.revoked = true ∨ x.binding = true) → s.pinned p w = false → s.verdictDue p w = false →
     x.sent = x.count.toNat → s.tryClose p w =
       (ended (s.setWin p w { x with isOpen := false, closing := false }) (48 + p) r stDone x.sent).settleWindowWaits p w) ∧
   (∀ (p die part window : Nat) (raw : List Byte) (f : Flit) (s : State), Accepts s p 0x09 raw f →
     let t := accepted s p f
     let k := grantKey die part window
     let g := Table.get {} t.grants k
     let x := t.win part window
     let after (u : State) : Host.Outcome State Fault Refusal := .next (u.freeSlot p f.vc.toNat)
     (g.present = true → exec (.revoke p raw die part window) s =
       after ({ t with grants := Table.set {} t.grants k { g with revoking := true } } : State).settleRevokes) ∧
     (g.present = false → exec (.revoke p raw die part window) s = after (t.sendNote die .revokeAck [part, window, 0])) ∧
     (∀ sent, x.binding = false → x.closing = true → x.revoked = false → exec (.revokeAck p raw part window sent) s =
       after ((t.setWin part window { x with revoked := true, sent := x.sent + sent }).tryClose part window).settleRevokes) ∧
     (∀ sent, x.binding = false → x.isOpen = true → x.closing = false →
       exec (.revokeAck p raw part window sent) s = after (t.auditSent part window sent))))

/-- A transfer counts its bytes (R185, R310, R318): acknowledged or lost, each once; it ends when every byte is one or the other, with
LINK_LOST where one was lost; a verdict gives a gather its outcome and POISON to a write that met it (log entry 12). A waiting push
of the highest QoS takes one of the two slots of its Islet (R167, R168): the bytes read are sent to the requester's window and
counted against the grant; a poisoned block ends it there. -/
def Obligations.TransfersEnd : Prop :=
  (∀ (p x : Nat) (raw : List Byte) (f : Flit) (s : State), Taken s p (rawType raw) raw f → f.dst.toNat = s.die →
     let t := accepted s p f
     let k := t.xfer x
     let after (u : State) : Host.Outcome State Fault Refusal := .next (u.freeSlot p f.vc.toNat)
     (∀ n, rawType raw = 0x18 → k.gather = false → n + (k.acked + k.lost) ≤ k.total → exec (.winAck p raw x n) s =
       after ((t.setXfer x { k with acked := k.acked + n }).settleXfer x).settleRevokes) ∧
     (∀ n die port, rawType raw = 0x09 → 0 < n → n + (k.acked + k.lost) ≤ k.total → exec (.lostNotice p raw x n die port) s =
       after ((((t.grantSent k.grantKey 0 n).setXfer x
         { k with lost := k.lost + n, lostInfo := die % 64 + port % 16 * 256, ended := k.ended || k.gather }).settleXfer x)).settleRevokes) ∧
     (∀ die port, rawType raw = 0x09 → exec (.lostNotice p raw x 0 die port) s =
       after ((t.dropOpens (fun d => d == x) die port).fetchAgain x)) ∧
     (∀ q sent info, rawType raw = 0x19 → k.queue = some q → k.gather = true →
       let w := t.win k.part k.window
       let u := if w.binding then t.setWin k.part k.window { w with sent := w.sent + sent } else t
       ∀ poisoned : Bool, exec (.xferVerdict p raw x false poisoned sent info) s =
         after ((u.setXfer x { k with ended := true, lost := k.total - sent, info := info, lostInfo := info,
                                      status := if poisoned then stPoison else if sent < k.total then stLinkLost else stDone }).settleXfer
           x).settleWindows) ∧
     (∀ q sent info (refused poisoned : Bool), rawType raw = 0x19 → k.queue = some q → k.gather = false → (refused || poisoned) = true →
       let y := if k.stopped then k else { k with status := if refused then stRefused else stPoison, info := info }
       exec (.xferVerdict p raw x refused poisoned sent info) s =
         after (((t.grantSent k.grantKey 0 sent).setXfer x { y with lost := k.lost + sent }).settleXfer x).settleRevokes) ∧
     (∀ q i r poisoned sent info, rawType raw = 0x19 → k.queue = some q → k.gather = true →
       let w := t.win k.part k.window
       let u := if w.binding then t.setWin k.part k.window { w with sent := w.sent + sent } else t
       let v : State := { u with xfers := Table.set {} u.xfers x {} }
       v.runOfXfer q x = some i → v.runAt q i = some r → exec (.xferVerdict p raw x true poisoned sent info) s =
         after ((v.refuse (masterNum .icpHub) (v.queueOwner q) q 0x06 (eSeq r.entry) 0).setRun q i
           { r with phase := .refused, xfer := none }).settleWindows) ∧
     (∀ q i, k.queue = some q → 0 < k.total → k.acked + k.lost = k.total → k.gather = false → t.runOfXfer q x = some i →
       let lost : Prop := k.stopped = false ∧ 0 < k.lost ∧ k.status = stDone
       t.settleXfer x = { t with xfers := Table.set {} t.xfers x {} }.finish q i (if lost then stLinkLost else k.status)
         (if lost then k.lostInfo else k.info)) ∧
     (k.acked + k.lost < k.total → t.settleXfer x = t)) ∧
  (∀ (n k m : Nat) (s : State) (u : Push), (s.islet n).pushes[k]? = some u → u.served = false → (s.islet n).serving < 2 →
     (∀ v, v ∈ (s.islet n).pushes → v.served = false → v.qos.toNat ≤ u.qos.toNat) →
     (s.isletsOf u.part).find? s.on = some m → (s.islet m).quiesce = false → (s.islet m).testing = false → s.runReady u.src u.len = true →
     let x := s.readHbm .lagoon u.src u.len
     let t := x.s.setIslet n { x.s.islet n with pushes := (s.islet n).pushes.set k { u with served := true } }
     let t := match x.bad with
       | some b => t.poisonEvent u.part noQueue 0 (t.relAddr u.part b) u.die
       | none => t
     let t := t.sendRuns (pushKey u.die u.xfer) u.die u.qos.toNat u.part u.part u.window u.xfer 0 (s.touchesFrozen u.src u.len) [(u.off, x.bytes)]
     let key := grantKey u.die u.part u.window
     let present := (Table.get {} x.s.grants key).present
     let t := if present then t.grantSent (some key) x.bytes.length 0 else t
     let y : Xfer := { queue := none, die := u.die, part := u.part, window := u.window, total := x.bytes.length, islet := n,
                       status := if x.bad.isSome then stPoison else stDone,
                       info := match x.bad with
                         | some b => t.relAddr u.part b
                         | none => 0,
                       grantKey := if present then some key else none }
     let v := t.setXfer (pushKey u.die u.xfer) y
     exec (.gatherServiceStart n k) s = .next (if x.bytes.length = 0 then v.endPush (pushKey u.die u.xfer) else v))

/-- A request of a caching agent (R257, R259): an idle line begins a transaction, recalling its owner and, for ownership, invalidating
the other sharers; a busy one puts the agent into its waiter list, once. Evictions and answers (R244, R258, R260, R272): a line
given up leaves the cache and the directory; an accepted invalidation and an answered recall let the line's transaction go on. A
non-caching access is served at the slices. -/
def Obligations.Coherence : Prop :=
  (∀ (a line : Nat) (s : State), s.cacheable a line = true →
     let g := s.lag line
     let began (own : Bool) : State := (s.setLag line
       { g with txn := some (a, own), recalling := (g.owner.filter (fun o => o != a)).map (fun o => (o, own)),
                waitInv := if own then setBit g.sharers a false else 0 }).advanceLine line
     let queued (own : Bool) : State := s.setLag line { g with waiters := g.waiters ++ [(a, own)] }
     let asks (c : Instr) (own : Bool) : Prop :=
       (g.txn = none → exec c s = .next (began own)) ∧
       (∀ b o, g.txn = some (b, o) → b ≠ a → (∀ w, w ∈ g.waiters → w.1 ≠ a) → exec c s = .next (queued own)) ∧
       (∀ b o, g.txn = some (b, o) → (b = a ∨ ∃ w, w ∈ g.waiters ∧ w.1 = a) → exec c s = .next s)
     ((s.cached a line).st = .invalid → asks (.readShared a line) false ∧ (s.writes a line = true → asks (.readOwn a line) true)) ∧
     ((s.cached a line).st = .shared → s.writes a line = true → asks (.upgrade a line) true) ∧
     ((s.cached a line).st = .exclusive ∨ (s.cached a line).st = .modified → s.writes a line = true →
       exec (.readOwn a line) s = .next (s.grantLine line a true)) ∧
     (a = 16 → s.writes a line = true)) ∧
  (∀ (a line : Nat) (s : State),
     let g := s.lag line
     let st := (s.cached a line).st
     let answered (t : State) : State := (t.setLag line { t.lag line with recalling := none }).advanceLine line
     (s.cacheable a line = true → st = .modified →
       (g.recalls a = true → exec (.writeback a line) s = .next (answered (s.dropLine a line))) ∧
       (g.recalls a = false → exec (.writeback a line) s = .next (s.dropLine a line))) ∧
     (s.cacheable a line = true → (st = .exclusive ∨ st = .shared) → exec (.evictClean a line) s = .next (s.dropLine a line)) ∧
     ((s.dropLine a line).cached a line = {} ∧ ((s.dropLine a line).lag line).owner ≠ some a ∧
       (a < 17 → ((s.dropLine a line).lag line).sharers.getLsbD a = false)) ∧
     (a < 17 → g.waitInv.getLsbD a = true →
       let t := s.acceptInv a line
       exec (.invalidate a line) s = .next ((t.setLag line
         { t.lag line with waitInv := setBit (t.lag line).waitInv a false, sharers := setBit (t.lag line).sharers a false }).advanceLine line)) ∧
     (st ≠ .invalid →
       (g.recalling = some (a, false) → exec (.recallShare a line) s = .next (answered (s.recallShared line))) ∧
       (g.recalling = some (a, true) → exec (.recallOwn a line) s = .next (answered (s.recallOwned line)))) ∧
     (∀ own, st = .invalid → g.recalling = some (a, own) → exec (.recallAck a line) s = .next (answered s)) ∧
     (line ∈ s.invs a → exec (.invalidationApply a line) s =
       .next ((s.setCached a line {}).setInvs a ((s.invs a).erase line))) ∧
     (∀ addr len, s.rangeReady addr len = true →
       exec (.nonCachingAccess addr len none) s = .next (s.readHbm .lagoon addr len).s) ∧
     (∀ addr len bytes, s.rangeReady addr bytes.length = true →
       (∀ k, k < (addr + bytes.length + 127) / 128 - addr / 128 → s.isFrozen ((addr / 128 + k) * 128) = false) →
       exec (.nonCachingAccess addr len (some bytes)) s = .next (s.writeHbm addr bytes).s))

/-! ### Frames -/

/-- What the commands of engines, Move engines and control rings, the steps of a command's life and the ring commands leave unchanged. -/
def Obligations.FrameOfCommands : Prop :=
  (∀ a, ∀ x ∈ ([.nop a, .signal a, .wait a, .tagSet a, .tagCheck a, .completionPost a] : List Instr), Frame events x) ∧
  (∀ a b c, Frame events (.pollReadComplete a b c)) ∧
  (∀ a b, Frame events (.entryFetchComplete a b)) ∧
  (∀ a, Frame (also [.free, .hbm, .caches]) (.fence a)) ∧
  (∀ a, ∀ x ∈ ([.mxMatmul a, .vxConvert a, .vxAdd a, .vxSub a, .vxMul a, .vxDiv a, .vxAxpy a, .vxMin a, .vxMax a, .vxFunc a,
    .vxReduce a, .vxTree a, .vxPackAct a, .vxUnpackAct a, .vxDropout a, .vxMask a, .vxNorm a, .vxClip a, .vxOptStep a] : List
    Instr), Frame (also [.free, .hbm, .caches, .scratch]) x) ∧
  (∀ a b, ∀ x ∈ ([.mvCopy a b, .mvFill a b, .mvTdescLoad a b] : List Instr), Frame (also [.free, .hbm, .caches, .scratch]) x) ∧
  (∀ a b, Frame [.queues, .ports, .xfers] (.mvGatherReq a b)) ∧
  Frame (also [.free, .domains, .pins, .nums, .owners, .keys, .hbm, .caches, .scratch]) .partCreate ∧
  Frame (also [.free, .domains, .pins, .nums, .frozen, .keys, .hbm, .caches, .scratch, .switches, .sessions]) .partDestroy ∧
  (∀ a, Frame (also [.free, .domains, .pins, .nums, .frozen, .keys, .hbm, .caches, .scratch, .switches, .sessions]) (.tenantEnd
    a)) ∧
  Frame [.queues, .parts, .ports] .tenantBegin ∧
  Frame [.queues, .islets, .ports] .domainSet ∧
  Frame [.power, .pins, .queues] .wakeArm ∧
  (∀ x ∈ ([.paceSet, .aonLp] : List Instr), Frame [.power, .queues] x) ∧
  Frame [.outputs, .free, .power, .queues] .voltSet ∧
  (∀ a b, Frame [.outputs, .free, .goose, .queues, .parts, .ports] (.attest a b)) ∧
  (∀ a b c d, Frame [.outputs, .free, .goose, .queues, .parts, .ports, .sessions] (.sessionExchange a b c d)) ∧
  (∀ a, Frame [.outputs, .bus, .queues, .parts, .keys, .ports] (.weightLoad a)) ∧
  (∀ a, Frame [.bus, .queues, .parts, .ports, .grants] (.windowOpen a)) ∧
  (∀ a, ∀ x ∈ ([.windowClose a, .ledgerAudit a] : List Instr), Frame (also [.free, .nums, .hbm, .caches]) x) ∧
  (∀ a b, Frame (also [.free, .nums, .hbm, .caches]) (.commandComplete a b)) ∧
  (∀ a, Frame [.bus, .queues, .islets, .parts] (.selftest a)) ∧
  Frame [.queues] .calibrate ∧
  Frame (also [.free, .goose, .bus]) .debugOpen ∧
  Frame registerKinds .debugClose ∧
  (∀ a b, ∀ x ∈ ([.hifKick a b, .queueDisable a b, .queuePark a b, .queueUnpark a b, .resume a b, .discard a b] : List Instr),
    Frame registerKinds x) ∧
  (∀ a b c, Frame registerKinds (.queueEnable a b c)) ∧
  (∀ a b c d, ∀ x ∈ ([.cqEnable a b c d, .cqDisable a b c d] : List Instr), Frame registerKinds x) ∧
  (∀ a b c, ∀ x ∈ ([.cqHeadWrite a b c, .eqHeadWrite a b c] : List Instr), Frame registerKinds x) ∧
  (∀ x ∈ ([.operatorKeyFuse, .fwCommit] : List Instr), Frame [.outputs, .free, .goose, .bus, .queues, .parts, .ports] x) ∧
  Frame [.pins, .queues] .gpioOwn ∧
  Frame [.outputs, .queues, .ports] .fwStage ∧
  (∀ a, Frame [.outputs, .free, .queues, .ports] (.randGet a)) ∧
  (∀ a, Frame [.goose, .queues, .ports, .remotes] (.machineJoin a)) ∧
  Frame [.upkeep, .queues] .scrubConfig ∧
  (∀ a, Frame (also [.free, .bus, .hbm, .caches]) (.exportSeal a)) ∧
  (∀ a, Frame (also [.bus, .caches]) (.commandStart a)) ∧
  (∀ a b, Frame [.outputs, .queues, .islets, .caches, .ports] (.tagWaitPoint a b)) ∧
  (∀ a, Frame (also [.free, .time, .nums, .hbm, .caches]) (.waitTimeout a)) ∧
  (∀ a b, Frame (also [.free, .time, .nums, .hbm, .caches]) (.refusalComplete a b)) ∧
  (∀ a, Frame (also [.time]) (.squareStall a)) ∧
  (∀ a, Frame [.outputs, .time, .queues, .ports] (.doorbellPoll a)) ∧
  (∀ a, Frame [.queues, .ports] (.queueIdle a)) ∧
  (∀ a b c d, Frame [.queues, .ports] (.hostReadReturn a b c d)) ∧
  (∀ a, Frame (also [.keys, .hbm, .caches]) (.hostReadTimeout a)) ∧
  (∀ a b, Frame (also [.keys, .hbm, .caches]) (.hostReadError a b))

/-- What the link, window, transfer and coherence commands leave unchanged. -/
def Obligations.FrameOfLinks : Prop :=
  (∀ a, ∀ x ∈ ([.flitSlot a, .fecLockLoss a] : List Instr), Frame events x) ∧
  (∀ a b, ∀ x ∈ ([.idleReceive a b, .probeReceive a b, .nakReceive a b] : List Instr), Frame (also [.free]) x) ∧
  (∀ a b c, Frame (also [.free]) (.probeEchoReceive a b c)) ∧
  (∀ a b c, Frame (also [.free]) (.grant a b c)) ∧
  (∀ a b c, Frame (also [.free]) (.sleepReq a b c)) ∧
  (∀ a, Frame [.time, .ports] (.probeSend a)) ∧
  (∀ a, ∀ x ∈ ([.silenceTimeout a, .probeTimeout a, .wakeTimeout a] : List Instr), Frame (also [.time]) x) ∧
  (∀ a b, Frame (also [.time]) (.creditDeadline a b)) ∧
  (∀ a, Frame [.outputs, .ports] (.partnerTraining a)) ∧
  (∀ a b, Frame (also [.free, .time, .goose, .bus, .pins, .nums, .owners, .hbm, .caches, .switches]) (.trainingDone a b)) ∧
  (∀ a, ∀ x ∈ ([.portEnable a, .helloResend a] : List Instr), Frame (also [.free, .time, .goose, .bus, .pins, .nums, .owners,
    .hbm, .caches, .switches]) x) ∧
  (∀ a b c, ∀ x ∈ ([.helloI a b c, .helloR a b c] : List Instr), Frame (also [.free, .time, .goose, .bus, .pins, .nums,
    .owners, .hbm, .caches, .switches]) x) ∧
  (∀ a b c, Frame (also [.free, .time, .goose, .bus, .pins, .nums, .owners, .hbm, .caches, .switches]) (.creditSync a b c)) ∧
  (∀ a, Frame [.ports] (.holdReceive a)) ∧
  (∀ a b, Frame [.ports] (.flitCrcFailure a b)) ∧
  (∀ a b c, ∀ x ∈ ([.finishI a b c, .finishR a b c] : List Instr), Frame (also [.time, .bus]) x) ∧
  (∀ a b, Frame (also [.bus]) (.keyRefused a b)) ∧
  (∀ a b c d e f, Frame (also [.free, .nums, .hbm, .caches]) (.lostNotice a b c d e f)) ∧
  (∀ a b c d e, ∀ x ∈ ([.revoke a b c d e, .revokeAck a b c d e] : List Instr), Frame (also [.free, .nums, .hbm, .caches]) x) ∧
  (∀ a b c d, Frame (also [.free, .nums, .hbm, .caches]) (.winAck a b c d)) ∧
  (∀ a b c, Frame (also [.free, .nums, .hbm, .caches]) (.auditCreditExchange a b c)) ∧
  (∀ a b, Frame (also [.free, .bus, .nums, .hbm, .caches, .scratch]) (.winDataReceive a b)) ∧
  (∀ a b, Frame (also [.free, .bus]) (.gatherReqReceive a b)) ∧
  (∀ a b, Frame (also [.free, .hbm, .caches]) (.gatherServiceStart a b)) ∧
  (∀ a b c d e f g, Frame (also [.free, .bus, .nums, .hbm, .caches]) (.xferVerdict a b c d e f g)) ∧
  (∀ a b c, Frame (also [.free, .time, .goose, .boot, .domains, .bus, .pins, .msix, .nums, .owners, .frozen, .keys, .hbm,
    .caches, .scratch, .switches, .remotes, .sessions]) (.fwdReceive a b c)) ∧
  (∀ a b, Frame (also [.free, .domains]) (.sleepAck a b)) ∧
  (∀ a, Frame [.outputs, .time, .ports] (.wakePatternSend a)) ∧
  (∀ a, Frame (also [.domains, .pins]) (.wakePatternDetect a)) ∧
  (∀ a b, ∀ x ∈ ([.readShared a b, .readOwn a b, .upgrade a b, .writeback a b, .invalidate a b, .recallShare a b, .recallOwn a
    b, .recallAck a b] : List Instr), Frame [.free, .upkeep, .islets, .parts, .hbm, .caches] x) ∧
  (∀ a b c, Frame [.free, .upkeep, .islets, .parts, .hbm, .caches] (.nonCachingAccess a b c)) ∧
  (∀ a b, Frame [.hbm, .caches] (.evictClean a b)) ∧
  (∀ a b, Frame [.caches] (.invalidationApply a b))

/-- What the register rows, accesses, upkeep, power, pin, boot and host commands leave unchanged; no command but FLASH_PROGRAM_DONE
changes the boot flash. -/
def Obligations.FrameOfTheRest : Prop :=
  (∀ a b c, Frame registerKinds (.islQabort a b c)) ∧
  (∀ a, Frame registerKinds (.ldgReleaseSnapshot a)) ∧
  (∀ a b, Frame registerKinds (.ldgReleasePort a b)) ∧
  (∀ a b c, Frame registerKinds (.dbgRelease a b c)) ∧
  (∀ a b, Frame registerKinds (.keyRetry a b)) ∧
  (∀ a b c, Frame registerKinds (.trayFanDutyWrite a b c)) ∧
  (∀ a b c, ∀ x ∈ ([.gpioOutWrite a b c, .gpioSetWrite a b c, .gpioClrWrite a b c, .gpioTglWrite a b c] : List Instr), Frame
    registerKinds x) ∧
  (∀ a b c d, Frame registerKinds (.gpioCfgWrite a b c d)) ∧
  (∀ a b c d, Frame registerKinds (.dbgMemAccess a b c d)) ∧
  (∀ a b, Frame registerKinds (.registerWrite a b)) ∧
  (∀ a b c d, Frame registerKinds (.bar2Forward a b c d)) ∧
  (∀ a, Frame registerKinds (.registerRead a)) ∧
  (∀ a b c, Frame (also [.free, .bus, .hbm, .caches, .scratch]) (.dbgLogRead a b c)) ∧
  (∀ a, Frame [.outputs, .free, .bus, .ports] (.heldRequestTimeout a)) ∧
  (∀ a b, Frame (also [.msix]) (.pcieConfigRequest a b)) ∧
  (∀ a, Frame [.outputs] (.earlyMemoryRequest a)) ∧
  (∀ a b c, Frame (also [.hbm, .caches]) (.hbmPatrolRead a b c)) ∧
  (∀ a, Frame (also [.hbm, .caches]) (.firmwareRebuild a)) ∧
  (∀ a b, Frame (also [.scratch]) (.spPatrolRead a b)) ∧
  Frame (also [.time]) .scrubTally ∧
  Frame (also [.time, .bus]) .refusalTally ∧
  Frame (also [.free, .goose, .domains, .pins, .nums, .owners, .keys, .hbm, .caches, .scratch, .switches]) .fillRunDone ∧
  (∀ a, Frame [.outputs, .free, .upkeep, .queues, .islets, .parts, .frozen, .keys, .hbm, .caches, .ports] (.weightLoadChunk a)) ∧
  (∀ a b c, Frame [.upkeep] (.hbmRefresh a b c)) ∧
  (∀ a, Frame [.time, .upkeep] (.hbmPhyCalibration a)) ∧
  (∀ a, Frame (also [.domains]) (.quiesceDone a)) ∧
  (∀ a, Frame (also [.time, .domains]) (.quiesceTimeout a)) ∧
  (∀ a, Frame (also [.free, .time, .domains, .pins, .nums, .hbm, .caches, .scratch]) (.domainTransitionDone a)) ∧
  (∀ a, Frame (also [.domains, .pins]) (.pinWake a)) ∧
  Frame [.power, .domains] .pfD3hot ∧
  Frame [.power, .domains, .upkeep, .ports] .aonLpExitTlp ∧
  (∀ x ∈ ([.pfD0Return, .paceShortfall] : List Instr), Frame events x) ∧
  (∀ a, Frame events (.pmbusAlert a)) ∧
  (∀ a, Frame events (.powerLimitCheck a)) ∧
  (∀ a, Frame events (.thermalAlert a)) ∧
  (∀ a, Frame (also [.free, .domains, .pins, .msix, .nums, .frozen, .keys, .hbm, .caches, .scratch, .switches, .sessions])
    (.vfFlr a)) ∧
  Frame (also [.msix, .sessions]) .pfFlr ∧
  (∀ a, Frame (also [.sessions]) (.ideStreamEnable a)) ∧
  (∀ a, Frame [.parts, .sessions] (.ideIntegrityFail a)) ∧
  (∀ a b, ∀ x ∈ ([.getVersion a b, .getCapabilities a b, .negotiateAlgorithms a b, .getDigests a b, .getCertificate a b,
    .challenge a b, .keyExchange a b, .endSession a b] : List Instr), Frame [.outputs, .free, .goose, .parts, .sessions] x) ∧
  (∀ a b c, Frame [.outputs, .free, .goose, .parts, .sessions] (.getMeasurements a b c)) ∧
  (∀ a b c, Frame [.outputs, .free, .goose, .parts, .sessions] (.finish a b c)) ∧
  (∀ a b, Frame [.outputs, .time, .power, .queues] (.voutPoll a b)) ∧
  Frame [.outputs, .time, .power, .queues] .voltSetTimeout ∧
  (∀ a b c, Frame [.power] (.pmbusTelemetryRead a b c)) ∧
  (∀ a b, Frame [.power] (.telemetryUpdate a b)) ∧
  (∀ a, ∀ x ∈ ([.fanTachUpdate a, .pwmPeriodStart a, .tachRisingEdge a] : List Instr), Frame [.pins] x) ∧
  (∀ a, Frame [.free, .pins] (.captureEdge a)) ∧
  (∀ a, Frame (also [.time, .pins]) (.fanStall a)) ∧
  (∀ a b, Frame (also [.free, .pins]) (.gpioLevelAccept a b)) ∧
  (∀ x ∈ ([.tachSecond, .syncOutPulse] : List Instr), Frame [.time, .pins] x) ∧
  Frame (also [.free, .time, .goose, .boot, .bus, .pins, .nums, .owners, .hbm, .caches, .switches]) .trngSample ∧
  Frame [.goose, .boot] .trngTestFail ∧
  Frame [.outputs, .free, .goose, .boot, .power, .keys] .firmwareVerified ∧
  (∀ a b, Frame [.goose, .boot, .domains] (.hbmTrainingDone a b)) ∧
  Frame (also [.free, .goose, .domains, .bus, .pins, .nums, .keys, .hbm, .caches, .scratch]) .gooseReady ∧
  Frame [.time, .goose] .bootDeadline ∧
  Frame [.boot] .perstNRise ∧
  (∀ a, Frame [.bus] (.jtagInstruction a)) ∧
  (∀ a b c, Frame (also [.free, .goose, .nums, .hbm, .caches, .scratch]) (.selftestEnd a b c)) ∧
  Frame (also [.free, .nums, .hbm, .caches]) .calibrationEnd ∧
  (∀ a, Frame (also [.free, .time, .nums, .hbm, .caches]) (.auditWaitTimeout a)) ∧
  Frame [.goose, .bus, .queues, .parts, .flash] .flashProgramDone ∧
  (∀ a, Frame [.goose, .queues, .fuses] (.fuseBlowDone a)) ∧
  (∀ c s t, exec c s = .next t → c ≠ .flashProgramDone → t.flash = s.flash)
end

