-- ==== Sys2Proof/Laws/Table.lean ====
section
/-! SUPPORT. Laws of sparse tables and memories: what a read gives after a write, and that every operation keeps the
canonical form. -/

namespace Sys2Proof.Machine

variable {α : Type}

theorem Table.get_drop (d : α) (t : Table α) (k j : Nat) :
    Table.get d (Table.drop t k) j = if j = k then d else Table.get d t j := by
  induction t with
  | nil => simp [Table.drop, Table.get]
  | cons e t ih =>
    obtain ⟨a, v⟩ := e
    unfold Table.drop
    split
    · next h =>
      subst h
      rw [ih]
      by_cases hj : j = k <;> simp [Table.get, hj]
    · next h =>
      by_cases ha : j = a
      · subst ha
        simp [Table.get, Ne.symm h]
      · simp [Table.get, ha, ih]

theorem Table.get_put (d : α) (t : Table α) (k j : Nat) (v : α) :
    Table.get d (Table.put t k v) j = if j = k then v else Table.get d t j := by
  induction t with
  | nil => simp [Table.put, Table.get]
  | cons e t ih =>
    obtain ⟨a, w⟩ := e
    unfold Table.put
    split
    · simp [Table.get]
    · split
      · next h => subst h; by_cases hj : j = k <;> simp [Table.get, hj]
      · next h => by_cases hj : j = k
                  · subst hj; simp [Table.get, ih, h]
                  · simp [Table.get, ih, hj]

/-- A read after a write: the value written at its key, the old one at every other. -/
theorem Table.get_set [DecidableEq α] (d : α) (t : Table α) (k j : Nat) (v : α) :
    Table.get d (Table.set d t k v) j = if j = k then v else Table.get d t j := by
  unfold Table.set
  split
  · next h => subst h; exact Table.get_drop v t k j
  · exact Table.get_put d t k j v

@[simp] theorem Table.get_set_same [DecidableEq α] (d : α) (t : Table α) (k : Nat) (v : α) :
    Table.get d (Table.set d t k v) k = v := by simp [Table.get_set]

theorem Table.get_set_ne [DecidableEq α] (d : α) (t : Table α) (k j : Nat) (v : α) (h : j ≠ k) :
    Table.get d (Table.set d t k v) j = Table.get d t j := by simp [Table.get_set, h]

@[simp] theorem Table.get_nil (d : α) (k : Nat) : Table.get d ([] : Table α) k = d := rfl

/-! ### The canonical form -/

variable [DecidableEq α]

theorem Table.wfFrom_mono (d : α) (t : Table α) (a b : Nat) (h : a ≤ b) (w : Table.wfFrom d (some b) t = true) :
    Table.wfFrom d (some a) t = true := by
  cases t with
  | nil => rfl
  | cons e t =>
    obtain ⟨j, v⟩ := e
    simp only [Table.wfFrom, Bool.and_eq_true, decide_eq_true_eq] at w ⊢
    exact ⟨⟨by omega, w.1.2⟩, w.2⟩

theorem Table.wfFrom_none (d : α) (t : Table α) (a : Nat) (w : Table.wfFrom d (some a) t = true) :
    Table.wfFrom d none t = true := by
  cases t with
  | nil => rfl
  | cons e t =>
    obtain ⟨j, v⟩ := e
    simp only [Table.wfFrom, Bool.and_eq_true, decide_eq_true_eq] at w ⊢
    exact ⟨⟨trivial, w.1.2⟩, w.2⟩

theorem Table.wfFrom_drop (d : α) (t : Table α) (lo : Option Nat) (k : Nat) (w : Table.wfFrom d lo t = true) :
    Table.wfFrom d lo (Table.drop t k) = true := by
  induction t generalizing lo with
  | nil => rfl
  | cons e t ih =>
    obtain ⟨j, v⟩ := e
    simp only [Table.wfFrom, Bool.and_eq_true] at w
    unfold Table.drop
    split
    · have h := ih (some j) w.2
      cases lo with
      | none => exact Table.wfFrom_none d _ j h
      | some l =>
        have hl := w.1.1
        simp only [decide_eq_true_eq] at hl
        exact Table.wfFrom_mono d _ l j (by omega) h
    · simp only [Table.wfFrom, Bool.and_eq_true]
      exact ⟨w.1, ih (some j) w.2⟩

theorem Table.wfFrom_put (d : α) (t : Table α) (lo : Option Nat) (k : Nat) (v : α) (hv : v ≠ d)
    (hk : ∀ l, lo = some l → l < k) (w : Table.wfFrom d lo t = true) :
    Table.wfFrom d lo (Table.put t k v) = true := by
  induction t generalizing lo with
  | nil => cases lo <;> simp [Table.put, Table.wfFrom, hv, hk]
  | cons e t ih =>
    obtain ⟨j, x⟩ := e
    simp only [Table.wfFrom, Bool.and_eq_true] at w
    unfold Table.put
    split
    · next h =>
      simp only [Table.wfFrom, Bool.and_eq_true, decide_eq_true_eq]
      refine ⟨⟨?_, by simpa using hv⟩, ⟨h, by simpa using w.1.2⟩, w.2⟩
      cases lo with
      | none => rfl
      | some l => simpa using hk l rfl
    · split
      · next h =>
        subst h
        simp only [Table.wfFrom, Bool.and_eq_true]
        exact ⟨⟨w.1.1, by simpa using hv⟩, w.2⟩
      · next h1 h2 =>
        simp only [Table.wfFrom, Bool.and_eq_true]
        refine ⟨w.1, ih (some j) ?_ w.2⟩
        intro l hl
        cases hl
        omega

/-- A write keeps the canonical form. -/
theorem Table.wf_set (d : α) (t : Table α) (k : Nat) (v : α) (w : Table.wf d t = true) : Table.wf d (Table.set d t k v) = true := by
  unfold Table.set
  split
  · exact Table.wfFrom_drop d t none k w
  · next h => exact Table.wfFrom_put d t none k v h (by simp) w

theorem Table.wfFrom_filter (d : α) (t : Table α) (lo : Option Nat) (p : Nat × α → Bool) (w : Table.wfFrom d lo t = true) :
    Table.wfFrom d lo (t.filter p) = true := by
  induction t generalizing lo with
  | nil => rfl
  | cons e t ih =>
    obtain ⟨j, v⟩ := e
    simp only [Table.wfFrom, Bool.and_eq_true] at w
    have h := ih (some j) w.2
    simp only [List.filter_cons]
    split
    · simp only [Table.wfFrom, Bool.and_eq_true]
      exact ⟨w.1, h⟩
    · cases lo with
      | none => exact Table.wfFrom_none d _ j h
      | some l =>
        have hl := w.1.1
        simp only [decide_eq_true_eq] at hl
        exact Table.wfFrom_mono d _ l j (by omega) h

/-- Clearing a range keeps the canonical form. -/
theorem Table.wf_clear (d : α) (t : Table α) (lo hi : Nat) (w : Table.wf d t = true) : Table.wf d (Table.clear t lo hi) = true :=
  Table.wfFrom_filter d t none _ w

/-! ### Memories -/

@[simp] theorem Memory.wf_nil : Memory.wf [] = true := rfl

/-- Storing a byte keeps the canonical form. -/
theorem Memory.wf_setByte (m : Memory) (a : Nat) (v : Byte) (w : Memory.wf m = true) : Memory.wf (Memory.setByte m a v) = true :=
  Table.wf_set 0 m a v w

/-- Storing bytes keeps the canonical form. -/
theorem Memory.wf_write (m : Memory) (a : Nat) (l : List Byte) (w : Memory.wf m = true) : Memory.wf (Memory.write m a l) = true := by
  induction l generalizing m a with
  | nil => exact w
  | cons b l ih => exact ih _ _ (Memory.wf_setByte m a b w)

/-- Zeroing a range keeps the canonical form. -/
theorem Memory.wf_zero (m : Memory) (a n : Nat) (w : Memory.wf m = true) : Memory.wf (Memory.zero m a n) = true :=
  Table.wf_clear 0 m a (a + n) w

theorem Memory.byte_setByte (m : Memory) (a b : Nat) (v : Byte) :
    Memory.byte (Memory.setByte m a v) b = if b = a then v else Memory.byte m b := Table.get_set 0 m a b v

end Sys2Proof.Machine
end

