-- ==== Sys2Proof/Laws/State.lean ====
section
/-! SUPPORT. What each update of the state leaves alone, field by field and accessor by accessor, and what an accessor gives
after its own update. -/

namespace Sys2Proof.Machine

/-! ### setQueue -/

@[simp] theorem State.setQueue_pending (s : State) (q : Nat) (v : Queue) : (s.setQueue q v).pending = s.pending := rfl
@[simp] theorem State.setQueue_out (s : State) (q : Nat) (v : Queue) : (s.setQueue q v).out = s.out := rfl
@[simp] theorem State.setQueue_freeCtr (s : State) (q : Nat) (v : Queue) : (s.setQueue q v).freeCtr = s.freeCtr := rfl
@[simp] theorem State.setQueue_time (s : State) (q : Nat) (v : Queue) : (s.setQueue q v).time = s.time := rfl
@[simp] theorem State.setQueue_secDone (s : State) (q : Nat) (v : Queue) : (s.setQueue q v).secDone = s.secDone := rfl
@[simp] theorem State.setQueue_fuses (s : State) (q : Nat) (v : Queue) : (s.setQueue q v).fuses = s.fuses := rfl
@[simp] theorem State.setQueue_hostFifo (s : State) (q : Nat) (v : Queue) : (s.setQueue q v).hostFifo = s.hostFifo := rfl
@[simp] theorem State.setQueue_store (s : State) (q : Nat) (v : Queue) : (s.setQueue q v).store = s.store := rfl
@[simp] theorem State.setQueue_romKey (s : State) (q : Nat) (v : Queue) : (s.setQueue q v).romKey = s.romKey := rfl
@[simp] theorem State.setQueue_plru (s : State) (q : Nat) (v : Queue) : (s.setQueue q v).plru = s.plru := rfl
@[simp] theorem State.setQueue_pcie (s : State) (q : Nat) (v : Queue) : (s.setQueue q v).pcie = s.pcie := rfl
@[simp] theorem State.setQueue_ideKeys (s : State) (q : Nat) (v : Queue) : (s.setQueue q v).ideKeys = s.ideKeys := rfl
@[simp] theorem State.setQueue_flash (s : State) (q : Nat) (v : Queue) : (s.setQueue q v).flash = s.flash := rfl
@[simp] theorem State.setQueue_mgt (s : State) (q : Nat) (v : Queue) : (s.setQueue q v).mgt = s.mgt := rfl
@[simp] theorem State.setQueue_boot (s : State) (q : Nat) (v : Queue) : (s.setQueue q v).boot = s.boot := rfl
@[simp] theorem State.setQueue_power (s : State) (q : Nat) (v : Queue) : (s.setQueue q v).power = s.power := rfl
@[simp] theorem State.setQueue_domains (s : State) (q : Nat) (v : Queue) : (s.setQueue q v).domains = s.domains := rfl
@[simp] theorem State.setQueue_up (s : State) (q : Nat) (v : Queue) : (s.setQueue q v).up = s.up := rfl
@[simp] theorem State.setQueue_bus (s : State) (q : Nat) (v : Queue) : (s.setQueue q v).bus = s.bus := rfl
@[simp] theorem State.setQueue_gpio (s : State) (q : Nat) (v : Queue) : (s.setQueue q v).gpio = s.gpio := rfl
@[simp] theorem State.setQueue_rings (s : State) (q : Nat) (v : Queue) : (s.setQueue q v).rings = s.rings := rfl
@[simp] theorem State.setQueue_islets (s : State) (q : Nat) (v : Queue) : (s.setQueue q v).islets = s.islets := rfl
@[simp] theorem State.setQueue_nums (s : State) (q : Nat) (v : Queue) : (s.setQueue q v).nums = s.nums := rfl
@[simp] theorem State.setQueue_parts (s : State) (q : Nat) (v : Queue) : (s.setQueue q v).parts = s.parts := rfl
@[simp] theorem State.setQueue_owners (s : State) (q : Nat) (v : Queue) : (s.setQueue q v).owners = s.owners := rfl
@[simp] theorem State.setQueue_frozen (s : State) (q : Nat) (v : Queue) : (s.setQueue q v).frozen = s.frozen := rfl
@[simp] theorem State.setQueue_keys (s : State) (q : Nat) (v : Queue) : (s.setQueue q v).keys = s.keys := rfl
@[simp] theorem State.setQueue_hbm (s : State) (q : Nat) (v : Queue) : (s.setQueue q v).hbm = s.hbm := rfl
@[simp] theorem State.setQueue_scratch (s : State) (q : Nat) (v : Queue) : (s.setQueue q v).scratch = s.scratch := rfl
@[simp] theorem State.setQueue_hbmPoison (s : State) (q : Nat) (v : Queue) : (s.setQueue q v).hbmPoison = s.hbmPoison := rfl
@[simp] theorem State.setQueue_spPoison (s : State) (q : Nat) (v : Queue) : (s.setQueue q v).spPoison = s.spPoison := rfl
@[simp] theorem State.setQueue_hbmErr (s : State) (q : Nat) (v : Queue) : (s.setQueue q v).hbmErr = s.hbmErr := rfl
@[simp] theorem State.setQueue_spErr (s : State) (q : Nat) (v : Queue) : (s.setQueue q v).spErr = s.spErr := rfl
@[simp] theorem State.setQueue_switches (s : State) (q : Nat) (v : Queue) : (s.setQueue q v).switches = s.switches := rfl
@[simp] theorem State.setQueue_ports (s : State) (q : Nat) (v : Queue) : (s.setQueue q v).ports = s.ports := rfl
@[simp] theorem State.setQueue_grants (s : State) (q : Nat) (v : Queue) : (s.setQueue q v).grants = s.grants := rfl
@[simp] theorem State.setQueue_xfers (s : State) (q : Nat) (v : Queue) : (s.setQueue q v).xfers = s.xfers := rfl
@[simp] theorem State.setQueue_nextXfer (s : State) (q : Nat) (v : Queue) : (s.setQueue q v).nextXfer = s.nextXfer := rfl
@[simp] theorem State.setQueue_remotes (s : State) (q : Nat) (v : Queue) : (s.setQueue q v).remotes = s.remotes := rfl
@[simp] theorem State.setQueue_caches (s : State) (q : Nat) (v : Queue) : (s.setQueue q v).caches = s.caches := rfl
@[simp] theorem State.setQueue_invQueue (s : State) (q : Nat) (v : Queue) : (s.setQueue q v).invQueue = s.invQueue := rfl
@[simp] theorem State.setQueue_lagoon (s : State) (q : Nat) (v : Queue) : (s.setQueue q v).lagoon = s.lagoon := rfl
@[simp] theorem State.setQueue_msixWord (s : State) (q : Nat) (v : Queue) : (s.setQueue q v).msixWord = s.msixWord := rfl
@[simp] theorem State.setQueue_msixOpen (s : State) (q : Nat) (v : Queue) : (s.setQueue q v).msixOpen = s.msixOpen := rfl
@[simp] theorem State.setQueue_msixPend (s : State) (q : Nat) (v : Queue) : (s.setQueue q v).msixPend = s.msixPend := rfl
@[simp] theorem State.setQueue_sessions (s : State) (q : Nat) (v : Queue) : (s.setQueue q v).sessions = s.sessions := rfl
@[simp] theorem State.setQueue_ideOn (s : State) (q : Nat) (v : Queue) : (s.setQueue q v).ideOn = s.ideOn := rfl
@[simp] theorem State.setQueue_lastRing (s : State) (q : Nat) (v : Queue) : (s.setQueue q v).lastRing = s.lastRing := rfl
@[simp] theorem State.setQueue_ring (s : State) (q : Nat) (v : Queue) (j : Nat) : (s.setQueue q v).ring j = s.ring j := rfl
@[simp] theorem State.setQueue_islet (s : State) (q : Nat) (v : Queue) (j : Nat) : (s.setQueue q v).islet j = s.islet j := rfl
@[simp] theorem State.setQueue_num (s : State) (q : Nat) (v : Queue) (j : Nat) : (s.setQueue q v).num j = s.num j := rfl
@[simp] theorem State.setQueue_part (s : State) (q : Nat) (v : Queue) (j : Nat) : (s.setQueue q v).part j = s.part j := rfl
@[simp] theorem State.setQueue_port (s : State) (q : Nat) (v : Queue) (j : Nat) : (s.setQueue q v).port j = s.port j := rfl
@[simp] theorem State.setQueue_domain (s : State) (q : Nat) (v : Queue) (j : Nat) : (s.setQueue q v).domain j = s.domain j := rfl
@[simp] theorem State.setQueue_xfer (s : State) (q : Nat) (v : Queue) (j : Nat) : (s.setQueue q v).xfer j = s.xfer j := rfl
@[simp] theorem State.setQueue_pin (s : State) (q : Nat) (v : Queue) (j : Nat) : (s.setQueue q v).pin j = s.pin j := rfl
@[simp] theorem State.setQueue_owner (s : State) (q : Nat) (v : Queue) (j : Nat) : (s.setQueue q v).owner j = s.owner j := rfl
@[simp] theorem State.setQueue_switchOf (s : State) (q : Nat) (v : Queue) (j : Nat) : (s.setQueue q v).switchOf j = s.switchOf j := rfl
@[simp] theorem State.setQueue_session (s : State) (q : Nat) (v : Queue) (j : Nat) : (s.setQueue q v).session j = s.session j := rfl
@[simp] theorem State.setQueue_lag (s : State) (q : Nat) (v : Queue) (j : Nat) : (s.setQueue q v).lag j = s.lag j := rfl
@[simp] theorem State.setQueue_cached (s : State) (q : Nat) (v : Queue) (j m : Nat) : (s.setQueue q v).cached j m = s.cached j m := rfl
@[simp] theorem State.setQueue_invs (s : State) (q : Nat) (v : Queue) (j : Nat) : (s.setQueue q v).invs j = s.invs j := rfl
@[simp] theorem State.setQueue_win (s : State) (q : Nat) (v : Queue) (j m : Nat) : (s.setQueue q v).win j m = s.win j m := rfl
@[simp] theorem State.setQueue_die (s : State) (q : Nat) (v : Queue) : (s.setQueue q v).die = s.die := rfl
@[simp] theorem State.setQueue_follower (s : State) (q : Nat) (v : Queue) : (s.setQueue q v).follower = s.follower := rfl
@[simp] theorem State.setQueue_config (s : State) (q : Nat) (v : Queue) (j : Nat) : (s.setQueue q v).config j = s.config j := rfl

/-! ### setRing -/

@[simp] theorem State.setRing_pending (s : State) (c : Nat) (v : Ring) : (s.setRing c v).pending = s.pending := rfl
@[simp] theorem State.setRing_out (s : State) (c : Nat) (v : Ring) : (s.setRing c v).out = s.out := rfl
@[simp] theorem State.setRing_freeCtr (s : State) (c : Nat) (v : Ring) : (s.setRing c v).freeCtr = s.freeCtr := rfl
@[simp] theorem State.setRing_time (s : State) (c : Nat) (v : Ring) : (s.setRing c v).time = s.time := rfl
@[simp] theorem State.setRing_secDone (s : State) (c : Nat) (v : Ring) : (s.setRing c v).secDone = s.secDone := rfl
@[simp] theorem State.setRing_fuses (s : State) (c : Nat) (v : Ring) : (s.setRing c v).fuses = s.fuses := rfl
@[simp] theorem State.setRing_hostFifo (s : State) (c : Nat) (v : Ring) : (s.setRing c v).hostFifo = s.hostFifo := rfl
@[simp] theorem State.setRing_store (s : State) (c : Nat) (v : Ring) : (s.setRing c v).store = s.store := rfl
@[simp] theorem State.setRing_romKey (s : State) (c : Nat) (v : Ring) : (s.setRing c v).romKey = s.romKey := rfl
@[simp] theorem State.setRing_plru (s : State) (c : Nat) (v : Ring) : (s.setRing c v).plru = s.plru := rfl
@[simp] theorem State.setRing_pcie (s : State) (c : Nat) (v : Ring) : (s.setRing c v).pcie = s.pcie := rfl
@[simp] theorem State.setRing_ideKeys (s : State) (c : Nat) (v : Ring) : (s.setRing c v).ideKeys = s.ideKeys := rfl
@[simp] theorem State.setRing_flash (s : State) (c : Nat) (v : Ring) : (s.setRing c v).flash = s.flash := rfl
@[simp] theorem State.setRing_mgt (s : State) (c : Nat) (v : Ring) : (s.setRing c v).mgt = s.mgt := rfl
@[simp] theorem State.setRing_boot (s : State) (c : Nat) (v : Ring) : (s.setRing c v).boot = s.boot := rfl
@[simp] theorem State.setRing_power (s : State) (c : Nat) (v : Ring) : (s.setRing c v).power = s.power := rfl
@[simp] theorem State.setRing_domains (s : State) (c : Nat) (v : Ring) : (s.setRing c v).domains = s.domains := rfl
@[simp] theorem State.setRing_up (s : State) (c : Nat) (v : Ring) : (s.setRing c v).up = s.up := rfl
@[simp] theorem State.setRing_bus (s : State) (c : Nat) (v : Ring) : (s.setRing c v).bus = s.bus := rfl
@[simp] theorem State.setRing_gpio (s : State) (c : Nat) (v : Ring) : (s.setRing c v).gpio = s.gpio := rfl
@[simp] theorem State.setRing_queues (s : State) (c : Nat) (v : Ring) : (s.setRing c v).queues = s.queues := rfl
@[simp] theorem State.setRing_islets (s : State) (c : Nat) (v : Ring) : (s.setRing c v).islets = s.islets := rfl
@[simp] theorem State.setRing_nums (s : State) (c : Nat) (v : Ring) : (s.setRing c v).nums = s.nums := rfl
@[simp] theorem State.setRing_parts (s : State) (c : Nat) (v : Ring) : (s.setRing c v).parts = s.parts := rfl
@[simp] theorem State.setRing_owners (s : State) (c : Nat) (v : Ring) : (s.setRing c v).owners = s.owners := rfl
@[simp] theorem State.setRing_frozen (s : State) (c : Nat) (v : Ring) : (s.setRing c v).frozen = s.frozen := rfl
@[simp] theorem State.setRing_keys (s : State) (c : Nat) (v : Ring) : (s.setRing c v).keys = s.keys := rfl
@[simp] theorem State.setRing_hbm (s : State) (c : Nat) (v : Ring) : (s.setRing c v).hbm = s.hbm := rfl
@[simp] theorem State.setRing_scratch (s : State) (c : Nat) (v : Ring) : (s.setRing c v).scratch = s.scratch := rfl
@[simp] theorem State.setRing_hbmPoison (s : State) (c : Nat) (v : Ring) : (s.setRing c v).hbmPoison = s.hbmPoison := rfl
@[simp] theorem State.setRing_spPoison (s : State) (c : Nat) (v : Ring) : (s.setRing c v).spPoison = s.spPoison := rfl
@[simp] theorem State.setRing_hbmErr (s : State) (c : Nat) (v : Ring) : (s.setRing c v).hbmErr = s.hbmErr := rfl
@[simp] theorem State.setRing_spErr (s : State) (c : Nat) (v : Ring) : (s.setRing c v).spErr = s.spErr := rfl
@[simp] theorem State.setRing_switches (s : State) (c : Nat) (v : Ring) : (s.setRing c v).switches = s.switches := rfl
@[simp] theorem State.setRing_ports (s : State) (c : Nat) (v : Ring) : (s.setRing c v).ports = s.ports := rfl
@[simp] theorem State.setRing_grants (s : State) (c : Nat) (v : Ring) : (s.setRing c v).grants = s.grants := rfl
@[simp] theorem State.setRing_xfers (s : State) (c : Nat) (v : Ring) : (s.setRing c v).xfers = s.xfers := rfl
@[simp] theorem State.setRing_nextXfer (s : State) (c : Nat) (v : Ring) : (s.setRing c v).nextXfer = s.nextXfer := rfl
@[simp] theorem State.setRing_remotes (s : State) (c : Nat) (v : Ring) : (s.setRing c v).remotes = s.remotes := rfl
@[simp] theorem State.setRing_caches (s : State) (c : Nat) (v : Ring) : (s.setRing c v).caches = s.caches := rfl
@[simp] theorem State.setRing_invQueue (s : State) (c : Nat) (v : Ring) : (s.setRing c v).invQueue = s.invQueue := rfl
@[simp] theorem State.setRing_lagoon (s : State) (c : Nat) (v : Ring) : (s.setRing c v).lagoon = s.lagoon := rfl
@[simp] theorem State.setRing_msixWord (s : State) (c : Nat) (v : Ring) : (s.setRing c v).msixWord = s.msixWord := rfl
@[simp] theorem State.setRing_msixOpen (s : State) (c : Nat) (v : Ring) : (s.setRing c v).msixOpen = s.msixOpen := rfl
@[simp] theorem State.setRing_msixPend (s : State) (c : Nat) (v : Ring) : (s.setRing c v).msixPend = s.msixPend := rfl
@[simp] theorem State.setRing_sessions (s : State) (c : Nat) (v : Ring) : (s.setRing c v).sessions = s.sessions := rfl
@[simp] theorem State.setRing_ideOn (s : State) (c : Nat) (v : Ring) : (s.setRing c v).ideOn = s.ideOn := rfl
@[simp] theorem State.setRing_lastRing (s : State) (c : Nat) (v : Ring) : (s.setRing c v).lastRing = s.lastRing := rfl
@[simp] theorem State.setRing_queue (s : State) (c : Nat) (v : Ring) (j : Nat) : (s.setRing c v).queue j = s.queue j := rfl
@[simp] theorem State.setRing_islet (s : State) (c : Nat) (v : Ring) (j : Nat) : (s.setRing c v).islet j = s.islet j := rfl
@[simp] theorem State.setRing_num (s : State) (c : Nat) (v : Ring) (j : Nat) : (s.setRing c v).num j = s.num j := rfl
@[simp] theorem State.setRing_part (s : State) (c : Nat) (v : Ring) (j : Nat) : (s.setRing c v).part j = s.part j := rfl
@[simp] theorem State.setRing_port (s : State) (c : Nat) (v : Ring) (j : Nat) : (s.setRing c v).port j = s.port j := rfl
@[simp] theorem State.setRing_domain (s : State) (c : Nat) (v : Ring) (j : Nat) : (s.setRing c v).domain j = s.domain j := rfl
@[simp] theorem State.setRing_xfer (s : State) (c : Nat) (v : Ring) (j : Nat) : (s.setRing c v).xfer j = s.xfer j := rfl
@[simp] theorem State.setRing_pin (s : State) (c : Nat) (v : Ring) (j : Nat) : (s.setRing c v).pin j = s.pin j := rfl
@[simp] theorem State.setRing_owner (s : State) (c : Nat) (v : Ring) (j : Nat) : (s.setRing c v).owner j = s.owner j := rfl
@[simp] theorem State.setRing_switchOf (s : State) (c : Nat) (v : Ring) (j : Nat) : (s.setRing c v).switchOf j = s.switchOf j := rfl
@[simp] theorem State.setRing_session (s : State) (c : Nat) (v : Ring) (j : Nat) : (s.setRing c v).session j = s.session j := rfl
@[simp] theorem State.setRing_lag (s : State) (c : Nat) (v : Ring) (j : Nat) : (s.setRing c v).lag j = s.lag j := rfl
@[simp] theorem State.setRing_cached (s : State) (c : Nat) (v : Ring) (j m : Nat) : (s.setRing c v).cached j m = s.cached j m := rfl
@[simp] theorem State.setRing_invs (s : State) (c : Nat) (v : Ring) (j : Nat) : (s.setRing c v).invs j = s.invs j := rfl
@[simp] theorem State.setRing_win (s : State) (c : Nat) (v : Ring) (j m : Nat) : (s.setRing c v).win j m = s.win j m := rfl
@[simp] theorem State.setRing_die (s : State) (c : Nat) (v : Ring) : (s.setRing c v).die = s.die := rfl
@[simp] theorem State.setRing_follower (s : State) (c : Nat) (v : Ring) : (s.setRing c v).follower = s.follower := rfl
@[simp] theorem State.setRing_config (s : State) (c : Nat) (v : Ring) (j : Nat) : (s.setRing c v).config j = s.config j := rfl

/-! ### setIslet -/

@[simp] theorem State.setIslet_pending (s : State) (n : Nat) (v : Islet) : (s.setIslet n v).pending = s.pending := rfl
@[simp] theorem State.setIslet_out (s : State) (n : Nat) (v : Islet) : (s.setIslet n v).out = s.out := rfl
@[simp] theorem State.setIslet_freeCtr (s : State) (n : Nat) (v : Islet) : (s.setIslet n v).freeCtr = s.freeCtr := rfl
@[simp] theorem State.setIslet_time (s : State) (n : Nat) (v : Islet) : (s.setIslet n v).time = s.time := rfl
@[simp] theorem State.setIslet_secDone (s : State) (n : Nat) (v : Islet) : (s.setIslet n v).secDone = s.secDone := rfl
@[simp] theorem State.setIslet_fuses (s : State) (n : Nat) (v : Islet) : (s.setIslet n v).fuses = s.fuses := rfl
@[simp] theorem State.setIslet_hostFifo (s : State) (n : Nat) (v : Islet) : (s.setIslet n v).hostFifo = s.hostFifo := rfl
@[simp] theorem State.setIslet_store (s : State) (n : Nat) (v : Islet) : (s.setIslet n v).store = s.store := rfl
@[simp] theorem State.setIslet_romKey (s : State) (n : Nat) (v : Islet) : (s.setIslet n v).romKey = s.romKey := rfl
@[simp] theorem State.setIslet_plru (s : State) (n : Nat) (v : Islet) : (s.setIslet n v).plru = s.plru := rfl
@[simp] theorem State.setIslet_pcie (s : State) (n : Nat) (v : Islet) : (s.setIslet n v).pcie = s.pcie := rfl
@[simp] theorem State.setIslet_ideKeys (s : State) (n : Nat) (v : Islet) : (s.setIslet n v).ideKeys = s.ideKeys := rfl
@[simp] theorem State.setIslet_flash (s : State) (n : Nat) (v : Islet) : (s.setIslet n v).flash = s.flash := rfl
@[simp] theorem State.setIslet_mgt (s : State) (n : Nat) (v : Islet) : (s.setIslet n v).mgt = s.mgt := rfl
@[simp] theorem State.setIslet_boot (s : State) (n : Nat) (v : Islet) : (s.setIslet n v).boot = s.boot := rfl
@[simp] theorem State.setIslet_power (s : State) (n : Nat) (v : Islet) : (s.setIslet n v).power = s.power := rfl
@[simp] theorem State.setIslet_domains (s : State) (n : Nat) (v : Islet) : (s.setIslet n v).domains = s.domains := rfl
@[simp] theorem State.setIslet_up (s : State) (n : Nat) (v : Islet) : (s.setIslet n v).up = s.up := rfl
@[simp] theorem State.setIslet_bus (s : State) (n : Nat) (v : Islet) : (s.setIslet n v).bus = s.bus := rfl
@[simp] theorem State.setIslet_gpio (s : State) (n : Nat) (v : Islet) : (s.setIslet n v).gpio = s.gpio := rfl
@[simp] theorem State.setIslet_queues (s : State) (n : Nat) (v : Islet) : (s.setIslet n v).queues = s.queues := rfl
@[simp] theorem State.setIslet_rings (s : State) (n : Nat) (v : Islet) : (s.setIslet n v).rings = s.rings := rfl
@[simp] theorem State.setIslet_nums (s : State) (n : Nat) (v : Islet) : (s.setIslet n v).nums = s.nums := rfl
@[simp] theorem State.setIslet_parts (s : State) (n : Nat) (v : Islet) : (s.setIslet n v).parts = s.parts := rfl
@[simp] theorem State.setIslet_owners (s : State) (n : Nat) (v : Islet) : (s.setIslet n v).owners = s.owners := rfl
@[simp] theorem State.setIslet_frozen (s : State) (n : Nat) (v : Islet) : (s.setIslet n v).frozen = s.frozen := rfl
@[simp] theorem State.setIslet_keys (s : State) (n : Nat) (v : Islet) : (s.setIslet n v).keys = s.keys := rfl
@[simp] theorem State.setIslet_hbm (s : State) (n : Nat) (v : Islet) : (s.setIslet n v).hbm = s.hbm := rfl
@[simp] theorem State.setIslet_scratch (s : State) (n : Nat) (v : Islet) : (s.setIslet n v).scratch = s.scratch := rfl
@[simp] theorem State.setIslet_hbmPoison (s : State) (n : Nat) (v : Islet) : (s.setIslet n v).hbmPoison = s.hbmPoison := rfl
@[simp] theorem State.setIslet_spPoison (s : State) (n : Nat) (v : Islet) : (s.setIslet n v).spPoison = s.spPoison := rfl
@[simp] theorem State.setIslet_hbmErr (s : State) (n : Nat) (v : Islet) : (s.setIslet n v).hbmErr = s.hbmErr := rfl
@[simp] theorem State.setIslet_spErr (s : State) (n : Nat) (v : Islet) : (s.setIslet n v).spErr = s.spErr := rfl
@[simp] theorem State.setIslet_switches (s : State) (n : Nat) (v : Islet) : (s.setIslet n v).switches = s.switches := rfl
@[simp] theorem State.setIslet_ports (s : State) (n : Nat) (v : Islet) : (s.setIslet n v).ports = s.ports := rfl
@[simp] theorem State.setIslet_grants (s : State) (n : Nat) (v : Islet) : (s.setIslet n v).grants = s.grants := rfl
@[simp] theorem State.setIslet_xfers (s : State) (n : Nat) (v : Islet) : (s.setIslet n v).xfers = s.xfers := rfl
@[simp] theorem State.setIslet_nextXfer (s : State) (n : Nat) (v : Islet) : (s.setIslet n v).nextXfer = s.nextXfer := rfl
@[simp] theorem State.setIslet_remotes (s : State) (n : Nat) (v : Islet) : (s.setIslet n v).remotes = s.remotes := rfl
@[simp] theorem State.setIslet_caches (s : State) (n : Nat) (v : Islet) : (s.setIslet n v).caches = s.caches := rfl
@[simp] theorem State.setIslet_invQueue (s : State) (n : Nat) (v : Islet) : (s.setIslet n v).invQueue = s.invQueue := rfl
@[simp] theorem State.setIslet_lagoon (s : State) (n : Nat) (v : Islet) : (s.setIslet n v).lagoon = s.lagoon := rfl
@[simp] theorem State.setIslet_msixWord (s : State) (n : Nat) (v : Islet) : (s.setIslet n v).msixWord = s.msixWord := rfl
@[simp] theorem State.setIslet_msixOpen (s : State) (n : Nat) (v : Islet) : (s.setIslet n v).msixOpen = s.msixOpen := rfl
@[simp] theorem State.setIslet_msixPend (s : State) (n : Nat) (v : Islet) : (s.setIslet n v).msixPend = s.msixPend := rfl
@[simp] theorem State.setIslet_sessions (s : State) (n : Nat) (v : Islet) : (s.setIslet n v).sessions = s.sessions := rfl
@[simp] theorem State.setIslet_ideOn (s : State) (n : Nat) (v : Islet) : (s.setIslet n v).ideOn = s.ideOn := rfl
@[simp] theorem State.setIslet_lastRing (s : State) (n : Nat) (v : Islet) : (s.setIslet n v).lastRing = s.lastRing := rfl
@[simp] theorem State.setIslet_queue (s : State) (n : Nat) (v : Islet) (j : Nat) : (s.setIslet n v).queue j = s.queue j := rfl
@[simp] theorem State.setIslet_ring (s : State) (n : Nat) (v : Islet) (j : Nat) : (s.setIslet n v).ring j = s.ring j := rfl
@[simp] theorem State.setIslet_num (s : State) (n : Nat) (v : Islet) (j : Nat) : (s.setIslet n v).num j = s.num j := rfl
@[simp] theorem State.setIslet_part (s : State) (n : Nat) (v : Islet) (j : Nat) : (s.setIslet n v).part j = s.part j := rfl
@[simp] theorem State.setIslet_port (s : State) (n : Nat) (v : Islet) (j : Nat) : (s.setIslet n v).port j = s.port j := rfl
@[simp] theorem State.setIslet_domain (s : State) (n : Nat) (v : Islet) (j : Nat) : (s.setIslet n v).domain j = s.domain j := rfl
@[simp] theorem State.setIslet_xfer (s : State) (n : Nat) (v : Islet) (j : Nat) : (s.setIslet n v).xfer j = s.xfer j := rfl
@[simp] theorem State.setIslet_pin (s : State) (n : Nat) (v : Islet) (j : Nat) : (s.setIslet n v).pin j = s.pin j := rfl
@[simp] theorem State.setIslet_owner (s : State) (n : Nat) (v : Islet) (j : Nat) : (s.setIslet n v).owner j = s.owner j := rfl
@[simp] theorem State.setIslet_switchOf (s : State) (n : Nat) (v : Islet) (j : Nat) : (s.setIslet n v).switchOf j = s.switchOf j := rfl
@[simp] theorem State.setIslet_session (s : State) (n : Nat) (v : Islet) (j : Nat) : (s.setIslet n v).session j = s.session j := rfl
@[simp] theorem State.setIslet_lag (s : State) (n : Nat) (v : Islet) (j : Nat) : (s.setIslet n v).lag j = s.lag j := rfl
@[simp] theorem State.setIslet_cached (s : State) (n : Nat) (v : Islet) (j m : Nat) : (s.setIslet n v).cached j m = s.cached j m := rfl
@[simp] theorem State.setIslet_invs (s : State) (n : Nat) (v : Islet) (j : Nat) : (s.setIslet n v).invs j = s.invs j := rfl
@[simp] theorem State.setIslet_win (s : State) (n : Nat) (v : Islet) (j m : Nat) : (s.setIslet n v).win j m = s.win j m := rfl
@[simp] theorem State.setIslet_die (s : State) (n : Nat) (v : Islet) : (s.setIslet n v).die = s.die := rfl
@[simp] theorem State.setIslet_follower (s : State) (n : Nat) (v : Islet) : (s.setIslet n v).follower = s.follower := rfl
@[simp] theorem State.setIslet_config (s : State) (n : Nat) (v : Islet) (j : Nat) : (s.setIslet n v).config j = s.config j := rfl

/-! ### setNum -/

@[simp] theorem State.setNum_pending (s : State) (q : Nat) (v : Num) : (s.setNum q v).pending = s.pending := rfl
@[simp] theorem State.setNum_out (s : State) (q : Nat) (v : Num) : (s.setNum q v).out = s.out := rfl
@[simp] theorem State.setNum_freeCtr (s : State) (q : Nat) (v : Num) : (s.setNum q v).freeCtr = s.freeCtr := rfl
@[simp] theorem State.setNum_time (s : State) (q : Nat) (v : Num) : (s.setNum q v).time = s.time := rfl
@[simp] theorem State.setNum_secDone (s : State) (q : Nat) (v : Num) : (s.setNum q v).secDone = s.secDone := rfl
@[simp] theorem State.setNum_fuses (s : State) (q : Nat) (v : Num) : (s.setNum q v).fuses = s.fuses := rfl
@[simp] theorem State.setNum_hostFifo (s : State) (q : Nat) (v : Num) : (s.setNum q v).hostFifo = s.hostFifo := rfl
@[simp] theorem State.setNum_store (s : State) (q : Nat) (v : Num) : (s.setNum q v).store = s.store := rfl
@[simp] theorem State.setNum_romKey (s : State) (q : Nat) (v : Num) : (s.setNum q v).romKey = s.romKey := rfl
@[simp] theorem State.setNum_plru (s : State) (q : Nat) (v : Num) : (s.setNum q v).plru = s.plru := rfl
@[simp] theorem State.setNum_pcie (s : State) (q : Nat) (v : Num) : (s.setNum q v).pcie = s.pcie := rfl
@[simp] theorem State.setNum_ideKeys (s : State) (q : Nat) (v : Num) : (s.setNum q v).ideKeys = s.ideKeys := rfl
@[simp] theorem State.setNum_flash (s : State) (q : Nat) (v : Num) : (s.setNum q v).flash = s.flash := rfl
@[simp] theorem State.setNum_mgt (s : State) (q : Nat) (v : Num) : (s.setNum q v).mgt = s.mgt := rfl
@[simp] theorem State.setNum_boot (s : State) (q : Nat) (v : Num) : (s.setNum q v).boot = s.boot := rfl
@[simp] theorem State.setNum_power (s : State) (q : Nat) (v : Num) : (s.setNum q v).power = s.power := rfl
@[simp] theorem State.setNum_domains (s : State) (q : Nat) (v : Num) : (s.setNum q v).domains = s.domains := rfl
@[simp] theorem State.setNum_up (s : State) (q : Nat) (v : Num) : (s.setNum q v).up = s.up := rfl
@[simp] theorem State.setNum_bus (s : State) (q : Nat) (v : Num) : (s.setNum q v).bus = s.bus := rfl
@[simp] theorem State.setNum_gpio (s : State) (q : Nat) (v : Num) : (s.setNum q v).gpio = s.gpio := rfl
@[simp] theorem State.setNum_queues (s : State) (q : Nat) (v : Num) : (s.setNum q v).queues = s.queues := rfl
@[simp] theorem State.setNum_rings (s : State) (q : Nat) (v : Num) : (s.setNum q v).rings = s.rings := rfl
@[simp] theorem State.setNum_islets (s : State) (q : Nat) (v : Num) : (s.setNum q v).islets = s.islets := rfl
@[simp] theorem State.setNum_parts (s : State) (q : Nat) (v : Num) : (s.setNum q v).parts = s.parts := rfl
@[simp] theorem State.setNum_owners (s : State) (q : Nat) (v : Num) : (s.setNum q v).owners = s.owners := rfl
@[simp] theorem State.setNum_frozen (s : State) (q : Nat) (v : Num) : (s.setNum q v).frozen = s.frozen := rfl
@[simp] theorem State.setNum_keys (s : State) (q : Nat) (v : Num) : (s.setNum q v).keys = s.keys := rfl
@[simp] theorem State.setNum_hbm (s : State) (q : Nat) (v : Num) : (s.setNum q v).hbm = s.hbm := rfl
@[simp] theorem State.setNum_scratch (s : State) (q : Nat) (v : Num) : (s.setNum q v).scratch = s.scratch := rfl
@[simp] theorem State.setNum_hbmPoison (s : State) (q : Nat) (v : Num) : (s.setNum q v).hbmPoison = s.hbmPoison := rfl
@[simp] theorem State.setNum_spPoison (s : State) (q : Nat) (v : Num) : (s.setNum q v).spPoison = s.spPoison := rfl
@[simp] theorem State.setNum_hbmErr (s : State) (q : Nat) (v : Num) : (s.setNum q v).hbmErr = s.hbmErr := rfl
@[simp] theorem State.setNum_spErr (s : State) (q : Nat) (v : Num) : (s.setNum q v).spErr = s.spErr := rfl
@[simp] theorem State.setNum_switches (s : State) (q : Nat) (v : Num) : (s.setNum q v).switches = s.switches := rfl
@[simp] theorem State.setNum_ports (s : State) (q : Nat) (v : Num) : (s.setNum q v).ports = s.ports := rfl
@[simp] theorem State.setNum_grants (s : State) (q : Nat) (v : Num) : (s.setNum q v).grants = s.grants := rfl
@[simp] theorem State.setNum_xfers (s : State) (q : Nat) (v : Num) : (s.setNum q v).xfers = s.xfers := rfl
@[simp] theorem State.setNum_nextXfer (s : State) (q : Nat) (v : Num) : (s.setNum q v).nextXfer = s.nextXfer := rfl
@[simp] theorem State.setNum_remotes (s : State) (q : Nat) (v : Num) : (s.setNum q v).remotes = s.remotes := rfl
@[simp] theorem State.setNum_caches (s : State) (q : Nat) (v : Num) : (s.setNum q v).caches = s.caches := rfl
@[simp] theorem State.setNum_invQueue (s : State) (q : Nat) (v : Num) : (s.setNum q v).invQueue = s.invQueue := rfl
@[simp] theorem State.setNum_lagoon (s : State) (q : Nat) (v : Num) : (s.setNum q v).lagoon = s.lagoon := rfl
@[simp] theorem State.setNum_msixWord (s : State) (q : Nat) (v : Num) : (s.setNum q v).msixWord = s.msixWord := rfl
@[simp] theorem State.setNum_msixOpen (s : State) (q : Nat) (v : Num) : (s.setNum q v).msixOpen = s.msixOpen := rfl
@[simp] theorem State.setNum_msixPend (s : State) (q : Nat) (v : Num) : (s.setNum q v).msixPend = s.msixPend := rfl
@[simp] theorem State.setNum_sessions (s : State) (q : Nat) (v : Num) : (s.setNum q v).sessions = s.sessions := rfl
@[simp] theorem State.setNum_ideOn (s : State) (q : Nat) (v : Num) : (s.setNum q v).ideOn = s.ideOn := rfl
@[simp] theorem State.setNum_lastRing (s : State) (q : Nat) (v : Num) : (s.setNum q v).lastRing = s.lastRing := rfl
@[simp] theorem State.setNum_queue (s : State) (q : Nat) (v : Num) (j : Nat) : (s.setNum q v).queue j = s.queue j := rfl
@[simp] theorem State.setNum_ring (s : State) (q : Nat) (v : Num) (j : Nat) : (s.setNum q v).ring j = s.ring j := rfl
@[simp] theorem State.setNum_islet (s : State) (q : Nat) (v : Num) (j : Nat) : (s.setNum q v).islet j = s.islet j := rfl
@[simp] theorem State.setNum_part (s : State) (q : Nat) (v : Num) (j : Nat) : (s.setNum q v).part j = s.part j := rfl
@[simp] theorem State.setNum_port (s : State) (q : Nat) (v : Num) (j : Nat) : (s.setNum q v).port j = s.port j := rfl
@[simp] theorem State.setNum_domain (s : State) (q : Nat) (v : Num) (j : Nat) : (s.setNum q v).domain j = s.domain j := rfl
@[simp] theorem State.setNum_xfer (s : State) (q : Nat) (v : Num) (j : Nat) : (s.setNum q v).xfer j = s.xfer j := rfl
@[simp] theorem State.setNum_pin (s : State) (q : Nat) (v : Num) (j : Nat) : (s.setNum q v).pin j = s.pin j := rfl
@[simp] theorem State.setNum_owner (s : State) (q : Nat) (v : Num) (j : Nat) : (s.setNum q v).owner j = s.owner j := rfl
@[simp] theorem State.setNum_switchOf (s : State) (q : Nat) (v : Num) (j : Nat) : (s.setNum q v).switchOf j = s.switchOf j := rfl
@[simp] theorem State.setNum_session (s : State) (q : Nat) (v : Num) (j : Nat) : (s.setNum q v).session j = s.session j := rfl
@[simp] theorem State.setNum_lag (s : State) (q : Nat) (v : Num) (j : Nat) : (s.setNum q v).lag j = s.lag j := rfl
@[simp] theorem State.setNum_cached (s : State) (q : Nat) (v : Num) (j m : Nat) : (s.setNum q v).cached j m = s.cached j m := rfl
@[simp] theorem State.setNum_invs (s : State) (q : Nat) (v : Num) (j : Nat) : (s.setNum q v).invs j = s.invs j := rfl
@[simp] theorem State.setNum_win (s : State) (q : Nat) (v : Num) (j m : Nat) : (s.setNum q v).win j m = s.win j m := rfl
@[simp] theorem State.setNum_die (s : State) (q : Nat) (v : Num) : (s.setNum q v).die = s.die := rfl
@[simp] theorem State.setNum_follower (s : State) (q : Nat) (v : Num) : (s.setNum q v).follower = s.follower := rfl
@[simp] theorem State.setNum_config (s : State) (q : Nat) (v : Num) (j : Nat) : (s.setNum q v).config j = s.config j := rfl

/-! ### setPart -/

@[simp] theorem State.setPart_pending (s : State) (p : Nat) (v : Part) : (s.setPart p v).pending = s.pending := rfl
@[simp] theorem State.setPart_out (s : State) (p : Nat) (v : Part) : (s.setPart p v).out = s.out := rfl
@[simp] theorem State.setPart_freeCtr (s : State) (p : Nat) (v : Part) : (s.setPart p v).freeCtr = s.freeCtr := rfl
@[simp] theorem State.setPart_time (s : State) (p : Nat) (v : Part) : (s.setPart p v).time = s.time := rfl
@[simp] theorem State.setPart_secDone (s : State) (p : Nat) (v : Part) : (s.setPart p v).secDone = s.secDone := rfl
@[simp] theorem State.setPart_fuses (s : State) (p : Nat) (v : Part) : (s.setPart p v).fuses = s.fuses := rfl
@[simp] theorem State.setPart_hostFifo (s : State) (p : Nat) (v : Part) : (s.setPart p v).hostFifo = s.hostFifo := rfl
@[simp] theorem State.setPart_store (s : State) (p : Nat) (v : Part) : (s.setPart p v).store = s.store := rfl
@[simp] theorem State.setPart_romKey (s : State) (p : Nat) (v : Part) : (s.setPart p v).romKey = s.romKey := rfl
@[simp] theorem State.setPart_plru (s : State) (p : Nat) (v : Part) : (s.setPart p v).plru = s.plru := rfl
@[simp] theorem State.setPart_pcie (s : State) (p : Nat) (v : Part) : (s.setPart p v).pcie = s.pcie := rfl
@[simp] theorem State.setPart_ideKeys (s : State) (p : Nat) (v : Part) : (s.setPart p v).ideKeys = s.ideKeys := rfl
@[simp] theorem State.setPart_flash (s : State) (p : Nat) (v : Part) : (s.setPart p v).flash = s.flash := rfl
@[simp] theorem State.setPart_mgt (s : State) (p : Nat) (v : Part) : (s.setPart p v).mgt = s.mgt := rfl
@[simp] theorem State.setPart_boot (s : State) (p : Nat) (v : Part) : (s.setPart p v).boot = s.boot := rfl
@[simp] theorem State.setPart_power (s : State) (p : Nat) (v : Part) : (s.setPart p v).power = s.power := rfl
@[simp] theorem State.setPart_domains (s : State) (p : Nat) (v : Part) : (s.setPart p v).domains = s.domains := rfl
@[simp] theorem State.setPart_up (s : State) (p : Nat) (v : Part) : (s.setPart p v).up = s.up := rfl
@[simp] theorem State.setPart_bus (s : State) (p : Nat) (v : Part) : (s.setPart p v).bus = s.bus := rfl
@[simp] theorem State.setPart_gpio (s : State) (p : Nat) (v : Part) : (s.setPart p v).gpio = s.gpio := rfl
@[simp] theorem State.setPart_queues (s : State) (p : Nat) (v : Part) : (s.setPart p v).queues = s.queues := rfl
@[simp] theorem State.setPart_rings (s : State) (p : Nat) (v : Part) : (s.setPart p v).rings = s.rings := rfl
@[simp] theorem State.setPart_islets (s : State) (p : Nat) (v : Part) : (s.setPart p v).islets = s.islets := rfl
@[simp] theorem State.setPart_nums (s : State) (p : Nat) (v : Part) : (s.setPart p v).nums = s.nums := rfl
@[simp] theorem State.setPart_owners (s : State) (p : Nat) (v : Part) : (s.setPart p v).owners = s.owners := rfl
@[simp] theorem State.setPart_frozen (s : State) (p : Nat) (v : Part) : (s.setPart p v).frozen = s.frozen := rfl
@[simp] theorem State.setPart_keys (s : State) (p : Nat) (v : Part) : (s.setPart p v).keys = s.keys := rfl
@[simp] theorem State.setPart_hbm (s : State) (p : Nat) (v : Part) : (s.setPart p v).hbm = s.hbm := rfl
@[simp] theorem State.setPart_scratch (s : State) (p : Nat) (v : Part) : (s.setPart p v).scratch = s.scratch := rfl
@[simp] theorem State.setPart_hbmPoison (s : State) (p : Nat) (v : Part) : (s.setPart p v).hbmPoison = s.hbmPoison := rfl
@[simp] theorem State.setPart_spPoison (s : State) (p : Nat) (v : Part) : (s.setPart p v).spPoison = s.spPoison := rfl
@[simp] theorem State.setPart_hbmErr (s : State) (p : Nat) (v : Part) : (s.setPart p v).hbmErr = s.hbmErr := rfl
@[simp] theorem State.setPart_spErr (s : State) (p : Nat) (v : Part) : (s.setPart p v).spErr = s.spErr := rfl
@[simp] theorem State.setPart_switches (s : State) (p : Nat) (v : Part) : (s.setPart p v).switches = s.switches := rfl
@[simp] theorem State.setPart_ports (s : State) (p : Nat) (v : Part) : (s.setPart p v).ports = s.ports := rfl
@[simp] theorem State.setPart_grants (s : State) (p : Nat) (v : Part) : (s.setPart p v).grants = s.grants := rfl
@[simp] theorem State.setPart_xfers (s : State) (p : Nat) (v : Part) : (s.setPart p v).xfers = s.xfers := rfl
@[simp] theorem State.setPart_nextXfer (s : State) (p : Nat) (v : Part) : (s.setPart p v).nextXfer = s.nextXfer := rfl
@[simp] theorem State.setPart_remotes (s : State) (p : Nat) (v : Part) : (s.setPart p v).remotes = s.remotes := rfl
@[simp] theorem State.setPart_caches (s : State) (p : Nat) (v : Part) : (s.setPart p v).caches = s.caches := rfl
@[simp] theorem State.setPart_invQueue (s : State) (p : Nat) (v : Part) : (s.setPart p v).invQueue = s.invQueue := rfl
@[simp] theorem State.setPart_lagoon (s : State) (p : Nat) (v : Part) : (s.setPart p v).lagoon = s.lagoon := rfl
@[simp] theorem State.setPart_msixWord (s : State) (p : Nat) (v : Part) : (s.setPart p v).msixWord = s.msixWord := rfl
@[simp] theorem State.setPart_msixOpen (s : State) (p : Nat) (v : Part) : (s.setPart p v).msixOpen = s.msixOpen := rfl
@[simp] theorem State.setPart_msixPend (s : State) (p : Nat) (v : Part) : (s.setPart p v).msixPend = s.msixPend := rfl
@[simp] theorem State.setPart_sessions (s : State) (p : Nat) (v : Part) : (s.setPart p v).sessions = s.sessions := rfl
@[simp] theorem State.setPart_ideOn (s : State) (p : Nat) (v : Part) : (s.setPart p v).ideOn = s.ideOn := rfl
@[simp] theorem State.setPart_lastRing (s : State) (p : Nat) (v : Part) : (s.setPart p v).lastRing = s.lastRing := rfl
@[simp] theorem State.setPart_queue (s : State) (p : Nat) (v : Part) (j : Nat) : (s.setPart p v).queue j = s.queue j := rfl
@[simp] theorem State.setPart_ring (s : State) (p : Nat) (v : Part) (j : Nat) : (s.setPart p v).ring j = s.ring j := rfl
@[simp] theorem State.setPart_islet (s : State) (p : Nat) (v : Part) (j : Nat) : (s.setPart p v).islet j = s.islet j := rfl
@[simp] theorem State.setPart_num (s : State) (p : Nat) (v : Part) (j : Nat) : (s.setPart p v).num j = s.num j := rfl
@[simp] theorem State.setPart_port (s : State) (p : Nat) (v : Part) (j : Nat) : (s.setPart p v).port j = s.port j := rfl
@[simp] theorem State.setPart_domain (s : State) (p : Nat) (v : Part) (j : Nat) : (s.setPart p v).domain j = s.domain j := rfl
@[simp] theorem State.setPart_xfer (s : State) (p : Nat) (v : Part) (j : Nat) : (s.setPart p v).xfer j = s.xfer j := rfl
@[simp] theorem State.setPart_pin (s : State) (p : Nat) (v : Part) (j : Nat) : (s.setPart p v).pin j = s.pin j := rfl
@[simp] theorem State.setPart_owner (s : State) (p : Nat) (v : Part) (j : Nat) : (s.setPart p v).owner j = s.owner j := rfl
@[simp] theorem State.setPart_switchOf (s : State) (p : Nat) (v : Part) (j : Nat) : (s.setPart p v).switchOf j = s.switchOf j := rfl
@[simp] theorem State.setPart_session (s : State) (p : Nat) (v : Part) (j : Nat) : (s.setPart p v).session j = s.session j := rfl
@[simp] theorem State.setPart_lag (s : State) (p : Nat) (v : Part) (j : Nat) : (s.setPart p v).lag j = s.lag j := rfl
@[simp] theorem State.setPart_cached (s : State) (p : Nat) (v : Part) (j m : Nat) : (s.setPart p v).cached j m = s.cached j m := rfl
@[simp] theorem State.setPart_invs (s : State) (p : Nat) (v : Part) (j : Nat) : (s.setPart p v).invs j = s.invs j := rfl
@[simp] theorem State.setPart_die (s : State) (p : Nat) (v : Part) : (s.setPart p v).die = s.die := rfl
@[simp] theorem State.setPart_follower (s : State) (p : Nat) (v : Part) : (s.setPart p v).follower = s.follower := rfl
@[simp] theorem State.setPart_config (s : State) (p : Nat) (v : Part) (j : Nat) : (s.setPart p v).config j = s.config j := rfl

/-! ### setPort -/

@[simp] theorem State.setPort_pending (s : State) (p : Nat) (v : Port) : (s.setPort p v).pending = s.pending := rfl
@[simp] theorem State.setPort_out (s : State) (p : Nat) (v : Port) : (s.setPort p v).out = s.out := rfl
@[simp] theorem State.setPort_freeCtr (s : State) (p : Nat) (v : Port) : (s.setPort p v).freeCtr = s.freeCtr := rfl
@[simp] theorem State.setPort_time (s : State) (p : Nat) (v : Port) : (s.setPort p v).time = s.time := rfl
@[simp] theorem State.setPort_secDone (s : State) (p : Nat) (v : Port) : (s.setPort p v).secDone = s.secDone := rfl
@[simp] theorem State.setPort_fuses (s : State) (p : Nat) (v : Port) : (s.setPort p v).fuses = s.fuses := rfl
@[simp] theorem State.setPort_hostFifo (s : State) (p : Nat) (v : Port) : (s.setPort p v).hostFifo = s.hostFifo := rfl
@[simp] theorem State.setPort_store (s : State) (p : Nat) (v : Port) : (s.setPort p v).store = s.store := rfl
@[simp] theorem State.setPort_romKey (s : State) (p : Nat) (v : Port) : (s.setPort p v).romKey = s.romKey := rfl
@[simp] theorem State.setPort_plru (s : State) (p : Nat) (v : Port) : (s.setPort p v).plru = s.plru := rfl
@[simp] theorem State.setPort_pcie (s : State) (p : Nat) (v : Port) : (s.setPort p v).pcie = s.pcie := rfl
@[simp] theorem State.setPort_ideKeys (s : State) (p : Nat) (v : Port) : (s.setPort p v).ideKeys = s.ideKeys := rfl
@[simp] theorem State.setPort_flash (s : State) (p : Nat) (v : Port) : (s.setPort p v).flash = s.flash := rfl
@[simp] theorem State.setPort_mgt (s : State) (p : Nat) (v : Port) : (s.setPort p v).mgt = s.mgt := rfl
@[simp] theorem State.setPort_boot (s : State) (p : Nat) (v : Port) : (s.setPort p v).boot = s.boot := rfl
@[simp] theorem State.setPort_power (s : State) (p : Nat) (v : Port) : (s.setPort p v).power = s.power := rfl
@[simp] theorem State.setPort_domains (s : State) (p : Nat) (v : Port) : (s.setPort p v).domains = s.domains := rfl
@[simp] theorem State.setPort_up (s : State) (p : Nat) (v : Port) : (s.setPort p v).up = s.up := rfl
@[simp] theorem State.setPort_bus (s : State) (p : Nat) (v : Port) : (s.setPort p v).bus = s.bus := rfl
@[simp] theorem State.setPort_gpio (s : State) (p : Nat) (v : Port) : (s.setPort p v).gpio = s.gpio := rfl
@[simp] theorem State.setPort_queues (s : State) (p : Nat) (v : Port) : (s.setPort p v).queues = s.queues := rfl
@[simp] theorem State.setPort_rings (s : State) (p : Nat) (v : Port) : (s.setPort p v).rings = s.rings := rfl
@[simp] theorem State.setPort_islets (s : State) (p : Nat) (v : Port) : (s.setPort p v).islets = s.islets := rfl
@[simp] theorem State.setPort_nums (s : State) (p : Nat) (v : Port) : (s.setPort p v).nums = s.nums := rfl
@[simp] theorem State.setPort_parts (s : State) (p : Nat) (v : Port) : (s.setPort p v).parts = s.parts := rfl
@[simp] theorem State.setPort_owners (s : State) (p : Nat) (v : Port) : (s.setPort p v).owners = s.owners := rfl
@[simp] theorem State.setPort_frozen (s : State) (p : Nat) (v : Port) : (s.setPort p v).frozen = s.frozen := rfl
@[simp] theorem State.setPort_keys (s : State) (p : Nat) (v : Port) : (s.setPort p v).keys = s.keys := rfl
@[simp] theorem State.setPort_hbm (s : State) (p : Nat) (v : Port) : (s.setPort p v).hbm = s.hbm := rfl
@[simp] theorem State.setPort_scratch (s : State) (p : Nat) (v : Port) : (s.setPort p v).scratch = s.scratch := rfl
@[simp] theorem State.setPort_hbmPoison (s : State) (p : Nat) (v : Port) : (s.setPort p v).hbmPoison = s.hbmPoison := rfl
@[simp] theorem State.setPort_spPoison (s : State) (p : Nat) (v : Port) : (s.setPort p v).spPoison = s.spPoison := rfl
@[simp] theorem State.setPort_hbmErr (s : State) (p : Nat) (v : Port) : (s.setPort p v).hbmErr = s.hbmErr := rfl
@[simp] theorem State.setPort_spErr (s : State) (p : Nat) (v : Port) : (s.setPort p v).spErr = s.spErr := rfl
@[simp] theorem State.setPort_switches (s : State) (p : Nat) (v : Port) : (s.setPort p v).switches = s.switches := rfl
@[simp] theorem State.setPort_grants (s : State) (p : Nat) (v : Port) : (s.setPort p v).grants = s.grants := rfl
@[simp] theorem State.setPort_xfers (s : State) (p : Nat) (v : Port) : (s.setPort p v).xfers = s.xfers := rfl
@[simp] theorem State.setPort_nextXfer (s : State) (p : Nat) (v : Port) : (s.setPort p v).nextXfer = s.nextXfer := rfl
@[simp] theorem State.setPort_remotes (s : State) (p : Nat) (v : Port) : (s.setPort p v).remotes = s.remotes := rfl
@[simp] theorem State.setPort_caches (s : State) (p : Nat) (v : Port) : (s.setPort p v).caches = s.caches := rfl
@[simp] theorem State.setPort_invQueue (s : State) (p : Nat) (v : Port) : (s.setPort p v).invQueue = s.invQueue := rfl
@[simp] theorem State.setPort_lagoon (s : State) (p : Nat) (v : Port) : (s.setPort p v).lagoon = s.lagoon := rfl
@[simp] theorem State.setPort_msixWord (s : State) (p : Nat) (v : Port) : (s.setPort p v).msixWord = s.msixWord := rfl
@[simp] theorem State.setPort_msixOpen (s : State) (p : Nat) (v : Port) : (s.setPort p v).msixOpen = s.msixOpen := rfl
@[simp] theorem State.setPort_msixPend (s : State) (p : Nat) (v : Port) : (s.setPort p v).msixPend = s.msixPend := rfl
@[simp] theorem State.setPort_sessions (s : State) (p : Nat) (v : Port) : (s.setPort p v).sessions = s.sessions := rfl
@[simp] theorem State.setPort_ideOn (s : State) (p : Nat) (v : Port) : (s.setPort p v).ideOn = s.ideOn := rfl
@[simp] theorem State.setPort_lastRing (s : State) (p : Nat) (v : Port) : (s.setPort p v).lastRing = s.lastRing := rfl
@[simp] theorem State.setPort_queue (s : State) (p : Nat) (v : Port) (j : Nat) : (s.setPort p v).queue j = s.queue j := rfl
@[simp] theorem State.setPort_ring (s : State) (p : Nat) (v : Port) (j : Nat) : (s.setPort p v).ring j = s.ring j := rfl
@[simp] theorem State.setPort_islet (s : State) (p : Nat) (v : Port) (j : Nat) : (s.setPort p v).islet j = s.islet j := rfl
@[simp] theorem State.setPort_num (s : State) (p : Nat) (v : Port) (j : Nat) : (s.setPort p v).num j = s.num j := rfl
@[simp] theorem State.setPort_part (s : State) (p : Nat) (v : Port) (j : Nat) : (s.setPort p v).part j = s.part j := rfl
@[simp] theorem State.setPort_domain (s : State) (p : Nat) (v : Port) (j : Nat) : (s.setPort p v).domain j = s.domain j := rfl
@[simp] theorem State.setPort_xfer (s : State) (p : Nat) (v : Port) (j : Nat) : (s.setPort p v).xfer j = s.xfer j := rfl
@[simp] theorem State.setPort_pin (s : State) (p : Nat) (v : Port) (j : Nat) : (s.setPort p v).pin j = s.pin j := rfl
@[simp] theorem State.setPort_owner (s : State) (p : Nat) (v : Port) (j : Nat) : (s.setPort p v).owner j = s.owner j := rfl
@[simp] theorem State.setPort_switchOf (s : State) (p : Nat) (v : Port) (j : Nat) : (s.setPort p v).switchOf j = s.switchOf j := rfl
@[simp] theorem State.setPort_session (s : State) (p : Nat) (v : Port) (j : Nat) : (s.setPort p v).session j = s.session j := rfl
@[simp] theorem State.setPort_lag (s : State) (p : Nat) (v : Port) (j : Nat) : (s.setPort p v).lag j = s.lag j := rfl
@[simp] theorem State.setPort_cached (s : State) (p : Nat) (v : Port) (j m : Nat) : (s.setPort p v).cached j m = s.cached j m := rfl
@[simp] theorem State.setPort_invs (s : State) (p : Nat) (v : Port) (j : Nat) : (s.setPort p v).invs j = s.invs j := rfl
@[simp] theorem State.setPort_win (s : State) (p : Nat) (v : Port) (j m : Nat) : (s.setPort p v).win j m = s.win j m := rfl
@[simp] theorem State.setPort_die (s : State) (p : Nat) (v : Port) : (s.setPort p v).die = s.die := rfl
@[simp] theorem State.setPort_follower (s : State) (p : Nat) (v : Port) : (s.setPort p v).follower = s.follower := rfl
@[simp] theorem State.setPort_config (s : State) (p : Nat) (v : Port) (j : Nat) : (s.setPort p v).config j = s.config j := rfl

/-! ### setDomain -/

@[simp] theorem State.setDomain_pending (s : State) (d : Nat) (v : Domain) : (s.setDomain d v).pending = s.pending := rfl
@[simp] theorem State.setDomain_out (s : State) (d : Nat) (v : Domain) : (s.setDomain d v).out = s.out := rfl
@[simp] theorem State.setDomain_freeCtr (s : State) (d : Nat) (v : Domain) : (s.setDomain d v).freeCtr = s.freeCtr := rfl
@[simp] theorem State.setDomain_time (s : State) (d : Nat) (v : Domain) : (s.setDomain d v).time = s.time := rfl
@[simp] theorem State.setDomain_secDone (s : State) (d : Nat) (v : Domain) : (s.setDomain d v).secDone = s.secDone := rfl
@[simp] theorem State.setDomain_fuses (s : State) (d : Nat) (v : Domain) : (s.setDomain d v).fuses = s.fuses := rfl
@[simp] theorem State.setDomain_hostFifo (s : State) (d : Nat) (v : Domain) : (s.setDomain d v).hostFifo = s.hostFifo := rfl
@[simp] theorem State.setDomain_store (s : State) (d : Nat) (v : Domain) : (s.setDomain d v).store = s.store := rfl
@[simp] theorem State.setDomain_romKey (s : State) (d : Nat) (v : Domain) : (s.setDomain d v).romKey = s.romKey := rfl
@[simp] theorem State.setDomain_plru (s : State) (d : Nat) (v : Domain) : (s.setDomain d v).plru = s.plru := rfl
@[simp] theorem State.setDomain_pcie (s : State) (d : Nat) (v : Domain) : (s.setDomain d v).pcie = s.pcie := rfl
@[simp] theorem State.setDomain_ideKeys (s : State) (d : Nat) (v : Domain) : (s.setDomain d v).ideKeys = s.ideKeys := rfl
@[simp] theorem State.setDomain_flash (s : State) (d : Nat) (v : Domain) : (s.setDomain d v).flash = s.flash := rfl
@[simp] theorem State.setDomain_mgt (s : State) (d : Nat) (v : Domain) : (s.setDomain d v).mgt = s.mgt := rfl
@[simp] theorem State.setDomain_boot (s : State) (d : Nat) (v : Domain) : (s.setDomain d v).boot = s.boot := rfl
@[simp] theorem State.setDomain_power (s : State) (d : Nat) (v : Domain) : (s.setDomain d v).power = s.power := rfl
@[simp] theorem State.setDomain_up (s : State) (d : Nat) (v : Domain) : (s.setDomain d v).up = s.up := rfl
@[simp] theorem State.setDomain_bus (s : State) (d : Nat) (v : Domain) : (s.setDomain d v).bus = s.bus := rfl
@[simp] theorem State.setDomain_gpio (s : State) (d : Nat) (v : Domain) : (s.setDomain d v).gpio = s.gpio := rfl
@[simp] theorem State.setDomain_queues (s : State) (d : Nat) (v : Domain) : (s.setDomain d v).queues = s.queues := rfl
@[simp] theorem State.setDomain_rings (s : State) (d : Nat) (v : Domain) : (s.setDomain d v).rings = s.rings := rfl
@[simp] theorem State.setDomain_islets (s : State) (d : Nat) (v : Domain) : (s.setDomain d v).islets = s.islets := rfl
@[simp] theorem State.setDomain_nums (s : State) (d : Nat) (v : Domain) : (s.setDomain d v).nums = s.nums := rfl
@[simp] theorem State.setDomain_parts (s : State) (d : Nat) (v : Domain) : (s.setDomain d v).parts = s.parts := rfl
@[simp] theorem State.setDomain_owners (s : State) (d : Nat) (v : Domain) : (s.setDomain d v).owners = s.owners := rfl
@[simp] theorem State.setDomain_frozen (s : State) (d : Nat) (v : Domain) : (s.setDomain d v).frozen = s.frozen := rfl
@[simp] theorem State.setDomain_keys (s : State) (d : Nat) (v : Domain) : (s.setDomain d v).keys = s.keys := rfl
@[simp] theorem State.setDomain_hbm (s : State) (d : Nat) (v : Domain) : (s.setDomain d v).hbm = s.hbm := rfl
@[simp] theorem State.setDomain_scratch (s : State) (d : Nat) (v : Domain) : (s.setDomain d v).scratch = s.scratch := rfl
@[simp] theorem State.setDomain_hbmPoison (s : State) (d : Nat) (v : Domain) : (s.setDomain d v).hbmPoison = s.hbmPoison := rfl
@[simp] theorem State.setDomain_spPoison (s : State) (d : Nat) (v : Domain) : (s.setDomain d v).spPoison = s.spPoison := rfl
@[simp] theorem State.setDomain_hbmErr (s : State) (d : Nat) (v : Domain) : (s.setDomain d v).hbmErr = s.hbmErr := rfl
@[simp] theorem State.setDomain_spErr (s : State) (d : Nat) (v : Domain) : (s.setDomain d v).spErr = s.spErr := rfl
@[simp] theorem State.setDomain_switches (s : State) (d : Nat) (v : Domain) : (s.setDomain d v).switches = s.switches := rfl
@[simp] theorem State.setDomain_ports (s : State) (d : Nat) (v : Domain) : (s.setDomain d v).ports = s.ports := rfl
@[simp] theorem State.setDomain_grants (s : State) (d : Nat) (v : Domain) : (s.setDomain d v).grants = s.grants := rfl
@[simp] theorem State.setDomain_xfers (s : State) (d : Nat) (v : Domain) : (s.setDomain d v).xfers = s.xfers := rfl
@[simp] theorem State.setDomain_nextXfer (s : State) (d : Nat) (v : Domain) : (s.setDomain d v).nextXfer = s.nextXfer := rfl
@[simp] theorem State.setDomain_remotes (s : State) (d : Nat) (v : Domain) : (s.setDomain d v).remotes = s.remotes := rfl
@[simp] theorem State.setDomain_caches (s : State) (d : Nat) (v : Domain) : (s.setDomain d v).caches = s.caches := rfl
@[simp] theorem State.setDomain_invQueue (s : State) (d : Nat) (v : Domain) : (s.setDomain d v).invQueue = s.invQueue := rfl
@[simp] theorem State.setDomain_lagoon (s : State) (d : Nat) (v : Domain) : (s.setDomain d v).lagoon = s.lagoon := rfl
@[simp] theorem State.setDomain_msixWord (s : State) (d : Nat) (v : Domain) : (s.setDomain d v).msixWord = s.msixWord := rfl
@[simp] theorem State.setDomain_msixOpen (s : State) (d : Nat) (v : Domain) : (s.setDomain d v).msixOpen = s.msixOpen := rfl
@[simp] theorem State.setDomain_msixPend (s : State) (d : Nat) (v : Domain) : (s.setDomain d v).msixPend = s.msixPend := rfl
@[simp] theorem State.setDomain_sessions (s : State) (d : Nat) (v : Domain) : (s.setDomain d v).sessions = s.sessions := rfl
@[simp] theorem State.setDomain_ideOn (s : State) (d : Nat) (v : Domain) : (s.setDomain d v).ideOn = s.ideOn := rfl
@[simp] theorem State.setDomain_lastRing (s : State) (d : Nat) (v : Domain) : (s.setDomain d v).lastRing = s.lastRing := rfl
@[simp] theorem State.setDomain_queue (s : State) (d : Nat) (v : Domain) (j : Nat) : (s.setDomain d v).queue j = s.queue j := rfl
@[simp] theorem State.setDomain_ring (s : State) (d : Nat) (v : Domain) (j : Nat) : (s.setDomain d v).ring j = s.ring j := rfl
@[simp] theorem State.setDomain_islet (s : State) (d : Nat) (v : Domain) (j : Nat) : (s.setDomain d v).islet j = s.islet j := rfl
@[simp] theorem State.setDomain_num (s : State) (d : Nat) (v : Domain) (j : Nat) : (s.setDomain d v).num j = s.num j := rfl
@[simp] theorem State.setDomain_part (s : State) (d : Nat) (v : Domain) (j : Nat) : (s.setDomain d v).part j = s.part j := rfl
@[simp] theorem State.setDomain_port (s : State) (d : Nat) (v : Domain) (j : Nat) : (s.setDomain d v).port j = s.port j := rfl
@[simp] theorem State.setDomain_xfer (s : State) (d : Nat) (v : Domain) (j : Nat) : (s.setDomain d v).xfer j = s.xfer j := rfl
@[simp] theorem State.setDomain_pin (s : State) (d : Nat) (v : Domain) (j : Nat) : (s.setDomain d v).pin j = s.pin j := rfl
@[simp] theorem State.setDomain_owner (s : State) (d : Nat) (v : Domain) (j : Nat) : (s.setDomain d v).owner j = s.owner j := rfl
@[simp] theorem State.setDomain_switchOf (s : State) (d : Nat) (v : Domain) (j : Nat) : (s.setDomain d v).switchOf j = s.switchOf j := rfl
@[simp] theorem State.setDomain_session (s : State) (d : Nat) (v : Domain) (j : Nat) : (s.setDomain d v).session j = s.session j := rfl
@[simp] theorem State.setDomain_lag (s : State) (d : Nat) (v : Domain) (j : Nat) : (s.setDomain d v).lag j = s.lag j := rfl
@[simp] theorem State.setDomain_cached (s : State) (d : Nat) (v : Domain) (j m : Nat) : (s.setDomain d v).cached j m = s.cached j m := rfl
@[simp] theorem State.setDomain_invs (s : State) (d : Nat) (v : Domain) (j : Nat) : (s.setDomain d v).invs j = s.invs j := rfl
@[simp] theorem State.setDomain_win (s : State) (d : Nat) (v : Domain) (j m : Nat) : (s.setDomain d v).win j m = s.win j m := rfl
@[simp] theorem State.setDomain_die (s : State) (d : Nat) (v : Domain) : (s.setDomain d v).die = s.die := rfl
@[simp] theorem State.setDomain_follower (s : State) (d : Nat) (v : Domain) : (s.setDomain d v).follower = s.follower := rfl
@[simp] theorem State.setDomain_config (s : State) (d : Nat) (v : Domain) (j : Nat) : (s.setDomain d v).config j = s.config j := rfl

/-! ### setXfer -/

@[simp] theorem State.setXfer_pending (s : State) (x : Nat) (v : Xfer) : (s.setXfer x v).pending = s.pending := rfl
@[simp] theorem State.setXfer_out (s : State) (x : Nat) (v : Xfer) : (s.setXfer x v).out = s.out := rfl
@[simp] theorem State.setXfer_freeCtr (s : State) (x : Nat) (v : Xfer) : (s.setXfer x v).freeCtr = s.freeCtr := rfl
@[simp] theorem State.setXfer_time (s : State) (x : Nat) (v : Xfer) : (s.setXfer x v).time = s.time := rfl
@[simp] theorem State.setXfer_secDone (s : State) (x : Nat) (v : Xfer) : (s.setXfer x v).secDone = s.secDone := rfl
@[simp] theorem State.setXfer_fuses (s : State) (x : Nat) (v : Xfer) : (s.setXfer x v).fuses = s.fuses := rfl
@[simp] theorem State.setXfer_hostFifo (s : State) (x : Nat) (v : Xfer) : (s.setXfer x v).hostFifo = s.hostFifo := rfl
@[simp] theorem State.setXfer_store (s : State) (x : Nat) (v : Xfer) : (s.setXfer x v).store = s.store := rfl
@[simp] theorem State.setXfer_romKey (s : State) (x : Nat) (v : Xfer) : (s.setXfer x v).romKey = s.romKey := rfl
@[simp] theorem State.setXfer_plru (s : State) (x : Nat) (v : Xfer) : (s.setXfer x v).plru = s.plru := rfl
@[simp] theorem State.setXfer_pcie (s : State) (x : Nat) (v : Xfer) : (s.setXfer x v).pcie = s.pcie := rfl
@[simp] theorem State.setXfer_ideKeys (s : State) (x : Nat) (v : Xfer) : (s.setXfer x v).ideKeys = s.ideKeys := rfl
@[simp] theorem State.setXfer_flash (s : State) (x : Nat) (v : Xfer) : (s.setXfer x v).flash = s.flash := rfl
@[simp] theorem State.setXfer_mgt (s : State) (x : Nat) (v : Xfer) : (s.setXfer x v).mgt = s.mgt := rfl
@[simp] theorem State.setXfer_boot (s : State) (x : Nat) (v : Xfer) : (s.setXfer x v).boot = s.boot := rfl
@[simp] theorem State.setXfer_power (s : State) (x : Nat) (v : Xfer) : (s.setXfer x v).power = s.power := rfl
@[simp] theorem State.setXfer_domains (s : State) (x : Nat) (v : Xfer) : (s.setXfer x v).domains = s.domains := rfl
@[simp] theorem State.setXfer_up (s : State) (x : Nat) (v : Xfer) : (s.setXfer x v).up = s.up := rfl
@[simp] theorem State.setXfer_bus (s : State) (x : Nat) (v : Xfer) : (s.setXfer x v).bus = s.bus := rfl
@[simp] theorem State.setXfer_gpio (s : State) (x : Nat) (v : Xfer) : (s.setXfer x v).gpio = s.gpio := rfl
@[simp] theorem State.setXfer_queues (s : State) (x : Nat) (v : Xfer) : (s.setXfer x v).queues = s.queues := rfl
@[simp] theorem State.setXfer_rings (s : State) (x : Nat) (v : Xfer) : (s.setXfer x v).rings = s.rings := rfl
@[simp] theorem State.setXfer_islets (s : State) (x : Nat) (v : Xfer) : (s.setXfer x v).islets = s.islets := rfl
@[simp] theorem State.setXfer_nums (s : State) (x : Nat) (v : Xfer) : (s.setXfer x v).nums = s.nums := rfl
@[simp] theorem State.setXfer_parts (s : State) (x : Nat) (v : Xfer) : (s.setXfer x v).parts = s.parts := rfl
@[simp] theorem State.setXfer_owners (s : State) (x : Nat) (v : Xfer) : (s.setXfer x v).owners = s.owners := rfl
@[simp] theorem State.setXfer_frozen (s : State) (x : Nat) (v : Xfer) : (s.setXfer x v).frozen = s.frozen := rfl
@[simp] theorem State.setXfer_keys (s : State) (x : Nat) (v : Xfer) : (s.setXfer x v).keys = s.keys := rfl
@[simp] theorem State.setXfer_hbm (s : State) (x : Nat) (v : Xfer) : (s.setXfer x v).hbm = s.hbm := rfl
@[simp] theorem State.setXfer_scratch (s : State) (x : Nat) (v : Xfer) : (s.setXfer x v).scratch = s.scratch := rfl
@[simp] theorem State.setXfer_hbmPoison (s : State) (x : Nat) (v : Xfer) : (s.setXfer x v).hbmPoison = s.hbmPoison := rfl
@[simp] theorem State.setXfer_spPoison (s : State) (x : Nat) (v : Xfer) : (s.setXfer x v).spPoison = s.spPoison := rfl
@[simp] theorem State.setXfer_hbmErr (s : State) (x : Nat) (v : Xfer) : (s.setXfer x v).hbmErr = s.hbmErr := rfl
@[simp] theorem State.setXfer_spErr (s : State) (x : Nat) (v : Xfer) : (s.setXfer x v).spErr = s.spErr := rfl
@[simp] theorem State.setXfer_switches (s : State) (x : Nat) (v : Xfer) : (s.setXfer x v).switches = s.switches := rfl
@[simp] theorem State.setXfer_ports (s : State) (x : Nat) (v : Xfer) : (s.setXfer x v).ports = s.ports := rfl
@[simp] theorem State.setXfer_grants (s : State) (x : Nat) (v : Xfer) : (s.setXfer x v).grants = s.grants := rfl
@[simp] theorem State.setXfer_nextXfer (s : State) (x : Nat) (v : Xfer) : (s.setXfer x v).nextXfer = s.nextXfer := rfl
@[simp] theorem State.setXfer_remotes (s : State) (x : Nat) (v : Xfer) : (s.setXfer x v).remotes = s.remotes := rfl
@[simp] theorem State.setXfer_caches (s : State) (x : Nat) (v : Xfer) : (s.setXfer x v).caches = s.caches := rfl
@[simp] theorem State.setXfer_invQueue (s : State) (x : Nat) (v : Xfer) : (s.setXfer x v).invQueue = s.invQueue := rfl
@[simp] theorem State.setXfer_lagoon (s : State) (x : Nat) (v : Xfer) : (s.setXfer x v).lagoon = s.lagoon := rfl
@[simp] theorem State.setXfer_msixWord (s : State) (x : Nat) (v : Xfer) : (s.setXfer x v).msixWord = s.msixWord := rfl
@[simp] theorem State.setXfer_msixOpen (s : State) (x : Nat) (v : Xfer) : (s.setXfer x v).msixOpen = s.msixOpen := rfl
@[simp] theorem State.setXfer_msixPend (s : State) (x : Nat) (v : Xfer) : (s.setXfer x v).msixPend = s.msixPend := rfl
@[simp] theorem State.setXfer_sessions (s : State) (x : Nat) (v : Xfer) : (s.setXfer x v).sessions = s.sessions := rfl
@[simp] theorem State.setXfer_ideOn (s : State) (x : Nat) (v : Xfer) : (s.setXfer x v).ideOn = s.ideOn := rfl
@[simp] theorem State.setXfer_lastRing (s : State) (x : Nat) (v : Xfer) : (s.setXfer x v).lastRing = s.lastRing := rfl
@[simp] theorem State.setXfer_queue (s : State) (x : Nat) (v : Xfer) (j : Nat) : (s.setXfer x v).queue j = s.queue j := rfl
@[simp] theorem State.setXfer_ring (s : State) (x : Nat) (v : Xfer) (j : Nat) : (s.setXfer x v).ring j = s.ring j := rfl
@[simp] theorem State.setXfer_islet (s : State) (x : Nat) (v : Xfer) (j : Nat) : (s.setXfer x v).islet j = s.islet j := rfl
@[simp] theorem State.setXfer_num (s : State) (x : Nat) (v : Xfer) (j : Nat) : (s.setXfer x v).num j = s.num j := rfl
@[simp] theorem State.setXfer_part (s : State) (x : Nat) (v : Xfer) (j : Nat) : (s.setXfer x v).part j = s.part j := rfl
@[simp] theorem State.setXfer_port (s : State) (x : Nat) (v : Xfer) (j : Nat) : (s.setXfer x v).port j = s.port j := rfl
@[simp] theorem State.setXfer_domain (s : State) (x : Nat) (v : Xfer) (j : Nat) : (s.setXfer x v).domain j = s.domain j := rfl
@[simp] theorem State.setXfer_pin (s : State) (x : Nat) (v : Xfer) (j : Nat) : (s.setXfer x v).pin j = s.pin j := rfl
@[simp] theorem State.setXfer_owner (s : State) (x : Nat) (v : Xfer) (j : Nat) : (s.setXfer x v).owner j = s.owner j := rfl
@[simp] theorem State.setXfer_switchOf (s : State) (x : Nat) (v : Xfer) (j : Nat) : (s.setXfer x v).switchOf j = s.switchOf j := rfl
@[simp] theorem State.setXfer_session (s : State) (x : Nat) (v : Xfer) (j : Nat) : (s.setXfer x v).session j = s.session j := rfl
@[simp] theorem State.setXfer_lag (s : State) (x : Nat) (v : Xfer) (j : Nat) : (s.setXfer x v).lag j = s.lag j := rfl
@[simp] theorem State.setXfer_cached (s : State) (x : Nat) (v : Xfer) (j m : Nat) : (s.setXfer x v).cached j m = s.cached j m := rfl
@[simp] theorem State.setXfer_invs (s : State) (x : Nat) (v : Xfer) (j : Nat) : (s.setXfer x v).invs j = s.invs j := rfl
@[simp] theorem State.setXfer_win (s : State) (x : Nat) (v : Xfer) (j m : Nat) : (s.setXfer x v).win j m = s.win j m := rfl
@[simp] theorem State.setXfer_die (s : State) (x : Nat) (v : Xfer) : (s.setXfer x v).die = s.die := rfl
@[simp] theorem State.setXfer_follower (s : State) (x : Nat) (v : Xfer) : (s.setXfer x v).follower = s.follower := rfl
@[simp] theorem State.setXfer_config (s : State) (x : Nat) (v : Xfer) (j : Nat) : (s.setXfer x v).config j = s.config j := rfl

/-! ### setPin -/

@[simp] theorem State.setPin_pending (s : State) (k : Nat) (v : Pin) : (s.setPin k v).pending = s.pending := rfl
@[simp] theorem State.setPin_out (s : State) (k : Nat) (v : Pin) : (s.setPin k v).out = s.out := rfl
@[simp] theorem State.setPin_freeCtr (s : State) (k : Nat) (v : Pin) : (s.setPin k v).freeCtr = s.freeCtr := rfl
@[simp] theorem State.setPin_time (s : State) (k : Nat) (v : Pin) : (s.setPin k v).time = s.time := rfl
@[simp] theorem State.setPin_secDone (s : State) (k : Nat) (v : Pin) : (s.setPin k v).secDone = s.secDone := rfl
@[simp] theorem State.setPin_fuses (s : State) (k : Nat) (v : Pin) : (s.setPin k v).fuses = s.fuses := rfl
@[simp] theorem State.setPin_hostFifo (s : State) (k : Nat) (v : Pin) : (s.setPin k v).hostFifo = s.hostFifo := rfl
@[simp] theorem State.setPin_store (s : State) (k : Nat) (v : Pin) : (s.setPin k v).store = s.store := rfl
@[simp] theorem State.setPin_romKey (s : State) (k : Nat) (v : Pin) : (s.setPin k v).romKey = s.romKey := rfl
@[simp] theorem State.setPin_plru (s : State) (k : Nat) (v : Pin) : (s.setPin k v).plru = s.plru := rfl
@[simp] theorem State.setPin_pcie (s : State) (k : Nat) (v : Pin) : (s.setPin k v).pcie = s.pcie := rfl
@[simp] theorem State.setPin_ideKeys (s : State) (k : Nat) (v : Pin) : (s.setPin k v).ideKeys = s.ideKeys := rfl
@[simp] theorem State.setPin_flash (s : State) (k : Nat) (v : Pin) : (s.setPin k v).flash = s.flash := rfl
@[simp] theorem State.setPin_mgt (s : State) (k : Nat) (v : Pin) : (s.setPin k v).mgt = s.mgt := rfl
@[simp] theorem State.setPin_boot (s : State) (k : Nat) (v : Pin) : (s.setPin k v).boot = s.boot := rfl
@[simp] theorem State.setPin_power (s : State) (k : Nat) (v : Pin) : (s.setPin k v).power = s.power := rfl
@[simp] theorem State.setPin_domains (s : State) (k : Nat) (v : Pin) : (s.setPin k v).domains = s.domains := rfl
@[simp] theorem State.setPin_up (s : State) (k : Nat) (v : Pin) : (s.setPin k v).up = s.up := rfl
@[simp] theorem State.setPin_bus (s : State) (k : Nat) (v : Pin) : (s.setPin k v).bus = s.bus := rfl
@[simp] theorem State.setPin_queues (s : State) (k : Nat) (v : Pin) : (s.setPin k v).queues = s.queues := rfl
@[simp] theorem State.setPin_rings (s : State) (k : Nat) (v : Pin) : (s.setPin k v).rings = s.rings := rfl
@[simp] theorem State.setPin_islets (s : State) (k : Nat) (v : Pin) : (s.setPin k v).islets = s.islets := rfl
@[simp] theorem State.setPin_nums (s : State) (k : Nat) (v : Pin) : (s.setPin k v).nums = s.nums := rfl
@[simp] theorem State.setPin_parts (s : State) (k : Nat) (v : Pin) : (s.setPin k v).parts = s.parts := rfl
@[simp] theorem State.setPin_owners (s : State) (k : Nat) (v : Pin) : (s.setPin k v).owners = s.owners := rfl
@[simp] theorem State.setPin_frozen (s : State) (k : Nat) (v : Pin) : (s.setPin k v).frozen = s.frozen := rfl
@[simp] theorem State.setPin_keys (s : State) (k : Nat) (v : Pin) : (s.setPin k v).keys = s.keys := rfl
@[simp] theorem State.setPin_hbm (s : State) (k : Nat) (v : Pin) : (s.setPin k v).hbm = s.hbm := rfl
@[simp] theorem State.setPin_scratch (s : State) (k : Nat) (v : Pin) : (s.setPin k v).scratch = s.scratch := rfl
@[simp] theorem State.setPin_hbmPoison (s : State) (k : Nat) (v : Pin) : (s.setPin k v).hbmPoison = s.hbmPoison := rfl
@[simp] theorem State.setPin_spPoison (s : State) (k : Nat) (v : Pin) : (s.setPin k v).spPoison = s.spPoison := rfl
@[simp] theorem State.setPin_hbmErr (s : State) (k : Nat) (v : Pin) : (s.setPin k v).hbmErr = s.hbmErr := rfl
@[simp] theorem State.setPin_spErr (s : State) (k : Nat) (v : Pin) : (s.setPin k v).spErr = s.spErr := rfl
@[simp] theorem State.setPin_switches (s : State) (k : Nat) (v : Pin) : (s.setPin k v).switches = s.switches := rfl
@[simp] theorem State.setPin_ports (s : State) (k : Nat) (v : Pin) : (s.setPin k v).ports = s.ports := rfl
@[simp] theorem State.setPin_grants (s : State) (k : Nat) (v : Pin) : (s.setPin k v).grants = s.grants := rfl
@[simp] theorem State.setPin_xfers (s : State) (k : Nat) (v : Pin) : (s.setPin k v).xfers = s.xfers := rfl
@[simp] theorem State.setPin_nextXfer (s : State) (k : Nat) (v : Pin) : (s.setPin k v).nextXfer = s.nextXfer := rfl
@[simp] theorem State.setPin_remotes (s : State) (k : Nat) (v : Pin) : (s.setPin k v).remotes = s.remotes := rfl
@[simp] theorem State.setPin_caches (s : State) (k : Nat) (v : Pin) : (s.setPin k v).caches = s.caches := rfl
@[simp] theorem State.setPin_invQueue (s : State) (k : Nat) (v : Pin) : (s.setPin k v).invQueue = s.invQueue := rfl
@[simp] theorem State.setPin_lagoon (s : State) (k : Nat) (v : Pin) : (s.setPin k v).lagoon = s.lagoon := rfl
@[simp] theorem State.setPin_msixWord (s : State) (k : Nat) (v : Pin) : (s.setPin k v).msixWord = s.msixWord := rfl
@[simp] theorem State.setPin_msixOpen (s : State) (k : Nat) (v : Pin) : (s.setPin k v).msixOpen = s.msixOpen := rfl
@[simp] theorem State.setPin_msixPend (s : State) (k : Nat) (v : Pin) : (s.setPin k v).msixPend = s.msixPend := rfl
@[simp] theorem State.setPin_sessions (s : State) (k : Nat) (v : Pin) : (s.setPin k v).sessions = s.sessions := rfl
@[simp] theorem State.setPin_ideOn (s : State) (k : Nat) (v : Pin) : (s.setPin k v).ideOn = s.ideOn := rfl
@[simp] theorem State.setPin_lastRing (s : State) (k : Nat) (v : Pin) : (s.setPin k v).lastRing = s.lastRing := rfl
@[simp] theorem State.setPin_queue (s : State) (k : Nat) (v : Pin) (j : Nat) : (s.setPin k v).queue j = s.queue j := rfl
@[simp] theorem State.setPin_ring (s : State) (k : Nat) (v : Pin) (j : Nat) : (s.setPin k v).ring j = s.ring j := rfl
@[simp] theorem State.setPin_islet (s : State) (k : Nat) (v : Pin) (j : Nat) : (s.setPin k v).islet j = s.islet j := rfl
@[simp] theorem State.setPin_num (s : State) (k : Nat) (v : Pin) (j : Nat) : (s.setPin k v).num j = s.num j := rfl
@[simp] theorem State.setPin_part (s : State) (k : Nat) (v : Pin) (j : Nat) : (s.setPin k v).part j = s.part j := rfl
@[simp] theorem State.setPin_port (s : State) (k : Nat) (v : Pin) (j : Nat) : (s.setPin k v).port j = s.port j := rfl
@[simp] theorem State.setPin_domain (s : State) (k : Nat) (v : Pin) (j : Nat) : (s.setPin k v).domain j = s.domain j := rfl
@[simp] theorem State.setPin_xfer (s : State) (k : Nat) (v : Pin) (j : Nat) : (s.setPin k v).xfer j = s.xfer j := rfl
@[simp] theorem State.setPin_owner (s : State) (k : Nat) (v : Pin) (j : Nat) : (s.setPin k v).owner j = s.owner j := rfl
@[simp] theorem State.setPin_switchOf (s : State) (k : Nat) (v : Pin) (j : Nat) : (s.setPin k v).switchOf j = s.switchOf j := rfl
@[simp] theorem State.setPin_session (s : State) (k : Nat) (v : Pin) (j : Nat) : (s.setPin k v).session j = s.session j := rfl
@[simp] theorem State.setPin_lag (s : State) (k : Nat) (v : Pin) (j : Nat) : (s.setPin k v).lag j = s.lag j := rfl
@[simp] theorem State.setPin_cached (s : State) (k : Nat) (v : Pin) (j m : Nat) : (s.setPin k v).cached j m = s.cached j m := rfl
@[simp] theorem State.setPin_invs (s : State) (k : Nat) (v : Pin) (j : Nat) : (s.setPin k v).invs j = s.invs j := rfl
@[simp] theorem State.setPin_win (s : State) (k : Nat) (v : Pin) (j m : Nat) : (s.setPin k v).win j m = s.win j m := rfl
@[simp] theorem State.setPin_die (s : State) (k : Nat) (v : Pin) : (s.setPin k v).die = s.die := rfl
@[simp] theorem State.setPin_follower (s : State) (k : Nat) (v : Pin) : (s.setPin k v).follower = s.follower := rfl
@[simp] theorem State.setPin_config (s : State) (k : Nat) (v : Pin) (j : Nat) : (s.setPin k v).config j = s.config j := rfl

/-! ### setOwner -/

@[simp] theorem State.setOwner_pending (s : State) (g v : Nat) : (s.setOwner g v).pending = s.pending := rfl
@[simp] theorem State.setOwner_out (s : State) (g v : Nat) : (s.setOwner g v).out = s.out := rfl
@[simp] theorem State.setOwner_freeCtr (s : State) (g v : Nat) : (s.setOwner g v).freeCtr = s.freeCtr := rfl
@[simp] theorem State.setOwner_time (s : State) (g v : Nat) : (s.setOwner g v).time = s.time := rfl
@[simp] theorem State.setOwner_secDone (s : State) (g v : Nat) : (s.setOwner g v).secDone = s.secDone := rfl
@[simp] theorem State.setOwner_fuses (s : State) (g v : Nat) : (s.setOwner g v).fuses = s.fuses := rfl
@[simp] theorem State.setOwner_hostFifo (s : State) (g v : Nat) : (s.setOwner g v).hostFifo = s.hostFifo := rfl
@[simp] theorem State.setOwner_store (s : State) (g v : Nat) : (s.setOwner g v).store = s.store := rfl
@[simp] theorem State.setOwner_romKey (s : State) (g v : Nat) : (s.setOwner g v).romKey = s.romKey := rfl
@[simp] theorem State.setOwner_plru (s : State) (g v : Nat) : (s.setOwner g v).plru = s.plru := rfl
@[simp] theorem State.setOwner_pcie (s : State) (g v : Nat) : (s.setOwner g v).pcie = s.pcie := rfl
@[simp] theorem State.setOwner_ideKeys (s : State) (g v : Nat) : (s.setOwner g v).ideKeys = s.ideKeys := rfl
@[simp] theorem State.setOwner_flash (s : State) (g v : Nat) : (s.setOwner g v).flash = s.flash := rfl
@[simp] theorem State.setOwner_mgt (s : State) (g v : Nat) : (s.setOwner g v).mgt = s.mgt := rfl
@[simp] theorem State.setOwner_boot (s : State) (g v : Nat) : (s.setOwner g v).boot = s.boot := rfl
@[simp] theorem State.setOwner_power (s : State) (g v : Nat) : (s.setOwner g v).power = s.power := rfl
@[simp] theorem State.setOwner_domains (s : State) (g v : Nat) : (s.setOwner g v).domains = s.domains := rfl
@[simp] theorem State.setOwner_up (s : State) (g v : Nat) : (s.setOwner g v).up = s.up := rfl
@[simp] theorem State.setOwner_bus (s : State) (g v : Nat) : (s.setOwner g v).bus = s.bus := rfl
@[simp] theorem State.setOwner_gpio (s : State) (g v : Nat) : (s.setOwner g v).gpio = s.gpio := rfl
@[simp] theorem State.setOwner_queues (s : State) (g v : Nat) : (s.setOwner g v).queues = s.queues := rfl
@[simp] theorem State.setOwner_rings (s : State) (g v : Nat) : (s.setOwner g v).rings = s.rings := rfl
@[simp] theorem State.setOwner_islets (s : State) (g v : Nat) : (s.setOwner g v).islets = s.islets := rfl
@[simp] theorem State.setOwner_nums (s : State) (g v : Nat) : (s.setOwner g v).nums = s.nums := rfl
@[simp] theorem State.setOwner_parts (s : State) (g v : Nat) : (s.setOwner g v).parts = s.parts := rfl
@[simp] theorem State.setOwner_frozen (s : State) (g v : Nat) : (s.setOwner g v).frozen = s.frozen := rfl
@[simp] theorem State.setOwner_keys (s : State) (g v : Nat) : (s.setOwner g v).keys = s.keys := rfl
@[simp] theorem State.setOwner_hbm (s : State) (g v : Nat) : (s.setOwner g v).hbm = s.hbm := rfl
@[simp] theorem State.setOwner_scratch (s : State) (g v : Nat) : (s.setOwner g v).scratch = s.scratch := rfl
@[simp] theorem State.setOwner_hbmPoison (s : State) (g v : Nat) : (s.setOwner g v).hbmPoison = s.hbmPoison := rfl
@[simp] theorem State.setOwner_spPoison (s : State) (g v : Nat) : (s.setOwner g v).spPoison = s.spPoison := rfl
@[simp] theorem State.setOwner_hbmErr (s : State) (g v : Nat) : (s.setOwner g v).hbmErr = s.hbmErr := rfl
@[simp] theorem State.setOwner_spErr (s : State) (g v : Nat) : (s.setOwner g v).spErr = s.spErr := rfl
@[simp] theorem State.setOwner_switches (s : State) (g v : Nat) : (s.setOwner g v).switches = s.switches := rfl
@[simp] theorem State.setOwner_ports (s : State) (g v : Nat) : (s.setOwner g v).ports = s.ports := rfl
@[simp] theorem State.setOwner_grants (s : State) (g v : Nat) : (s.setOwner g v).grants = s.grants := rfl
@[simp] theorem State.setOwner_xfers (s : State) (g v : Nat) : (s.setOwner g v).xfers = s.xfers := rfl
@[simp] theorem State.setOwner_nextXfer (s : State) (g v : Nat) : (s.setOwner g v).nextXfer = s.nextXfer := rfl
@[simp] theorem State.setOwner_remotes (s : State) (g v : Nat) : (s.setOwner g v).remotes = s.remotes := rfl
@[simp] theorem State.setOwner_caches (s : State) (g v : Nat) : (s.setOwner g v).caches = s.caches := rfl
@[simp] theorem State.setOwner_invQueue (s : State) (g v : Nat) : (s.setOwner g v).invQueue = s.invQueue := rfl
@[simp] theorem State.setOwner_lagoon (s : State) (g v : Nat) : (s.setOwner g v).lagoon = s.lagoon := rfl
@[simp] theorem State.setOwner_msixWord (s : State) (g v : Nat) : (s.setOwner g v).msixWord = s.msixWord := rfl
@[simp] theorem State.setOwner_msixOpen (s : State) (g v : Nat) : (s.setOwner g v).msixOpen = s.msixOpen := rfl
@[simp] theorem State.setOwner_msixPend (s : State) (g v : Nat) : (s.setOwner g v).msixPend = s.msixPend := rfl
@[simp] theorem State.setOwner_sessions (s : State) (g v : Nat) : (s.setOwner g v).sessions = s.sessions := rfl
@[simp] theorem State.setOwner_ideOn (s : State) (g v : Nat) : (s.setOwner g v).ideOn = s.ideOn := rfl
@[simp] theorem State.setOwner_lastRing (s : State) (g v : Nat) : (s.setOwner g v).lastRing = s.lastRing := rfl
@[simp] theorem State.setOwner_queue (s : State) (g v : Nat) (j : Nat) : (s.setOwner g v).queue j = s.queue j := rfl
@[simp] theorem State.setOwner_ring (s : State) (g v : Nat) (j : Nat) : (s.setOwner g v).ring j = s.ring j := rfl
@[simp] theorem State.setOwner_islet (s : State) (g v : Nat) (j : Nat) : (s.setOwner g v).islet j = s.islet j := rfl
@[simp] theorem State.setOwner_num (s : State) (g v : Nat) (j : Nat) : (s.setOwner g v).num j = s.num j := rfl
@[simp] theorem State.setOwner_part (s : State) (g v : Nat) (j : Nat) : (s.setOwner g v).part j = s.part j := rfl
@[simp] theorem State.setOwner_port (s : State) (g v : Nat) (j : Nat) : (s.setOwner g v).port j = s.port j := rfl
@[simp] theorem State.setOwner_domain (s : State) (g v : Nat) (j : Nat) : (s.setOwner g v).domain j = s.domain j := rfl
@[simp] theorem State.setOwner_xfer (s : State) (g v : Nat) (j : Nat) : (s.setOwner g v).xfer j = s.xfer j := rfl
@[simp] theorem State.setOwner_pin (s : State) (g v : Nat) (j : Nat) : (s.setOwner g v).pin j = s.pin j := rfl
@[simp] theorem State.setOwner_switchOf (s : State) (g v : Nat) (j : Nat) : (s.setOwner g v).switchOf j = s.switchOf j := rfl
@[simp] theorem State.setOwner_session (s : State) (g v : Nat) (j : Nat) : (s.setOwner g v).session j = s.session j := rfl
@[simp] theorem State.setOwner_lag (s : State) (g v : Nat) (j : Nat) : (s.setOwner g v).lag j = s.lag j := rfl
@[simp] theorem State.setOwner_cached (s : State) (g v : Nat) (j m : Nat) : (s.setOwner g v).cached j m = s.cached j m := rfl
@[simp] theorem State.setOwner_invs (s : State) (g v : Nat) (j : Nat) : (s.setOwner g v).invs j = s.invs j := rfl
@[simp] theorem State.setOwner_win (s : State) (g v : Nat) (j m : Nat) : (s.setOwner g v).win j m = s.win j m := rfl
@[simp] theorem State.setOwner_die (s : State) (g v : Nat) : (s.setOwner g v).die = s.die := rfl
@[simp] theorem State.setOwner_follower (s : State) (g v : Nat) : (s.setOwner g v).follower = s.follower := rfl
@[simp] theorem State.setOwner_config (s : State) (g v : Nat) (j : Nat) : (s.setOwner g v).config j = s.config j := rfl

/-! ### setSwitch -/

@[simp] theorem State.setSwitch_pending (s : State) (p : Nat) (v : Option Switch) : (s.setSwitch p v).pending = s.pending := rfl
@[simp] theorem State.setSwitch_out (s : State) (p : Nat) (v : Option Switch) : (s.setSwitch p v).out = s.out := rfl
@[simp] theorem State.setSwitch_freeCtr (s : State) (p : Nat) (v : Option Switch) : (s.setSwitch p v).freeCtr = s.freeCtr := rfl
@[simp] theorem State.setSwitch_time (s : State) (p : Nat) (v : Option Switch) : (s.setSwitch p v).time = s.time := rfl
@[simp] theorem State.setSwitch_secDone (s : State) (p : Nat) (v : Option Switch) : (s.setSwitch p v).secDone = s.secDone := rfl
@[simp] theorem State.setSwitch_fuses (s : State) (p : Nat) (v : Option Switch) : (s.setSwitch p v).fuses = s.fuses := rfl
@[simp] theorem State.setSwitch_hostFifo (s : State) (p : Nat) (v : Option Switch) : (s.setSwitch p v).hostFifo = s.hostFifo := rfl
@[simp] theorem State.setSwitch_store (s : State) (p : Nat) (v : Option Switch) : (s.setSwitch p v).store = s.store := rfl
@[simp] theorem State.setSwitch_romKey (s : State) (p : Nat) (v : Option Switch) : (s.setSwitch p v).romKey = s.romKey := rfl
@[simp] theorem State.setSwitch_plru (s : State) (p : Nat) (v : Option Switch) : (s.setSwitch p v).plru = s.plru := rfl
@[simp] theorem State.setSwitch_pcie (s : State) (p : Nat) (v : Option Switch) : (s.setSwitch p v).pcie = s.pcie := rfl
@[simp] theorem State.setSwitch_ideKeys (s : State) (p : Nat) (v : Option Switch) : (s.setSwitch p v).ideKeys = s.ideKeys := rfl
@[simp] theorem State.setSwitch_flash (s : State) (p : Nat) (v : Option Switch) : (s.setSwitch p v).flash = s.flash := rfl
@[simp] theorem State.setSwitch_mgt (s : State) (p : Nat) (v : Option Switch) : (s.setSwitch p v).mgt = s.mgt := rfl
@[simp] theorem State.setSwitch_boot (s : State) (p : Nat) (v : Option Switch) : (s.setSwitch p v).boot = s.boot := rfl
@[simp] theorem State.setSwitch_power (s : State) (p : Nat) (v : Option Switch) : (s.setSwitch p v).power = s.power := rfl
@[simp] theorem State.setSwitch_domains (s : State) (p : Nat) (v : Option Switch) : (s.setSwitch p v).domains = s.domains := rfl
@[simp] theorem State.setSwitch_up (s : State) (p : Nat) (v : Option Switch) : (s.setSwitch p v).up = s.up := rfl
@[simp] theorem State.setSwitch_bus (s : State) (p : Nat) (v : Option Switch) : (s.setSwitch p v).bus = s.bus := rfl
@[simp] theorem State.setSwitch_gpio (s : State) (p : Nat) (v : Option Switch) : (s.setSwitch p v).gpio = s.gpio := rfl
@[simp] theorem State.setSwitch_queues (s : State) (p : Nat) (v : Option Switch) : (s.setSwitch p v).queues = s.queues := rfl
@[simp] theorem State.setSwitch_rings (s : State) (p : Nat) (v : Option Switch) : (s.setSwitch p v).rings = s.rings := rfl
@[simp] theorem State.setSwitch_islets (s : State) (p : Nat) (v : Option Switch) : (s.setSwitch p v).islets = s.islets := rfl
@[simp] theorem State.setSwitch_nums (s : State) (p : Nat) (v : Option Switch) : (s.setSwitch p v).nums = s.nums := rfl
@[simp] theorem State.setSwitch_parts (s : State) (p : Nat) (v : Option Switch) : (s.setSwitch p v).parts = s.parts := rfl
@[simp] theorem State.setSwitch_owners (s : State) (p : Nat) (v : Option Switch) : (s.setSwitch p v).owners = s.owners := rfl
@[simp] theorem State.setSwitch_frozen (s : State) (p : Nat) (v : Option Switch) : (s.setSwitch p v).frozen = s.frozen := rfl
@[simp] theorem State.setSwitch_keys (s : State) (p : Nat) (v : Option Switch) : (s.setSwitch p v).keys = s.keys := rfl
@[simp] theorem State.setSwitch_hbm (s : State) (p : Nat) (v : Option Switch) : (s.setSwitch p v).hbm = s.hbm := rfl
@[simp] theorem State.setSwitch_scratch (s : State) (p : Nat) (v : Option Switch) : (s.setSwitch p v).scratch = s.scratch := rfl
@[simp] theorem State.setSwitch_hbmPoison (s : State) (p : Nat) (v : Option Switch) : (s.setSwitch p v).hbmPoison = s.hbmPoison := rfl
@[simp] theorem State.setSwitch_spPoison (s : State) (p : Nat) (v : Option Switch) : (s.setSwitch p v).spPoison = s.spPoison := rfl
@[simp] theorem State.setSwitch_hbmErr (s : State) (p : Nat) (v : Option Switch) : (s.setSwitch p v).hbmErr = s.hbmErr := rfl
@[simp] theorem State.setSwitch_spErr (s : State) (p : Nat) (v : Option Switch) : (s.setSwitch p v).spErr = s.spErr := rfl
@[simp] theorem State.setSwitch_ports (s : State) (p : Nat) (v : Option Switch) : (s.setSwitch p v).ports = s.ports := rfl
@[simp] theorem State.setSwitch_grants (s : State) (p : Nat) (v : Option Switch) : (s.setSwitch p v).grants = s.grants := rfl
@[simp] theorem State.setSwitch_xfers (s : State) (p : Nat) (v : Option Switch) : (s.setSwitch p v).xfers = s.xfers := rfl
@[simp] theorem State.setSwitch_nextXfer (s : State) (p : Nat) (v : Option Switch) : (s.setSwitch p v).nextXfer = s.nextXfer := rfl
@[simp] theorem State.setSwitch_remotes (s : State) (p : Nat) (v : Option Switch) : (s.setSwitch p v).remotes = s.remotes := rfl
@[simp] theorem State.setSwitch_caches (s : State) (p : Nat) (v : Option Switch) : (s.setSwitch p v).caches = s.caches := rfl
@[simp] theorem State.setSwitch_invQueue (s : State) (p : Nat) (v : Option Switch) : (s.setSwitch p v).invQueue = s.invQueue := rfl
@[simp] theorem State.setSwitch_lagoon (s : State) (p : Nat) (v : Option Switch) : (s.setSwitch p v).lagoon = s.lagoon := rfl
@[simp] theorem State.setSwitch_msixWord (s : State) (p : Nat) (v : Option Switch) : (s.setSwitch p v).msixWord = s.msixWord := rfl
@[simp] theorem State.setSwitch_msixOpen (s : State) (p : Nat) (v : Option Switch) : (s.setSwitch p v).msixOpen = s.msixOpen := rfl
@[simp] theorem State.setSwitch_msixPend (s : State) (p : Nat) (v : Option Switch) : (s.setSwitch p v).msixPend = s.msixPend := rfl
@[simp] theorem State.setSwitch_sessions (s : State) (p : Nat) (v : Option Switch) : (s.setSwitch p v).sessions = s.sessions := rfl
@[simp] theorem State.setSwitch_ideOn (s : State) (p : Nat) (v : Option Switch) : (s.setSwitch p v).ideOn = s.ideOn := rfl
@[simp] theorem State.setSwitch_lastRing (s : State) (p : Nat) (v : Option Switch) : (s.setSwitch p v).lastRing = s.lastRing := rfl
@[simp] theorem State.setSwitch_queue (s : State) (p : Nat) (v : Option Switch) (j : Nat) : (s.setSwitch p v).queue j = s.queue j := rfl
@[simp] theorem State.setSwitch_ring (s : State) (p : Nat) (v : Option Switch) (j : Nat) : (s.setSwitch p v).ring j = s.ring j := rfl
@[simp] theorem State.setSwitch_islet (s : State) (p : Nat) (v : Option Switch) (j : Nat) : (s.setSwitch p v).islet j = s.islet j := rfl
@[simp] theorem State.setSwitch_num (s : State) (p : Nat) (v : Option Switch) (j : Nat) : (s.setSwitch p v).num j = s.num j := rfl
@[simp] theorem State.setSwitch_part (s : State) (p : Nat) (v : Option Switch) (j : Nat) : (s.setSwitch p v).part j = s.part j := rfl
@[simp] theorem State.setSwitch_port (s : State) (p : Nat) (v : Option Switch) (j : Nat) : (s.setSwitch p v).port j = s.port j := rfl
@[simp] theorem State.setSwitch_domain (s : State) (p : Nat) (v : Option Switch) (j : Nat) : (s.setSwitch p v).domain j = s.domain j := rfl
@[simp] theorem State.setSwitch_xfer (s : State) (p : Nat) (v : Option Switch) (j : Nat) : (s.setSwitch p v).xfer j = s.xfer j := rfl
@[simp] theorem State.setSwitch_pin (s : State) (p : Nat) (v : Option Switch) (j : Nat) : (s.setSwitch p v).pin j = s.pin j := rfl
@[simp] theorem State.setSwitch_owner (s : State) (p : Nat) (v : Option Switch) (j : Nat) : (s.setSwitch p v).owner j = s.owner j := rfl
@[simp] theorem State.setSwitch_session (s : State) (p : Nat) (v : Option Switch) (j : Nat) : (s.setSwitch p v).session j = s.session j := rfl
@[simp] theorem State.setSwitch_lag (s : State) (p : Nat) (v : Option Switch) (j : Nat) : (s.setSwitch p v).lag j = s.lag j := rfl
@[simp] theorem State.setSwitch_cached (s : State) (p : Nat) (v : Option Switch) (j m : Nat) : (s.setSwitch p v).cached j m = s.cached j m := rfl
@[simp] theorem State.setSwitch_invs (s : State) (p : Nat) (v : Option Switch) (j : Nat) : (s.setSwitch p v).invs j = s.invs j := rfl
@[simp] theorem State.setSwitch_win (s : State) (p : Nat) (v : Option Switch) (j m : Nat) : (s.setSwitch p v).win j m = s.win j m := rfl
@[simp] theorem State.setSwitch_die (s : State) (p : Nat) (v : Option Switch) : (s.setSwitch p v).die = s.die := rfl
@[simp] theorem State.setSwitch_follower (s : State) (p : Nat) (v : Option Switch) : (s.setSwitch p v).follower = s.follower := rfl
@[simp] theorem State.setSwitch_config (s : State) (p : Nat) (v : Option Switch) (j : Nat) : (s.setSwitch p v).config j = s.config j := rfl

/-! ### setSession -/

@[simp] theorem State.setSession_pending (s : State) (f : Nat) (v : Session) : (s.setSession f v).pending = s.pending := rfl
@[simp] theorem State.setSession_out (s : State) (f : Nat) (v : Session) : (s.setSession f v).out = s.out := rfl
@[simp] theorem State.setSession_freeCtr (s : State) (f : Nat) (v : Session) : (s.setSession f v).freeCtr = s.freeCtr := rfl
@[simp] theorem State.setSession_time (s : State) (f : Nat) (v : Session) : (s.setSession f v).time = s.time := rfl
@[simp] theorem State.setSession_secDone (s : State) (f : Nat) (v : Session) : (s.setSession f v).secDone = s.secDone := rfl
@[simp] theorem State.setSession_fuses (s : State) (f : Nat) (v : Session) : (s.setSession f v).fuses = s.fuses := rfl
@[simp] theorem State.setSession_hostFifo (s : State) (f : Nat) (v : Session) : (s.setSession f v).hostFifo = s.hostFifo := rfl
@[simp] theorem State.setSession_store (s : State) (f : Nat) (v : Session) : (s.setSession f v).store = s.store := rfl
@[simp] theorem State.setSession_romKey (s : State) (f : Nat) (v : Session) : (s.setSession f v).romKey = s.romKey := rfl
@[simp] theorem State.setSession_plru (s : State) (f : Nat) (v : Session) : (s.setSession f v).plru = s.plru := rfl
@[simp] theorem State.setSession_pcie (s : State) (f : Nat) (v : Session) : (s.setSession f v).pcie = s.pcie := rfl
@[simp] theorem State.setSession_ideKeys (s : State) (f : Nat) (v : Session) : (s.setSession f v).ideKeys = s.ideKeys := rfl
@[simp] theorem State.setSession_flash (s : State) (f : Nat) (v : Session) : (s.setSession f v).flash = s.flash := rfl
@[simp] theorem State.setSession_mgt (s : State) (f : Nat) (v : Session) : (s.setSession f v).mgt = s.mgt := rfl
@[simp] theorem State.setSession_boot (s : State) (f : Nat) (v : Session) : (s.setSession f v).boot = s.boot := rfl
@[simp] theorem State.setSession_power (s : State) (f : Nat) (v : Session) : (s.setSession f v).power = s.power := rfl
@[simp] theorem State.setSession_domains (s : State) (f : Nat) (v : Session) : (s.setSession f v).domains = s.domains := rfl
@[simp] theorem State.setSession_up (s : State) (f : Nat) (v : Session) : (s.setSession f v).up = s.up := rfl
@[simp] theorem State.setSession_bus (s : State) (f : Nat) (v : Session) : (s.setSession f v).bus = s.bus := rfl
@[simp] theorem State.setSession_gpio (s : State) (f : Nat) (v : Session) : (s.setSession f v).gpio = s.gpio := rfl
@[simp] theorem State.setSession_queues (s : State) (f : Nat) (v : Session) : (s.setSession f v).queues = s.queues := rfl
@[simp] theorem State.setSession_rings (s : State) (f : Nat) (v : Session) : (s.setSession f v).rings = s.rings := rfl
@[simp] theorem State.setSession_islets (s : State) (f : Nat) (v : Session) : (s.setSession f v).islets = s.islets := rfl
@[simp] theorem State.setSession_nums (s : State) (f : Nat) (v : Session) : (s.setSession f v).nums = s.nums := rfl
@[simp] theorem State.setSession_parts (s : State) (f : Nat) (v : Session) : (s.setSession f v).parts = s.parts := rfl
@[simp] theorem State.setSession_owners (s : State) (f : Nat) (v : Session) : (s.setSession f v).owners = s.owners := rfl
@[simp] theorem State.setSession_frozen (s : State) (f : Nat) (v : Session) : (s.setSession f v).frozen = s.frozen := rfl
@[simp] theorem State.setSession_keys (s : State) (f : Nat) (v : Session) : (s.setSession f v).keys = s.keys := rfl
@[simp] theorem State.setSession_hbm (s : State) (f : Nat) (v : Session) : (s.setSession f v).hbm = s.hbm := rfl
@[simp] theorem State.setSession_scratch (s : State) (f : Nat) (v : Session) : (s.setSession f v).scratch = s.scratch := rfl
@[simp] theorem State.setSession_hbmPoison (s : State) (f : Nat) (v : Session) : (s.setSession f v).hbmPoison = s.hbmPoison := rfl
@[simp] theorem State.setSession_spPoison (s : State) (f : Nat) (v : Session) : (s.setSession f v).spPoison = s.spPoison := rfl
@[simp] theorem State.setSession_hbmErr (s : State) (f : Nat) (v : Session) : (s.setSession f v).hbmErr = s.hbmErr := rfl
@[simp] theorem State.setSession_spErr (s : State) (f : Nat) (v : Session) : (s.setSession f v).spErr = s.spErr := rfl
@[simp] theorem State.setSession_switches (s : State) (f : Nat) (v : Session) : (s.setSession f v).switches = s.switches := rfl
@[simp] theorem State.setSession_ports (s : State) (f : Nat) (v : Session) : (s.setSession f v).ports = s.ports := rfl
@[simp] theorem State.setSession_grants (s : State) (f : Nat) (v : Session) : (s.setSession f v).grants = s.grants := rfl
@[simp] theorem State.setSession_xfers (s : State) (f : Nat) (v : Session) : (s.setSession f v).xfers = s.xfers := rfl
@[simp] theorem State.setSession_nextXfer (s : State) (f : Nat) (v : Session) : (s.setSession f v).nextXfer = s.nextXfer := rfl
@[simp] theorem State.setSession_remotes (s : State) (f : Nat) (v : Session) : (s.setSession f v).remotes = s.remotes := rfl
@[simp] theorem State.setSession_caches (s : State) (f : Nat) (v : Session) : (s.setSession f v).caches = s.caches := rfl
@[simp] theorem State.setSession_invQueue (s : State) (f : Nat) (v : Session) : (s.setSession f v).invQueue = s.invQueue := rfl
@[simp] theorem State.setSession_lagoon (s : State) (f : Nat) (v : Session) : (s.setSession f v).lagoon = s.lagoon := rfl
@[simp] theorem State.setSession_msixWord (s : State) (f : Nat) (v : Session) : (s.setSession f v).msixWord = s.msixWord := rfl
@[simp] theorem State.setSession_msixOpen (s : State) (f : Nat) (v : Session) : (s.setSession f v).msixOpen = s.msixOpen := rfl
@[simp] theorem State.setSession_msixPend (s : State) (f : Nat) (v : Session) : (s.setSession f v).msixPend = s.msixPend := rfl
@[simp] theorem State.setSession_ideOn (s : State) (f : Nat) (v : Session) : (s.setSession f v).ideOn = s.ideOn := rfl
@[simp] theorem State.setSession_lastRing (s : State) (f : Nat) (v : Session) : (s.setSession f v).lastRing = s.lastRing := rfl
@[simp] theorem State.setSession_queue (s : State) (f : Nat) (v : Session) (j : Nat) : (s.setSession f v).queue j = s.queue j := rfl
@[simp] theorem State.setSession_ring (s : State) (f : Nat) (v : Session) (j : Nat) : (s.setSession f v).ring j = s.ring j := rfl
@[simp] theorem State.setSession_islet (s : State) (f : Nat) (v : Session) (j : Nat) : (s.setSession f v).islet j = s.islet j := rfl
@[simp] theorem State.setSession_num (s : State) (f : Nat) (v : Session) (j : Nat) : (s.setSession f v).num j = s.num j := rfl
@[simp] theorem State.setSession_part (s : State) (f : Nat) (v : Session) (j : Nat) : (s.setSession f v).part j = s.part j := rfl
@[simp] theorem State.setSession_port (s : State) (f : Nat) (v : Session) (j : Nat) : (s.setSession f v).port j = s.port j := rfl
@[simp] theorem State.setSession_domain (s : State) (f : Nat) (v : Session) (j : Nat) : (s.setSession f v).domain j = s.domain j := rfl
@[simp] theorem State.setSession_xfer (s : State) (f : Nat) (v : Session) (j : Nat) : (s.setSession f v).xfer j = s.xfer j := rfl
@[simp] theorem State.setSession_pin (s : State) (f : Nat) (v : Session) (j : Nat) : (s.setSession f v).pin j = s.pin j := rfl
@[simp] theorem State.setSession_owner (s : State) (f : Nat) (v : Session) (j : Nat) : (s.setSession f v).owner j = s.owner j := rfl
@[simp] theorem State.setSession_switchOf (s : State) (f : Nat) (v : Session) (j : Nat) : (s.setSession f v).switchOf j = s.switchOf j := rfl
@[simp] theorem State.setSession_lag (s : State) (f : Nat) (v : Session) (j : Nat) : (s.setSession f v).lag j = s.lag j := rfl
@[simp] theorem State.setSession_cached (s : State) (f : Nat) (v : Session) (j m : Nat) : (s.setSession f v).cached j m = s.cached j m := rfl
@[simp] theorem State.setSession_invs (s : State) (f : Nat) (v : Session) (j : Nat) : (s.setSession f v).invs j = s.invs j := rfl
@[simp] theorem State.setSession_win (s : State) (f : Nat) (v : Session) (j m : Nat) : (s.setSession f v).win j m = s.win j m := rfl
@[simp] theorem State.setSession_die (s : State) (f : Nat) (v : Session) : (s.setSession f v).die = s.die := rfl
@[simp] theorem State.setSession_follower (s : State) (f : Nat) (v : Session) : (s.setSession f v).follower = s.follower := rfl
@[simp] theorem State.setSession_config (s : State) (f : Nat) (v : Session) (j : Nat) : (s.setSession f v).config j = s.config j := rfl

/-! ### setLag -/

@[simp] theorem State.setLag_pending (s : State) (l : Nat) (v : LagLine) : (s.setLag l v).pending = s.pending := rfl
@[simp] theorem State.setLag_out (s : State) (l : Nat) (v : LagLine) : (s.setLag l v).out = s.out := rfl
@[simp] theorem State.setLag_freeCtr (s : State) (l : Nat) (v : LagLine) : (s.setLag l v).freeCtr = s.freeCtr := rfl
@[simp] theorem State.setLag_time (s : State) (l : Nat) (v : LagLine) : (s.setLag l v).time = s.time := rfl
@[simp] theorem State.setLag_secDone (s : State) (l : Nat) (v : LagLine) : (s.setLag l v).secDone = s.secDone := rfl
@[simp] theorem State.setLag_fuses (s : State) (l : Nat) (v : LagLine) : (s.setLag l v).fuses = s.fuses := rfl
@[simp] theorem State.setLag_hostFifo (s : State) (l : Nat) (v : LagLine) : (s.setLag l v).hostFifo = s.hostFifo := rfl
@[simp] theorem State.setLag_store (s : State) (l : Nat) (v : LagLine) : (s.setLag l v).store = s.store := rfl
@[simp] theorem State.setLag_romKey (s : State) (l : Nat) (v : LagLine) : (s.setLag l v).romKey = s.romKey := rfl
@[simp] theorem State.setLag_plru (s : State) (l : Nat) (v : LagLine) : (s.setLag l v).plru = s.plru := rfl
@[simp] theorem State.setLag_pcie (s : State) (l : Nat) (v : LagLine) : (s.setLag l v).pcie = s.pcie := rfl
@[simp] theorem State.setLag_ideKeys (s : State) (l : Nat) (v : LagLine) : (s.setLag l v).ideKeys = s.ideKeys := rfl
@[simp] theorem State.setLag_flash (s : State) (l : Nat) (v : LagLine) : (s.setLag l v).flash = s.flash := rfl
@[simp] theorem State.setLag_mgt (s : State) (l : Nat) (v : LagLine) : (s.setLag l v).mgt = s.mgt := rfl
@[simp] theorem State.setLag_boot (s : State) (l : Nat) (v : LagLine) : (s.setLag l v).boot = s.boot := rfl
@[simp] theorem State.setLag_power (s : State) (l : Nat) (v : LagLine) : (s.setLag l v).power = s.power := rfl
@[simp] theorem State.setLag_domains (s : State) (l : Nat) (v : LagLine) : (s.setLag l v).domains = s.domains := rfl
@[simp] theorem State.setLag_up (s : State) (l : Nat) (v : LagLine) : (s.setLag l v).up = s.up := rfl
@[simp] theorem State.setLag_bus (s : State) (l : Nat) (v : LagLine) : (s.setLag l v).bus = s.bus := rfl
@[simp] theorem State.setLag_gpio (s : State) (l : Nat) (v : LagLine) : (s.setLag l v).gpio = s.gpio := rfl
@[simp] theorem State.setLag_queues (s : State) (l : Nat) (v : LagLine) : (s.setLag l v).queues = s.queues := rfl
@[simp] theorem State.setLag_rings (s : State) (l : Nat) (v : LagLine) : (s.setLag l v).rings = s.rings := rfl
@[simp] theorem State.setLag_islets (s : State) (l : Nat) (v : LagLine) : (s.setLag l v).islets = s.islets := rfl
@[simp] theorem State.setLag_nums (s : State) (l : Nat) (v : LagLine) : (s.setLag l v).nums = s.nums := rfl
@[simp] theorem State.setLag_parts (s : State) (l : Nat) (v : LagLine) : (s.setLag l v).parts = s.parts := rfl
@[simp] theorem State.setLag_owners (s : State) (l : Nat) (v : LagLine) : (s.setLag l v).owners = s.owners := rfl
@[simp] theorem State.setLag_frozen (s : State) (l : Nat) (v : LagLine) : (s.setLag l v).frozen = s.frozen := rfl
@[simp] theorem State.setLag_keys (s : State) (l : Nat) (v : LagLine) : (s.setLag l v).keys = s.keys := rfl
@[simp] theorem State.setLag_hbm (s : State) (l : Nat) (v : LagLine) : (s.setLag l v).hbm = s.hbm := rfl
@[simp] theorem State.setLag_scratch (s : State) (l : Nat) (v : LagLine) : (s.setLag l v).scratch = s.scratch := rfl
@[simp] theorem State.setLag_hbmPoison (s : State) (l : Nat) (v : LagLine) : (s.setLag l v).hbmPoison = s.hbmPoison := rfl
@[simp] theorem State.setLag_spPoison (s : State) (l : Nat) (v : LagLine) : (s.setLag l v).spPoison = s.spPoison := rfl
@[simp] theorem State.setLag_hbmErr (s : State) (l : Nat) (v : LagLine) : (s.setLag l v).hbmErr = s.hbmErr := rfl
@[simp] theorem State.setLag_spErr (s : State) (l : Nat) (v : LagLine) : (s.setLag l v).spErr = s.spErr := rfl
@[simp] theorem State.setLag_switches (s : State) (l : Nat) (v : LagLine) : (s.setLag l v).switches = s.switches := rfl
@[simp] theorem State.setLag_ports (s : State) (l : Nat) (v : LagLine) : (s.setLag l v).ports = s.ports := rfl
@[simp] theorem State.setLag_grants (s : State) (l : Nat) (v : LagLine) : (s.setLag l v).grants = s.grants := rfl
@[simp] theorem State.setLag_xfers (s : State) (l : Nat) (v : LagLine) : (s.setLag l v).xfers = s.xfers := rfl
@[simp] theorem State.setLag_nextXfer (s : State) (l : Nat) (v : LagLine) : (s.setLag l v).nextXfer = s.nextXfer := rfl
@[simp] theorem State.setLag_remotes (s : State) (l : Nat) (v : LagLine) : (s.setLag l v).remotes = s.remotes := rfl
@[simp] theorem State.setLag_caches (s : State) (l : Nat) (v : LagLine) : (s.setLag l v).caches = s.caches := rfl
@[simp] theorem State.setLag_invQueue (s : State) (l : Nat) (v : LagLine) : (s.setLag l v).invQueue = s.invQueue := rfl
@[simp] theorem State.setLag_msixWord (s : State) (l : Nat) (v : LagLine) : (s.setLag l v).msixWord = s.msixWord := rfl
@[simp] theorem State.setLag_msixOpen (s : State) (l : Nat) (v : LagLine) : (s.setLag l v).msixOpen = s.msixOpen := rfl
@[simp] theorem State.setLag_msixPend (s : State) (l : Nat) (v : LagLine) : (s.setLag l v).msixPend = s.msixPend := rfl
@[simp] theorem State.setLag_sessions (s : State) (l : Nat) (v : LagLine) : (s.setLag l v).sessions = s.sessions := rfl
@[simp] theorem State.setLag_ideOn (s : State) (l : Nat) (v : LagLine) : (s.setLag l v).ideOn = s.ideOn := rfl
@[simp] theorem State.setLag_lastRing (s : State) (l : Nat) (v : LagLine) : (s.setLag l v).lastRing = s.lastRing := rfl
@[simp] theorem State.setLag_queue (s : State) (l : Nat) (v : LagLine) (j : Nat) : (s.setLag l v).queue j = s.queue j := rfl
@[simp] theorem State.setLag_ring (s : State) (l : Nat) (v : LagLine) (j : Nat) : (s.setLag l v).ring j = s.ring j := rfl
@[simp] theorem State.setLag_islet (s : State) (l : Nat) (v : LagLine) (j : Nat) : (s.setLag l v).islet j = s.islet j := rfl
@[simp] theorem State.setLag_num (s : State) (l : Nat) (v : LagLine) (j : Nat) : (s.setLag l v).num j = s.num j := rfl
@[simp] theorem State.setLag_part (s : State) (l : Nat) (v : LagLine) (j : Nat) : (s.setLag l v).part j = s.part j := rfl
@[simp] theorem State.setLag_port (s : State) (l : Nat) (v : LagLine) (j : Nat) : (s.setLag l v).port j = s.port j := rfl
@[simp] theorem State.setLag_domain (s : State) (l : Nat) (v : LagLine) (j : Nat) : (s.setLag l v).domain j = s.domain j := rfl
@[simp] theorem State.setLag_xfer (s : State) (l : Nat) (v : LagLine) (j : Nat) : (s.setLag l v).xfer j = s.xfer j := rfl
@[simp] theorem State.setLag_pin (s : State) (l : Nat) (v : LagLine) (j : Nat) : (s.setLag l v).pin j = s.pin j := rfl
@[simp] theorem State.setLag_owner (s : State) (l : Nat) (v : LagLine) (j : Nat) : (s.setLag l v).owner j = s.owner j := rfl
@[simp] theorem State.setLag_switchOf (s : State) (l : Nat) (v : LagLine) (j : Nat) : (s.setLag l v).switchOf j = s.switchOf j := rfl
@[simp] theorem State.setLag_session (s : State) (l : Nat) (v : LagLine) (j : Nat) : (s.setLag l v).session j = s.session j := rfl
@[simp] theorem State.setLag_cached (s : State) (l : Nat) (v : LagLine) (j m : Nat) : (s.setLag l v).cached j m = s.cached j m := rfl
@[simp] theorem State.setLag_invs (s : State) (l : Nat) (v : LagLine) (j : Nat) : (s.setLag l v).invs j = s.invs j := rfl
@[simp] theorem State.setLag_win (s : State) (l : Nat) (v : LagLine) (j m : Nat) : (s.setLag l v).win j m = s.win j m := rfl
@[simp] theorem State.setLag_die (s : State) (l : Nat) (v : LagLine) : (s.setLag l v).die = s.die := rfl
@[simp] theorem State.setLag_follower (s : State) (l : Nat) (v : LagLine) : (s.setLag l v).follower = s.follower := rfl
@[simp] theorem State.setLag_config (s : State) (l : Nat) (v : LagLine) (j : Nat) : (s.setLag l v).config j = s.config j := rfl

/-! ### setCached -/

@[simp] theorem State.setCached_pending (s : State) (a l : Nat) (v : CacheLine) : (s.setCached a l v).pending = s.pending := rfl
@[simp] theorem State.setCached_out (s : State) (a l : Nat) (v : CacheLine) : (s.setCached a l v).out = s.out := rfl
@[simp] theorem State.setCached_freeCtr (s : State) (a l : Nat) (v : CacheLine) : (s.setCached a l v).freeCtr = s.freeCtr := rfl
@[simp] theorem State.setCached_time (s : State) (a l : Nat) (v : CacheLine) : (s.setCached a l v).time = s.time := rfl
@[simp] theorem State.setCached_secDone (s : State) (a l : Nat) (v : CacheLine) : (s.setCached a l v).secDone = s.secDone := rfl
@[simp] theorem State.setCached_fuses (s : State) (a l : Nat) (v : CacheLine) : (s.setCached a l v).fuses = s.fuses := rfl
@[simp] theorem State.setCached_hostFifo (s : State) (a l : Nat) (v : CacheLine) : (s.setCached a l v).hostFifo = s.hostFifo := rfl
@[simp] theorem State.setCached_store (s : State) (a l : Nat) (v : CacheLine) : (s.setCached a l v).store = s.store := rfl
@[simp] theorem State.setCached_romKey (s : State) (a l : Nat) (v : CacheLine) : (s.setCached a l v).romKey = s.romKey := rfl
@[simp] theorem State.setCached_plru (s : State) (a l : Nat) (v : CacheLine) : (s.setCached a l v).plru = s.plru := rfl
@[simp] theorem State.setCached_pcie (s : State) (a l : Nat) (v : CacheLine) : (s.setCached a l v).pcie = s.pcie := rfl
@[simp] theorem State.setCached_ideKeys (s : State) (a l : Nat) (v : CacheLine) : (s.setCached a l v).ideKeys = s.ideKeys := rfl
@[simp] theorem State.setCached_flash (s : State) (a l : Nat) (v : CacheLine) : (s.setCached a l v).flash = s.flash := rfl
@[simp] theorem State.setCached_mgt (s : State) (a l : Nat) (v : CacheLine) : (s.setCached a l v).mgt = s.mgt := rfl
@[simp] theorem State.setCached_boot (s : State) (a l : Nat) (v : CacheLine) : (s.setCached a l v).boot = s.boot := rfl
@[simp] theorem State.setCached_power (s : State) (a l : Nat) (v : CacheLine) : (s.setCached a l v).power = s.power := rfl
@[simp] theorem State.setCached_domains (s : State) (a l : Nat) (v : CacheLine) : (s.setCached a l v).domains = s.domains := rfl
@[simp] theorem State.setCached_up (s : State) (a l : Nat) (v : CacheLine) : (s.setCached a l v).up = s.up := rfl
@[simp] theorem State.setCached_bus (s : State) (a l : Nat) (v : CacheLine) : (s.setCached a l v).bus = s.bus := rfl
@[simp] theorem State.setCached_gpio (s : State) (a l : Nat) (v : CacheLine) : (s.setCached a l v).gpio = s.gpio := rfl
@[simp] theorem State.setCached_queues (s : State) (a l : Nat) (v : CacheLine) : (s.setCached a l v).queues = s.queues := rfl
@[simp] theorem State.setCached_rings (s : State) (a l : Nat) (v : CacheLine) : (s.setCached a l v).rings = s.rings := rfl
@[simp] theorem State.setCached_islets (s : State) (a l : Nat) (v : CacheLine) : (s.setCached a l v).islets = s.islets := rfl
@[simp] theorem State.setCached_nums (s : State) (a l : Nat) (v : CacheLine) : (s.setCached a l v).nums = s.nums := rfl
@[simp] theorem State.setCached_parts (s : State) (a l : Nat) (v : CacheLine) : (s.setCached a l v).parts = s.parts := rfl
@[simp] theorem State.setCached_owners (s : State) (a l : Nat) (v : CacheLine) : (s.setCached a l v).owners = s.owners := rfl
@[simp] theorem State.setCached_frozen (s : State) (a l : Nat) (v : CacheLine) : (s.setCached a l v).frozen = s.frozen := rfl
@[simp] theorem State.setCached_keys (s : State) (a l : Nat) (v : CacheLine) : (s.setCached a l v).keys = s.keys := rfl
@[simp] theorem State.setCached_hbm (s : State) (a l : Nat) (v : CacheLine) : (s.setCached a l v).hbm = s.hbm := rfl
@[simp] theorem State.setCached_scratch (s : State) (a l : Nat) (v : CacheLine) : (s.setCached a l v).scratch = s.scratch := rfl
@[simp] theorem State.setCached_hbmPoison (s : State) (a l : Nat) (v : CacheLine) : (s.setCached a l v).hbmPoison = s.hbmPoison := rfl
@[simp] theorem State.setCached_spPoison (s : State) (a l : Nat) (v : CacheLine) : (s.setCached a l v).spPoison = s.spPoison := rfl
@[simp] theorem State.setCached_hbmErr (s : State) (a l : Nat) (v : CacheLine) : (s.setCached a l v).hbmErr = s.hbmErr := rfl
@[simp] theorem State.setCached_spErr (s : State) (a l : Nat) (v : CacheLine) : (s.setCached a l v).spErr = s.spErr := rfl
@[simp] theorem State.setCached_switches (s : State) (a l : Nat) (v : CacheLine) : (s.setCached a l v).switches = s.switches := rfl
@[simp] theorem State.setCached_ports (s : State) (a l : Nat) (v : CacheLine) : (s.setCached a l v).ports = s.ports := rfl
@[simp] theorem State.setCached_grants (s : State) (a l : Nat) (v : CacheLine) : (s.setCached a l v).grants = s.grants := rfl
@[simp] theorem State.setCached_xfers (s : State) (a l : Nat) (v : CacheLine) : (s.setCached a l v).xfers = s.xfers := rfl
@[simp] theorem State.setCached_nextXfer (s : State) (a l : Nat) (v : CacheLine) : (s.setCached a l v).nextXfer = s.nextXfer := rfl
@[simp] theorem State.setCached_remotes (s : State) (a l : Nat) (v : CacheLine) : (s.setCached a l v).remotes = s.remotes := rfl
@[simp] theorem State.setCached_invQueue (s : State) (a l : Nat) (v : CacheLine) : (s.setCached a l v).invQueue = s.invQueue := rfl
@[simp] theorem State.setCached_lagoon (s : State) (a l : Nat) (v : CacheLine) : (s.setCached a l v).lagoon = s.lagoon := rfl
@[simp] theorem State.setCached_msixWord (s : State) (a l : Nat) (v : CacheLine) : (s.setCached a l v).msixWord = s.msixWord := rfl
@[simp] theorem State.setCached_msixOpen (s : State) (a l : Nat) (v : CacheLine) : (s.setCached a l v).msixOpen = s.msixOpen := rfl
@[simp] theorem State.setCached_msixPend (s : State) (a l : Nat) (v : CacheLine) : (s.setCached a l v).msixPend = s.msixPend := rfl
@[simp] theorem State.setCached_sessions (s : State) (a l : Nat) (v : CacheLine) : (s.setCached a l v).sessions = s.sessions := rfl
@[simp] theorem State.setCached_ideOn (s : State) (a l : Nat) (v : CacheLine) : (s.setCached a l v).ideOn = s.ideOn := rfl
@[simp] theorem State.setCached_lastRing (s : State) (a l : Nat) (v : CacheLine) : (s.setCached a l v).lastRing = s.lastRing := rfl
@[simp] theorem State.setCached_queue (s : State) (a l : Nat) (v : CacheLine) (j : Nat) : (s.setCached a l v).queue j = s.queue j := rfl
@[simp] theorem State.setCached_ring (s : State) (a l : Nat) (v : CacheLine) (j : Nat) : (s.setCached a l v).ring j = s.ring j := rfl
@[simp] theorem State.setCached_islet (s : State) (a l : Nat) (v : CacheLine) (j : Nat) : (s.setCached a l v).islet j = s.islet j := rfl
@[simp] theorem State.setCached_num (s : State) (a l : Nat) (v : CacheLine) (j : Nat) : (s.setCached a l v).num j = s.num j := rfl
@[simp] theorem State.setCached_part (s : State) (a l : Nat) (v : CacheLine) (j : Nat) : (s.setCached a l v).part j = s.part j := rfl
@[simp] theorem State.setCached_port (s : State) (a l : Nat) (v : CacheLine) (j : Nat) : (s.setCached a l v).port j = s.port j := rfl
@[simp] theorem State.setCached_domain (s : State) (a l : Nat) (v : CacheLine) (j : Nat) : (s.setCached a l v).domain j = s.domain j := rfl
@[simp] theorem State.setCached_xfer (s : State) (a l : Nat) (v : CacheLine) (j : Nat) : (s.setCached a l v).xfer j = s.xfer j := rfl
@[simp] theorem State.setCached_pin (s : State) (a l : Nat) (v : CacheLine) (j : Nat) : (s.setCached a l v).pin j = s.pin j := rfl
@[simp] theorem State.setCached_owner (s : State) (a l : Nat) (v : CacheLine) (j : Nat) : (s.setCached a l v).owner j = s.owner j := rfl
@[simp] theorem State.setCached_switchOf (s : State) (a l : Nat) (v : CacheLine) (j : Nat) : (s.setCached a l v).switchOf j = s.switchOf j := rfl
@[simp] theorem State.setCached_session (s : State) (a l : Nat) (v : CacheLine) (j : Nat) : (s.setCached a l v).session j = s.session j := rfl
@[simp] theorem State.setCached_lag (s : State) (a l : Nat) (v : CacheLine) (j : Nat) : (s.setCached a l v).lag j = s.lag j := rfl
@[simp] theorem State.setCached_invs (s : State) (a l : Nat) (v : CacheLine) (j : Nat) : (s.setCached a l v).invs j = s.invs j := rfl
@[simp] theorem State.setCached_win (s : State) (a l : Nat) (v : CacheLine) (j m : Nat) : (s.setCached a l v).win j m = s.win j m := rfl
@[simp] theorem State.setCached_die (s : State) (a l : Nat) (v : CacheLine) : (s.setCached a l v).die = s.die := rfl
@[simp] theorem State.setCached_follower (s : State) (a l : Nat) (v : CacheLine) : (s.setCached a l v).follower = s.follower := rfl
@[simp] theorem State.setCached_config (s : State) (a l : Nat) (v : CacheLine) (j : Nat) : (s.setCached a l v).config j = s.config j := rfl

/-! ### setInvs -/

@[simp] theorem State.setInvs_pending (s : State) (a : Nat) (l : List Nat) : (s.setInvs a l).pending = s.pending := rfl
@[simp] theorem State.setInvs_out (s : State) (a : Nat) (l : List Nat) : (s.setInvs a l).out = s.out := rfl
@[simp] theorem State.setInvs_freeCtr (s : State) (a : Nat) (l : List Nat) : (s.setInvs a l).freeCtr = s.freeCtr := rfl
@[simp] theorem State.setInvs_time (s : State) (a : Nat) (l : List Nat) : (s.setInvs a l).time = s.time := rfl
@[simp] theorem State.setInvs_secDone (s : State) (a : Nat) (l : List Nat) : (s.setInvs a l).secDone = s.secDone := rfl
@[simp] theorem State.setInvs_fuses (s : State) (a : Nat) (l : List Nat) : (s.setInvs a l).fuses = s.fuses := rfl
@[simp] theorem State.setInvs_hostFifo (s : State) (a : Nat) (l : List Nat) : (s.setInvs a l).hostFifo = s.hostFifo := rfl
@[simp] theorem State.setInvs_store (s : State) (a : Nat) (l : List Nat) : (s.setInvs a l).store = s.store := rfl
@[simp] theorem State.setInvs_romKey (s : State) (a : Nat) (l : List Nat) : (s.setInvs a l).romKey = s.romKey := rfl
@[simp] theorem State.setInvs_plru (s : State) (a : Nat) (l : List Nat) : (s.setInvs a l).plru = s.plru := rfl
@[simp] theorem State.setInvs_pcie (s : State) (a : Nat) (l : List Nat) : (s.setInvs a l).pcie = s.pcie := rfl
@[simp] theorem State.setInvs_ideKeys (s : State) (a : Nat) (l : List Nat) : (s.setInvs a l).ideKeys = s.ideKeys := rfl
@[simp] theorem State.setInvs_flash (s : State) (a : Nat) (l : List Nat) : (s.setInvs a l).flash = s.flash := rfl
@[simp] theorem State.setInvs_mgt (s : State) (a : Nat) (l : List Nat) : (s.setInvs a l).mgt = s.mgt := rfl
@[simp] theorem State.setInvs_boot (s : State) (a : Nat) (l : List Nat) : (s.setInvs a l).boot = s.boot := rfl
@[simp] theorem State.setInvs_power (s : State) (a : Nat) (l : List Nat) : (s.setInvs a l).power = s.power := rfl
@[simp] theorem State.setInvs_domains (s : State) (a : Nat) (l : List Nat) : (s.setInvs a l).domains = s.domains := rfl
@[simp] theorem State.setInvs_up (s : State) (a : Nat) (l : List Nat) : (s.setInvs a l).up = s.up := rfl
@[simp] theorem State.setInvs_bus (s : State) (a : Nat) (l : List Nat) : (s.setInvs a l).bus = s.bus := rfl
@[simp] theorem State.setInvs_gpio (s : State) (a : Nat) (l : List Nat) : (s.setInvs a l).gpio = s.gpio := rfl
@[simp] theorem State.setInvs_queues (s : State) (a : Nat) (l : List Nat) : (s.setInvs a l).queues = s.queues := rfl
@[simp] theorem State.setInvs_rings (s : State) (a : Nat) (l : List Nat) : (s.setInvs a l).rings = s.rings := rfl
@[simp] theorem State.setInvs_islets (s : State) (a : Nat) (l : List Nat) : (s.setInvs a l).islets = s.islets := rfl
@[simp] theorem State.setInvs_nums (s : State) (a : Nat) (l : List Nat) : (s.setInvs a l).nums = s.nums := rfl
@[simp] theorem State.setInvs_parts (s : State) (a : Nat) (l : List Nat) : (s.setInvs a l).parts = s.parts := rfl
@[simp] theorem State.setInvs_owners (s : State) (a : Nat) (l : List Nat) : (s.setInvs a l).owners = s.owners := rfl
@[simp] theorem State.setInvs_frozen (s : State) (a : Nat) (l : List Nat) : (s.setInvs a l).frozen = s.frozen := rfl
@[simp] theorem State.setInvs_keys (s : State) (a : Nat) (l : List Nat) : (s.setInvs a l).keys = s.keys := rfl
@[simp] theorem State.setInvs_hbm (s : State) (a : Nat) (l : List Nat) : (s.setInvs a l).hbm = s.hbm := rfl
@[simp] theorem State.setInvs_scratch (s : State) (a : Nat) (l : List Nat) : (s.setInvs a l).scratch = s.scratch := rfl
@[simp] theorem State.setInvs_hbmPoison (s : State) (a : Nat) (l : List Nat) : (s.setInvs a l).hbmPoison = s.hbmPoison := rfl
@[simp] theorem State.setInvs_spPoison (s : State) (a : Nat) (l : List Nat) : (s.setInvs a l).spPoison = s.spPoison := rfl
@[simp] theorem State.setInvs_hbmErr (s : State) (a : Nat) (l : List Nat) : (s.setInvs a l).hbmErr = s.hbmErr := rfl
@[simp] theorem State.setInvs_spErr (s : State) (a : Nat) (l : List Nat) : (s.setInvs a l).spErr = s.spErr := rfl
@[simp] theorem State.setInvs_switches (s : State) (a : Nat) (l : List Nat) : (s.setInvs a l).switches = s.switches := rfl
@[simp] theorem State.setInvs_ports (s : State) (a : Nat) (l : List Nat) : (s.setInvs a l).ports = s.ports := rfl
@[simp] theorem State.setInvs_grants (s : State) (a : Nat) (l : List Nat) : (s.setInvs a l).grants = s.grants := rfl
@[simp] theorem State.setInvs_xfers (s : State) (a : Nat) (l : List Nat) : (s.setInvs a l).xfers = s.xfers := rfl
@[simp] theorem State.setInvs_nextXfer (s : State) (a : Nat) (l : List Nat) : (s.setInvs a l).nextXfer = s.nextXfer := rfl
@[simp] theorem State.setInvs_remotes (s : State) (a : Nat) (l : List Nat) : (s.setInvs a l).remotes = s.remotes := rfl
@[simp] theorem State.setInvs_caches (s : State) (a : Nat) (l : List Nat) : (s.setInvs a l).caches = s.caches := rfl
@[simp] theorem State.setInvs_lagoon (s : State) (a : Nat) (l : List Nat) : (s.setInvs a l).lagoon = s.lagoon := rfl
@[simp] theorem State.setInvs_msixWord (s : State) (a : Nat) (l : List Nat) : (s.setInvs a l).msixWord = s.msixWord := rfl
@[simp] theorem State.setInvs_msixOpen (s : State) (a : Nat) (l : List Nat) : (s.setInvs a l).msixOpen = s.msixOpen := rfl
@[simp] theorem State.setInvs_msixPend (s : State) (a : Nat) (l : List Nat) : (s.setInvs a l).msixPend = s.msixPend := rfl
@[simp] theorem State.setInvs_sessions (s : State) (a : Nat) (l : List Nat) : (s.setInvs a l).sessions = s.sessions := rfl
@[simp] theorem State.setInvs_ideOn (s : State) (a : Nat) (l : List Nat) : (s.setInvs a l).ideOn = s.ideOn := rfl
@[simp] theorem State.setInvs_lastRing (s : State) (a : Nat) (l : List Nat) : (s.setInvs a l).lastRing = s.lastRing := rfl
@[simp] theorem State.setInvs_queue (s : State) (a : Nat) (l : List Nat) (j : Nat) : (s.setInvs a l).queue j = s.queue j := rfl
@[simp] theorem State.setInvs_ring (s : State) (a : Nat) (l : List Nat) (j : Nat) : (s.setInvs a l).ring j = s.ring j := rfl
@[simp] theorem State.setInvs_islet (s : State) (a : Nat) (l : List Nat) (j : Nat) : (s.setInvs a l).islet j = s.islet j := rfl
@[simp] theorem State.setInvs_num (s : State) (a : Nat) (l : List Nat) (j : Nat) : (s.setInvs a l).num j = s.num j := rfl
@[simp] theorem State.setInvs_part (s : State) (a : Nat) (l : List Nat) (j : Nat) : (s.setInvs a l).part j = s.part j := rfl
@[simp] theorem State.setInvs_port (s : State) (a : Nat) (l : List Nat) (j : Nat) : (s.setInvs a l).port j = s.port j := rfl
@[simp] theorem State.setInvs_domain (s : State) (a : Nat) (l : List Nat) (j : Nat) : (s.setInvs a l).domain j = s.domain j := rfl
@[simp] theorem State.setInvs_xfer (s : State) (a : Nat) (l : List Nat) (j : Nat) : (s.setInvs a l).xfer j = s.xfer j := rfl
@[simp] theorem State.setInvs_pin (s : State) (a : Nat) (l : List Nat) (j : Nat) : (s.setInvs a l).pin j = s.pin j := rfl
@[simp] theorem State.setInvs_owner (s : State) (a : Nat) (l : List Nat) (j : Nat) : (s.setInvs a l).owner j = s.owner j := rfl
@[simp] theorem State.setInvs_switchOf (s : State) (a : Nat) (l : List Nat) (j : Nat) : (s.setInvs a l).switchOf j = s.switchOf j := rfl
@[simp] theorem State.setInvs_session (s : State) (a : Nat) (l : List Nat) (j : Nat) : (s.setInvs a l).session j = s.session j := rfl
@[simp] theorem State.setInvs_lag (s : State) (a : Nat) (l : List Nat) (j : Nat) : (s.setInvs a l).lag j = s.lag j := rfl
@[simp] theorem State.setInvs_cached (s : State) (a : Nat) (l : List Nat) (j m : Nat) : (s.setInvs a l).cached j m = s.cached j m := rfl
@[simp] theorem State.setInvs_win (s : State) (a : Nat) (l : List Nat) (j m : Nat) : (s.setInvs a l).win j m = s.win j m := rfl
@[simp] theorem State.setInvs_die (s : State) (a : Nat) (l : List Nat) : (s.setInvs a l).die = s.die := rfl
@[simp] theorem State.setInvs_follower (s : State) (a : Nat) (l : List Nat) : (s.setInvs a l).follower = s.follower := rfl
@[simp] theorem State.setInvs_config (s : State) (a : Nat) (l : List Nat) (j : Nat) : (s.setInvs a l).config j = s.config j := rfl

/-! ### setWin -/

@[simp] theorem State.setWin_pending (s : State) (p w : Nat) (v : Window) : (s.setWin p w v).pending = s.pending := rfl
@[simp] theorem State.setWin_out (s : State) (p w : Nat) (v : Window) : (s.setWin p w v).out = s.out := rfl
@[simp] theorem State.setWin_freeCtr (s : State) (p w : Nat) (v : Window) : (s.setWin p w v).freeCtr = s.freeCtr := rfl
@[simp] theorem State.setWin_time (s : State) (p w : Nat) (v : Window) : (s.setWin p w v).time = s.time := rfl
@[simp] theorem State.setWin_secDone (s : State) (p w : Nat) (v : Window) : (s.setWin p w v).secDone = s.secDone := rfl
@[simp] theorem State.setWin_fuses (s : State) (p w : Nat) (v : Window) : (s.setWin p w v).fuses = s.fuses := rfl
@[simp] theorem State.setWin_hostFifo (s : State) (p w : Nat) (v : Window) : (s.setWin p w v).hostFifo = s.hostFifo := rfl
@[simp] theorem State.setWin_store (s : State) (p w : Nat) (v : Window) : (s.setWin p w v).store = s.store := rfl
@[simp] theorem State.setWin_romKey (s : State) (p w : Nat) (v : Window) : (s.setWin p w v).romKey = s.romKey := rfl
@[simp] theorem State.setWin_plru (s : State) (p w : Nat) (v : Window) : (s.setWin p w v).plru = s.plru := rfl
@[simp] theorem State.setWin_pcie (s : State) (p w : Nat) (v : Window) : (s.setWin p w v).pcie = s.pcie := rfl
@[simp] theorem State.setWin_ideKeys (s : State) (p w : Nat) (v : Window) : (s.setWin p w v).ideKeys = s.ideKeys := rfl
@[simp] theorem State.setWin_flash (s : State) (p w : Nat) (v : Window) : (s.setWin p w v).flash = s.flash := rfl
@[simp] theorem State.setWin_mgt (s : State) (p w : Nat) (v : Window) : (s.setWin p w v).mgt = s.mgt := rfl
@[simp] theorem State.setWin_boot (s : State) (p w : Nat) (v : Window) : (s.setWin p w v).boot = s.boot := rfl
@[simp] theorem State.setWin_power (s : State) (p w : Nat) (v : Window) : (s.setWin p w v).power = s.power := rfl
@[simp] theorem State.setWin_domains (s : State) (p w : Nat) (v : Window) : (s.setWin p w v).domains = s.domains := rfl
@[simp] theorem State.setWin_up (s : State) (p w : Nat) (v : Window) : (s.setWin p w v).up = s.up := rfl
@[simp] theorem State.setWin_bus (s : State) (p w : Nat) (v : Window) : (s.setWin p w v).bus = s.bus := rfl
@[simp] theorem State.setWin_gpio (s : State) (p w : Nat) (v : Window) : (s.setWin p w v).gpio = s.gpio := rfl
@[simp] theorem State.setWin_queues (s : State) (p w : Nat) (v : Window) : (s.setWin p w v).queues = s.queues := rfl
@[simp] theorem State.setWin_rings (s : State) (p w : Nat) (v : Window) : (s.setWin p w v).rings = s.rings := rfl
@[simp] theorem State.setWin_islets (s : State) (p w : Nat) (v : Window) : (s.setWin p w v).islets = s.islets := rfl
@[simp] theorem State.setWin_nums (s : State) (p w : Nat) (v : Window) : (s.setWin p w v).nums = s.nums := rfl
@[simp] theorem State.setWin_owners (s : State) (p w : Nat) (v : Window) : (s.setWin p w v).owners = s.owners := rfl
@[simp] theorem State.setWin_frozen (s : State) (p w : Nat) (v : Window) : (s.setWin p w v).frozen = s.frozen := rfl
@[simp] theorem State.setWin_keys (s : State) (p w : Nat) (v : Window) : (s.setWin p w v).keys = s.keys := rfl
@[simp] theorem State.setWin_hbm (s : State) (p w : Nat) (v : Window) : (s.setWin p w v).hbm = s.hbm := rfl
@[simp] theorem State.setWin_scratch (s : State) (p w : Nat) (v : Window) : (s.setWin p w v).scratch = s.scratch := rfl
@[simp] theorem State.setWin_hbmPoison (s : State) (p w : Nat) (v : Window) : (s.setWin p w v).hbmPoison = s.hbmPoison := rfl
@[simp] theorem State.setWin_spPoison (s : State) (p w : Nat) (v : Window) : (s.setWin p w v).spPoison = s.spPoison := rfl
@[simp] theorem State.setWin_hbmErr (s : State) (p w : Nat) (v : Window) : (s.setWin p w v).hbmErr = s.hbmErr := rfl
@[simp] theorem State.setWin_spErr (s : State) (p w : Nat) (v : Window) : (s.setWin p w v).spErr = s.spErr := rfl
@[simp] theorem State.setWin_switches (s : State) (p w : Nat) (v : Window) : (s.setWin p w v).switches = s.switches := rfl
@[simp] theorem State.setWin_ports (s : State) (p w : Nat) (v : Window) : (s.setWin p w v).ports = s.ports := rfl
@[simp] theorem State.setWin_grants (s : State) (p w : Nat) (v : Window) : (s.setWin p w v).grants = s.grants := rfl
@[simp] theorem State.setWin_xfers (s : State) (p w : Nat) (v : Window) : (s.setWin p w v).xfers = s.xfers := rfl
@[simp] theorem State.setWin_nextXfer (s : State) (p w : Nat) (v : Window) : (s.setWin p w v).nextXfer = s.nextXfer := rfl
@[simp] theorem State.setWin_remotes (s : State) (p w : Nat) (v : Window) : (s.setWin p w v).remotes = s.remotes := rfl
@[simp] theorem State.setWin_caches (s : State) (p w : Nat) (v : Window) : (s.setWin p w v).caches = s.caches := rfl
@[simp] theorem State.setWin_invQueue (s : State) (p w : Nat) (v : Window) : (s.setWin p w v).invQueue = s.invQueue := rfl
@[simp] theorem State.setWin_lagoon (s : State) (p w : Nat) (v : Window) : (s.setWin p w v).lagoon = s.lagoon := rfl
@[simp] theorem State.setWin_msixWord (s : State) (p w : Nat) (v : Window) : (s.setWin p w v).msixWord = s.msixWord := rfl
@[simp] theorem State.setWin_msixOpen (s : State) (p w : Nat) (v : Window) : (s.setWin p w v).msixOpen = s.msixOpen := rfl
@[simp] theorem State.setWin_msixPend (s : State) (p w : Nat) (v : Window) : (s.setWin p w v).msixPend = s.msixPend := rfl
@[simp] theorem State.setWin_sessions (s : State) (p w : Nat) (v : Window) : (s.setWin p w v).sessions = s.sessions := rfl
@[simp] theorem State.setWin_ideOn (s : State) (p w : Nat) (v : Window) : (s.setWin p w v).ideOn = s.ideOn := rfl
@[simp] theorem State.setWin_lastRing (s : State) (p w : Nat) (v : Window) : (s.setWin p w v).lastRing = s.lastRing := rfl
@[simp] theorem State.setWin_queue (s : State) (p w : Nat) (v : Window) (j : Nat) : (s.setWin p w v).queue j = s.queue j := rfl
@[simp] theorem State.setWin_ring (s : State) (p w : Nat) (v : Window) (j : Nat) : (s.setWin p w v).ring j = s.ring j := rfl
@[simp] theorem State.setWin_islet (s : State) (p w : Nat) (v : Window) (j : Nat) : (s.setWin p w v).islet j = s.islet j := rfl
@[simp] theorem State.setWin_num (s : State) (p w : Nat) (v : Window) (j : Nat) : (s.setWin p w v).num j = s.num j := rfl
@[simp] theorem State.setWin_port (s : State) (p w : Nat) (v : Window) (j : Nat) : (s.setWin p w v).port j = s.port j := rfl
@[simp] theorem State.setWin_domain (s : State) (p w : Nat) (v : Window) (j : Nat) : (s.setWin p w v).domain j = s.domain j := rfl
@[simp] theorem State.setWin_xfer (s : State) (p w : Nat) (v : Window) (j : Nat) : (s.setWin p w v).xfer j = s.xfer j := rfl
@[simp] theorem State.setWin_pin (s : State) (p w : Nat) (v : Window) (j : Nat) : (s.setWin p w v).pin j = s.pin j := rfl
@[simp] theorem State.setWin_owner (s : State) (p w : Nat) (v : Window) (j : Nat) : (s.setWin p w v).owner j = s.owner j := rfl
@[simp] theorem State.setWin_switchOf (s : State) (p w : Nat) (v : Window) (j : Nat) : (s.setWin p w v).switchOf j = s.switchOf j := rfl
@[simp] theorem State.setWin_session (s : State) (p w : Nat) (v : Window) (j : Nat) : (s.setWin p w v).session j = s.session j := rfl
@[simp] theorem State.setWin_lag (s : State) (p w : Nat) (v : Window) (j : Nat) : (s.setWin p w v).lag j = s.lag j := rfl
@[simp] theorem State.setWin_cached (s : State) (p w : Nat) (v : Window) (j m : Nat) : (s.setWin p w v).cached j m = s.cached j m := rfl
@[simp] theorem State.setWin_invs (s : State) (p w : Nat) (v : Window) (j : Nat) : (s.setWin p w v).invs j = s.invs j := rfl
@[simp] theorem State.setWin_die (s : State) (p w : Nat) (v : Window) : (s.setWin p w v).die = s.die := rfl
@[simp] theorem State.setWin_follower (s : State) (p w : Nat) (v : Window) : (s.setWin p w v).follower = s.follower := rfl
@[simp] theorem State.setWin_config (s : State) (p w : Nat) (v : Window) (j : Nat) : (s.setWin p w v).config j = s.config j := rfl

/-! ### setRun -/

@[simp] theorem State.setRun_pending (s : State) (q i : Nat) (r : Run) : (s.setRun q i r).pending = s.pending := rfl
@[simp] theorem State.setRun_out (s : State) (q i : Nat) (r : Run) : (s.setRun q i r).out = s.out := rfl
@[simp] theorem State.setRun_freeCtr (s : State) (q i : Nat) (r : Run) : (s.setRun q i r).freeCtr = s.freeCtr := rfl
@[simp] theorem State.setRun_time (s : State) (q i : Nat) (r : Run) : (s.setRun q i r).time = s.time := rfl
@[simp] theorem State.setRun_secDone (s : State) (q i : Nat) (r : Run) : (s.setRun q i r).secDone = s.secDone := rfl
@[simp] theorem State.setRun_fuses (s : State) (q i : Nat) (r : Run) : (s.setRun q i r).fuses = s.fuses := rfl
@[simp] theorem State.setRun_hostFifo (s : State) (q i : Nat) (r : Run) : (s.setRun q i r).hostFifo = s.hostFifo := rfl
@[simp] theorem State.setRun_store (s : State) (q i : Nat) (r : Run) : (s.setRun q i r).store = s.store := rfl
@[simp] theorem State.setRun_romKey (s : State) (q i : Nat) (r : Run) : (s.setRun q i r).romKey = s.romKey := rfl
@[simp] theorem State.setRun_plru (s : State) (q i : Nat) (r : Run) : (s.setRun q i r).plru = s.plru := rfl
@[simp] theorem State.setRun_pcie (s : State) (q i : Nat) (r : Run) : (s.setRun q i r).pcie = s.pcie := rfl
@[simp] theorem State.setRun_ideKeys (s : State) (q i : Nat) (r : Run) : (s.setRun q i r).ideKeys = s.ideKeys := rfl
@[simp] theorem State.setRun_flash (s : State) (q i : Nat) (r : Run) : (s.setRun q i r).flash = s.flash := rfl
@[simp] theorem State.setRun_mgt (s : State) (q i : Nat) (r : Run) : (s.setRun q i r).mgt = s.mgt := rfl
@[simp] theorem State.setRun_boot (s : State) (q i : Nat) (r : Run) : (s.setRun q i r).boot = s.boot := rfl
@[simp] theorem State.setRun_power (s : State) (q i : Nat) (r : Run) : (s.setRun q i r).power = s.power := rfl
@[simp] theorem State.setRun_domains (s : State) (q i : Nat) (r : Run) : (s.setRun q i r).domains = s.domains := rfl
@[simp] theorem State.setRun_up (s : State) (q i : Nat) (r : Run) : (s.setRun q i r).up = s.up := rfl
@[simp] theorem State.setRun_bus (s : State) (q i : Nat) (r : Run) : (s.setRun q i r).bus = s.bus := rfl
@[simp] theorem State.setRun_gpio (s : State) (q i : Nat) (r : Run) : (s.setRun q i r).gpio = s.gpio := rfl
@[simp] theorem State.setRun_rings (s : State) (q i : Nat) (r : Run) : (s.setRun q i r).rings = s.rings := rfl
@[simp] theorem State.setRun_islets (s : State) (q i : Nat) (r : Run) : (s.setRun q i r).islets = s.islets := rfl
@[simp] theorem State.setRun_nums (s : State) (q i : Nat) (r : Run) : (s.setRun q i r).nums = s.nums := rfl
@[simp] theorem State.setRun_parts (s : State) (q i : Nat) (r : Run) : (s.setRun q i r).parts = s.parts := rfl
@[simp] theorem State.setRun_owners (s : State) (q i : Nat) (r : Run) : (s.setRun q i r).owners = s.owners := rfl
@[simp] theorem State.setRun_frozen (s : State) (q i : Nat) (r : Run) : (s.setRun q i r).frozen = s.frozen := rfl
@[simp] theorem State.setRun_keys (s : State) (q i : Nat) (r : Run) : (s.setRun q i r).keys = s.keys := rfl
@[simp] theorem State.setRun_hbm (s : State) (q i : Nat) (r : Run) : (s.setRun q i r).hbm = s.hbm := rfl
@[simp] theorem State.setRun_scratch (s : State) (q i : Nat) (r : Run) : (s.setRun q i r).scratch = s.scratch := rfl
@[simp] theorem State.setRun_hbmPoison (s : State) (q i : Nat) (r : Run) : (s.setRun q i r).hbmPoison = s.hbmPoison := rfl
@[simp] theorem State.setRun_spPoison (s : State) (q i : Nat) (r : Run) : (s.setRun q i r).spPoison = s.spPoison := rfl
@[simp] theorem State.setRun_hbmErr (s : State) (q i : Nat) (r : Run) : (s.setRun q i r).hbmErr = s.hbmErr := rfl
@[simp] theorem State.setRun_spErr (s : State) (q i : Nat) (r : Run) : (s.setRun q i r).spErr = s.spErr := rfl
@[simp] theorem State.setRun_switches (s : State) (q i : Nat) (r : Run) : (s.setRun q i r).switches = s.switches := rfl
@[simp] theorem State.setRun_ports (s : State) (q i : Nat) (r : Run) : (s.setRun q i r).ports = s.ports := rfl
@[simp] theorem State.setRun_grants (s : State) (q i : Nat) (r : Run) : (s.setRun q i r).grants = s.grants := rfl
@[simp] theorem State.setRun_xfers (s : State) (q i : Nat) (r : Run) : (s.setRun q i r).xfers = s.xfers := rfl
@[simp] theorem State.setRun_nextXfer (s : State) (q i : Nat) (r : Run) : (s.setRun q i r).nextXfer = s.nextXfer := rfl
@[simp] theorem State.setRun_remotes (s : State) (q i : Nat) (r : Run) : (s.setRun q i r).remotes = s.remotes := rfl
@[simp] theorem State.setRun_caches (s : State) (q i : Nat) (r : Run) : (s.setRun q i r).caches = s.caches := rfl
@[simp] theorem State.setRun_invQueue (s : State) (q i : Nat) (r : Run) : (s.setRun q i r).invQueue = s.invQueue := rfl
@[simp] theorem State.setRun_lagoon (s : State) (q i : Nat) (r : Run) : (s.setRun q i r).lagoon = s.lagoon := rfl
@[simp] theorem State.setRun_msixWord (s : State) (q i : Nat) (r : Run) : (s.setRun q i r).msixWord = s.msixWord := rfl
@[simp] theorem State.setRun_msixOpen (s : State) (q i : Nat) (r : Run) : (s.setRun q i r).msixOpen = s.msixOpen := rfl
@[simp] theorem State.setRun_msixPend (s : State) (q i : Nat) (r : Run) : (s.setRun q i r).msixPend = s.msixPend := rfl
@[simp] theorem State.setRun_sessions (s : State) (q i : Nat) (r : Run) : (s.setRun q i r).sessions = s.sessions := rfl
@[simp] theorem State.setRun_ideOn (s : State) (q i : Nat) (r : Run) : (s.setRun q i r).ideOn = s.ideOn := rfl
@[simp] theorem State.setRun_lastRing (s : State) (q i : Nat) (r : Run) : (s.setRun q i r).lastRing = s.lastRing := rfl
@[simp] theorem State.setRun_ring (s : State) (q i : Nat) (r : Run) (j : Nat) : (s.setRun q i r).ring j = s.ring j := rfl
@[simp] theorem State.setRun_islet (s : State) (q i : Nat) (r : Run) (j : Nat) : (s.setRun q i r).islet j = s.islet j := rfl
@[simp] theorem State.setRun_num (s : State) (q i : Nat) (r : Run) (j : Nat) : (s.setRun q i r).num j = s.num j := rfl
@[simp] theorem State.setRun_part (s : State) (q i : Nat) (r : Run) (j : Nat) : (s.setRun q i r).part j = s.part j := rfl
@[simp] theorem State.setRun_port (s : State) (q i : Nat) (r : Run) (j : Nat) : (s.setRun q i r).port j = s.port j := rfl
@[simp] theorem State.setRun_domain (s : State) (q i : Nat) (r : Run) (j : Nat) : (s.setRun q i r).domain j = s.domain j := rfl
@[simp] theorem State.setRun_xfer (s : State) (q i : Nat) (r : Run) (j : Nat) : (s.setRun q i r).xfer j = s.xfer j := rfl
@[simp] theorem State.setRun_pin (s : State) (q i : Nat) (r : Run) (j : Nat) : (s.setRun q i r).pin j = s.pin j := rfl
@[simp] theorem State.setRun_owner (s : State) (q i : Nat) (r : Run) (j : Nat) : (s.setRun q i r).owner j = s.owner j := rfl
@[simp] theorem State.setRun_switchOf (s : State) (q i : Nat) (r : Run) (j : Nat) : (s.setRun q i r).switchOf j = s.switchOf j := rfl
@[simp] theorem State.setRun_session (s : State) (q i : Nat) (r : Run) (j : Nat) : (s.setRun q i r).session j = s.session j := rfl
@[simp] theorem State.setRun_lag (s : State) (q i : Nat) (r : Run) (j : Nat) : (s.setRun q i r).lag j = s.lag j := rfl
@[simp] theorem State.setRun_cached (s : State) (q i : Nat) (r : Run) (j m : Nat) : (s.setRun q i r).cached j m = s.cached j m := rfl
@[simp] theorem State.setRun_invs (s : State) (q i : Nat) (r : Run) (j : Nat) : (s.setRun q i r).invs j = s.invs j := rfl
@[simp] theorem State.setRun_win (s : State) (q i : Nat) (r : Run) (j m : Nat) : (s.setRun q i r).win j m = s.win j m := rfl
@[simp] theorem State.setRun_die (s : State) (q i : Nat) (r : Run) : (s.setRun q i r).die = s.die := rfl
@[simp] theorem State.setRun_follower (s : State) (q i : Nat) (r : Run) : (s.setRun q i r).follower = s.follower := rfl
@[simp] theorem State.setRun_config (s : State) (q i : Nat) (r : Run) (j : Nat) : (s.setRun q i r).config j = s.config j := rfl

/-! ### emit -/

@[simp] theorem State.emit_pending (s : State) (o : Out) : (s.emit o).pending = s.pending := rfl
@[simp] theorem State.emit_freeCtr (s : State) (o : Out) : (s.emit o).freeCtr = s.freeCtr := rfl
@[simp] theorem State.emit_time (s : State) (o : Out) : (s.emit o).time = s.time := rfl
@[simp] theorem State.emit_secDone (s : State) (o : Out) : (s.emit o).secDone = s.secDone := rfl
@[simp] theorem State.emit_fuses (s : State) (o : Out) : (s.emit o).fuses = s.fuses := rfl
@[simp] theorem State.emit_hostFifo (s : State) (o : Out) : (s.emit o).hostFifo = s.hostFifo := rfl
@[simp] theorem State.emit_store (s : State) (o : Out) : (s.emit o).store = s.store := rfl
@[simp] theorem State.emit_romKey (s : State) (o : Out) : (s.emit o).romKey = s.romKey := rfl
@[simp] theorem State.emit_plru (s : State) (o : Out) : (s.emit o).plru = s.plru := rfl
@[simp] theorem State.emit_pcie (s : State) (o : Out) : (s.emit o).pcie = s.pcie := rfl
@[simp] theorem State.emit_ideKeys (s : State) (o : Out) : (s.emit o).ideKeys = s.ideKeys := rfl
@[simp] theorem State.emit_flash (s : State) (o : Out) : (s.emit o).flash = s.flash := rfl
@[simp] theorem State.emit_mgt (s : State) (o : Out) : (s.emit o).mgt = s.mgt := rfl
@[simp] theorem State.emit_boot (s : State) (o : Out) : (s.emit o).boot = s.boot := rfl
@[simp] theorem State.emit_power (s : State) (o : Out) : (s.emit o).power = s.power := rfl
@[simp] theorem State.emit_domains (s : State) (o : Out) : (s.emit o).domains = s.domains := rfl
@[simp] theorem State.emit_up (s : State) (o : Out) : (s.emit o).up = s.up := rfl
@[simp] theorem State.emit_bus (s : State) (o : Out) : (s.emit o).bus = s.bus := rfl
@[simp] theorem State.emit_gpio (s : State) (o : Out) : (s.emit o).gpio = s.gpio := rfl
@[simp] theorem State.emit_queues (s : State) (o : Out) : (s.emit o).queues = s.queues := rfl
@[simp] theorem State.emit_rings (s : State) (o : Out) : (s.emit o).rings = s.rings := rfl
@[simp] theorem State.emit_islets (s : State) (o : Out) : (s.emit o).islets = s.islets := rfl
@[simp] theorem State.emit_nums (s : State) (o : Out) : (s.emit o).nums = s.nums := rfl
@[simp] theorem State.emit_parts (s : State) (o : Out) : (s.emit o).parts = s.parts := rfl
@[simp] theorem State.emit_owners (s : State) (o : Out) : (s.emit o).owners = s.owners := rfl
@[simp] theorem State.emit_frozen (s : State) (o : Out) : (s.emit o).frozen = s.frozen := rfl
@[simp] theorem State.emit_keys (s : State) (o : Out) : (s.emit o).keys = s.keys := rfl
@[simp] theorem State.emit_hbm (s : State) (o : Out) : (s.emit o).hbm = s.hbm := rfl
@[simp] theorem State.emit_scratch (s : State) (o : Out) : (s.emit o).scratch = s.scratch := rfl
@[simp] theorem State.emit_hbmPoison (s : State) (o : Out) : (s.emit o).hbmPoison = s.hbmPoison := rfl
@[simp] theorem State.emit_spPoison (s : State) (o : Out) : (s.emit o).spPoison = s.spPoison := rfl
@[simp] theorem State.emit_hbmErr (s : State) (o : Out) : (s.emit o).hbmErr = s.hbmErr := rfl
@[simp] theorem State.emit_spErr (s : State) (o : Out) : (s.emit o).spErr = s.spErr := rfl
@[simp] theorem State.emit_switches (s : State) (o : Out) : (s.emit o).switches = s.switches := rfl
@[simp] theorem State.emit_ports (s : State) (o : Out) : (s.emit o).ports = s.ports := rfl
@[simp] theorem State.emit_grants (s : State) (o : Out) : (s.emit o).grants = s.grants := rfl
@[simp] theorem State.emit_xfers (s : State) (o : Out) : (s.emit o).xfers = s.xfers := rfl
@[simp] theorem State.emit_nextXfer (s : State) (o : Out) : (s.emit o).nextXfer = s.nextXfer := rfl
@[simp] theorem State.emit_remotes (s : State) (o : Out) : (s.emit o).remotes = s.remotes := rfl
@[simp] theorem State.emit_caches (s : State) (o : Out) : (s.emit o).caches = s.caches := rfl
@[simp] theorem State.emit_invQueue (s : State) (o : Out) : (s.emit o).invQueue = s.invQueue := rfl
@[simp] theorem State.emit_lagoon (s : State) (o : Out) : (s.emit o).lagoon = s.lagoon := rfl
@[simp] theorem State.emit_msixWord (s : State) (o : Out) : (s.emit o).msixWord = s.msixWord := rfl
@[simp] theorem State.emit_msixOpen (s : State) (o : Out) : (s.emit o).msixOpen = s.msixOpen := rfl
@[simp] theorem State.emit_msixPend (s : State) (o : Out) : (s.emit o).msixPend = s.msixPend := rfl
@[simp] theorem State.emit_sessions (s : State) (o : Out) : (s.emit o).sessions = s.sessions := rfl
@[simp] theorem State.emit_ideOn (s : State) (o : Out) : (s.emit o).ideOn = s.ideOn := rfl
@[simp] theorem State.emit_lastRing (s : State) (o : Out) : (s.emit o).lastRing = s.lastRing := rfl
@[simp] theorem State.emit_queue (s : State) (o : Out) (j : Nat) : (s.emit o).queue j = s.queue j := rfl
@[simp] theorem State.emit_ring (s : State) (o : Out) (j : Nat) : (s.emit o).ring j = s.ring j := rfl
@[simp] theorem State.emit_islet (s : State) (o : Out) (j : Nat) : (s.emit o).islet j = s.islet j := rfl
@[simp] theorem State.emit_num (s : State) (o : Out) (j : Nat) : (s.emit o).num j = s.num j := rfl
@[simp] theorem State.emit_part (s : State) (o : Out) (j : Nat) : (s.emit o).part j = s.part j := rfl
@[simp] theorem State.emit_port (s : State) (o : Out) (j : Nat) : (s.emit o).port j = s.port j := rfl
@[simp] theorem State.emit_domain (s : State) (o : Out) (j : Nat) : (s.emit o).domain j = s.domain j := rfl
@[simp] theorem State.emit_xfer (s : State) (o : Out) (j : Nat) : (s.emit o).xfer j = s.xfer j := rfl
@[simp] theorem State.emit_pin (s : State) (o : Out) (j : Nat) : (s.emit o).pin j = s.pin j := rfl
@[simp] theorem State.emit_owner (s : State) (o : Out) (j : Nat) : (s.emit o).owner j = s.owner j := rfl
@[simp] theorem State.emit_switchOf (s : State) (o : Out) (j : Nat) : (s.emit o).switchOf j = s.switchOf j := rfl
@[simp] theorem State.emit_session (s : State) (o : Out) (j : Nat) : (s.emit o).session j = s.session j := rfl
@[simp] theorem State.emit_lag (s : State) (o : Out) (j : Nat) : (s.emit o).lag j = s.lag j := rfl
@[simp] theorem State.emit_cached (s : State) (o : Out) (j m : Nat) : (s.emit o).cached j m = s.cached j m := rfl
@[simp] theorem State.emit_invs (s : State) (o : Out) (j : Nat) : (s.emit o).invs j = s.invs j := rfl
@[simp] theorem State.emit_win (s : State) (o : Out) (j m : Nat) : (s.emit o).win j m = s.win j m := rfl
@[simp] theorem State.emit_die (s : State) (o : Out) : (s.emit o).die = s.die := rfl
@[simp] theorem State.emit_follower (s : State) (o : Out) : (s.emit o).follower = s.follower := rfl
@[simp] theorem State.emit_config (s : State) (o : Out) (j : Nat) : (s.emit o).config j = s.config j := rfl

/-! ### freeTaken -/

@[simp] theorem State.freeTaken_pending (s : State) : (s.freeTaken).pending = s.pending := rfl
@[simp] theorem State.freeTaken_out (s : State) : (s.freeTaken).out = s.out := rfl
@[simp] theorem State.freeTaken_time (s : State) : (s.freeTaken).time = s.time := rfl
@[simp] theorem State.freeTaken_secDone (s : State) : (s.freeTaken).secDone = s.secDone := rfl
@[simp] theorem State.freeTaken_fuses (s : State) : (s.freeTaken).fuses = s.fuses := rfl
@[simp] theorem State.freeTaken_hostFifo (s : State) : (s.freeTaken).hostFifo = s.hostFifo := rfl
@[simp] theorem State.freeTaken_store (s : State) : (s.freeTaken).store = s.store := rfl
@[simp] theorem State.freeTaken_romKey (s : State) : (s.freeTaken).romKey = s.romKey := rfl
@[simp] theorem State.freeTaken_plru (s : State) : (s.freeTaken).plru = s.plru := rfl
@[simp] theorem State.freeTaken_pcie (s : State) : (s.freeTaken).pcie = s.pcie := rfl
@[simp] theorem State.freeTaken_ideKeys (s : State) : (s.freeTaken).ideKeys = s.ideKeys := rfl
@[simp] theorem State.freeTaken_flash (s : State) : (s.freeTaken).flash = s.flash := rfl
@[simp] theorem State.freeTaken_mgt (s : State) : (s.freeTaken).mgt = s.mgt := rfl
@[simp] theorem State.freeTaken_boot (s : State) : (s.freeTaken).boot = s.boot := rfl
@[simp] theorem State.freeTaken_power (s : State) : (s.freeTaken).power = s.power := rfl
@[simp] theorem State.freeTaken_domains (s : State) : (s.freeTaken).domains = s.domains := rfl
@[simp] theorem State.freeTaken_up (s : State) : (s.freeTaken).up = s.up := rfl
@[simp] theorem State.freeTaken_bus (s : State) : (s.freeTaken).bus = s.bus := rfl
@[simp] theorem State.freeTaken_gpio (s : State) : (s.freeTaken).gpio = s.gpio := rfl
@[simp] theorem State.freeTaken_queues (s : State) : (s.freeTaken).queues = s.queues := rfl
@[simp] theorem State.freeTaken_rings (s : State) : (s.freeTaken).rings = s.rings := rfl
@[simp] theorem State.freeTaken_islets (s : State) : (s.freeTaken).islets = s.islets := rfl
@[simp] theorem State.freeTaken_nums (s : State) : (s.freeTaken).nums = s.nums := rfl
@[simp] theorem State.freeTaken_parts (s : State) : (s.freeTaken).parts = s.parts := rfl
@[simp] theorem State.freeTaken_owners (s : State) : (s.freeTaken).owners = s.owners := rfl
@[simp] theorem State.freeTaken_frozen (s : State) : (s.freeTaken).frozen = s.frozen := rfl
@[simp] theorem State.freeTaken_keys (s : State) : (s.freeTaken).keys = s.keys := rfl
@[simp] theorem State.freeTaken_hbm (s : State) : (s.freeTaken).hbm = s.hbm := rfl
@[simp] theorem State.freeTaken_scratch (s : State) : (s.freeTaken).scratch = s.scratch := rfl
@[simp] theorem State.freeTaken_hbmPoison (s : State) : (s.freeTaken).hbmPoison = s.hbmPoison := rfl
@[simp] theorem State.freeTaken_spPoison (s : State) : (s.freeTaken).spPoison = s.spPoison := rfl
@[simp] theorem State.freeTaken_hbmErr (s : State) : (s.freeTaken).hbmErr = s.hbmErr := rfl
@[simp] theorem State.freeTaken_spErr (s : State) : (s.freeTaken).spErr = s.spErr := rfl
@[simp] theorem State.freeTaken_switches (s : State) : (s.freeTaken).switches = s.switches := rfl
@[simp] theorem State.freeTaken_ports (s : State) : (s.freeTaken).ports = s.ports := rfl
@[simp] theorem State.freeTaken_grants (s : State) : (s.freeTaken).grants = s.grants := rfl
@[simp] theorem State.freeTaken_xfers (s : State) : (s.freeTaken).xfers = s.xfers := rfl
@[simp] theorem State.freeTaken_nextXfer (s : State) : (s.freeTaken).nextXfer = s.nextXfer := rfl
@[simp] theorem State.freeTaken_remotes (s : State) : (s.freeTaken).remotes = s.remotes := rfl
@[simp] theorem State.freeTaken_caches (s : State) : (s.freeTaken).caches = s.caches := rfl
@[simp] theorem State.freeTaken_invQueue (s : State) : (s.freeTaken).invQueue = s.invQueue := rfl
@[simp] theorem State.freeTaken_lagoon (s : State) : (s.freeTaken).lagoon = s.lagoon := rfl
@[simp] theorem State.freeTaken_msixWord (s : State) : (s.freeTaken).msixWord = s.msixWord := rfl
@[simp] theorem State.freeTaken_msixOpen (s : State) : (s.freeTaken).msixOpen = s.msixOpen := rfl
@[simp] theorem State.freeTaken_msixPend (s : State) : (s.freeTaken).msixPend = s.msixPend := rfl
@[simp] theorem State.freeTaken_sessions (s : State) : (s.freeTaken).sessions = s.sessions := rfl
@[simp] theorem State.freeTaken_ideOn (s : State) : (s.freeTaken).ideOn = s.ideOn := rfl
@[simp] theorem State.freeTaken_lastRing (s : State) : (s.freeTaken).lastRing = s.lastRing := rfl
@[simp] theorem State.freeTaken_queue (s : State) (j : Nat) : (s.freeTaken).queue j = s.queue j := rfl
@[simp] theorem State.freeTaken_ring (s : State) (j : Nat) : (s.freeTaken).ring j = s.ring j := rfl
@[simp] theorem State.freeTaken_islet (s : State) (j : Nat) : (s.freeTaken).islet j = s.islet j := rfl
@[simp] theorem State.freeTaken_num (s : State) (j : Nat) : (s.freeTaken).num j = s.num j := rfl
@[simp] theorem State.freeTaken_part (s : State) (j : Nat) : (s.freeTaken).part j = s.part j := rfl
@[simp] theorem State.freeTaken_port (s : State) (j : Nat) : (s.freeTaken).port j = s.port j := rfl
@[simp] theorem State.freeTaken_domain (s : State) (j : Nat) : (s.freeTaken).domain j = s.domain j := rfl
@[simp] theorem State.freeTaken_xfer (s : State) (j : Nat) : (s.freeTaken).xfer j = s.xfer j := rfl
@[simp] theorem State.freeTaken_pin (s : State) (j : Nat) : (s.freeTaken).pin j = s.pin j := rfl
@[simp] theorem State.freeTaken_owner (s : State) (j : Nat) : (s.freeTaken).owner j = s.owner j := rfl
@[simp] theorem State.freeTaken_switchOf (s : State) (j : Nat) : (s.freeTaken).switchOf j = s.switchOf j := rfl
@[simp] theorem State.freeTaken_session (s : State) (j : Nat) : (s.freeTaken).session j = s.session j := rfl
@[simp] theorem State.freeTaken_lag (s : State) (j : Nat) : (s.freeTaken).lag j = s.lag j := rfl
@[simp] theorem State.freeTaken_cached (s : State) (j m : Nat) : (s.freeTaken).cached j m = s.cached j m := rfl
@[simp] theorem State.freeTaken_invs (s : State) (j : Nat) : (s.freeTaken).invs j = s.invs j := rfl
@[simp] theorem State.freeTaken_win (s : State) (j m : Nat) : (s.freeTaken).win j m = s.win j m := rfl
@[simp] theorem State.freeTaken_die (s : State) : (s.freeTaken).die = s.die := rfl
@[simp] theorem State.freeTaken_follower (s : State) : (s.freeTaken).follower = s.follower := rfl
@[simp] theorem State.freeTaken_config (s : State) (j : Nat) : (s.freeTaken).config j = s.config j := rfl

/-! ### An accessor after its own update -/

/-- `queue` after `setQueue`. -/
theorem State.queue_setQueue (s : State) (q j : Nat) (v : Queue) : (s.setQueue q v).queue j = if j = q then v else s.queue j :=
  Table.get_set _ _ _ _ _

@[simp] theorem State.queue_setQueue_same (s : State) (q : Nat) (v : Queue) : (s.setQueue q v).queue q = v := by
  simp [State.queue_setQueue]

/-- `ring` after `setRing`. -/
theorem State.ring_setRing (s : State) (c j : Nat) (v : Ring) : (s.setRing c v).ring j = if j = c then v else s.ring j :=
  Table.get_set _ _ _ _ _

@[simp] theorem State.ring_setRing_same (s : State) (c : Nat) (v : Ring) : (s.setRing c v).ring c = v := by
  simp [State.ring_setRing]

/-- `islet` after `setIslet`. -/
theorem State.islet_setIslet (s : State) (n j : Nat) (v : Islet) : (s.setIslet n v).islet j = if j = n then v else s.islet j :=
  Table.get_set _ _ _ _ _

@[simp] theorem State.islet_setIslet_same (s : State) (n : Nat) (v : Islet) : (s.setIslet n v).islet n = v := by
  simp [State.islet_setIslet]

/-- `num` after `setNum`. -/
theorem State.num_setNum (s : State) (q j : Nat) (v : Num) : (s.setNum q v).num j = if j = q then v else s.num j :=
  Table.get_set _ _ _ _ _

@[simp] theorem State.num_setNum_same (s : State) (q : Nat) (v : Num) : (s.setNum q v).num q = v := by
  simp [State.num_setNum]

/-- `part` after `setPart`. -/
theorem State.part_setPart (s : State) (p j : Nat) (v : Part) : (s.setPart p v).part j = if j = p then v else s.part j :=
  Table.get_set _ _ _ _ _

@[simp] theorem State.part_setPart_same (s : State) (p : Nat) (v : Part) : (s.setPart p v).part p = v := by
  simp [State.part_setPart]

/-- `port` after `setPort`. -/
theorem State.port_setPort (s : State) (p j : Nat) (v : Port) : (s.setPort p v).port j = if j = p then v else s.port j :=
  Table.get_set _ _ _ _ _

@[simp] theorem State.port_setPort_same (s : State) (p : Nat) (v : Port) : (s.setPort p v).port p = v := by
  simp [State.port_setPort]

/-- `domain` after `setDomain`. -/
theorem State.domain_setDomain (s : State) (d j : Nat) (v : Domain) : (s.setDomain d v).domain j = if j = d then v else s.domain j :=
  Table.get_set _ _ _ _ _

@[simp] theorem State.domain_setDomain_same (s : State) (d : Nat) (v : Domain) : (s.setDomain d v).domain d = v := by
  simp [State.domain_setDomain]

/-- `xfer` after `setXfer`. -/
theorem State.xfer_setXfer (s : State) (x j : Nat) (v : Xfer) : (s.setXfer x v).xfer j = if j = x then v else s.xfer j :=
  Table.get_set _ _ _ _ _

@[simp] theorem State.xfer_setXfer_same (s : State) (x : Nat) (v : Xfer) : (s.setXfer x v).xfer x = v := by
  simp [State.xfer_setXfer]

/-- `pin` after `setPin`. -/
theorem State.pin_setPin (s : State) (k j : Nat) (v : Pin) : (s.setPin k v).pin j = if j = k then v else s.pin j :=
  Table.get_set _ _ _ _ _

@[simp] theorem State.pin_setPin_same (s : State) (k : Nat) (v : Pin) : (s.setPin k v).pin k = v := by
  simp [State.pin_setPin]

/-- `owner` after `setOwner`. -/
theorem State.owner_setOwner (s : State) (g j : Nat) (v : Nat) : (s.setOwner g v).owner j = if j = g then v else s.owner j :=
  Table.get_set _ _ _ _ _

@[simp] theorem State.owner_setOwner_same (s : State) (g : Nat) (v : Nat) : (s.setOwner g v).owner g = v := by
  simp [State.owner_setOwner]

/-- `switchOf` after `setSwitch`. -/
theorem State.switchOf_setSwitch (s : State) (p j : Nat) (v : Option Switch) : (s.setSwitch p v).switchOf j = if j = p then v else s.switchOf j :=
  Table.get_set _ _ _ _ _

@[simp] theorem State.switchOf_setSwitch_same (s : State) (p : Nat) (v : Option Switch) : (s.setSwitch p v).switchOf p = v := by
  simp [State.switchOf_setSwitch]

/-- `session` after `setSession`. -/
theorem State.session_setSession (s : State) (f j : Nat) (v : Session) : (s.setSession f v).session j = if j = f then v else s.session j :=
  Table.get_set _ _ _ _ _

@[simp] theorem State.session_setSession_same (s : State) (f : Nat) (v : Session) : (s.setSession f v).session f = v := by
  simp [State.session_setSession]

/-- `lag` after `setLag`. -/
theorem State.lag_setLag (s : State) (l j : Nat) (v : LagLine) : (s.setLag l v).lag j = if j = l then v else s.lag j :=
  Table.get_set _ _ _ _ _

@[simp] theorem State.lag_setLag_same (s : State) (l : Nat) (v : LagLine) : (s.setLag l v).lag l = v := by
  simp [State.lag_setLag]

/-- `invs` after `setInvs`. -/
theorem State.invs_setInvs (s : State) (a j : Nat) (v : List Nat) : (s.setInvs a v).invs j = if j = a then v else s.invs j :=
  Table.get_set _ _ _ _ _

@[simp] theorem State.invs_setInvs_same (s : State) (a : Nat) (v : List Nat) : (s.setInvs a v).invs a = v := by
  simp [State.invs_setInvs]

/-- The windows of a partition after one of them changes. -/
theorem State.win_setWin (s : State) (p w a b : Nat) (v : Window) :
    (s.setWin p w v).win a b = if a = p ∧ b = w then v else s.win a b := by
  unfold State.setWin State.win
  rw [State.part_setPart]
  by_cases h : a = p
  · subst h; simp [Table.get_set]
  · simp [h]

/-- The credit of a channel after one changes. -/
theorem Port.credit_setCredit (t : Port) (v w : Nat) (c : Credit) :
    (t.setCredit v c).credit w = if w = v then c else t.credit w := Table.get_set _ _ _ _ _

/-- The started commands of a queue after one of them changes. -/
theorem State.runAt_setRun (s : State) (q i c j : Nat) (r x : Run) (h : s.runAt q i = some x) :
    (s.setRun q i r).runAt c j = if c = q ∧ j = i then some r else s.runAt c j := by
  unfold State.setRun State.runAt at *
  rw [State.queue_setQueue]
  obtain ⟨hi, -⟩ := List.getElem?_eq_some_iff.mp h
  by_cases hc : c = q
  · subst hc
    by_cases hj : j = i
    · subst hj; simp [hi]
    · simp [hj, Ne.symm hj]
  · simp [hc]

end Sys2Proof.Machine
end

