-- ==== Sys2Proof/Laws/Events.lean ====
section
/-! SUPPORT. What raising an event, posting a completion, judging the ledger and evaluating the waiting heads may change: each
shared operation of Machine/Ops.lean in one lemma. `Evt s t` says that `t` is `s` with other values of twelve fields only; taken
apart, it gives every other field at once. -/

namespace Sys2Proof.Machine

/-- `t` differs from `s` in outputs and what waits for the host, power, upkeep, queues, rings, Islets, partitions, ports, grants, transfers
and pending messages only. -/
def Evt (s t : State) : Prop :=
  ∃ o w u q f r i p k g x m,
    t = { s with out := o, power := w, up := u, queues := q, hostFifo := f, rings := r, islets := i, parts := p, ports := k, grants := g,
                 xfers := x, msixPend := m }

theorem Evt.refl (s : State) : Evt s s := ⟨_, _, _, _, _, _, _, _, _, _, _, _, rfl⟩

theorem Evt.trans {s t u : State} (h : Evt s t) (k : Evt t u) : Evt s u := by
  obtain ⟨_, _, _, _, _, _, _, _, _, _, _, _, rfl⟩ := h
  obtain ⟨_, _, _, _, _, _, _, _, _, _, _, _, rfl⟩ := k
  exact ⟨_, _, _, _, _, _, _, _, _, _, _, _, rfl⟩

/-- A fold of such operations is such an operation. -/
theorem Evt.foldl {α : Type} (f : State → α → State) (h : ∀ s x, Evt s (f s x)) (l : List α) (s : State) : Evt s (l.foldl f s) := by
  induction l generalizing s with
  | nil => exact Evt.refl s
  | cons x l ih => exact (h s x).trans (ih _)

/-- A choice between two such operations. -/
theorem Evt.ite {c : Prop} [Decidable c] {s t u : State} (h : Evt s t) (k : Evt s u) : Evt s (if c then t else u) := by
  split
  · exact h
  · exact k

theorem evt_emit (s : State) (o : Out) : Evt s (s.emit o) := ⟨_, _, _, _, _, _, _, _, _, _, _, _, rfl⟩
theorem evt_setQueue (s : State) (q : Nat) (v : Queue) : Evt s (s.setQueue q v) := ⟨_, _, _, _, _, _, _, _, _, _, _, _, rfl⟩
theorem evt_setRing (s : State) (c : Nat) (v : Ring) : Evt s (s.setRing c v) := ⟨_, _, _, _, _, _, _, _, _, _, _, _, rfl⟩
theorem evt_setIslet (s : State) (n : Nat) (v : Islet) : Evt s (s.setIslet n v) := ⟨_, _, _, _, _, _, _, _, _, _, _, _, rfl⟩
theorem evt_setPart (s : State) (p : Nat) (v : Part) : Evt s (s.setPart p v) := ⟨_, _, _, _, _, _, _, _, _, _, _, _, rfl⟩
theorem evt_setRun (s : State) (q i : Nat) (r : Run) : Evt s (s.setRun q i r) := ⟨_, _, _, _, _, _, _, _, _, _, _, _, rfl⟩
theorem evt_perfAdd (s : State) (p k n : Nat) : Evt s (s.perfAdd p k n) := ⟨_, _, _, _, _, _, _, _, _, _, _, _, rfl⟩
theorem evt_up (s : State) (u : Upkeep) : Evt s { s with up := u } := ⟨_, _, _, _, _, _, _, _, _, _, _, _, rfl⟩
theorem evt_power (s : State) (w : Power) : Evt s { s with power := w } := ⟨_, _, _, _, _, _, _, _, _, _, _, _, rfl⟩

theorem evt_setPort (s : State) (p : Nat) (v : Port) : Evt s (s.setPort p v) := ⟨_, _, _, _, _, _, _, _, _, _, _, _, rfl⟩
theorem evt_setXfer (s : State) (k : Nat) (v : Xfer) : Evt s (s.setXfer k v) := ⟨_, _, _, _, _, _, _, _, _, _, _, _, rfl⟩
theorem evt_sendFlit (s : State) (f : Flit) (seg : Nat) : Evt s (s.sendFlit f seg) := ⟨_, _, _, _, _, _, _, _, _, _, _, _, rfl⟩
theorem evt_sendNote (s : State) (d : Nat) (w : Note) (args : List Nat) : Evt s (s.sendNote d w args) := evt_sendFlit _ _ _
theorem evt_forward (s : State) (d : Nat) (w : Fwd) (args : List Nat) : Evt s (s.forward d w args) := evt_sendNote _ _ _ _

theorem evt_toHost (s : State) (q : Nat) (o : Out) : Evt s (s.toHost q o) := by
  unfold State.toHost
  refine Evt.ite (evt_emit _ _) ?_
  split
  · refine Evt.ite (evt_emit _ _) ?_
    exact Evt.trans (t := { s with hostFifo := s.hostFifo ++ [q] }) ⟨_, _, _, _, _, _, _, _, _, _, _, _, rfl⟩ (evt_forward _ _ _ _)
  · exact Evt.ite (evt_emit _ _) (evt_forward _ _ _ _)
  · exact evt_forward _ _ _ _
  · exact evt_emit _ _

theorem evt_tellLead (s : State) (q : Nat) : Evt s (s.tellLead q) := by
  unfold State.tellLead
  exact Evt.ite ((evt_setQueue _ _ _).trans (evt_forward _ _ _ _)) (Evt.refl _)

theorem evt_message (s : State) (fn v : Nat) : Evt s (s.message fn v) := by
  unfold State.message
  exact Evt.ite (evt_toHost _ _ _) (Evt.ite (Evt.refl _) (Evt.ite (evt_emit _ _) ⟨_, _, _, _, _, _, _, _, _, _, _, _, rfl⟩))

theorem evt_writeEntry (s : State) (c : Nat) (bytes : List Byte) (msix : Bool) : Evt s (s.writeEntry c bytes msix) := by
  unfold State.writeEntry
  exact ((evt_toHost _ _ _).trans (Evt.ite (evt_message _ _ _) (Evt.refl _))).trans (evt_setRing _ _ _)

theorem evt_deliverEvent (s : State) (e : Event) : Evt s (s.deliverEvent e) := by
  unfold State.deliverEvent
  exact Evt.ite (evt_setRing _ _ _) ((evt_writeEntry _ _ _ _).trans (evt_setRing _ _ _))

theorem evt_raiseRaw (s : State) (e code queue : Nat) (seq : Word) (data : List Byte) : Evt s (s.raiseRaw e code queue seq data) := by
  unfold State.raiseRaw
  exact (evt_setRing _ _ _).trans (Evt.ite (evt_power _ _) (evt_deliverEvent _ _))

theorem evt_markerDue (s : State) (e : Nat) : Evt s (s.markerDue e) := by
  unfold State.markerDue
  exact Evt.ite (Evt.refl _) ((Evt.ite ((evt_writeEntry _ _ _ _).trans (evt_setRing _ _ _)) (Evt.refl _)).trans (evt_setRing _ _ _))

theorem evt_fetchMore (s : State) (q : Nat) : Evt s (s.fetchMore q) := by
  unfold State.fetchMore
  exact Evt.ite (evt_tellLead _ _) (Evt.ite (Evt.refl _) ((evt_setQueue _ _ _).trans (evt_emit _ _)))

theorem evt_haltEnds (s : State) (q : Nat) : Evt s (s.haltEnds q) := (evt_setQueue _ _ _).trans (evt_fetchMore _ _)

theorem evt_discardEnd (s : State) (q : Nat) : Evt s (s.discardEnd q) := by
  unfold State.discardEnd
  exact Evt.ite (evt_haltEnds _ _) (Evt.refl _)

theorem evt_consume (s : State) (q : Nat) : Evt s (s.consume q) :=
  ((evt_setQueue _ _ _).trans (evt_discardEnd _ _)).trans (evt_tellLead _ _)

theorem evt_postWaitingRaw (s : State) (c : Nat) : Evt s (s.postWaitingRaw c) := by
  unfold State.postWaitingRaw
  dsimp only
  split
  · exact Evt.refl s
  · exact Evt.ite (Evt.refl _) (((evt_setRing _ _ _).trans (evt_writeEntry _ _ _ _)).trans (evt_consume _ _))

theorem evt_reportFullRaw (s : State) (c : Nat) : Evt s (s.reportFullRaw c) := by
  unfold State.reportFullRaw
  exact Evt.ite ((evt_setRing _ _ _).trans (evt_raiseRaw _ _ _ _ _ _)) (Evt.refl _)

theorem evt_postRaw (s : State) (k : Completion) : Evt s (s.postRaw k) := by
  have h (t : State) (c : Nat) (r : Ring) (b : Bool) :
      Evt t (State.reportFullRaw (if b then (t.setRing c r).postWaitingRaw c else t.setRing c r) c) :=
    (Evt.ite ((evt_setRing _ _ _).trans (evt_postWaitingRaw _ _)) (evt_setRing _ _ _)).trans (evt_reportFullRaw _ _)
  unfold State.postRaw
  split
  · exact (evt_perfAdd _ _ _ _).trans (h _ _ _ _)
  · exact h _ _ _ _

theorem evt_haltEventRaw (s : State) (q status : Nat) (seq : Word) (c : Nat) : Evt s (s.haltEventRaw q status seq c) :=
  evt_raiseRaw _ _ _ _ _ _

theorem evt_recordHalt (s : State) (q : Nat) (st : BitVec 8) (seq : Word) : Evt s (s.recordHalt q st seq) :=
  (evt_setQueue _ _ _).trans (evt_tellLead _ _)

theorem evt_logPoison (s : State) (a n : Nat) (b d : Bool) : Evt s (s.logPoison a n b d) := evt_up _ _

theorem evt_evalHead (s : State) (q : Nat) : Evt s (s.evalHead q) := by
  unfold State.evalHead
  dsimp only
  split
  · exact Evt.refl s
  · exact Evt.ite (Evt.ite ((evt_setQueue _ _ _).trans (evt_setIslet _ _ _)) (evt_setQueue _ _ _)) (Evt.refl _)

theorem evt_reevaluate (s : State) : Evt s s.reevaluate := Evt.foldl _ evt_evalHead _ s

theorem evt_setCue (s : State) (p k : Nat) (v : Word) : Evt s (s.setCue p k v) := (evt_setPart _ _ _).trans (evt_reevaluate _)

theorem evt_signal (s : State) (q : Nat) (e : List Byte) : Evt s (s.signal q e) := by
  unfold State.signal
  split
  · exact Evt.refl s
  · split
    · exact evt_setCue _ _ _ _
    · exact evt_setCue _ _ _ _
    · exact Evt.refl s

theorem evt_grantSent (s : State) (key : Option Nat) (more less : Nat) : Evt s (s.grantSent key more less) := by
  unfold State.grantSent
  split
  · exact Evt.refl s
  · exact Evt.ite ⟨_, _, _, _, _, _, _, _, _, _, _, _, rfl⟩ (Evt.refl _)

/-- Taking flits of a transfer back changes the ports' queues only. -/
theorem evt_recallFlits (s : State) (key : Nat) : Evt s (s.recallFlits key).2 := by
  unfold State.recallFlits
  generalize List.range 10 = l
  suffices h : ∀ c : Nat × State, Evt s c.2 → Evt s (l.foldl (fun c p =>
      let t := c.2.port p
      let mine := t.txq.filter (fun w => w.key == some key)
      if mine.isEmpty then c
      else (c.1 + (mine.map (fun w => leAt w.flit.body 4 1)).sum, c.2.setPort p { t with txq := t.txq.filter (fun w => w.key != some key) })) c).2
    from h (0, s) (Evt.refl s)
  induction l with
  | nil => exact fun c h => h
  | cons p l ih =>
    intro c h
    refine ih _ ?_
    dsimp only
    split
    · exact h
    · exact h.trans (evt_setPort _ _ _)

theorem evt_stopXfer (s : State) (k : Nat) (st : BitVec 8) : Evt s (s.stopXfer k st).1 := by
  unfold State.stopXfer
  split
  · exact Evt.refl s
  · have h := (evt_recallFlits s k).trans (evt_grantSent _ ((s.recallFlits k).2.xfer k).grantKey 0 (s.recallFlits k).1)
    dsimp only
    split
    · exact h.trans ⟨_, _, _, _, _, _, _, _, _, _, _, _, rfl⟩
    · exact h.trans (evt_setXfer _ _ _)

theorem evt_stopRun (s : State) (q i : Nat) (st : BitVec 8) : Evt s (s.stopRun q i st) := by
  unfold State.stopRun
  split
  · exact Evt.refl s
  · dsimp only
    split
    · exact (Evt.ite (evt_setIslet _ _ _) (Evt.refl _)).trans (evt_setRun _ _ _ _)
    · exact ((Evt.ite (evt_setIslet _ _ _) (Evt.refl _)).trans (evt_stopXfer _ _ _)).trans (evt_setRun _ _ _ _)

theorem evt_stopFrom (s : State) (q i : Nat) (st : BitVec 8) : Evt s (s.stopFrom q i st) := Evt.foldl _ (fun _ _ => evt_stopRun _ _ _ _) _ _

theorem evt_ledgerHaltQueue (s : State) (q : Nat) : Evt s (s.ledgerHaltQueue q) := by
  unfold State.ledgerHaltQueue
  exact Evt.ite (Evt.refl _) (Evt.ite ((evt_recordHalt _ _ _ _).trans (evt_haltEventRaw _ _ _ _ _))
    ((evt_stopRun _ _ _ _).trans (evt_stopFrom _ _ _ _)))

theorem evt_ledgerHalt (s : State) (p : Nat) : Evt s (s.ledgerHalt p) :=
  (evt_setPart _ _ _).trans (Evt.foldl _ evt_ledgerHaltQueue _ _)

theorem evt_haltElsewhere (s : State) (p : Nat) : Evt s (s.haltElsewhere p) := by
  unfold State.haltElsewhere
  exact Evt.ite (Evt.foldl _ (fun _ _ => evt_forward _ _ _ _) _ _) (Evt.refl _)

theorem evt_breach (s : State) (kind obj sub : Nat) (o : Option Nat) (snap : List Word) (d : Int) :
    Evt s (s.breach kind obj sub o snap d) := by
  unfold State.breach
  cases o with
  | none => exact (evt_up _ _).trans (evt_raiseRaw _ _ _ _ _ _)
  | some p =>
    exact (((evt_up _ _).trans (evt_raiseRaw _ _ _ _ _ _)).trans (Evt.ite (Evt.refl _) (evt_raiseRaw _ _ _ _ _ _))).trans
      ((evt_haltElsewhere _ _).trans (evt_ledgerHalt _ _))

theorem evt_judge (s : State) (f : Option Found) : Evt s (s.judge f) := by
  unfold State.judge
  split
  · exact Evt.refl s
  · exact evt_breach _ _ _ _ _ _ _

theorem evt_raiseEvent (s : State) (e code queue : Nat) (seq : Word) (data : List Byte) :
    Evt s (s.raiseEvent e code queue seq data) := (evt_raiseRaw _ _ _ _ _ _).trans (evt_judge _ _)

theorem evt_haltEvent (s : State) (q status : Nat) (seq : Word) (c : Nat) : Evt s (s.haltEvent q status seq c) :=
  (evt_haltEventRaw _ _ _ _ _).trans (evt_judge _ _)

theorem evt_judgeRings (s : State) (q c : Nat) : Evt s (s.judgeRings q c) := (evt_judge _ _).trans (evt_judge _ _)

theorem evt_reportFull (s : State) (c : Nat) : Evt s (s.reportFull c) := by
  unfold State.reportFull
  exact Evt.ite (evt_reportFullRaw _ _) ((evt_reportFullRaw _ _).trans (evt_judge _ _))

theorem evt_postWaiting (s : State) (c : Nat) : Evt s (s.postWaiting c) := by
  unfold State.postWaiting
  split
  · exact Evt.refl s
  · exact Evt.ite (evt_postWaitingRaw _ _) ((evt_postWaitingRaw _ _).trans (evt_judgeRings _ _ _))

theorem evt_postCompletion (s : State) (k : Completion) : Evt s (s.postCompletion k) := by
  unfold State.postCompletion
  have h := (evt_postRaw s k).trans (evt_judgeRings (s.postRaw k) k.queue (s.queueRing k.queue))
  exact Evt.ite h (h.trans (evt_judge _ _))

theorem evt_ringFaultAt (s : State) (q cause : Nat) : Evt s (s.ringFaultAt q cause) :=
  ((evt_recordHalt _ _ _ _).trans (evt_setQueue _ _ _)).trans (evt_haltEvent _ _ _ _ _)

theorem evt_observeBy (s : State) (p q : Nat) (seq : Word) : Evt s (s.observeBy p q seq) := by
  unfold State.observeBy
  exact Evt.ite (Evt.refl _) ((evt_setPart _ _ _).trans (evt_raiseEvent _ _ _ _ _ _))

theorem evt_observe (s : State) (p : Nat) : Evt s (s.observe p) := evt_observeBy _ _ _ _

end Sys2Proof.Machine
end

