-- ==== Sys2Proof/Laws/Commands.lean ====
section
/-! SUPPORT. One lemma for each operation that the commands share: when a management command runs, how it ends or waits, which
field a check list names, and what ending an engine command's work may change. -/

namespace Sys2Proof.Machine

/-! ### Ending work (R95 to R98, R140, R195) -/

theorem evt_judgeTag (s : State) (i : Islet) (n : Nat) : Evt s (s.judgeTag i n) := by
  unfold State.judgeTag
  exact Evt.ite (Evt.refl _) (evt_judge _ _)

theorem evt_settleRun (s : State) (q i : Nat) : Evt s (s.settleRun q i) := by
  unfold State.settleRun
  split
  · exact Evt.refl s
  · dsimp only
    split
    · exact Evt.refl s
    · exact (evt_setIslet _ _ _).trans (evt_setRun _ _ _ _)

theorem evt_settleIslet (s : State) (n : Nat) : Evt s (s.settleIslet n) :=
  (Evt.foldl _ (fun _ _ => Evt.foldl _ (fun _ _ => evt_settleRun _ _ _) _ _) _ _).trans (evt_judgeTag _ _ _)

theorem evt_popHead (s : State) (q : Nat) (r : Run) : Evt s (s.popHead q r) := (evt_setQueue _ _ _).trans (evt_fetchMore _ _)

theorem evt_headArrive (s : State) (q : Nat) : Evt s (s.headArrive q) := by
  unfold State.headArrive
  dsimp only
  split
  · exact Evt.refl s
  · refine Evt.ite (Evt.refl _) ?_
    split
    · exact (evt_setQueue _ _ _).trans (evt_fetchMore _ _)
    · exact (evt_setQueue _ _ _).trans (evt_evalHead _ _)

theorem evt_endWork (s : State) (q i : Nat) (r : Run) (busy : Bool) : Evt s (s.endWork q i r busy) := by
  unfold State.endWork
  refine Evt.ite (evt_setRun _ _ _ _) ?_
  refine Evt.trans ?_ (evt_headArrive _ _)
  refine Evt.trans ?_ (evt_reevaluate _)
  refine Evt.trans ?_ (evt_settleIslet _ _)
  refine Evt.trans ?_ (evt_judgeTag _ _ _)
  dsimp only
  split
  · exact (evt_setIslet _ _ _).trans (evt_setRun _ _ _ _)
  · exact (evt_setIslet _ _ _).trans (evt_setRun _ _ _ _)

theorem evt_finish (s : State) (q i : Nat) (st : BitVec 8) (info : Nat) : Evt s (s.finish q i st info) := by
  unfold State.finish
  split
  · exact Evt.refl s
  · exact evt_endWork _ _ _ _ _

theorem evt_postAborted (q : Nat) : ∀ (n : Nat) (s : State), Evt s (State.postAborted q n s)
  | 0, s => Evt.refl s
  | n + 1, s => by
    unfold State.postAborted
    split
    · exact Evt.refl s
    · split
      · exact ((evt_setQueue _ _ _).trans (evt_postCompletion _ _)).trans (evt_postAborted q n _)
      · exact Evt.refl s

theorem evt_abortRest (s : State) (q : Nat) : Evt s (s.abortRest q) := (evt_stopFrom _ _ _ _).trans (evt_postAborted _ _ _)

theorem evt_postFront (s : State) (q : Nat) : Evt s (s.postFront q) := by
  unfold State.postFront
  split
  · exact Evt.refl s
  · rename_i r rest _
    dsimp only
    split
    · refine Evt.trans ?_ (evt_haltEvent _ _ _ _ _)
      refine Evt.trans ?_ (Evt.ite ((evt_settleIslet _ _).trans (evt_reevaluate _)) (Evt.refl _))
      refine Evt.trans ?_ ((evt_recordHalt _ _ _ _).trans (evt_abortRest _ _))
      refine Evt.trans ?_ (evt_postCompletion _ _)
      split
      · split
        · exact (evt_setQueue _ _ _).trans (evt_raiseEvent _ _ _ _ _ _)
        · exact evt_setQueue _ _ _
      · exact evt_setQueue _ _ _
    · refine Evt.trans ?_ (evt_headArrive _ _)
      refine Evt.trans ?_ (evt_postCompletion _ _)
      split
      · split
        · exact (evt_setQueue _ _ _).trans (evt_raiseEvent _ _ _ _ _ _)
        · exact evt_setQueue _ _ _
      · exact evt_setQueue _ _ _

theorem evt_linkEvent (s : State) (code : Nat) (data : List Byte) : Evt s (s.linkEvent code data) :=
  (evt_raiseEvent _ _ _ _ _ _).trans (Evt.foldl _ (fun _ _ => evt_raiseEvent _ _ _ _ _ _) _ _)

/-- LINK_DOWN changes the port named, in its cause, and what an event may change. -/
theorem linkDown_evt (s : State) (p cause : Nat) :
    Evt (s.setPort p { s.port p with cause := BitVec.ofNat 4 cause }) (s.linkDown p cause) := evt_linkEvent _ _ _

theorem linkUp_evt (s : State) (p path : Nat) : Evt s (s.linkUp p path) := evt_linkEvent _ _ _

/-! ### Management commands -/

/-- A management command runs on ring `q` exactly where its entry is the front, has started and has not acted. -/
theorem mgmtRun_iff (s : State) (q op : Nat) (r : Run) :
    s.mgmtRun q op = some r ↔ s.runAt q 0 = some r ∧ r.phase = .started ∧ eOpcode r.entry = op ∧ 48 ≤ q := by
  unfold State.mgmtRun
  cases h : s.runAt q 0 with
  | none => simp
  | some x =>
    by_cases c : (x.phase == .started && eOpcode x.entry == op && decide (48 ≤ q)) = true
    · simp only [c, if_true, Option.some.injEq]
      simp only [Bool.and_eq_true, beq_iff_eq, decide_eq_true_eq] at c
      constructor
      · rintro rfl; exact ⟨rfl, c.1.1, c.1.2, c.2⟩
      · rintro ⟨rfl, -⟩; rfl
    · simp only [c, Option.some.injEq]
      simp only [Bool.and_eq_true, beq_iff_eq, decide_eq_true_eq] at c
      constructor
      · intro e; cases e
      · rintro ⟨rfl, a, b, d⟩; exact absurd ⟨⟨a, b⟩, d⟩ c

/-- It waits for an event exactly where its entry is the front and is busy. -/
theorem mgmtBusy_iff (s : State) (q op : Nat) (r : Run) :
    s.mgmtBusy q op = some r ↔ s.runAt q 0 = some r ∧ r.phase = .busy ∧ eOpcode r.entry = op ∧ 48 ≤ q := by
  unfold State.mgmtBusy
  cases h : s.runAt q 0 with
  | none => simp
  | some x =>
    by_cases c : (x.phase == .busy && eOpcode x.entry == op && decide (48 ≤ q)) = true
    · simp only [c, if_true, Option.some.injEq]
      simp only [Bool.and_eq_true, beq_iff_eq, decide_eq_true_eq] at c
      constructor
      · rintro rfl; exact ⟨rfl, c.1.1, c.1.2, c.2⟩
      · rintro ⟨rfl, -⟩; rfl
    · simp only [c, Option.some.injEq]
      simp only [Bool.and_eq_true, beq_iff_eq, decide_eq_true_eq] at c
      constructor
      · intro e; cases e
      · rintro ⟨rfl, a, b, d⟩; exact absurd ⟨⟨a, b⟩, d⟩ c

/-- A management command always answers a next state: its effect where it runs, nothing otherwise. -/
theorem mgmt_next (q op : Nat) (s : State) (f : Run → State) :
    mgmt q op s f = .next (match s.mgmtRun q op with
      | some r => f r
      | none => s) := by
  unfold mgmt
  split <;> rename_i h <;> simp [h, stutter]

theorem mgmt_run (q op : Nat) (s : State) (f : Run → State) (r : Run) (h : s.mgmtRun q op = some r) : mgmt q op s f = .next (f r) := by
  rw [mgmt_next, h]

/-- How the front command of a ring ends. -/
theorem mgmtEnd_run (s : State) (q : Nat) (st : BitVec 8) (info : Nat) (r : Run) (h : s.runAt q 0 = some r) :
    s.mgmtEnd q st info = s.setRun q 0 { r with phase := .done, status := st, info := BitVec.ofNat 64 info } := by
  unfold State.mgmtEnd
  rw [h]

theorem mgmtDone_run (s : State) (q info : Nat) (r : Run) (h : s.runAt q 0 = some r) :
    s.mgmtDone q info = s.setRun q 0 { r with phase := .done, status := stDone, info := BitVec.ofNat 64 info } :=
  mgmtEnd_run s q stDone info r h

/-- How it begins to wait. -/
theorem mgmtWait_run (s : State) (q : Nat) (aux : List Nat) (r : Run) (h : s.runAt q 0 = some r) :
    s.mgmtWait q aux = s.setRun q 0 { r with phase := .busy, aux := aux } := by
  unfold State.mgmtWait
  rw [h]

/-- How it is refused (R384). -/
theorem mgmtRefuse_run (s : State) (q reason : Nat) (r : Run) (h : s.runAt q 0 = some r) :
    s.mgmtRefuse q reason =
      (s.refuse (masterNum .goose) (s.queueOwner q) q reason (eSeq r.entry) 0).setRun q 0 { r with phase := .refused } := by
  unfold State.mgmtRefuse
  rw [h]

/-- A check list with no failing entry lets the command go on. -/
theorem mgmtDesc_pass (s f : State) (q : Nat) (checks : List (Nat × Bool)) (h : firstBad checks = none) :
    s.mgmtDesc q checks f = f := by
  unfold State.mgmtDesc
  rw [h]

/-- One with a failing entry ends it MALFORMED with sub-code DESC at the offset named (R219). -/
theorem mgmtDesc_fail (s f : State) (q o : Nat) (checks : List (Nat × Bool)) (h : firstBad checks = some o) :
    s.mgmtDesc q checks f = s.mgmtMal q subDesc o := by
  unfold State.mgmtDesc
  rw [h]

/-- A conditional event always answers a next state. -/
theorem whenB_true (s : State) (f : State → State) (b : Bool) (h : b = true) : whenB b s f = .next (f s) := by
  simp [whenB, h]

theorem whenB_false (s : State) (f : State → State) (b : Bool) (h : b = false) : whenB b s f = .next s := by
  simp [whenB, h]

/-! ### Engine commands -/

/-- An engine command's row runs exactly where the command that its queue has still to act on has started, has this opcode, holds no results
back, and every wait point of what it reads lies behind it (R95, R97). -/
theorem engineRun_iff (s : State) (q op : Nat) (r : Run) :
    s.engineRun q op = some r ↔ s.runAt q (s.liveIdx q) = some r ∧ r.phase = .started ∧ eOpcode r.entry = op ∧ r.pend = none ∧
      (r.waits = [] ∨ r.readsPassed = true) := by
  unfold State.engineRun
  cases s.runAt q (s.liveIdx q) with
  | none => simp
  | some x => simp; constructor <;> (rintro h; obtain ⟨a, b⟩ := h; subst_vars; simp_all)

/-- A transfer's row runs exactly where it has started, has this opcode, has no wait point left, and its reads may be made (R233, R239). -/
theorem moveRun_iff (s : State) (n i op : Nat) (r : Run) :
    s.moveRun n i op = some r ↔ s.runAt (3 * n + 2) i = some r ∧ r.phase = .started ∧ eOpcode r.entry = op ∧ r.waits = [] ∧
      s.mayRead (3 * n + 2) i r = true := by
  unfold State.moveRun
  cases s.runAt (3 * n + 2) i with
  | none => simp
  | some x => simp; constructor <;> (rintro h; obtain ⟨a, b⟩ := h; subst_vars; simp_all)

theorem commonRun_iff (s : State) (q op : Nat) (r : Run) :
    s.commonRun q op = some r ↔ s.runAt q (s.liveIdx q) = some r ∧ r.phase = .started ∧ eOpcode r.entry = op := by
  unfold State.commonRun
  cases s.runAt q (s.liveIdx q) with
  | none => simp
  | some x => simp; constructor <;> (rintro h; obtain ⟨a, b⟩ := h; subst_vars; simp_all)

/-! ### Field checks (R219) -/

/-- No offset is named exactly where no check fails. -/
theorem firstBad_none_iff (l : List (Nat × Bool)) : firstBad l = none ↔ ∀ c, c ∈ l → c.2 = false := by
  induction l with
  | nil => simp [firstBad]
  | cons c l ih =>
    obtain ⟨o, b⟩ := c
    unfold firstBad
    cases h : firstBad l with
    | none => rw [h] at ih; cases b <;> simp_all
    | some m =>
      rw [h] at ih
      have : ∃ c, c ∈ l ∧ c.2 = true := by simpa using ih
      obtain ⟨c, hc, ht⟩ := this
      constructor
      · intro e
        dsimp only at e
        split at e <;> cases e
      · intro e
        exact absurd (e c (List.mem_cons_of_mem _ hc)) (by simp [ht])

/-- The offset named is that of a failing check, and the least of those. -/
theorem firstBad_some (l : List (Nat × Bool)) (o : Nat) (h : firstBad l = some o) :
    (o, true) ∈ l ∧ ∀ k, (k, true) ∈ l → o ≤ k := by
  induction l generalizing o with
  | nil => cases h
  | cons c l ih =>
    obtain ⟨m, b⟩ := c
    unfold firstBad at h
    cases g : firstBad l with
    | none =>
      have n := (firstBad_none_iff l).1 g
      rw [g] at h
      cases b
      · cases h
      · cases h
        refine ⟨by simp, fun k hk => ?_⟩
        rcases List.mem_cons.1 hk with e | e
        · cases e; exact Nat.le_refl _
        · exact absurd (n _ e) (by simp)
    | some y =>
      obtain ⟨a, w⟩ := ih y g
      rw [g] at h
      by_cases c : (b && decide (m ≤ y)) = true
      · simp only [c, if_true, Option.some.injEq] at h
        subst h
        simp only [Bool.and_eq_true, decide_eq_true_eq] at c
        refine ⟨by simp [c.1], fun k hk => ?_⟩
        rcases List.mem_cons.1 hk with e | e
        · cases e; exact Nat.le_refl _
        · exact Nat.le_trans c.2 (w k e)
      · have h : y = o := by simpa [c] using h
        subst h
        refine ⟨by simp [a], fun k hk => ?_⟩
        rcases List.mem_cons.1 hk with e | e
        · cases e
          simp only [Bool.true_and, decide_eq_true_eq] at c
          omega
        · exact w k e

/-! ### Flits -/

/-- A flit leaves on one port, towards its destination (R42); nothing else changes. -/
theorem sendFlit_ports (s : State) (f : Flit) (seg : Nat) : ∃ t, s.sendFlit f seg = { s with ports := t } := ⟨_, rfl⟩

theorem sendNote_ports (s : State) (d : Nat) (w : Note) (args : List Nat) : ∃ t, s.sendNote d w args = { s with ports := t } := ⟨_, rfl⟩

/-- A credited flit's command always answers a next state: what the flit does where it arrives, nothing otherwise. -/
theorem linkReceive_next (s : State) (p typ : Nat) (raw : List Byte) (k : Flit → State → State) :
    s.linkReceive p typ raw k = .next (if s.arrives p typ raw then s.receive p raw k else s) := by
  unfold State.linkReceive
  split <;> rfl

theorem linkReceive_arrives (s : State) (p typ : Nat) (raw : List Byte) (k : Flit → State → State) (h : s.arrives p typ raw = true) :
    s.linkReceive p typ raw k = .next (s.receive p raw k) := by
  rw [linkReceive_next, if_pos h]

/-- A link-control flit's command always answers a next state. -/
theorem controlReceive_next (s : State) (p typ : Nat) (raw : List Byte) (k : Flit → State → State) :
    s.controlReceive p typ raw k =
      .next (if !s.arrives p typ raw then s
        else if !(s.port p).enabled then s.rxDiscard p
        else if !(s.port p).alive then s
        else k (readFlit raw) (s.takeHeader p (readFlit raw))) := by
  unfold State.controlReceive
  split
  · rfl
  · split
    · rfl
    · split <;> rfl

end Sys2Proof.Machine
end

