-- ==== Sys2Proof/Machine/Package.lean ====
section
/-!
DEFINITION. The OA16 package (R14, R504 to R511): the names of the rows, the signal of every ball, the range and the largest current of
every rail, and the boundary-scan cells (R519). No command reaches these; they are what the manual fixes of the package beside the state.
-/

namespace Sys2Proof.Machine

/-! ### Rows and columns (R14, R504, R505) -/

/-- The letters that a row name may end in, in order. -/
def rowLetters : String := "ABCDEFGHJKLMNPTUVWY"

/-- The name of row `r`, from A = 1 to CG = 64 (R14). -/
def rowName (r : Nat) : Option String :=
  if r = 0 ∨ 64 < r then none
  else
    let last := String.singleton (rowLetters.toList.getD ((r - 1) % 19) 'A')
    some ((["", "A", "B", "C"].getD ((r - 1) / 19) "") ++ last)

/-- Distance in balls from the nearer end of a row or column. -/
def fromEdge (k : Nat) : Nat := Nat.min (k - 1) (64 - k)

/-- The grid position at row number `r` and column `c` carries a ball (R505). -/
def populated (r c : Nat) : Bool :=
  decide (1 ≤ r ∧ r ≤ 64 ∧ 1 ≤ c ∧ c ≤ 64) && decide (5 < fromEdge r + fromEdge c)
    && !decide (27 ≤ r ∧ r ≤ 38 ∧ 27 ≤ c ∧ c ≤ 38)

/-! ### What a ball carries -/

/-- The rails of R511. -/
inductive Rail where
  | core | sram | hbm | hbmQ | hbmPump | ser | serAnalog | pcie | aux | ioAon | ioMain
  deriving DecidableEq, Repr

/-- The dedicated pins of R507, in the order of list B. -/
inductive PackagePin where
  | xtal32kIn | porN | warmRstN | perstN | thermtripN | pmbusClk | pmbusDat | pmbusAlertN | spiSck | spiCsN
  | spiIo (k : Nat) | jtagTck | jtagTms | jtagTdi | jtagTdo | jtagTrstN | slotId (k : Nat) | trayId (k : Nat)
  deriving DecidableEq, Repr

/-- The reference clocks. -/
inductive RefClk where
  | pcie | ser | hbm
  deriving DecidableEq, Repr

/-- The signal of a ball. `neg` is the _N half of a pair. -/
inductive Ball where
  | ground
  | rail (r : Rail)
  | strait (port lane : Nat) (transmit neg : Bool)
  | pcie (lane : Nat) (transmit neg : Bool)
  | clock (k : RefClk) (neg : Bool)
  | gpio (k : Nat)
  | pin (p : PackagePin)
  | sense (neg : Bool)
  deriving DecidableEq, Repr

/-- The ball of a lane slot (R506): the transmit pair at depth 0, the receive pair at depth 2. -/
def laneBall (f : Bool → Bool → Ball) (depth half : Nat) : Ball :=
  if depth = 0 then f true (half == 1) else if depth = 2 then f false (half == 1) else .ground

/-- List A of R507. -/
def listA (k : Nat) : Ball :=
  if k < 8 then .gpio k else if k < 10 then .rail .ioAon else if k < 26 then .gpio (k - 2) else if k < 30 then .rail .ioMain else .ground

/-- List B of R507. -/
def listB (k : Nat) : Ball :=
  if k < 4 then .rail .aux
  else if k < 14 then
    .pin ([.xtal32kIn, .porN, .warmRstN, .perstN, .thermtripN, .pmbusClk, .pmbusDat, .pmbusAlertN, .spiSck, .spiCsN].getD (k - 4) .porN)
  else if k < 18 then .pin (.spiIo (k - 14))
  else if k < 23 then .pin ([.jtagTck, .jtagTms, .jtagTdi, .jtagTdo, .jtagTrstN].getD (k - 18) .jtagTck)
  else if k < 26 then .pin (.slotId (k - 23))
  else if k < 29 then .pin (.trayId (k - 26))
  else if k < 31 then .sense (k == 30)
  else .ground

/-- The four edge strips (R506). -/
inductive Strip where
  | top | right | bottom | left
  deriving DecidableEq, Repr

/-- What a strip carries at a depth and a position (R506, R507). -/
def stripBall (e : Strip) (depth p : Nat) : Ball :=
  let slot := p / 3
  let half := p % 3
  let index := 8 * (slot - 13) + 2 * depth + half
  if p < 3 ∨ half = 2 ∨ 17 < slot then .ground
  else match e with
    | .top =>
      if slot ≤ 16 then laneBall (.strait ((slot - 1) / 4) ((slot - 1) % 4)) depth half
      else if depth = 0 then .clock .ser (half == 1) else .ground
    | .right =>
      if slot ≤ 12 then laneBall (.strait (4 + (slot - 1) / 4) ((slot - 1) % 4)) depth half else listA index
    | .bottom =>
      if slot ≤ 12 then laneBall (.strait (7 + (slot - 1) / 4) ((slot - 1) % 4)) depth half else listB index
    | .left =>
      if slot ≤ 16 then laneBall (.pcie (slot - 1)) depth half
      else if depth = 0 then .clock .pcie (half == 1) else if depth = 2 then .clock .hbm (half == 1) else .ground

/-- The rail of an interior position where row number and column have an odd sum (R508). -/
def regionRail (r c : Nat) : Rail :=
  if c ≤ 6 then .pcie
  else if c ≤ 8 then .sram
  else if r ≤ 6 then .ser
  else if r ≤ 8 then .serAnalog
  else if 59 ≤ c then .ser
  else if 57 ≤ c then .serAnalog
  else if 59 ≤ r then .ser
  else if 57 ≤ r then .serAnalog
  else if r ≤ 11 ∨ 54 ≤ r then .hbmQ
  else if r ≤ 13 ∨ 52 ≤ r then .hbm
  else if r = 14 ∨ r = 51 then .hbmPump
  else if r = 15 ∨ r = 50 then .sram
  else .core

/-- The signal of the ball at row number `r` and column `c` (R505 to R508); none where no ball is. -/
def ballAt (r c : Nat) : Option Ball :=
  if !populated r c then none
  else
    let rowIn := decide (5 ≤ r ∧ r ≤ 60)
    let colIn := decide (5 ≤ c ∧ c ≤ 60)
    some (
      if rowIn && colIn then (if (r + c) % 2 = 0 then .ground else .rail (regionRail r c))
      else if colIn then (if r ≤ 4 then stripBall .top (r - 1) (c - 4) else stripBall .bottom (64 - r) (c - 4))
      else if rowIn then (if c ≤ 4 then stripBall .left (c - 1) (r - 4) else stripBall .right (64 - c) (r - 4))
      else .ground)

/-! ### Rails (R511, R512) -/

/-- The ranges that a rail must lie in, in 100 µV (R511); VDDIO_MAIN has two. -/
def Rail.ranges : Rail → List (Nat × Nat)
  | .core => [(5850, 9150)]
  | .sram => [(7760, 8240)]
  | .hbm => [(10670, 11330)]
  | .hbmQ => [(3880, 4120)]
  | .hbmPump => [(17460, 18540)]
  | .ser | .pcie => [(7275, 7725)]
  | .serAnalog => [(11640, 12360)]
  | .aux | .ioAon => [(17100, 18900)]
  | .ioMain => [(17100, 18900), (31350, 34650)]

/-- The most that the A16 draws from a rail, in mA (R511). -/
def Rail.largestMa : Rail → Nat
  | .core => 520000
  | .sram => 60000
  | .hbm => 24000
  | .hbmQ => 40000
  | .hbmPump => 2000
  | .ser => 30000
  | .pcie => 8000
  | .serAnalog => 12000
  | .aux => 300
  | .ioAon => 100
  | .ioMain => 400

/-- The order in which the rails rise (R437): the group of a rail. They fall in the reverse order (R515). -/
def Rail.group : Rail → Nat
  | .aux | .ioAon => 1
  | .hbmPump => 2
  | .core | .sram | .ser | .pcie | .hbm => 3
  | .hbmQ | .serAnalog | .ioMain => 4

/-! ### Boundary-scan cells (R519) -/

/-- What a boundary-scan cell holds of its pin. -/
inductive CellKind where
  | input | output | enable
  deriving DecidableEq, Repr

/-- A boundary-scan cell: a general-purpose pin or a dedicated one, and what it holds. -/
structure ScanCell where
  pin  : Ball
  kind : CellKind
  deriving DecidableEq, Repr

/-- The cells of one pin. -/
def cellsOf (kinds : List CellKind) (b : Ball) : List ScanCell := kinds.map (fun k => { pin := b, kind := k })

/-- The boundary-scan register from TDI to TDO (R519). -/
def boundaryCells : List ScanCell :=
  let all : List CellKind := [.input, .output, .enable]
  let out : List CellKind := [.output, .enable]
  ((List.range 24).map Ball.gpio).flatMap (cellsOf all)
    ++ ([.pin .spiSck, .pin .spiCsN] : List Ball).flatMap (cellsOf out)
    ++ ((List.range 4).map (fun k => Ball.pin (.spiIo k))).flatMap (cellsOf all)
    ++ ([.pin .pmbusClk, .pin .pmbusDat] : List Ball).flatMap (cellsOf all)
    ++ ([.pmbusAlertN, .perstN, .warmRstN, .slotId 0, .slotId 1, .slotId 2, .trayId 0, .trayId 1, .trayId 2, .xtal32kIn].map Ball.pin).flatMap
        (cellsOf [.input])
    ++ cellsOf out (.pin .thermtripN)

end Sys2Proof.Machine
end

