-- ==== Sys2Proof/Tests/Slice0.lean ====
section
/-!
SUPPORT. Tests: an ill-formed command for each well-formedness check, small effects whose expected values come from the spec, and
for each obligation with hypotheses a state and operands that meet them, at a boundary value of its clauses.
-/

open Sys2Proof Sys2Proof.Machine Sys2Proof.Claims

namespace Sys2Proof.Tests

set_option Elab.async false

/-- A 64-byte entry: sequence number 7, the opcode, and fields given as offset, width in bytes and value. -/
def entry (op : Nat) (fields : List (Nat × Nat × Nat)) : List Byte :=
  (List.range 64).map (fun k => BitVec.ofNat 8 (((0, 1, op) :: (4, 4, 7) :: fields).foldl
    (fun v f => if f.1 ≤ k ∧ k < f.1 + f.2.1 then f.2.2 / 2 ^ (8 * (k - f.1)) else v) 0))

/-- A die that has booted: READY, every domain ON, partition 0 ACTIVE with Islets 0, 1 and 15 and granules 3 and 190; the PF and VF 1 are bus
masters with MSI-X enabled. -/
def booted : State :=
  { State.reset with
    boot := { porHigh := true, perstHigh := true, fwDone := true, stackDone := 3, xtal := true }
    mgt := { stage := .ready, cfgReady := true, trngReady := true, bootDone := true, nonce := 1 }
    domains := (List.range 35).map (fun d => (d, { st := .on }))
    parts := [(0, { state := .active, islets := 0x8003 })]
    owners := [(3, 0), (190, 0), (191, 0xFE)]
    keys := [(3, List.replicate 64 7), (190, List.replicate 64 7), (191, List.replicate 64 8)]
    pcie := [(0, { busMaster := true, msixOn := true }), (1, { busMaster := true, msixOn := true })] }

/-- A started command. -/
def started (op : Nat) (fields : List (Nat × Nat × Nat)) : Run := { entry := entry op fields, start := 0, phase := .started }

/-- The booted die with a command at the front of a ring. -/
def onRing (q : Nat) (r : Run) : State := { booted with queues := [(q, { enable := true, st := .active, run := [r] })] }

/-! ### Well-formedness: one ill-formed command for each check, which the check refuses -/

theorem test_wf_queue : (Instr.nop 64).wellFormed = true ∧ (Instr.nop 65).wellFormed = false := by decide
theorem test_wf_engine_queue : (Instr.fence 47).wellFormed = true ∧ (Instr.fence 48).wellFormed = false := by decide
theorem test_wf_mgmt_queue :
    (Instr.randGet 48).wellFormed = true ∧ (Instr.randGet 47).wellFormed = false ∧ (Instr.randGet 65).wellFormed = false := by decide
theorem test_wf_islet : (Instr.vxAdd 15).wellFormed = true ∧ (Instr.vxAdd 16).wellFormed = false := by decide
theorem test_wf_run_index : (Instr.mvFill 0 7).wellFormed = true ∧ (Instr.mvFill 0 8).wellFormed = false := by decide
theorem test_wf_port : (Instr.flitSlot 9).wellFormed = true ∧ (Instr.flitSlot 10).wellFormed = false := by decide
theorem test_wf_function : (Instr.hifKick 16 0).wellFormed = true ∧ (Instr.hifKick 17 0).wellFormed = false := by decide
theorem test_wf_vf : (Instr.vfFlr 1).wellFormed = true ∧ (Instr.vfFlr 0).wellFormed = false := by decide
theorem test_wf_agent : (Instr.readOwn 16 0).wellFormed = true ∧ (Instr.readOwn 17 0).wellFormed = false := by decide
theorem test_wf_read_target :
    (Instr.hostReadTimeout (.poll 64)).wellFormed = true ∧ (Instr.hostReadTimeout (.fetch 65)).wellFormed = false ∧
    (Instr.hostReadTimeout (.command 65 0 0)).wellFormed = false := by decide
theorem test_wf_lead_queue :
    (Instr.doorbellPoll (128 * 63 + 64)).wellFormed = true ∧ (Instr.doorbellPoll (128 * 63 + 65)).wellFormed = false ∧
    (Instr.doorbellPoll (128 * 64)).wellFormed = false := by decide
theorem test_wf_tenant_end : (Instr.tenantEnd 64).wellFormed = true ∧ (Instr.tenantEnd 47).wellFormed = false := by decide

/-- 256 bytes. -/
def long : List Byte := List.replicate 256 0

theorem test_wf_flit :
    (Instr.idleReceive 9 long).wellFormed = true ∧ (Instr.idleReceive 9 (0 :: long)).wellFormed = false ∧
    (Instr.keyRefused 9 [long, long]).wellFormed = true ∧ (Instr.keyRefused 9 []).wellFormed = false ∧
    (Instr.keyRefused 9 [long, []]).wellFormed = false := by decide +kernel
theorem test_wf_message :
    (Instr.fwdReceive 9 long (.message 16 7)).wellFormed = true ∧ (Instr.fwdReceive 9 long (.message 16 8)).wellFormed = false ∧
    (Instr.fwdReceive 9 long (.message 17 0)).wellFormed = false ∧ (Instr.fwdReceive 9 long (.hostWrite 17 0 [])).wellFormed = false ∧
    (Instr.fwdReceive 9 long (.entry 64 0 [])).wellFormed = false ∧ (Instr.fwdReceive 9 long (.readFailed 0 7 0 4)).wellFormed = false ∧
    (Instr.fwdReceive 9 long (.data 0 8 0 [])).wellFormed = false ∧ (Instr.fwdReceive 9 long (.halt 16)).wellFormed = false ∧
    (Instr.fwdReceive 9 long (.ended 64)).wellFormed = false ∧ (Instr.fwdReceive 9 long (.part 15 5)).wellFormed = false ∧
    (Instr.fwdReceive 9 long (.act 3 0 false)).wellFormed = false := by decide +kernel
theorem test_wf_rings :
    (Instr.cqEnable 0 true 16 6).wellFormed = true ∧ (Instr.cqEnable 0 true 17 6).wellFormed = false ∧
    (Instr.cqEnable 0 false 65 6).wellFormed = false ∧ (Instr.eqHeadWrite 0 17 0).wellFormed = false ∧
    (Instr.completionPost 65).wellFormed = false := by decide
theorem test_wf_fetch :
    (Instr.entryFetchComplete 0 (List.replicate 128 0)).wellFormed = true ∧
    (Instr.entryFetchComplete 0 (List.replicate 63 0)).wellFormed = false := by decide +kernel
theorem test_wf_numbers :
    (Instr.gpioCfgWrite .hif 0 24 0).wellFormed = false ∧ (Instr.dbgLogRead .dbg 0 8).wellFormed = false ∧
    (Instr.creditDeadline 0 4).wellFormed = false ∧ (Instr.hbmRefresh 0 32 0).wellFormed = false ∧
    (Instr.hbmPatrolRead 2 [] false).wellFormed = false ∧ (Instr.hbmPatrolRead 1 [(0, 3)] false).wellFormed = false ∧
    (Instr.domainTransitionDone 35).wellFormed = false ∧ (Instr.pinWake 24).wellFormed = false ∧
    (Instr.captureEdge 64).wellFormed = false ∧ (Instr.fanStall 4).wellFormed = false ∧
    (Instr.selftestEnd 0 true 1024).wellFormed = false := by decide

/-! ### The table spells no word -/

theorem test_decode_none : decodeTableWord 8 0 = none ∧ decodeTableWord 512 0xFFFFFFFF = none := ⟨rfl, rfl⟩
theorem test_withFetchWord : booted.withFetchWord 32 5 = booted := rfl


/-! ### The block -/

theorem witness_StepRunsFront : ({ booted with pending := [.nop 0, .paceSet] } : State).pending = .nop 0 :: [.paceSet] := rfl

theorem witness_EmptyQueueIdles : State.reset.pending = [] ∧ booted.pending = [] := ⟨rfl, rfl⟩

theorem witness_OnlyShortResetsStop :
    resetPulse (.nop 64) = false ∧ resetPulse (.warmReset 9 true) = true ∧ resetPulse (.porNLow 999) = true ∧ booted.alive = true := by
  decide

theorem witness_MemoryCanonicalKept :
    MemoryCanonical { State.reset with hbm := [(3, 1), (4, 255)], scratch := [(0, 9)], flash := [(7, 1)], pending := [.nop 0] } ∧
    step { State.reset with pending := [] } = .next State.reset := by
  refine ⟨⟨?_, ?_, ?_⟩, ?_⟩ <;> first | decide | rfl

/-- The operator's OPERATOR_KEY_FUSE waits for the Goose to blow revocation bit 2. -/
def revoking : State := onRing 64 { started 0x93 [(24, 1, 1), (25, 1, 2)] with phase := .busy, aux := [1, 2] }

theorem witness_FusesOnlyRise :
    (∃ r, revoking.mgmtBusy 64 0x93 = some r) ∧ booted.mgmtBusy 64 0x93 = none ∧ booted.mgmtBusy 64 0x96 = none ∧
    (∃ t, exec (.fuseBlowDone true) revoking = .next t ∧ t.fuses.revoked = setBit revoking.fuses.revoked 2 true) := by
  refine ⟨⟨_, rfl⟩, rfl, rfl, ⟨_, rfl, rfl⟩⟩

/-! ### The life of a command -/

/-- Islet 0's Vector queue runs a command. -/
def onVx (r : Run) : State := onRing 1 r

theorem witness_CommonCommands :
    (∃ r, (onRing 0 (started 0 [])).commonRun 0 0 = some r) ∧ (∃ r, (onRing 64 (started 1 [])).commonRun 64 1 = some r) ∧
    (∃ r, (onRing 48 (started 2 [])).commonRun 48 2 = some r) ∧
    (∀ k ∈ [1, 2, 3], ∃ r, (onVx (started 3 [(24, 1, k * 4)])).commonRun 1 3 = some r ∧ bits (leAt r.entry 24 1) 3 2 = k) ∧
    qKind 1 = .vx ∧ qKind 0 ≠ .vx ∧ qKind 2 ≠ .vx ∧
    (let s : State := { onVx (started 3 [(24, 1, 2 * 4)]) with domains := [], islets := [(0, { storeBuf := [(0x30000000, some 9)] })] }
     (∃ r, s.commonRun 1 3 = some r ∧ 2 ≤ bits (leAt r.entry 24 1) 3 2) ∧ s.storesReady 0 = false) ∧
    (let s : State := { onVx (started 3 [(24, 1, 2 * 4 + 2)]) with hostFifo := [1] }
     (∃ r, s.commonRun 1 3 = some r ∧ bits (leAt r.entry 24 1) 1 0 = 2) ∧ s.storesReady 0 = true ∧ s.passedOn 1 = false) ∧
    (booted.storesReady 0 = true ∧ booted.passedOn 1 = true) ∧
    (∃ r, (onVx (started 5 [(24, 4, 1023 + 1 * 2 ^ 10)])).commonRun 1 5 = some r) := by
  refine ⟨⟨_, rfl⟩, ⟨_, rfl⟩, ⟨_, rfl⟩, ?_, rfl, by decide, by decide, ⟨⟨_, rfl, by decide⟩, by decide +kernel⟩,
    ⟨⟨_, rfl, by decide⟩, by decide, by decide⟩, by decide, ⟨_, rfl⟩⟩
  intro k hk
  simp only [List.mem_cons, List.not_mem_nil, or_false] at hk
  rcases hk with rfl | rfl | rfl <;> exact ⟨_, rfl, by decide⟩

theorem witness_TagSet :
    let s := onVx (started 4 [(24, 4, 1023 + 1 * 2 ^ 10 + 2 ^ 22)])
    ∃ r, s.commonRun 1 4 = some r ∧ r.steps = 0 ∧ r.owed = 0 ∧ bits (leAt r.entry 24 4) 20 10 = 1 ∧ leAt r.entry 24 4 % 1024 = 1023 ∧
      (s.islet 0).isClaimed 1023 = false := by
  exact ⟨_, rfl, rfl, rfl, by decide, by decide, by decide +kernel⟩

theorem witness_TagLedger :
    let i : Islet := { tags := 2 ^ 1023, fills := 5, takes := 4 }
    1023 < 1024 ∧ i.fills - i.takes = BitVec.ofNat 32 i.fullCount := by
  decide +kernel

theorem witness_WorkEnds :
    let w : WaitPoint := { square := 1023, mode := .writeFill }
    let r : Run := { started 0x20 [] with status := stDone, claims := [w] }
    let x : Run := { r with status := stPoison }
    r.status = stDone ∧ w ∈ r.claims.filter (fun x => x.mode == .writeFill) ∧ (47 : Nat) < 48 ∧ x.status ≠ stDone ∧ x.status ≠ stNanTrap ∧
      (∀ y ∈ x.claims, y.square = 1023 → (y.mode = .writeFill → 1023 ∉ x.wroteSq) ∧ (y.mode = .readTake → 1023 ∉ x.readSq)) := by
  decide

/-- Islet 0's queue `q` with entries waiting at its head, ready to start. -/
def atHead (q : Nat) (e : List Byte) : State :=
  { booted with
    queues := [(q, { enable := true, st := .active, entries := [e], headOk := true, passed := true })]
    rings := [(0, { enable := true }), (64, { enable := true })] }

theorem witness_CommandStarts_engine :
    (let s := atHead 0 (entry 0x77 [])
     s.canStart 0 = true ∧ ∃ m, s.startChecks 0 (s.islet 0).tds (s.islet 0).free (entry 0x77 []) = some m) ∧
    (let e := entry 0x61 [(32, 6, 0x40000000), (40, 4, 8)]
     let s := atHead 2 e
     s.canStart 2 = true ∧ s.startChecks 2 (s.islet 0).tds (s.islet 0).free e = none ∧
       ∃ reason, s.rightsCheck ((s.isletOwner 0).getD 0) 0 (s.islet 0).tds e = some reason) ∧
    (let s := atHead 47 (entry 0 [])
     s.canStart 47 = true ∧ s.startChecks 47 (s.islet 15).tds (s.islet 15).free (entry 0 []) = none ∧
       s.rightsCheck ((s.isletOwner 15).getD 0) 15 (s.islet 15).tds (entry 0 []) = none) := by
  refine ⟨⟨by decide, ⟨_, rfl⟩⟩, ⟨by decide, by decide, ⟨_, rfl⟩⟩, by decide, by decide, by decide⟩

theorem witness_CommandStarts_ring :
    (let s := atHead 64 (entry 0x86 [(24, 1, 90)])
     s.canStart 64 = true ∧ s.gooseNext = some 64 ∧ s.mgt.stage ≠ .recovery ∧ 6 ≤ eOpcode (entry 0x86 [(24, 1, 90)])) ∧
    (let s : State := { atHead 64 (entry 0x86 []) with mgt := { stage := .recovery } }
     s.canStart 64 = true ∧ s.gooseNext = some 64) ∧
    (∃ o, commonDesc (qKind 64) (entry 0 [(24, 1, 1)]) = some o) := by
  refine ⟨by decide, by decide, ⟨_, rfl⟩⟩

theorem witness_WaitPointPassed :
    let w : WaitPoint := { square := 1023, mode := .readTake }
    let s : State := { onVx { started 0x22 [] with waits := [w] } with islets := [(0, { tags := 2 ^ 1023 })] }
    (∃ r, s.runAt 1 0 = some r ∧ r.phase = .started ∧ r.waits = [w]) ∧ qKind 1 ≠ .mv ∧
    (s.islet 0).isClaimed 1023 = false ∧ (s.islet 0).tagFull 1023 = true ∧ w.mode ≠ .readKeep ∧
    (let m : State := { booted with queues := [(2, { run := [started 0x60 [], { started 0x60 [] with waits := [w] }] })] }
     qKind 2 = .mv ∧ (m.runAt 2 1).isSome = true ∧ ∀ x, m.runAt 2 0 = some x → x.waits = []) := by
  refine ⟨⟨_, rfl, rfl, rfl⟩, by decide, by decide +kernel, by decide +kernel, by decide, by decide, by decide, ?_⟩
  intro x hx
  injection hx with h
  subst h
  rfl

/-- A partition-0 completion ring that is enabled with room for one more. -/
def nearlyFull : Ring := { enable := true, head := 0, tail := 63, generated := 64, waiting := [], base := 0x1000 }

theorem witness_CompletionsWritten :
    (let s : State := { booted with rings := [(0, nearlyFull)] }
     nearlyFull.enable = true ∧ nearlyFull.used ≠ 2 ^ nearlyFull.sizeLog2.toNat ∧ nearlyFull.waiting = [] ∧ s.queueRing 48 = 0 ∧
       s.hostHeld 0 = false ∧ s.follower = false) ∧
    (let k : Completion := { queue := 48, seq := 7, status := stDone, info := 0, irq := false }
     let r : Ring := { nearlyFull with waiting := [k] }
     let s : State := { booted with rings := [(0, r)] }
     (s.ring 0).waiting = [k] ∧ (s.ring 0).enable = true ∧ (s.ring 0).used ≠ 2 ^ (s.ring 0).sizeLog2.toNat ∧ s.hostHeld 0 = false ∧
       s.follower = false ∧ (s.queue 48).cons = (s.queue 48).written ∧ (s.ring 0).generated = (s.ring 0).tail + 1) := by
  decide +kernel

theorem witness_CommandCompletes :
    let r : Run := { started 0 [] with phase := .done, status := stMalformed }
    let x : Run := { started 0 [] with phase := .done, status := stDone }
    (let s := onRing 0 r
     ∃ y, s.runAt 0 0 = some y ∧ y.phase = .done ∧ y.claims = [] ∧ s.icpHeld 0 = false ∧ s.passedOn 0 = true ∧ qKind 0 ≠ .vx) ∧
    (∃ y, (((onRing 0 r).settleEffects 0 0).queue 0).run = [y] ∧ haltsQueue y.status = true) ∧ haltsQueue x.status = false ∧ x.halts = false ∧
    (let s : State := { onRing 0 r with bus := { held := 8 } }
     s.icpHeld 0 = true) ∧
    (let s : State := { onRing 1 x with domains := [], islets := [(0, { storeBuf := [(0x30000000, some 9)] })] }
     qKind 1 = .vx ∧ s.storesReady 0 = false) ∧
    (let s : State := { booted with queues := [(2, { run := [started 0x60 [], x] })] }
     qKind 2 = .mv ∧ s.runAt 2 1 = some x) := by
  exact ⟨⟨_, rfl, rfl, rfl, by decide, by decide, by decide⟩, ⟨_, rfl, by decide⟩, by decide, by decide, by decide, by decide, by decide, rfl⟩

/-- Islet 0's Vector queue waits at square 5 for FULL; its other engines have no command. -/
def stalled : State :=
  { onRing 1 { started 0x22 [] with waits := [{ square := 5, mode := .readTake }] } with rings := [(0, { enable := true })] }

theorem witness_DelaysEnd :
    (let e := entry 2 [(24, 4, 1)]
     let s : State := { booted with queues := [(1, { enable := true, entries := [e], headOk := true })] }
     let k := s.queue 1
     k.entries = [e] ∧ k.headOk = true ∧ k.passed = false ∧ eOpcode e = 2 ∧
       leAt e 24 4 ≠ 0 ∧ k.halted = false ∧ (s.advanceTo (k.headTime + leAt e 24 4 * 100)).waitHolds 1 e = true) ∧
    (let e := entry 2 [(2, 1, 3), (24, 4, 1)]
     let s : State := { booted with queues := [(1, { enable := true, entries := [e], headOk := true })] }
     eOpcode e = 2 ∧ leAt e 24 4 ≠ 0 ∧ (s.advanceTo 100).waitHolds 1 e = false) ∧
    (∃ r, (onVx { started 0x22 [] with phase := .refused }).runAt 1 0 = some r ∧ r.phase = .refused) ∧
    (stalled.isletOwner 0 = some 0 ∧ stalled.isletStalled 0 = true ∧ (stalled.islet 0).stallTold = false) := by
  exact ⟨by decide +kernel, by decide +kernel, ⟨_, rfl, rfl⟩, by decide +kernel⟩

/-! ### The engines -/

/-- The state that an answer gives, if it gives one. -/
def next (o : Host.Outcome State Fault Refusal) : Option State :=
  match o with
  | .next t => some t
  | _ => none

/-- One number of the next state. -/
def seen (o : Host.Outcome State Fault Refusal) (f : State → Nat) : Option Nat := (next o).map f

/-- An operand descriptor: tensor, tag bits, row, word column, rows, columns. -/
def opnd (tensor tag row col rows cols : Nat) : Nat :=
  tensor + tag * 2 ^ 8 + row * 2 ^ 12 + col * 2 ^ 22 + rows * 2 ^ 32 + cols * 2 ^ 48

/-- Bytes of the scratchpads, four a word. -/
def words (l : List (Nat × Nat)) : Memory := l.foldl (fun m w => Memory.write m w.1 (leBytes 4 w.2)) []

/-- Tensor 0 is FP32, 1 is T16, 2 is PAIR32 in the scratchpad; 3 is FP32 in device memory at address 0x30000000. -/
def tensors : Table TDesc :=
  [(0, { format := 0, valid := true, lcols := 1 }), (1, { format := 2, valid := true, lcols := 1 }),
   (2, { format := 0xE, valid := true, lcols := 1 }),
   (3, { format := 0, mem := true, valid := true, lcols := 1, base := 0x30000000, stride := 64 })]

/-- Islet 0 with a started command of queue `q` over a scratchpad. -/
def engine (q op : Nat) (fields : List (Nat × Nat × Nat)) (sp : List (Nat × Nat)) : State :=
  { onRing q { started op fields with tds := tensors } with scratch := words sp, islets := [(0, { tds := tensors })] }

/-- X, Y and Z of one FP32 element each. -/
def xyz : List (Nat × Nat × Nat) := [(24, 8, opnd 0 0 0 0 1 1), (32, 8, opnd 0 0 0 1 1 1), (40, 8, opnd 0 0 0 2 1 1)]

/-- The word at a scratchpad offset of Islet 0 after a command. -/
def wordAfter (o : Host.Outcome State Fault Refusal) (off : Nat) : Option Nat :=
  seen o (fun t => leNat (Memory.bytes t.scratch off 4))

-- 1.0 + 2.0 = 3.0 (R72)
theorem test_vxAdd : wordAfter (exec (.vxAdd 0) (engine 1 0x21 xyz [(0, 0x3F800000), (4, 0x40000000)])) 8 = some 0x40400000 := by
  decide +kernel

-- infinity minus infinity is invalid: the quiet NaN 0x7FC00000 (R65, R66)
theorem test_vxSub_invalid :
    wordAfter (exec (.vxSub 0) (engine 1 0x22 xyz [(0, 0x7F800000), (4, 0x7F800000)])) 8 = some 0x7FC00000 := by
  decide +kernel

-- 2^-126 × 0.5 is the subnormal 2^-127 (R58, R68)
theorem test_vxMul_subnormal : wordAfter (exec (.vxMul 0) (engine 1 0x23 xyz [(0, 0x00800000), (4, 0x3F000000)])) 8 = some 0x00400000 := by
  decide +kernel

-- 1 / 3 rounded to nearest even
theorem test_vxDiv : wordAfter (exec (.vxDiv 0) (engine 1 0x24 xyz [(0, 0x3F800000), (4, 0x40400000)])) 8 = some 0x3EAAAAAB := by
  decide +kernel

-- T16 from FP32: 1 + 2^-8 is a tie and goes to even 1.0 (R64)
theorem test_vxConvert_tie :
    (seen (exec (.vxConvert 0) (engine 1 0x20 [(24, 8, opnd 0 0 0 0 1 1), (40, 8, opnd 1 0 0 2 1 1)] [(0, 0x3F808000)]))
      (fun t => leNat (Memory.bytes t.scratch 8 2))) = some 0x3F80 := by
  decide +kernel

-- 2 × 3 with scales 1.0 is 6.0
theorem test_mxMatmul :
    wordAfter (exec (.mxMatmul 0) (engine 0 0x10 [(24, 8, opnd 1 0 0 0 1 1), (32, 8, opnd 1 0 0 1 1 1), (40, 8, opnd 0 0 0 2 1 1)]
      [(0, 0x4000), (4, 0x4040)])) 8 = some 0x40C00000 := by
  decide +kernel

/-- Islet 0's MX_MATMUL of one element by one, C at word 8 of square 0. -/
def matmul : State := engine 0 0x10 [(24, 8, opnd 1 0 0 0 1 1), (32, 8, opnd 1 0 0 1 1 1), (40, 8, opnd 0 0 0 2 1 1)] []

/-- The same with C in the first row of square 2, at whose wait point it stands. -/
def matmulAhead : State :=
  { onRing 0 { started 0x10 [(24, 8, opnd 1 0 0 0 1 1), (32, 8, opnd 1 0 0 1 1 1), (40, 8, opnd 0 3 32 0 1 1)] with
      tds := tensors, waits := [{ square := 1, mode := .writeFill }] } with islets := [(0, { tds := tensors })] }

theorem witness_MatrixMultiply :
    booted.engineRun (3 * 0) 0x10 = none ∧
    (∃ r, matmul.engineRun (3 * 0) 0x10 = some r ∧ r.waits = [] ∧
      (let a := refAt r.tds r.entry 24 true false
       let b := refAt r.tds r.entry 32 true false
       let c := refAt r.tds r.entry 40 false true
       let la := matmul.loadRef 0 0 r a
       let lb := la.s.loadRef 0 0 r b
       let x := mxCompute r.entry c a.td.scale b.td.scale (a.values la.rows) (b.values lb.rows)
       la.stop = none ∧ lb.stop = none ∧ (storeAll ((lb.s.isletOwner 0).getD 0) 0 [(c.td.mem, c.storedRuns x.codes)] lb.s).2.2 = none)) ∧
    (∃ r, matmulAhead.engineRun (3 * 0) 0x10 = some r ∧ r.waits ≠ [] ∧
      (let la := matmulAhead.loadRef 0 0 r (refAt r.tds r.entry 24 true false)
       la.stop = none ∧ (la.s.loadRef 0 0 r (refAt r.tds r.entry 32 true false)).stop = none)) := by
  exact ⟨by decide, ⟨_, rfl, rfl, by decide +kernel⟩, ⟨_, rfl, by decide, by decide +kernel⟩⟩

theorem witness_VectorCommands :
    booted.engineRun 1 vxAddWork.op = none ∧
    (let s := engine 1 0x21 xyz []
     ∃ r, s.engineRun (3 * 0 + 1) vxAddWork.op = some r ∧ r.waits = [] ∧
      (let l := loadRefs 0 0 r (vxAddWork.ins r) s
       l.1.stop = none ∧ (storeAll ((l.1.s.isletOwner 0).getD 0) 0 (plainOuts (vxAddWork.outs r l.2).1) l.1.s).2.2 = none)) ∧
    (let s : State := { onRing 1 { started 0x21 [(24, 8, opnd 0 0 0 0 1 1), (32, 8, opnd 0 0 0 1 1 1), (40, 8, opnd 0 3 32 0 1 1)] with
       tds := tensors, waits := [{ square := 1, mode := .writeFill }] } with islets := [(0, { tds := tensors })] }
     ∃ r, s.engineRun 1 vxAddWork.op = some r ∧ r.waits ≠ [] ∧ (loadRefs 0 0 r (vxAddWork.ins r) s).1.stop = none) ∧
    (let s : State := { engine 1 0x21 xyz [] with spPoison := [(1, true)] }
     ∃ r, s.engineRun 1 vxAddWork.op = some r ∧ ∃ info, (loadRefs 0 0 r (vxAddWork.ins r) s).1.stop = some (.poison info)) ∧
    (let s := onRing 1 { started 0x21 xyz with tds := [(0, { format := 0, mem := true, valid := true, base := 0x4000000000, stride := 4 })] }
     ∃ r, s.engineRun 1 vxAddWork.op = some r ∧ (loadRefs 0 0 r (vxAddWork.ins r) s).1.stop = some .wait) ∧
    (let s := onRing 1 { started 0x21 xyz with
       tds := [(0, { format := 0, mem := true, valid := true, base := 0x4000000000, stride := 4 })], hostErr := some (0, 1) }
     ∃ r, s.engineRun 1 vxAddWork.op = some r ∧ ∃ a k, (loadRefs 0 0 r (vxAddWork.ins r) s).1.stop = some (.host a k)) := by
  exact ⟨by decide, ⟨_, rfl, rfl, by decide +kernel⟩, ⟨_, rfl, by decide, by decide +kernel⟩, ⟨_, rfl, ⟨_, rfl⟩⟩, ⟨_, rfl, by decide +kernel⟩,
    ⟨_, rfl, ⟨_, _, rfl⟩⟩⟩

theorem witness_RoundingOfMagnitude : ((-1 : Int) ≤ -1) ∧ ((-2 : Int) < -1) ∧ Rnd.rne ≠ .stoch 0 := by
  decide

theorem test_round_tie_even :
    (({ neg := false, m := 5, e := -1 } : Mag).cut 0).round .rne false = 2 ∧
    (({ neg := false, m := 7, e := -1 } : Mag).cut 0).round .rne false = 4 ∧
    (({ neg := true, m := 5, e := -1 } : Mag).cut 0).round .rdn true = 3 := by
  decide

/-- Islet 0's Move queue runs a command. -/
def onMv (op : Nat) (fields : List (Nat × Nat × Nat)) : State :=
  { onRing 2 { started op fields with tds := tensors } with hbm := words [(0x30000000, 0x04030201), (0x30000004, 0x08070605)] }

/-- The word of HBM at an address after a command. -/
def hbmAfter (o : Host.Outcome State Fault Refusal) (a : Nat) : Option Nat :=
  seen o (fun t => leNat (Memory.bytes t.hbm a 4))

-- two rows of 4 bytes, 4 apart in the source and 64 apart in the destination (R136, R137)
theorem test_mvCopy_rows :
    let o := exec (.mvCopy 0 0) (onMv 0x60 [(24, 6, 0x30000000), (32, 6, 0x30001000), (40, 4, 8), (48, 4, 4), (52, 4, 4), (56, 4, 64)])
    hbmAfter o 0x30001000 = some 0x04030201 ∧ hbmAfter o 0x30001040 = some 0x08070605 ∧ hbmAfter o 0x30001004 = some 0 := by
  decide +kernel

-- the pattern repeats every 4 bytes (R138)
theorem test_mvFill :
    let o := exec (.mvFill 0 0) (onMv 0x61 [(32, 6, 0x30002000), (40, 4, 6), (48, 4, 0xA1B2C3D4)])
    hbmAfter o 0x30002000 = some 0xA1B2C3D4 ∧ hbmAfter o 0x30002004 = some 0xC3D4 := by
  decide +kernel

theorem witness_MoveCommands :
    (let s := onMv 0x60 [(24, 6, 0x30000000), (32, 6, 0x30001000), (40, 4, 8)]
     ∃ r, s.moveRun 0 0 0x60 = some r ∧ s.destReady 0 0 r.entry = true ∧ r.grantKey = none ∧
      (let l := loadRuns 0 0 false r (copySource r).1 (copySource r).2 s
       s.loadPending 0 (copySource r).2 = false ∧ l.stop = none ∧ l.s.die = s.die ∧
        (l.s.moveOut 0 0 r 0 l.rows.flatten false).stop = none)) ∧
    (let s := onMv 0x61 [(32, 6, 0x30002000), (40, 4, 6), (48, 4, 0xA1B2C3D4)]
     ∃ r, s.moveRun 0 0 0x61 = some r ∧ s.destReady 0 0 r.entry = true) ∧
    (let s := onMv 0x62 [(24, 6, 0x30000000), (40, 4, 1), (44, 4, 127)]
     ∃ r, s.moveRun 0 0 0x62 = some r ∧ s.loadPending 0 [(0x30000000, 64)] = false ∧
       (loadRuns 0 0 false r true [(0x30000000, 64)] s).stop = none) ∧
    (∃ r, (onMv 0x63 []).moveRun 0 0 0x63 = some r) := by
  exact ⟨⟨_, rfl, by decide +kernel, by decide +kernel, by decide +kernel⟩, ⟨_, rfl, by decide +kernel⟩,
    ⟨_, rfl, by decide +kernel, by decide +kernel⟩, ⟨_, rfl⟩⟩

/-- A fill of 8 bytes into the scratchpad window 2 of partition 0 on die 9, whose grant this die holds. -/
def pushing : Run :=
  { started 0x61 [(32, 6, 0x19000000000), (40, 4, 8), (48, 4, 5)] with aux := [grantKey 9 0 2] }

theorem witness_MoveCommands_window :
    let s : State := { onRing 2 pushing with
      grants := [(grantKey 9 0 2, { present := true, base := 0x1000000000, size := 64, limit := 100 })] }
    ∃ r, s.moveRun 0 0 0x61 = some r ∧ s.destReady 0 0 r.entry = true ∧ r.grantKey = some (9 * 256 + 2) ∧ s.die ≠ 9 ∧
      (let m := s.freshXfer.2.moveOut 0 0 r s.freshXfer.1 ((List.range 8).map (fun _ => 5)) false
       m.stop = none ∧ m.sent ≠ 0) := by
  exact ⟨_, rfl, by decide +kernel, by decide +kernel, by decide, by decide +kernel⟩

theorem witness_ScratchpadStores :
    (booted.writeSp 15 (2 ^ 22 - 4) [1, 2, 3, 4]).bad = none ∧ (127 < 0 + 128 / 1 ∧ 0 ≤ 127) ∧
    (∀ u ∈ ([(8, [1, 2])] : List (Nat × List Byte)), 7 < spKey 0 u.1 ∨ spKey 0 u.1 + u.2.length ≤ 7) := by
  decide +kernel

theorem witness_HbmStore : Coherent booted ∧ hbmEnd - 4 + 4 ≤ hbmEnd ∧ (booted.writeHbm (hbmEnd - 4) [1, 2, 3, 4]).bad = none := by
  refine ⟨⟨fun _ => rfl, fun _ => rfl, fun l h => absurd h (by simp [Table.keys, booted, State.reset])⟩, by decide, by decide +kernel⟩

/-! ### Rings, registers and the host -/

theorem witness_RowRegisters : (64 : Nat) ≤ 64 ∧ (16 : Nat) ≤ 16 ∧ (15 : Nat) < 16 ∧ (9 : Nat) < 10 ∧ (3 : Nat) < 4 ∧ (23 : Nat) < 24 ∧ (5 : Nat) < 6 := by
  decide

/-- The booted die with one queue in a given state. -/
def withQueue (q : Nat) (k : Queue) : State :=
  { booted with queues := [(q, k)], rings := [(0, { enable := true }), (64, { enable := true })] }

theorem witness_QueueControl_kick :
    (let s := withQueue 64 { enable := true, st := .idle }
     Reaches s .hif 0 0x14000 true .kick ∧ (s.queue 64).enable = true ∧ (s.queue 64).halted = false) ∧
    (let s := withQueue 48 { enable := true, st := .active, halted := true }
     Reaches s .hif 1 0x14000 true .kick ∧ s.queueOwner 48 = some 0 ∧ (s.queue 48).halted = true) ∧
    (Reaches booted .hif 0 0x14000 true .kick ∧ (booted.queue 0).enable = false) := by
  refine ⟨⟨⟨?_, ?_, ?_, ?_, ?_, ?_⟩, ?_⟩, ⟨⟨?_, ?_, ?_, ?_, ?_, ?_⟩, ?_⟩, ⟨⟨?_, ?_, ?_, ?_, ?_, ?_⟩, ?_⟩⟩ <;> decide +kernel

theorem witness_QueueControl_enable :
    (let s := withQueue 64 {}
     Reaches s .hif 0 (qctrlOff 64) true (.qCtrl 64) ∧ (s.queue 64).enable = false ∧ (s.queue 64).base.toNat % 4096 = 0 ∧
       (s.queue 64).db.toNat % 64 = 0 ∧ (s.ring (s.queueRing 64)).enable = true) ∧
    MaySet (withQueue 64 {}) 0 64 ∧ MaySet booted 1 48 ∧
    ((withQueue 64 { base := 4095 }).queue 64).base.toNat % 4096 ≠ 0 ∧ ((withQueue 64 { db := 63 }).queue 64).db.toNat % 64 ≠ 0 ∧
    ((booted.ring (booted.queueRing 64)).enable = false) ∧
    Reaches booted .hif 1 (qctrlOff 48) true (.qCtrl 48) ∧ Reaches booted .hif 1 (qctrlOff 0) true (.qCtrl 0) := by
  refine ⟨⟨⟨?_, ?_, ?_, ?_, ?_, ?_⟩, ?_, ?_, ?_, ?_⟩, Or.inl ⟨rfl, rfl⟩, Or.inr ⟨by decide, 0, rfl, rfl⟩, ?_, ?_, ?_,
    ⟨?_, ?_, ?_, ?_, ?_, ?_⟩, ⟨?_, ?_, ?_, ?_, ?_, ?_⟩⟩ <;> decide +kernel

theorem witness_QueueControl_disable :
    (let s := withQueue 64 { enable := true, st := .parked, park := true, cons := 9, prod := 9 }
     (s.queue 64).enable = true ∧ (s.queue 64).cons = (s.queue 64).prod ∧ (s.queue 64).run = [] ∧ s.ledgerHeld 64 = false ∧
       MaySet s 0 64) ∧
    (let s := withQueue 64 { enable := true, cons := 8, prod := 9 }
     (s.queue 64).enable = true ∧ (s.queue 64).cons ≠ (s.queue 64).prod) ∧
    Reaches (withQueue 64 { enable := true }) .hif 0 (qctrlOff 64) true (.qCtrl 64) := by
  refine ⟨⟨?_, ?_, ?_, ?_, Or.inl ⟨rfl, rfl⟩⟩, ?_, ⟨?_, ?_, ?_, ?_, ?_, ?_⟩⟩ <;> decide +kernel

theorem witness_HaltsEnd :
    (let s := withQueue 64 { enable := true, halted := true, cause := 2 }
     Reaches s .hif 0 (0x1C008 + 0x10 * 64) true (.qResume 64) ∧ MaySet s 0 64 ∧ (s.queue 64).halted = true ∧
       (s.queue 64).discarding = false ∧ s.ledgerHeld 64 = false ∧ (s.queue 64).ringFault = 0 ∧ s.hostOpen 64 = true) ∧
    ((withQueue 64 { enable := true, halted := true, ringFault := 4 }).queue 64).ringFault = 4 ∧
    ((withQueue 64 { enable := true }).queue 64).halted = false ∧
    (let s : State := { withQueue 64 { enable := true, halted := true } with pcie := [] }
     s.hostOpen 64 = false) ∧
    (let s : State := { withQueue 0 { enable := true, halted := true } with up := { fwFailed := true } }
     MaySet s 1 0 ∧ s.up.fwFailed = true) ∧
    Reaches (withQueue 48 { enable := true, halted := true }) .hif 1 (0x1C008 + 0x10 * 48) true (.qResume 48) := by
  refine ⟨⟨⟨?_, ?_, ?_, ?_, ?_, ?_⟩, Or.inl ⟨rfl, rfl⟩, ?_, ?_, ?_, ?_, ?_⟩, ?_, ?_, ?_,
    ⟨Or.inr ⟨by decide, 0, rfl, rfl⟩, ?_⟩, ⟨?_, ?_, ?_, ?_, ?_, ?_⟩⟩ <;> decide +kernel

/-- The booted die with one completion or event ring. -/
def withRing (c : Nat) (r : Ring) : State := { booted with rings := [(c, r)] }

theorem witness_HeadBeyondRing :
    (let s := withRing 64 { enable := true, tail := 64 }
     ringFn 64 = 0 ∧ Reaches s .hif 0 (0x12000 + 0x20 * 64 + 12) true (.cqHead 64) ∧
       2 ^ (s.ring 64).sizeLog2.toNat < ((s.ring 64).tail - (-1)).toNat) ∧
    (let s := withRing (evRing 16) { enable := true, tail := 64 }
     ringFn (evRing 16) = 0 ∧ Reaches s .hif 0 (0x13000 + 0x20 * 16 + 12) true (.cqHead (evRing 16)) ∧
       2 ^ (s.ring (evRing 16)).sizeLog2.toNat < ((s.ring (evRing 16)).tail - (-1)).toNat) := by
  refine ⟨⟨?_, ⟨?_, ?_, ?_, ?_, ?_, ?_⟩, ?_⟩, ⟨?_, ⟨?_, ?_, ?_, ?_, ?_, ?_⟩, ?_⟩⟩ <;> decide +kernel

theorem witness_RingControl :
    (let s := withRing 0 { enable := true, tail := 64 }
     ringFn 0 = 1 ∧ Reaches s .hif 1 (0x12000 + 12) true (.cqHead 0) ∧
       ((s.ring 0).tail - 0).toNat ≤ 2 ^ (s.ring 0).sizeLog2.toNat) ∧
    (let s := withRing (evRing 0) { enable := true, tail := 64 }
     ringFn (evRing 0) = 1 ∧ Reaches s .hif 1 (0x13000 + 12) true (.cqHead (evRing 0))) ∧
    Reaches booted .hif 0 (0x12000 + 0x20 * 64 + 8) true (.cqCfg 64) ∧ Reaches booted .hif 0 (0x13000 + 0x20 * 16 + 8) true (.cqCfg (evRing 16)) ∧
    Reaches booted .hif 1 (0x12000 + 8) true (.cqCfg 0) ∧ (0x70006 : Word).toNat / 2 ^ 8 % 2 ^ 7 < 8 ∧
    (booted.ring 64).enable = false ∧ (booted.ring 64).base.toNat % 4096 = 0 ∧ (0x50006 : Word).toNat % 32 = 6 ∧
    ((withRing 64 { base := 0x1008 }).ring 64).base.toNat % 4096 ≠ 0 ∧ (16 < (0x11 : Word).toNat % 32) ∧
    (let s := withRing 64 { enable := true }
     s.ringNamed 64 = false ∧ (s.ring 64).enable = true) ∧
    (let s := withQueue 64 { enable := true }
     s.ringNamed 64 = true ∧ (s.ring 64).enable = true) := by
  refine ⟨⟨?_, ⟨?_, ?_, ?_, ?_, ?_, ?_⟩, ?_⟩, ⟨?_, ⟨?_, ?_, ?_, ?_, ?_, ?_⟩⟩, ⟨?_, ?_, ?_, ?_, ?_, ?_⟩, ⟨?_, ?_, ?_, ?_, ?_, ?_⟩, ⟨?_, ?_, ?_, ?_, ?_, ?_⟩,
    ?_, ?_, ?_, ?_, ?_, ?_, ?_⟩ <;> decide +kernel

/-- Die 0 leads a machine of dies 0 and 63, and serves queue 64 of die 63 (R227). -/
def leading (k : Queue) : State :=
  { booted with mgt := { booted.mgt with product := 2, machineMode := true, machineLead := true, machineMask := 2 ^ 63 + 1 },
                queues := [(128 * 63 + 64, k)] }

theorem witness_PollsAndReads :
    (let s := withQueue 64 { enable := true, st := .active }
     (s.queue 64).enable = true ∧ (s.queue 64).pollOut = false ∧ s.hostOpen 64 = true ∧ (s.queue 64).st = .active ∧
       (s.queue 64).discarding = false ∧ (s.queue 64).halted = false) ∧
    (let s := withQueue 64 { enable := true, st := .idle }
     (s.queue 64).pollDue = false ∧ (s.queue 64).st = .idle ∧ s.hostOpen 64 = true) ∧
    (let s := withQueue 64 { enable := true, st := .active, pollOut := true, gen := 3, sizeLog2 := 6 }
     (s.queue 64).pollOut = true ∧ (3 : Word) = (s.queue 64).gen ∧ (64 : Word) ≠ (s.queue 64).prod ∧
       ((64 : Word) - (s.queue 64).cons).toNat ≤ 2 ^ (s.queue 64).sizeLog2.toNat ∧
       2 ^ (s.queue 64).sizeLog2.toNat < ((65 : Word) - (s.queue 64).cons).toNat ∧
       2 ^ 31 ≤ ((0x80000000 : Word) - (s.queue 64).prod).toNat) ∧
    (let s := leading { enable := true, st := .active, pollOut := true, gen := 3, sizeLog2 := 6, unchanged := 128 }
     (s.queue (128 * 63 + 64)).pollOut = true ∧ s.hostOpen (128 * 63 + 64) = true ∧ (3 : Word) = (s.queue (128 * 63 + 64)).gen ∧
       (s.queue (128 * 63 + 64)).fetched = (s.queue (128 * 63 + 64)).cons) ∧
    ((leading { enable := true, fetchOut := 2 }).queue (128 * 63 + 64)).fetchOut ≠ 0 ∧
    (let s := withQueue 64 { enable := true, st := .active, unchanged := 128 }
     (s.queue 64).st = .active ∧ 128 ≤ (s.queue 64).unchanged ∧ (s.queue 64).entries = [] ∧ (s.queue 64).run = [] ∧
       (s.queue 64).fetchOut = 0 ∧ s.ringHeld 64 = false) ∧
    (let s : State := { withQueue 64 { enable := true, st := .active, unchanged := 128 } with
       rings := [(64, { enable := true, waiting := [{ queue := 64, seq := 0, status := 0, info := 0, irq := false }] })] }
     s.ringHeld 64 = true) ∧
    (let s := withQueue 64 { enable := true, st := .active, fetchOut := 8 }
     (s.queue 64).fetchOut ≠ 0 ∧ s.hostOpen 64 = true ∧ (s.queue 64).discarding = false ∧ (s.queue 64).halted = false) ∧
    (let s := withQueue 64 { enable := true, run := [{ started 0x8A [(24, 6, 0x1000), (32, 4, 4), (36, 4, 4)] with steps := 1 }] }
     (∃ r, s.readsHost 64 0 0x1000 = some r) ∧ s.mgmtBusy 64 0x8B = none) := by
  exact ⟨by decide, by decide, by decide, by decide, by decide, by decide, by decide, by decide, ⟨_, rfl⟩, rfl⟩

theorem witness_PinOutputs :
    booted.on 32 = true ∧ Reaches booted .hif 0 0x50004 true .gpioOut ∧ Reaches booted .hif 1 0x50004 true .gpioOut ∧ Reaches booted .hif 0 0x50008 true .gpioSet ∧
    Reaches booted .goose 0 0x5000C true .gpioClr ∧ Reaches booted .goose 0 0x50010 true .gpioTgl ∧ (23 : Nat) < 24 ∧
    (let s : State := { booted with domains := [(33, { st := .on }), (34, { st := .on })] }
     Reaches s .hif 0 0x50004 true .gpioOut ∧ s.on 32 = false) := by
  refine ⟨?_, ⟨?_, ?_, ?_, ?_, ?_, ?_⟩, ⟨?_, ?_, ?_, ?_, ?_, ?_⟩, ⟨?_, ?_, ?_, ?_, ?_, ?_⟩, ⟨?_, ?_, ?_, ?_, ?_, ?_⟩, ⟨?_, ?_, ?_, ?_, ?_, ?_⟩, ?_, ⟨⟨?_, ?_, ?_, ?_, ?_, ?_⟩, ?_⟩⟩
    <;> decide +kernel

theorem witness_PinUnits :
    (let s : State := { booted with gpio := { booted.gpio with pins := [(23, { owner := 0 })] } }
     Reaches s .hif 0 (0x50100 + 4 * 23) true (.gpioCfg 23) ∧ s.ownsPin (onBehalf .hif 0) 23 = true ∧
       (let w := (0x0300A014 : Word).toNat
        w % 64 ≤ 0x14 ∧ ((s.pin 23).owner.toNat < 0x10) ∧ w / 2 ^ 11 % 4 ≠ 3 ∧ w / 2 ^ 13 % 8 ≤ 5)) ∧
    (let s : State := { booted with gpio := { booted.gpio with pins := [(7, { owner := 0 })] }, power := { wakePins := 0x80 } }
     s.ownsPin .host 7 = true ∧ s.power.wakePins.getLsbD 7 = true) ∧
    (let s : State := { booted with domains := [(33, { st := .on }), (34, { st := .on })] }
     Reaches s .hif 0 (0x50100 + 4 * 8) true (.gpioCfg 8) ∧ s.on 32 = false) ∧
    Reaches booted .icpHub 0 (0x50100 + 4 * 0) true (.gpioCfg 0) ∧ booted.ownsPin (onBehalf .icpHub 0) 0 = false ∧
    booted.boot.porHigh = true ∧ booted.gpio.level.getLsbD 23 ≠ true ∧ booted.timeRuns = true ∧
    (let s : State := { booted with gpio := { booted.gpio with isel := [(11, 0x83), (17, 0x80)] } }
     (Table.get 0 s.gpio.isel 11).getLsbD 7 = true ∧ (Table.get 0 s.gpio.isel 17).getLsbD 7 = true) ∧
    booted.mgt.slot = 0 ∧ booted.mgt.stage = .ready ∧ booted.fanDuty 3 ≠ 0 ∧ booted.gpio.fanStalled.getLsbD 3 = false ∧
    Reaches booted .hif 0 (0x50800 + 4 * 3) true (.fanDuty 3) ∧
    (let s : State := { booted with mgt := { booted.mgt with product := 2, slot := 1, machineMode := true } }
     s.mgt.slot ≠ 0 ∧ Reaches s .goose 0 (0x50800 + 4 * 3) true (.fanDuty 3)) := by
  refine ⟨⟨⟨?_, ?_, ?_, ?_, ?_, ?_⟩, ?_, ?_, ?_, ?_, ?_⟩, ?_, ⟨⟨?_, ?_, ?_, ?_, ?_, ?_⟩, ?_⟩, ⟨?_, ?_, ?_, ?_, ?_, ?_⟩, ?_, ?_, ?_, ?_, ⟨?_, ?_⟩, ?_, ?_, ?_, ?_, ⟨?_, ?_, ?_, ?_, ?_, ?_⟩,
    ⟨?_, ⟨?_, ?_, ?_, ?_, ?_, ?_⟩⟩⟩
    <;> decide +kernel

/-- A booted die whose debug session reaches partition 0 and JTAG, DBG_MEM_ADDR in granule 3, with one entry in the sealed
log. -/
def debugging : State :=
  { booted with bus := { dbgOpen := true, dbgJtag := true, dbgMask := 1, dbgAddr := 0x30000000,
                         sealedLog := [{ time := 0, master := 0, part := 0xFF, queue := 0, reason := 1, seq := 0, addr := 5 }] } }

theorem witness_ReleaseRows :
    (let w : WaitPoint := { square := 5, mode := .readTake }
     let s := onRing 0 { started 0x10 [] with waits := [w] }
     s.isletOwner 0 = some 0 ∧ Reaches s .hif 1 0x100300 true (.qabort 0) ∧ (s.tagWaitOf 0).isSome = true ∧ s.tagWaitOf 1 = none) ∧
    (let s : State := { booted with up := { frozen := true, breachPart := 0xFF } }
     Reaches s .hif 0 0x80020 true .ldgRelease ∧ s.up.frozen = true ∧ s.up.breachPart = 0xFF) ∧
    (let s : State := { booted with up := { frozen := true, breachPart := 15 } }
     Reaches s .hif 0 0x80020 true .ldgRelease ∧ s.up.breachPart ≠ 0xFF) ∧
    (let s : State := { booted with ports := [(9, { st := .quiet, enabled := true })] }
     Reaches s .hif 0 (0x200010 + 0x10000 * 9) true (.strCtrl 9) ∧ (s.port 9).st = .quiet ∧ (s.port 9).enabled = true) ∧
    (Reaches booted .hif 0 (0x200010 + 0x10000 * 9) true (.strCtrl 9) ∧ (booted.port 9).st ≠ .quiet) ∧
    Master.hif ≠ .goose ∧ Reaches debugging .hif 0 0x500020 true .dbgRelease := by
  refine ⟨⟨?_, ⟨?_, ?_, ?_, ?_, ?_, ?_⟩, ?_⟩, ⟨⟨?_, ?_, ?_, ?_, ?_, ?_⟩, ?_, ?_⟩, ⟨⟨?_, ?_, ?_, ?_, ?_, ?_⟩, ?_⟩, ⟨⟨?_, ?_, ?_, ?_, ?_, ?_⟩, ?_, ?_⟩, ⟨⟨?_, ?_, ?_, ?_, ?_, ?_⟩, ?_⟩, ?_, ⟨?_, ?_, ?_, ?_, ?_, ?_⟩⟩
    <;> decide +kernel

theorem witness_RegisterAccess :
    (Reaches debugging .dbg 0 0x500048 true .dbgMemData ∧ Reaches debugging .hif 0 0x500048 false .dbgMemData ∧
      debugging.dbgReach = some 0) ∧
    (Reaches debugging .goose 0 (0x500110 + 4 * 7) false (.dbgLogEntry 7) ∧
      ∃ l, debugging.bus.sealedLog[debugging.bus.dbgIndex.toNat]? = some l ∧ l.part = 0xFF) ∧
    (let l : LogEntry := { time := 0, master := 0, part := 15, queue := 0, reason := 1, seq := 0, addr := 5 }
     l.part ≠ 0xFF ∧ debugging.bus.dbgMask.getLsbD l.part.toNat = false ∧ debugging.bus.dbgMask.getLsbD 0 = true) ∧
    (Reaches booted .hif 0 0x00080020 true .ldgRelease ∧ (accOf .hif 0 0x00080020).off ≠ 0x500020) ∧
    Reaches booted .hif 0 0x40 false .idPlace ∧
    (let a := accOf .hif 16 0x10000
     a.off % 4 = 0 ∧ booted.noRequests a = false ∧ booted.frozenPath a = false ∧ booted.accessReason a false = some 0x04) := by
  refine ⟨⟨⟨?_, ?_, ?_, ?_, ?_, ?_⟩, ⟨?_, ?_, ?_, ?_, ?_, ?_⟩, ?_⟩, ⟨⟨?_, ?_, ?_, ?_, ?_, ?_⟩, ⟨_, rfl, rfl⟩⟩, ?_,
    ⟨⟨?_, ?_, ?_, ?_, ?_, ?_⟩, ?_⟩, ⟨?_, ?_, ?_, ?_, ?_, ?_⟩, ?_⟩ <;> decide +kernel

/-- The booted die as the second card of a pair. -/
def second : State := { booted with mgt := { booted.mgt with slot := 1 } }

theorem witness_HostLink :
    (let a : Acc := accAt 0 0x40
     a.master = .hif) ∧
    (let s : State := { booted with bus := { held := 1 } }
     s.bus.held.getLsbD 0 = true ∧ s.frozenPath { accAt 0 0x40 with bar := 2 } = true ∧ s.noRequests { accAt 0 0x40 with bar := 2 } = false) ∧
    State.reset.mgt.cfgReady = false ∧ booted.mgt.cfgReady = true ∧ booted.noRequests { accAt 0 0x40 with bar := 2 } = false ∧
    booted.frozenPath { accAt 0 0x40 with bar := 2 } = false ∧ booted.mgt.machineMode = false ∧
    (let s : State := { booted with mgt := { booted.mgt with machineMode := true, machineLead := true, machineMask := 3 } }
     s.mgt.machineMask.getLsbD (2 ^ 26 / 2 ^ 26) = true ∧ 2 ^ 26 / 2 ^ 26 ≠ s.die) ∧
    (second.die ≠ 0 ∧ (16 : Nat) ≠ 0 ∧ 0xFFC % 4 = 0 ∧ second.noRequests (accOf .hif 0 0xFFC) = false ∧
      second.frozenPath (accOf .hif 0 0xFFC) = false) := by
  decide

/-- Bus Master Enable lets what waited for the host go on: here a completion is written (R220, R430). -/
theorem test_busMaster :
    let k : Completion := { queue := 64, seq := 0, status := 0, info := 0, irq := false }
    let s : State := { booted with pcie := [], rings := [(64, { enable := true, waiting := [k], generated := 1 })] }
    seen (exec (.completionPost 64) s) (fun t => (t.ring 64).tail.toNat) = some 0 ∧
    seen (exec (.pcieConfigRequest 0 (.command true)) s) (fun t => (t.ring 64).tail.toNat) = some 1 := by
  decide +kernel

/-- An auxiliary port reads the ID block (R48, R55: slot 1 in bits 8 to 6), and nothing beyond its 4 KiB. -/
theorem test_auxiliary_port :
    (second.busRead (accOf .hif 0 0x40)).out.head? = some (.readAnswer 0 0x41) ∧
    (second.busRead (accOf .hif 0 0x1000)).out.head? = some (.unsupported 0) := by
  decide +kernel

/-! ### Management commands -/

/-- A command of the operator on the booted die. -/
def op (code : Nat) (fields : List (Nat × Nat × Nat)) : State := onRing 64 (started code fields)

/-- The same once its run waits, keeping `aux`. -/
def opBusy (code : Nat) (fields : List (Nat × Nat × Nat)) (aux : List Nat) : State :=
  onRing 64 { started code fields with phase := .busy, aux := aux }

/-- Host bytes as they have come for a command. -/
def come (a : Nat) (l : List Byte) : Table (Option Byte) := l.zipIdx.map (fun x => (a + x.2, some x.1))

theorem get_come (a : Nat) (l : List Byte) : ∀ k j,
    Table.get none ((l.zipIdx k).map (fun x => (a + x.2, some x.1))) (a + k + j) = l[j]? := by
  induction l with
  | nil => intro k j; rfl
  | cons b l ih =>
    intro k j
    cases j with
    | zero => simp [Table.get]
    | succ j =>
      have := ih (k + 1) j
      simp only [List.zipIdx_cons, List.map_cons, Table.get, List.getElem?_cons_succ]
      rw [if_neg (by omega), ← this]
      congr 1
      omega

theorem hostRun_of_get (r : Run) (l : List Byte) : ∀ a, (∀ j, j < l.length → Table.get none r.hostBuf (a + j) = l[j]?) →
    hostRun r a l.length = (l, none) := by
  induction l with
  | nil => intro a _; rfl
  | cons b l ih =>
    intro a h
    have h0 := h 0 (by simp)
    have ht := ih (a + 1) (fun j hj => by have := h (j + 1) (by simpa using hj); simpa [Nat.add_assoc, Nat.add_comm 1] using this)
    simp at h0
    simp [hostRun, h0, ht]

/-- The bytes that have come are what the command reads. -/
theorem hostGot_come (r : Run) (a n : Nat) (l : List Byte) (h : r.hostBuf = come a l) (hn : l.length = n) : hostGot r a n = some l := by
  have := hostRun_of_get r l a (fun j _ => by rw [h]; have g := get_come a l 0 j; simpa [come] using g)
  rw [hn] at this
  simp [hostGot, this]

/-- A part of the bytes that have come. -/
theorem hostGot_part (r : Run) (a k n : Nat) (l : List Byte) (h : r.hostBuf = come a l) (hn : k + n ≤ l.length) :
    hostGot r (a + k) n = some ((l.drop k).take n) := by
  have hl : ((l.drop k).take n).length = n := by simp; omega
  have := hostRun_of_get r ((l.drop k).take n) (a + k) (fun j hj => by
    rw [hl] at hj
    rw [h, List.getElem?_take_of_lt hj, List.getElem?_drop]
    have g := get_come a l 0 (k + j)
    simpa [come, Nat.add_assoc] using g)
  rw [hl] at this
  simp [hostGot, this]

theorem clean_of (l : List (Nat × Bool)) (h : l.all (fun c => !c.2) = true) : Clean l := by
  intro c hc
  simpa using List.all_eq_true.mp h c hc

/-- The operator's TENANT_BEGIN of partition 15, with what this die and die 63 hold of it. -/
def beginning (p : Part) : State := { op 0x82 [(24, 1, 15), (25, 1, 1)] with parts := [(15, p)] }

theorem witness_TenantBegin :
    (let s := beginning { state := .created }
     ∃ r, s.mgmtRun 64 0x82 = some r ∧ s.follower = false ∧ (s.part (leAt r.entry 24 1 % 16)).state = .created ∧
       (s.part 15).othersAre 1 = true ∧ (s.part 15).wide = false ∧
       Clean [(24, decide (leAt r.entry 24 1 / 16 ≠ 0)), (25, decide (leAt r.entry 25 1 / 2 ≠ 0)), reservedBad r.entry 26 64]) ∧
    (let s := beginning { state := .created, others := [(63, 1)] }
     (s.part 15).othersAre 1 = true ∧ (s.part 15).wide = true ∧
       (let r := started 0x82 [(24, 1, 15), (25, 1, 1)]
        let u : State := { beginning { state := .active, others := [(63, 2)] } with
          queues := [(64, { enable := true, st := .active, run := [{ r with phase := .busy, aux := [15] }] })] }
        u.mgmtBusy 64 0x82 = some { r with phase := .busy, aux := [15] } ∧ (u.part 15).othersAre 2 = true ∧ u.switchOf 15 = none)) ∧
    ((beginning { state := .created, others := [(63, 3)] }).part 15).othersAre 1 = false ∧ ((beginning {}).part 15).state ≠ .created ∧
    (let e := entry 0x82 [(63, 1, 1)]
     firstBad [(24, decide (leAt e 24 1 / 16 ≠ 0)), (25, decide (leAt e 25 1 / 2 ≠ 0)), reservedBad e 26 64] = some 26) ∧
    (let s : State := { booted with mgt := { booted.mgt with machineMode := true }, parts := [(15, { state := .created })] }
     s.follower = true ∧ (s.part 15).state = .created) := by
  exact ⟨⟨_, rfl, by decide, by decide, by decide, by decide, clean_of _ (by decide)⟩, by decide +kernel, by decide, by decide, by decide, by decide⟩

theorem witness_PartCreate :
    (let s : State := { op 0x80 [(24, 1, 15), (26, 2, 0x4000), (32, 8, 2)] with owners := [(191, 0xFE)] }
     ∃ r, s.mgmtRun 64 0x80 = some r ∧ s.mgt.bootDone = true ∧ (s.part 15).state = .none ∧ s.isletOwner 14 = none ∧ s.owner 1 = 0xFF ∧
       s.follower = false ∧ s.settled 20 = .on ∧ s.mgt.trngReady = true ∧
       Clean [(24, decide (leAt r.entry 24 1 / 16 ≠ 0)), (25, decide (leAt r.entry 25 1 / 2 ≠ 0)),
         (26, leAt r.entry 26 2 == 0 && leAt r.entry 32 24 == 0), reservedBad r.entry 28 32, reservedBad r.entry 56 64]) ∧
    (let e := entry 0x80 [(24, 1, 15)]
     firstBad [(24, decide (leAt e 24 1 / 16 ≠ 0)), (26, leAt e 26 2 == 0 && leAt e 32 24 == 0)] = some 26) ∧
    ((booted.part 0).state ≠ .none ∧ booted.isletOwner 15 = some 0 ∧ booted.owner 190 ≠ 0xFF) ∧
    (let s : State := { booted with domains := [], mgt := { booted.mgt with trngReady := false } }
     s.settled 20 = .off ∧ s.settled 21 = .off ∧ s.mgt.trngReady = false) ∧
    (let s : State := { booted with parts := [(15, { others := [(0, 1)] })], mgt := { booted.mgt with machineMode := true } }
     s.follower = true ∧ Table.get 0 (s.part 15).others 0 = 1 ∧ Table.get 0 (s.part 14).others 0 = 0) := by
  exact ⟨⟨_, rfl, by decide, by decide, by decide, by decide, by decide, by decide, by decide,
      clean_of _ (by decide)⟩, by decide, by decide, by decide,
    by decide⟩

theorem witness_TenantSwitch :
    (let s := op 0x83 [(24, 1, 0)]
     ∃ r, s.mgmtRun 64 0x83 = some r ∧ s.follower = false ∧ leAt r.entry 24 1 / 16 = 0 ∧ (reservedBad r.entry 25 64).2 = false ∧
       (s.part 0).state = .active) ∧
    (let s := onRing 48 (started 0x83 [])
     ∃ r, s.mgmtRun 48 0x83 = some r ∧ (reservedBad r.entry 24 64).2 = false ∧ (s.part (48 - 48)).state = .active) ∧
    (let e := entry 0x83 [(24, 1, 16)]
     firstBad [(24, decide (leAt e 24 1 / 16 ≠ 0)), reservedBad e 25 64] = some 24) ∧
    (let s := op 0x81 [(24, 1, 15)]
     ∃ r, s.mgmtRun 64 0x81 = some r ∧ (s.part 15).state = .none) ∧
    (let s : State := { op 0x81 [(24, 1, 15)] with parts := [(15, { state := .created })] }
     ∃ r, s.mgmtRun 64 0x81 = some r ∧ leAt r.entry 24 1 / 16 = 0 ∧ (reservedBad r.entry 25 64).2 = false ∧ (s.part 15).state = .created) ∧
    (booted.die = 0 ∧ second.die ≠ 0) ∧
    (let s : State := { booted with switches := [(15, some { start := 0, issuer := none, destroy := true, took := some 5 })] }
     s.switchOf 15 = some { start := 0, issuer := none, destroy := true, took := some 5 } ∧ (s.part 15).othersAre 0 = true) := by
  exact ⟨⟨_, rfl, by decide, by decide, by decide, by decide⟩, ⟨_, rfl, by decide, by decide⟩, by decide, ⟨_, rfl, by decide⟩,
    ⟨_, rfl, by decide, by decide, by decide⟩, by decide, by decide⟩

/-- The status of ring 64's command after a command. -/
def ringStatus (o : Host.Outcome State Fault Refusal) : Option Nat :=
  seen o (fun t => ((t.queue 64).run.map (fun r => r.status.toNat)).headD 99)

-- at 750 mV the largest pace is 150 (R407): 150 takes effect, 151 is PACE_ORDER (R408)
theorem test_paceSet :
    seen (exec .paceSet (op 0x86 [(24, 1, 150)])) (fun t => t.power.paceCap.toNat) = some 150 ∧
    ringStatus (exec .paceSet (op 0x86 [(24, 1, 150)])) = some 0 ∧ ringStatus (exec .paceSet (op 0x86 [(24, 1, 151)])) = some 8 ∧
    seen (exec .paceSet (op 0x86 [(24, 1, 151)])) (fun t => t.power.paceCap.toNat) = some 90 := by
  decide +kernel

theorem witness_PaceSet :
    (let s := op 0x86 [(24, 1, 10)]
     ∃ r, s.mgmtRun 64 0x86 = some r ∧ requiredMv 10 ≤ s.power.volt.toNat ∧
       (∀ c ∈ [(24, decide (leAt r.entry 24 1 < 10) || decide (195 < leAt r.entry 24 1)), reservedBad r.entry 25 64], c.2 = false)) ∧
    (let s := op 0x86 [(24, 1, 195)]
     ∃ r, s.mgmtRun 64 0x86 = some r ∧ s.power.volt.toNat < requiredMv 195) ∧
    (let e := entry 0x86 [(24, 1, 196)]
     firstBad [(24, decide (leAt e 24 1 < 10) || decide (195 < leAt e 24 1)), reservedBad e 25 64] = some 24) := by
  exact ⟨⟨_, rfl, by decide, by decide⟩, ⟨_, rfl, by decide⟩, by decide⟩

theorem witness_VoltageAndLowPower :
    (let s := op 0x87 [(24, 2, 900)]
     ∃ r, s.mgmtRun 64 0x87 = some r ∧ s.power.linear16 = true ∧ s.power.paceCap.toNat ≤ largestCap 900 ∧
       (∀ c ∈ [(24, decide (leAt r.entry 24 2 < 600) || decide (900 < leAt r.entry 24 2)), reservedBad r.entry 26 64], c.2 = false)) ∧
    largestCap 600 < 195 ∧
    (let s : State := { opBusy 0x87 [(24, 2, 800)] [] with power := { voltGoal := some 800, voltGood := 1, voltPrev := 750 } }
     (∃ r, s.mgmtBusy 64 0x87 = some r) ∧ s.power.voltGoal = some 800 ∧ 800 ≤ 785 + 15 ∧ 785 ≤ 800 + 15 ∧ 1 ≤ s.power.voltGood ∧
       s.time + 5000 ≤ s.power.voltStart + 500000 ∧ ¬ 495001 + 5000 ≤ s.power.voltStart + 500000) ∧
    (784 + 15 < 800) ∧
    (let s : State := { op 0x88 [] with domains := [(33, { st := .on }), (34, { st := .on })] }
     ∃ r, s.mgmtRun 64 0x88 = some r ∧ (reservedBad r.entry 24 64).2 = false ∧ (∀ d, d < 33 → s.settled d ≠ .on ∧ s.domSt d ≠ .on) ∧
       knownLoad s.power.wakePorts s.power.wakePins ≤ 2600) ∧
    (let s := op 0x88 []
     s.settled 0 = .on) ∧
    (booted.power.d3hot = false ∧ booted.domSt 33 = .on ∧ booted.power.aonLp = false) ∧
    (let s : State := { booted with power := { aonLp := true, d3hot := true } }
     s.power.aonLp = true ∧ s.power.d3hot = true ∧ s.on 33 = true) := by
  exact ⟨⟨_, rfl, by decide, by decide, by decide⟩, by decide, ⟨⟨_, rfl⟩, by decide, by decide, by decide, by decide, by decide, by decide⟩, by decide,
    ⟨_, rfl, by decide, by decide, by decide⟩, by decide, by decide, by decide⟩

theorem witness_DomainCommands :
    (let s := op 0x84 [(24, 4, 0x80000000), (30, 2, 1000)]
     ∃ r, s.mgmtRun 64 0x84 = some r ∧ s.mgt.bootDone = true ∧ (∀ d, d < 33 → s.breaksOrder r.entry 24 d = false) ∧
       (∀ d, d < 16 → targetCode r.entry 24 d = 3 → s.windowOn d = false) ∧
       (∀ k, k < 2 → targetCode r.entry 24 (20 + k) = 3 → s.stackOwned k = false) ∧
       (∀ c ∈ [(24, setDomains.all (fun d => targetCode r.entry 24 d == 0)), (29, decide (leAt r.entry 29 1 / 64 ≠ 0)),
         (30, decide (1000 < leAt r.entry 30 2)), (34, decide (leAt r.entry 34 1 / 16 ≠ 0)), reservedBad r.entry 35 64], c.2 = false)) ∧
    (let s := op 0x84 [(28, 1, 0xFF)]
     ∃ d, d < 33 ∧ s.breaksOrder (entry 0x84 [(28, 1, 0xFF)]) 24 d = true ∧ (∀ k, k < d → s.breaksOrder (entry 0x84 [(28, 1, 0xFF)]) 24 k = false)) ∧
    (let s := opBusy 0x84 [(24, 4, 2)] [1]
     ∃ r, s.mgmtBusy 64 0x84 = some r ∧ r.aux.headD 0 = 1 ∧ s.mgmtBusy 64 0x8E = none ∧ s.loweringReady r.entry = true) ∧
    (let s := opBusy 0x8E [(24, 1, 14), (28, 4, 1)] [14, 0, 0]
     ∃ r, s.mgmtBusy 64 0x8E = some r ∧ r.aux.getD 2 0 = 0 ∧ s.quiet 14 = true ∧ (s.islet 14).testing = false ∧ s.on 14 = true) ∧
    (let s : State := booted.setDomain 5 { st := .ret, target := some .on }
     (s.domain 5).target = some .on ∧ s.mayMove 5 = true ∧ (s.domain 5).wake = none) ∧
    (let s : State := { op 0x85 [(24, 1, 23), (25, 1, 1)] with gpio := { pins := [(7, { configured := true, irq := 1 })] } }
     ∃ r, s.mgmtRun 64 0x85 = some r ∧ (s.pin (leAt r.entry 24 1 - 16)).configured = true ∧ (s.pin 7).func = 0 ∧ (s.pin 7).oe = false ∧
       (s.pin 7).irq ≠ 0 ∧ (∀ d, d < 33 → targetCode r.entry 40 d ≤ 1)) ∧
    (∃ r, (op 0x85 [(24, 1, 9)]).mgmtRun 64 0x85 = some r ∧ bit (leAt r.entry 25 1) 0 = false ∧ leAt r.entry 24 1 < 10) ∧
    (let s : State := { booted with gpio := { pins := [(7, { fired := true })] }, power := { wakePins := 0x80 } }
     (s.pin 7).fired = true ∧ s.power.wakePins.getLsbD 7 = true) := by
  refine ⟨⟨_, rfl, by decide, by decide, ?_, ?_, by decide⟩, ⟨0, by decide, by decide, by decide⟩, ⟨_, rfl, by decide, by decide, by decide⟩,
    ⟨_, rfl, by decide, by decide, by decide, by decide⟩, by decide, ⟨_, rfl, by decide, by decide, by decide, by decide, by decide⟩,
    ⟨_, rfl, by decide, by decide⟩, by decide⟩
  · decide +kernel
  · decide +kernel

/-- The key pair of private key 1: the public key is the base point. -/
def keyOne : List Byte := beBytes 48 gx384 ++ beBytes 48 gy384

/-- The signature under that key with random number 1. -/
def signOne (l : List Byte) : List Byte := beBytes 48 (gx384 % n384) ++ beBytes 48 (((sha384 l).toNat + gx384) % n384)

/-- A die whose ROM takes that key, with an empty fuse word but for its serial 9. -/
def plainDie : State := { booted with fuses := { serial := 9 }, romKey := sha384 keyOne }

/-- A firmware image of 16 bytes of body (R352). -/
def image : List Byte :=
  let head := magicOfwi ++ [1, 0, 3, 0, 16, 0, 0, 0] ++ List.replicate 20 0
  let body := gcmSeal plainDie.firmwareKey (List.replicate 12 0) head (List.replicate 16 0x5A)
  head ++ body.2 ++ keyOne ++ signOne (head ++ body.2) ++ List.replicate 16 0 ++ body.1

theorem witness_SupplyAndBoot :
    booted.gooseUp = true ∧ booted.power.tripped = false ∧ booted.boot.porHigh = true ∧ booted.power.limitW.toNat < 151 ∧
    booted.power.overLimit = false ∧ ((booted.power.thresholdC.toNat : Int) ≤ 95) ∧ booted.power.alert = false ∧
    ((89 : Int) < (booted.power.thresholdC.toNat : Int) - booted.power.hystC.toNat) ∧ ((115 : Int) ≤ 115) ∧
    State.reset.boot.porHigh = false ∧ State.reset.up.fwFailed = false ∧ booted.alive = true ∧ booted.die = 0 ∧
    (let s : State := { booted with mgt := { slot := 1 } }
     s.die ≠ 0 ∧ s.boot.perstHigh = true) ∧
    (let s : State := { booted with boot := { porHigh := true, trngRun := 1023 }, mgt := { nonce := 5 } }
     1024 ≤ s.boot.trngRun + 1 ∧ s.mgt.trngReady = false ∧ s.mgt.nonce ≠ 0) ∧ booted.boot.trngRun + 1 < 1024 ∧
    (let s : State := { booted with mgt := { stage := .fwLoad }, boot := { porHigh := true } }
     s.mgt.stage = .fwLoad ∧ s.boot.fwDone = false ∧ s.imageValid false = false ∧ s.imageValid true = false ∧
       s.boot.stackDone.getLsbD 1 = false) ∧
    (let s : State := { booted with mgt := { stage := .fwLoad, trngReady := true }, boot := { porHigh := true, fwDone := true, stackDone := 3 } }
     s.mgt.stage = .fwLoad ∧ s.boot.fwDone = true ∧ s.mgt.trngReady = true ∧ s.boot.stackDone = 3 ∧ s.mgt.hbmFail = 0) ∧
    (booted.mgt.stage = .ready ∧ ¬ (booted.bus.dbgOpen = true ∧ booted.bus.dbgJtag = true)) := by
  refine ⟨?_, ?_, ?_, ?_, ?_, ?_, ?_, ?_, ?_, ?_, ?_, ?_, ?_, ?_, ?_, ?_, ?_, ?_, ?_⟩ <;> decide +kernel

theorem witness_SupplyAndBoot_image :
    let s : State := { plainDie with flash := Memory.write [] 0x900000 image, mgt := { plainDie.mgt with slotRunning := true } }
    s.imageValid s.mgt.slotRunning = true ∧ s.imageBody s.mgt.slotRunning = some (List.replicate 16 0x5A) ∧ s.mgt.stage = .ready := by
  decide +kernel

theorem witness_GooseServices :
    (∃ r, (op 0x89 []).mgmtRun 64 0x89 = some r) ∧ (∃ r, (onRing 63 (started 0x89 [])).mgmtRun 63 0x89 = some r) ∧
    booted.gooseUp = true ∧ booted.exchanging 16 = false ∧ (booted.session 16).opening = false ∧ (booted.session 16).live = false ∧
    booted.mgt.trngReady = true ∧ State.reset.mgt.trngReady = false ∧ booted.die = 0 ∧ second.die ≠ 0 ∧ second.gooseUp = true ∧
    (let s : State := { booted with sessions := [(16, { live := true }), (15, { opening := true })] }
     (s.session 16).live = true ∧ (s.session 15).opening = true) ∧
    (let r : Run := { started 0x8A [(24, 8, 0x1000), (32, 4, 4), (36, 4, 16384)] with hostBuf := come 0x1000 [0x12, 0x84, 0, 0] }
     let s := onRing 64 r
     s.mgmtRun 64 0x8A = some r ∧ 4 ≤ leAt r.entry 32 4 ∧ leAt r.entry 32 4 ≤ 4096 ∧ leAt r.entry 36 4 ≤ 16384 ∧
       (reservedBad r.entry 48 64).2 = false ∧
       hostGot r (leAt r.entry 24 8) (leAt r.entry 32 4) = some [0x12, 0x84, 0, 0] ∧
       (∃ x, s.respond (ringOwnerFn 64) (leAt [0x12, 0x84, 0, 0] 1 1) [0x12, 0x84, 0, 0] true [] = some x)) := by
  exact ⟨⟨_, rfl⟩, ⟨_, rfl⟩, by decide, by decide, by decide, by decide, by decide, by decide, by decide, by decide, by decide, by decide,
    ⟨rfl, by decide, by decide, by decide, by decide, by decide, ⟨_, rfl⟩⟩⟩

/-- An authorisation block for entry `e` on the die of serial 9 with nonce 1 (R357). -/
def authBlock (e : List Byte) : List Byte :=
  let l := magicOaut ++ [0, 0, 0, 0] ++ leBytes 8 1 ++ leBytes 8 9 ++ leBytes 1 (eOpcode e) ++ leBytes 7 0 ++ sha (slice e 24 32) ++ keyOne
  l ++ signOne l

/-- A die with serial 9 and that key in slot 0, running a signed command. -/
def signed (r : Run) : State :=
  { onRing 64 r with fuses := { serial := 9, slotHash := [sha384 keyOne] } }

theorem witness_SignedCommands_accepted :
    (signed (started 0x91 [(24, 2, 1)])).authOk (entry 0x91 [(24, 2, 1)]) (authBlock (entry 0x91 [(24, 2, 1)])) [] = true := by
  decide +kernel

-- a bit of the block turned: refused
theorem test_authOk_refused :
    (signed (started 0x91 [(24, 2, 1)])).authOk (entry 0x91 [(24, 2, 1)]) ((authBlock (entry 0x91 [(24, 2, 1)])).set 271 0) [] = false := by
  decide +kernel

/-- 272 bytes that are no block. -/
def noBlock : List Byte := List.replicate 272 0

theorem witness_SignedCommands_debug :
    let r : Run := { started 0x91 [(24, 2, 0xFFFF), (26, 1, 1), (56, 8, 0x1000)] with hostBuf := come 0x1000 noBlock }
    (onRing 64 r).mgt.trngReady = true ∧ hostGot r (leAt r.entry 56 8) 272 = some noBlock ∧ (onRing 64 r).mgmtRun 64 0x91 = some r ∧
      leAt r.entry 26 1 / 2 = 0 ∧ (reservedBad r.entry 27 56).2 = false ∧ leAt r.entry 56 8 % 8 = 0 :=
  ⟨rfl, hostGot_come _ 0x1000 272 noBlock rfl (by decide +kernel), rfl, by decide, by decide, by decide⟩

theorem witness_SignedCommands_refused :
    ({ booted with fuses := {} } : State).authOk (entry 0x91 []) noBlock [] = false := by
  decide +kernel

theorem witness_SignedCommands_key :
    (let r : Run := { started 0x93 [(24, 1, 1), (25, 1, 3), (56, 8, 0x1000)] with hostBuf := come 0x1000 noBlock }
     let s : State := { onRing 64 r with fuses := { slotHash := [1, 0, 0, 1] } }
     s.mgmtRun 64 0x93 = some r ∧ leAt r.entry 24 1 = 1 ∧ leAt r.entry 25 1 = 3 ∧ (reservedBad r.entry 26 32).2 = false ∧
       leAt r.entry 32 8 = 0 ∧ (reservedBad r.entry 40 56).2 = false ∧ bit (installedSlots s.fuses) 3 = true ∧
       bit s.fuses.revoked.toNat 3 = false ∧ (0 ≠ 3 ∧ bit (installedSlots s.fuses) 0 = true ∧ bit s.fuses.revoked.toNat 0 = false)) ∧
    (let l := List.replicate 96 7
     let r : Run := { started 0x93 [(32, 8, 0x2000)] with hostBuf := come 0x2000 l }
     hostGot r (leAt r.entry 32 8) 96 = some l ∧ installedSlots {} = 0 ∧ leAt r.entry 56 8 = 0 ∧ leAt r.entry 24 1 = 0) :=
  ⟨⟨rfl, by decide, by decide, by decide, by decide, by decide, by decide +kernel, by decide +kernel, by decide +kernel⟩,
   ⟨hostGot_come _ 0x2000 96 _ rfl (by decide +kernel), by decide +kernel, by decide, by decide⟩⟩

theorem witness_SignedCommands_firmware :
    (let s := op 0x96 [(24, 1, 2), (56, 8, 0x1000)]
     ∃ r, s.mgmtRun 64 0x96 = some r ∧ leAt r.entry 24 1 / 4 = 0 ∧ (reservedBad r.entry 25 56).2 = false ∧ bit (leAt r.entry 24 1) 0 = false ∧
       bit (leAt r.entry 24 1) 1 = true ∧ s.mgt.staged = 0 ∧ s.mgt.stage ≠ .recovery ∧ leAt r.entry 56 8 % 8 = 0 ∧ s.mgt.trngReady = true) ∧
    (let r : Run := { started 0x96 [(24, 1, 1), (56, 8, 0x1000)] with hostBuf := come 0x1000 noBlock }
     let s : State := { onRing 64 r with mgt := { stage := .recovery, staged := 1 } }
     s.mgmtRun 64 0x96 = some r ∧ hostGot r (leAt r.entry 56 8) 272 = some noBlock ∧ s.mgt.staged ≠ 0 ∧
       s.mgt.fusedSv.toNat ≤ s.imageSv (s.mgt.staged == 2)) :=
  ⟨⟨_, rfl, by decide, by decide, by decide, by decide, by decide, by decide, by decide, by decide⟩,
   ⟨rfl, hostGot_come _ 0x1000 272 noBlock rfl (by decide +kernel), by decide, by decide +kernel⟩⟩

/-- An image of 16 bytes of body. -/
def header : List Byte := magicOfwi ++ [1, 0, 64, 0, 16] ++ List.replicate 247 0

theorem witness_FusesAndFlash :
    (∃ r, revoking.mgmtBusy 64 0x93 = some r ∧ r.aux = [1, 2] ∧ (2 : Nat) < 4) ∧
    (∃ r, (opBusy 0x93 [] [0, 3, 5]).mgmtBusy 64 0x93 = some r ∧ r.aux = [0, 3, 5]) ∧
    (let s := opBusy 0x96 [(24, 1, 2)] [0]
     s.mgmtBusy 64 0x93 = none ∧ ∃ r, s.mgmtBusy 64 0x96 = some r ∧ r.aux = [0] ∧ bit (leAt r.entry 24 1) 0 = false) ∧
    (∃ r, (opBusy 0x95 [] [0]).mgmtBusy 64 0x95 = some r ∧ r.aux = [0]) ∧
    (∃ r, (opBusy 0x95 [] [1]).mgmtBusy 64 0x95 = some r ∧ r.aux = [1]) ∧
    (let s := opBusy 0x96 [] [2]
     s.mgmtBusy 64 0x95 = none ∧ ∃ r, s.mgmtBusy 64 0x96 = some r ∧ r.aux = [2]) ∧
    (∃ r, (op 0x92 []).mgmtRun 64 0x92 = some r ∧ (reservedBad r.entry 24 64).2 = false) :=
  ⟨⟨_, rfl, rfl, by decide⟩, ⟨_, rfl, rfl⟩, ⟨rfl, ⟨_, rfl, rfl, by decide⟩⟩, ⟨_, rfl, rfl⟩, ⟨_, rfl, rfl⟩, ⟨rfl, ⟨_, rfl, rfl⟩⟩, ⟨_, rfl, by decide⟩⟩

theorem witness_FusesAndFlash_stage :
    (let r : Run := { started 0x95 [(24, 8, 0x1000), (32, 4, 272)] with hostBuf := come 0x1000 header }
     (onRing 64 r).mgmtRun 64 0x95 = some r ∧ (reservedBad r.entry 36 64).2 = false ∧ hostGot r (leAt r.entry 24 8) 256 = some header ∧
       leAt r.entry 32 4 = 256 + leAt header 8 4) ∧ imageHeaderOk header (256 + leAt header 8 4) = true ∧
    (let l := List.replicate 16 1
     let r : Run := { started 0x95 [(24, 8, 0x1000), (32, 4, 272)] with hostBuf := come 0x1100 l }
     hostGot r (leAt r.entry 24 8 + 256) (leAt r.entry 32 4 - 256) = some l) :=
  ⟨⟨rfl, by decide, hostGot_come _ 0x1000 256 header rfl (by decide +kernel), by decide⟩, by decide +kernel,
   hostGot_come _ 0x1100 16 _ rfl (by decide +kernel)⟩

theorem witness_OtherManagement :
    (∃ r, (onRing 48 (started 0x97 [(32, 4, 4096)])).mgmtRun 48 0x97 = some r ∧ leAt r.entry 32 4 = 4096 ∧ (reservedBad r.entry 36 64).2 = false) ∧
    (let s : State := { op 0x98 [(24, 8, 3)] with mgt := { booted.mgt with product := 2 } }
     ∃ r, s.mgmtRun 64 0x98 = some r ∧ (reservedBad r.entry 32 64).2 = false ∧ s.die = 0 ∧ (BitVec.ofNat 64 (leAt r.entry 24 8)).getLsbD 0 = true ∧
       s.joinFails [] 1 = true ∧ s.joinFails [] 0 = false) ∧
    (∃ r, (op 0x99 [(24, 1, 3), (28, 4, 86400), (32, 4, 10)]).mgmtRun 64 0x99 = some r ∧ leAt r.entry 28 4 = 86400 ∧ leAt r.entry 32 4 = 10 ∧
       (reservedBad r.entry 25 28).2 = false ∧ (reservedBad r.entry 36 64).2 = false) ∧
    (∃ r, (op 0x94 [(24, 4, 0x800100), (28, 1, 0x1F)]).mgmtRun 64 0x94 = some r ∧ leAt r.entry 24 4 / 2 ^ 24 = 0 ∧
       (reservedBad r.entry 29 64).2 = false ∧
       (∀ k ∈ [8, 23], (booted.pin k).owner ≠ 1 ∧ 8 ≤ k ∧ (booted.isletOwner (0x1F - 0x10)).isSome = true)) := by
  exact ⟨⟨_, rfl, by decide, by decide⟩, ⟨_, rfl, by decide, by decide, by decide, by decide, by decide⟩,
    ⟨_, rfl, by decide, by decide, by decide, by decide⟩, ⟨_, rfl, by decide, by decide, by decide⟩⟩

theorem witness_OtherManagement_export :
    let r : Run := { started 0x9A [(24, 8, 0x30000000), (40, 8, 32), (48, 8, 0x1000)] with hostBuf := come 0x1000 keyOne }
    let s := onRing 48 r
    s.mgmtRun 48 0x9A = some r ∧ hostGot r (leAt r.entry 48 8) 96 = some keyOne ∧ (pointOf keyOne).isSome = true ∧
      (pointOf (List.replicate 96 0)).isSome = false ∧ s.ownsHbm (48 - 48) 0x30000000 32 = true ∧
      s.touchesFrozen 0x30000000 32 = false ∧ s.runReady 0x30000000 32 = true ∧ (s.readHbm .lagoon 0x30000000 32).bad = none ∧
      s.ownsHbm 0 0x40000000 32 = false :=
  ⟨rfl, hostGot_come _ 0x1000 96 _ rfl (by decide +kernel), by decide +kernel, by decide +kernel, by decide, by decide, by decide +kernel,
   by decide +kernel, by decide⟩

/-- The content key of a package (R362). -/
def contentKey : List Byte := List.replicate 32 3

/-- Its only wrap entry, to the die of serial 9 whose binding key is 1, with an ephemeral key of 1 (R363). -/
def packageEntry : List Byte :=
  let head := leBytes 8 9 ++ keyOne
  let w := gcmSeal (kdf (beBytes 48 gx384) (textWrap ++ leBytes 8 77 ++ leBytes 8 9) 32) (List.replicate 12 0) head contentKey
  head ++ w.1 ++ w.2 ++ List.replicate 8 0

/-- The header of a package of one wrap entry and a body of 64 bytes. -/
def packageHeader : List Byte :=
  let l := magicOwpk ++ leBytes 2 1 ++ leBytes 2 1 ++ leBytes 8 77 ++ leBytes 8 64 ++ List.replicate 8 9 ++ slice (sha (textKcv ++ contentKey)) 0 16
    ++ keyOne
  l ++ signOne (l ++ packageEntry) ++ List.replicate 16 0

/-- Its body: one chunk (R364). -/
def packageBody : List Byte :=
  let c := gcmSeal contentKey (List.replicate 8 9 ++ leBytes 4 0) (leBytes 8 77 ++ leBytes 4 0) (List.replicate 64 0x55)
  c.1 ++ c.2

/-- WEIGHT_LOAD of it to granule 3, once all of it has come. -/
def loading : Run :=
  { started 0x8B [(24, 8, 0x1000), (32, 8, 0x30000000), (40, 8, 496)] with
      hostBuf := come 0x1000 (packageHeader ++ packageEntry ++ packageBody) }

/-- The die it is for. -/
def loader (r : Run) : State := { onRing 48 r with fuses := { serial := 9 }, store := { binding := [1] } }

theorem packageHeader_length : packageHeader.length = 256 := by decide +kernel
theorem packageEntry_length : packageEntry.length = 160 := by decide +kernel

theorem loading_header : hostGot loading 0x1000 256 = some packageHeader := by
  refine (hostGot_part loading 0x1000 0 256 _ rfl ?_).trans ?_
  · simp only [List.length_append, packageHeader_length]; omega
  · rw [List.drop_zero, List.append_assoc, List.take_left' packageHeader_length]

theorem loading_entry : hostGot loading (0x1000 + 256) 160 = some packageEntry := by
  refine (hostGot_part loading 0x1000 256 160 _ rfl ?_).trans ?_
  · simp only [List.length_append, packageHeader_length, packageEntry_length]; omega
  · rw [List.append_assoc, List.drop_left' packageHeader_length, List.take_left' packageEntry_length]

theorem witness_WeightLoad :
    let s := loader loading
    let e := loading.entry
    s.mgmtRun 48 0x8B = some loading ∧ leAt e 24 8 % 64 = 0 ∧ leAt e 32 8 % 0x200000 = 0 ∧ (reservedBad e 48 64).2 = false ∧
      hostGot loading (leAt e 24 8) 256 = some packageHeader ∧ packageHeaderBad packageHeader (leAt e 40 8) = none ∧
      hostGot loading (leAt e 24 8 + 256) (160 * leAt packageHeader 6 2) = some packageEntry ∧ wrapsBad 1 packageEntry = false ∧
      (s.part 0).loaded = false ∧ (s.win 0 15).isOpen = false ∧ s.ownsHbm 0 (leAt e 32 8) 0x200000 = true ∧
      s.packageKey packageHeader packageEntry = some contentKey := by
  have h1 : leAt loading.entry 24 8 = 0x1000 := by decide
  have h2 : leAt packageHeader 6 2 = 1 := by decide +kernel
  refine ⟨rfl, by decide, by decide, by decide, ?_, by decide +kernel, ?_, by decide +kernel, by decide, by decide, by decide, by decide +kernel⟩
  · rw [h1]; exact loading_header
  · rw [h1, h2]; exact loading_entry

/-- The same once admitted, with its content key. -/
def admitted (done : Nat) (more : List Nat) : Run := { loading with phase := .busy, aux := [0x30000000, 64, done] ++ more }

theorem witness_WeightLoadChunk :
    let s : State := { loader (admitted 0x30000000 []) with store := { content := [(0, contentKey)] } }
    let e := loading.entry
    let span := chunkAt e 1 64 0
    s.mgmtBusy 48 0x8B = some (admitted 0x30000000 []) ∧ span = (0x1000 + 416, 80) ∧
      hostGot (admitted 0x30000000 []) span.1 span.2 = some packageBody ∧
      gcmOpen (Table.get [] s.store.content 0) (slice packageHeader 24 8 ++ leBytes 4 0) (slice packageHeader 8 8 ++ leBytes 4 0)
        (slice packageBody 0 64) (slice packageBody 64 16) = some (List.replicate 64 0x55) ∧
      gcmOpen [] (slice packageHeader 24 8 ++ leBytes 4 0) (slice packageHeader 8 8 ++ leBytes 4 0)
        (slice packageBody 0 64) (slice packageBody 64 16) = none ∧
      s.runReady 0x30000000 64 = true ∧ 0x30000000 + 64 ≤ 0x30000000 + 64 ∧
      ((loader (admitted 0x30000000 [7, 0])).mgmtBusy 48 0x8B).isSome = true := by
  refine ⟨rfl, by decide +kernel, ?_, by decide +kernel, by decide +kernel, by decide +kernel, Nat.le_refl _, rfl⟩
  have hl : packageBody.length = 80 := by decide +kernel
  refine (hostGot_part (admitted 0x30000000 []) 0x1000 416 80 _ rfl ?_).trans ?_
  · simp only [List.length_append, packageHeader_length, packageEntry_length, hl]; omega
  · rw [List.drop_left' (by simp [packageHeader_length, packageEntry_length]), List.take_of_length_le (Nat.le_of_eq hl)]

/-! ### Tests, audits and upkeep -/

theorem witness_SelfTest :
    (let s := op 0x8E [(24, 1, 14), (25, 1, 1), (28, 4, 1000)]
     ∃ r, s.mgmtRun 64 0x8E = some r ∧ leAt r.entry 24 1 < 16 ∧ leAt r.entry 25 1 < 2 ∧ (reservedBad r.entry 26 28).2 = false ∧
       leAt r.entry 28 4 ≤ 1000 ∧ (reservedBad r.entry 32 64).2 = false ∧ s.isletOwner 14 = none ∧ s.on 14 = true) ∧
    (booted.isletOwner 15 = some 0 ∧ (booted.part 0).state = .active) ∧
    (let s := opBusy 0x8E [(24, 1, 14)] [14, 0, 1]
     ∃ r, s.mgmtBusy 64 0x8E = some r ∧ r.aux = [14, 0, 1] ∧
       (∀ c, c < 16 → (match s.mgmtBusy (48 + c) 0x8E with
         | none => true
         | some _ => false) = true)) := by
  exact ⟨⟨_, rfl, by decide, by decide, by decide, by decide, by decide, by decide, by decide⟩, by decide, ⟨_, rfl, rfl, by decide⟩⟩

theorem witness_SelfTest_quiesce :
    let s := opBusy 0x8E [(24, 1, 14)] [14, 0, 0]
    (s.mgmtBusy 64 0x8E).map Run.aux = some [14, 0, 0] ∧ s.quiet 14 = true ∧ (s.islet 14).testing = false ∧ s.on 14 = true := by
  decide +kernel

/-- An Islet under test is not ready for another test when WAIT_MS is over. -/
theorem witness_SelfTest_busy :
    let s := (opBusy 0x8E [(24, 1, 14)] [14, 0, 0]).setIslet 14 { testing := true }
    (s.mgmtBusy 64 0x8E).map Run.aux = some [14, 0, 0] ∧ (s.islet 14).testing = true ∧
      (s.mgmtBusy 64 0x8E).map s.testReady = some false := by
  decide +kernel

theorem witness_CalibrationAndAudit :
    (let s := op 0x8F [(24, 1, 1), (25, 1, 1)]
     ∃ r, s.mgmtRun 64 0x8F = some r ∧ leAt r.entry 24 1 = 1 ∧ leAt r.entry 25 1 ≤ 1 ∧ (reservedBad r.entry 26 64).2 = false ∧ s.on 21 = true) ∧
    (let s := op 0x8F [(24, 1, 2), (25, 1, 9)]
     ∃ r, s.mgmtRun 64 0x8F = some r ∧ leAt r.entry 24 1 = 2 ∧ leAt r.entry 25 1 ≤ 9 ∧ (s.port 9).st ≠ .up) ∧
    (∃ r, (opBusy 0x8F [] [1, 1]).mgmtBusy 64 0x8F = some r) ∧
    (let s := op 0x90 [(24, 1, 31), (25, 1, 0xFF), (28, 4, 1000)]
     ∃ r, s.mgmtRun 64 0x90 = some r ∧ 1 ≤ leAt r.entry 24 1 ∧ leAt r.entry 24 1 < 32 ∧ leAt r.entry 25 1 = 0xFF ∧ leAt r.entry 28 4 ≤ 1000 ∧
       (reservedBad r.entry 26 28).2 = false ∧ (reservedBad r.entry 32 64).2 = false) ∧
    (∃ r, (onRing 48 (started 0x90 [(24, 1, 2), (25, 1, 0)])).mgmtRun 48 0x90 = some r ∧ bit (leAt r.entry 24 1) 0 = false ∧
       leAt r.entry 25 1 = 48 - 48) ∧
    (∃ r, (opBusy 0x90 [(28, 4, 1)] [0, 0]).mgmtBusy 64 0x90 = some r ∧ r.aux.drop 2 = []) ∧
    (let c : Credit := { granted := 16, held := 15, retSeen := 3 }
     creditOff c 4 = none ∧ creditOff c 5 ≠ none ∧ creditOff c 2 ≠ none) := by
  exact ⟨⟨_, rfl, by decide, by decide, by decide, by decide⟩, ⟨_, rfl, by decide, by decide, by decide⟩, ⟨_, rfl⟩,
    ⟨_, rfl, by decide, by decide, by decide, by decide, by decide, by decide⟩, ⟨_, rfl, by decide, by decide⟩, ⟨_, rfl, rfl⟩, by decide⟩

theorem witness_Upkeep :
    (booted.up.hbmEn = true ∧ booted.on 21 = true ∧ booted.filling (booted.patrolPos 1) = false ∧
      ({ booted with keys := [(granuleOf (booted.patrolPos 1), [1])] } : State).granuleKey (granuleOf (booted.patrolPos 1)) ≠ [] ∧ booted.up.spEn = true ∧ booted.on 15 = true ∧
      booted.timeRuns = true) ∧
    (let s : State := { booted with hbmErr := [(0, 1), (1, 2), (2, 2)], hbmPoison := [(2, true)] }
     Table.get 0 s.hbmErr 0 = 1 ∧ 2 ≤ Table.get 0 s.hbmErr 1 ∧ Table.get false s.hbmPoison 1 = false ∧ Table.get false s.hbmPoison 2 = true ∧
       (s.lag (1 / 4)).present = false ∧ ({ s with lagoon := [(0, { present := true })] } : State).lag (1 / 4) = { present := true } ∧
       (s.ownerPart (1 * 32)).isSome = false ∧ s.owner (granuleOf (1 * 32)) ≠ 0xFE ∧
       s.owner (granuleOf (191 * 2 ^ 28)) = 0xFE ∧ (s.ownerPart (3 * 2 ^ 28)).isSome = true) ∧
    (let s : State := { booted with up := { fwBlocks := [191 * 2 ^ 23] } }
     s.up.fwBlocks.contains (191 * 2 ^ 23) = true ∧ s.mgt.stage = .ready ∧ s.runReady (191 * 2 ^ 23 * 32) 32 = true ∧
       s.imageValid s.mgt.slotRunning = false) ∧
    (let r : FillRun := { granules := [3, 190], purpose := 2, part := 0, key := 0, start := 0 }
     let s : State := { booted with up := { fill := [r] } }
     s.up.fill = [r] ∧ s.mayFill r = true ∧ ({ s with domains := [] } : State).mayFill r = false) ∧
    (Table.get 0 booted.up.lastCal 1 ≤ booted.time ∧ (31 : Nat) < 32 ∧ (2 : BitVec 2) ≠ 3) := by
  refine ⟨?_, ?_, ?_, ?_, ?_⟩ <;> decide +kernel

/-! ### The Strait -/

/-- The link key and IV constant of the tests' links, in both directions. -/
def linkKey : List Byte := List.replicate 32 7
def linkIv : List Byte := [1, 2, 3, 4]

/-- A flit of the partner, die 1, with a body of `body` and zeros. -/
def flit (typ vc seq : Nat) (body : List Byte) : Flit :=
  { mkFlit typ vc 0 0 1 false (slice body 0 200) with seq := BitVec.ofNat 32 seq }

/-- Its bytes on the wire, with the count `n`. -/
def sent (f : Flit) (n : Nat) : List Byte := f.wire linkKey (flitIv linkIv (BitVec.ofNat 64 n))

/-- A link that is UP with full credits and its keys. -/
def upPort : Port :=
  ({ st := .up, enabled := true, fresh := false, txKey := linkKey, rxKey := linkKey, txIv := linkIv, rxIv := linkIv } : Port).fullCredits

/-- Die 0 of a tray whose port `p` is as given. -/
def onPort (p : Nat) (t : Port) : State :=
  { booted with ports := [(p, t)], mgt := { booted.mgt with product := 2, portWired := 0x3FF } }

theorem witness_LinkControl_sends :
    (onPort 9 { upPort with ctl := [flit 1 0 0 []] }).port 9 = { upPort with ctl := [flit 1 0 0 []] } ∧
    (let w : Waiting := { flit := flit 16 0 1 [] }
     ({ upPort with resend := [w] } : Port).ctl = [] ∧ ({ upPort with resend := [w] } : Port).resend = [w]) ∧
    (let w : Waiting := { flit := { flit 16 1 0 [] with qos := 15 } }
     ({ upPort with txq := [{ flit := flit 16 0 0 [] }, w] } : Port).pick = some (w, 1)) ∧ upPort.pick = none ∧ upPort.st = .up ∧
    (let k : Keying := { resend := [flit 8 3 1 []] }
     ({ st := .keying, keying := k } : Port).ctl = [] ∧ k.resend = [flit 8 3 1 []]) ∧
    (let k : Keying := { txq := [flit 8 3 1 []] }
     k.resend = [] ∧ k.txq ≠ [] ∧ 0 < k.credit.held) ∧
    (let k : Keying := { syncDue := true }
     k.resend = [] ∧ k.txq = [] ∧ k.syncDue = true ∧ k.replay = []) ∧
    (let k : Keying := { txq := [flit 8 3 1 []], credit := { granted := 16, held := 0 } }
     (k.txq = [] ∨ k.credit.held = 0) ∧ ¬ (k.txq = [] ∧ k.syncDue = true ∧ k.replay = [])) ∧
    (({ st := .quiet } : Port).keying.txq = [] ∧ ({ st := .training } : Port).enabled = false) := by
  decide +kernel

theorem witness_LinkControl_arrives :
    (let s := onPort 0 { upPort with nakCount := 7, nakSeq := 0 }
     (s.port 0).enabled = true ∧ (s.port 0).alive = true ∧ s.arrives 0 0 (sent (flit 0 0 0 []) 0) = true ∧
       s.arrives 0 1 (sent (flit 1 0 0 []) 0) = true ∧ s.arrives 0 2 (sent (flit 2 0 0 []) 0) = true ∧ (s.port 0).probeAt = none ∧
       s.arrives 0 3 (sent (flit 3 0 0 []) 0) = true ∧
       (let u := (s.takeHeader 0 (flit 3 0 0 [])).port 0
        u.st = .up ∧ u.alive = true ∧ u.nakCount ≠ 0 ∧ u.nakSeq = (flit 3 0 0 []).ack ∧ 8 ≤ u.nakCount + 1)) ∧
    (((onPort 0 upPort).takeHeader 0 (flit 3 0 0 [])).port 0).nakCount = 0 ∧
    (let f := { flit 3 0 0 [] with crCount := 1 }
     ((onPort 0 upPort).takeHeader 0 f).port 0 ≠ upPort ∧ (((onPort 0 upPort).takeHeader 0 f).port 0).alive = false) ∧
    (let s := onPort 0 { st := .keying, enabled := true }
     s.arrives 0 3 (sent (flit 3 0 0 []) 0) = true ∧ (s.takeHeader 0 (flit 3 0 0 [])).port 0 = s.port 0) ∧
    (crcOk (0 :: (sent (flit 3 0 0 []) 0).drop 1) = false ∧ crcOk (sent (flit 5 0 0 []) 0) = true ∧ rawType (sent (flit 5 0 0 []) 0) ∉ flitTypes) ∧
    (let s := onPort 0 { st := .keying }
     (s.port 0).hears = true ∧ (s.port 0).enabled = false ∧ s.arrives 0 8 (sent (flit 8 3 1 []) 0) = true) := by
  decide +kernel

theorem witness_FlitsDelivered_taken :
    (let f := flit 0x20 2 1 []
     Accepts (onPort 0 upPort) 0 0x20 (sent f 1) f ∧ (onPort 0 upPort).winDataReady f = true) ∧
    (let f := flit 0x10 0 1 []
     Accepts (onPort 0 upPort) 0 0x10 (sent f 1) f) ∧
    (let f := flit 0x0A 3 1 []
     Accepts (onPort 0 upPort) 0 0x0A (sent f 1) f ∧ (onPort 0 upPort).fwdWaits (.passed 1) = false) ∧
    (let f := { flit 0x20 2 1 [] with dst := 3 }
     Taken (onPort 0 upPort) 0 0x20 (sent f 1) f ∧ f.dst.toNat ≠ (onPort 0 upPort).die) := by
  unfold Accepts Taken
  decide +kernel

theorem witness_FlitsDelivered_turned_away :
    ((readFlit (sent { flit 0x20 2 1 [] with keyed := false } 1)).keyed = false ∧
      (onPort 0 upPort).arrives 0 0x20 (sent { flit 0x20 2 1 [] with keyed := false } 1) = true) ∧
    ((onPort 0 upPort).arrives 0 0x20 (sent (flit 0x20 2 1 []) 2) = true ∧ upPort.open (sent (flit 0x20 2 1 []) 2) = none) ∧
    (let f := flit 0x20 2 5 []
     let u := ((onPort 0 upPort).takeHeader 0 f).port 0
     upPort.open (sent f 5) = some f ∧ (onPort 0 upPort).winDataReady f = true ∧ u.st = .up ∧ f.seq ≠ seqOf (u.rxSeq + 1)) := by
  decide +kernel

theorem witness_FlitsDelivered_forwarded :
    (let s := withQueue 5 { enable := true }
     (s.queue 5).fetched = 0 ∧ (s.queue 5).enable = true ∧ (s.queueOwner 5).all (fun p => (s.part p).state != .clearing) = true ∧
       (s.queue 5).discarding = false ∧ (s.queue 5).halted = false ∧ (s.queue 5).entries.length < 8) ∧
    (let s : State := { booted with mgt := { booted.mgt with machineMode := true, machineLead := true } }
     s.mgt.machineMode = true ∧ s.mgt.machineLead = true) ∧
    (let s : State := { booted with mgt := { booted.mgt with product := 2, slot := 7, tray := 7 } }
     s.die ≠ 0 ∧ (BitVec.ofNat 64 (2 ^ 63)).getLsbD s.die = true) := by
  decide +kernel

theorem witness_LinkStates :
    (let s := onPort 9 { upPort with probeAt := some 5 }
     (s.port 9).alive = true ∧ (s.port 9).asleep = false ∧ (s.port 9).holdSeen = false ∧ (s.port 9).probeAt = some 5) ∧
    (let s := onPort 9 (upPort.setCredit 3 { granted := 16, held := 16, back := 1 })
     (s.port 9).alive = true ∧ 0 < ((s.port 9).credit 3).back) ∧
    (let s := onPort 9 { st := .down, enabled := true }
     s.on (22 + 9) = true ∧ (s.port 9).held = false ∧ (s.port 9).st = .down) ∧
    ((onPort 9 { st := .training, refused := true, enabled := true }).port 9).st = .training ∧
    (let s := onPort 9 { st := .quiet }
     s.mayKey = true ∧ (∀ k, k ≤ 9 → ((s.port k).st = .quiet ∧ (s.port k).enabled = false ∧ s.mgt.portWired.getLsbD k = true ↔ k = 9))) ∧
    (let s := onPort 9 { st := .down, asleep := true, wakeSend := true, wakeAt := some 7, txq := [{ flit := flit 16 0 0 [] }] }
     (s.port 9).st = .down ∧ (s.port 9).asleep = true ∧ (s.port 9).wakeSend = true ∧ (s.port 9).txq ≠ [] ∧ (s.port 9).held = false) ∧
    (let s : State := { onPort 9 { st := .sleep } with power := { wakePorts := 0x200 } }
     (s.port 9).st = .sleep ∧ s.power.wakePorts.getLsbD 9 = true ∧ s.mgt.portWired.getLsbD 9 = true) ∧
    (let s := onPort 9 { st := .training, asleep := true, wakeAt := some 7 }
     (s.port 9).wakeAt = some 7 ∧ (s.port 9).st = .training ∧ (s.port 9).asleep = true) ∧
    (let s := onPort 9 { upPort with draining := some true }
     (s.port 9).draining = some true ∧ (s.port 9).drained = true ∧ (s.port 9).acking = false) := by
  decide +kernel

theorem witness_LinkStates_sleep : (let f := flit 9 3 1 []; Accepts (onPort 0 upPort) 0 9 (sent f 1) f) := by
  unfold Accepts Taken
  decide +kernel

/-- What the partner on port 0, die 1, says; its key is a point of the curve. -/
def said : KeyMsg := { serial := 4, die := 1, port := 0, secVer := 0, epoch := 1, nonce := [], pub := keyOne, proof := [], verified := true }

/-- Die 0 of serial 9 keys port 0. -/
def keying (k : KeyStep) : State :=
  { onPort 0 { st := .keying, enabled := true, keying := { step := k, peer := some said } } with fuses := { serial := 9 } }

/-- The first KEY flit of the exchange. -/
def keyFlit : List Byte := sent (flit 8 3 1 []) 0

theorem witness_KeyingAndSync_read :
    ∀ k ∈ [KeyStep.idle, .sentHello, .sentReply, .sentFinish],
      Keys (keying k) 0 [keyFlit] ∧ ((heard (keying k) 0 [keyFlit]).port 0).keying.step = k ∧
      ((heard (keying k) 0 [keyFlit]).port 0).keying.peer = some said := by
  unfold Keys
  decide +kernel

theorem witness_KeyingAndSync_messages :
    (keying .idle).mayKey = true ∧ ({ keying .idle with mgt := { (keying .idle).mgt with trngReady := false } } : State).mayKey = false ∧
    Genuine (keying .sentHello) 0 said ∧ (pointOf said.pub).isSome = true ∧
    said.serial.toNat ≤ (keying .idle).fuses.serial.toNat ∧ (keying .idle).fuses.serial.toNat < ({ said with serial := 10 } : KeyMsg).serial.toNat ∧
    (keying .idle).expectedDie 0 = some said.die.toNat ∧ (keying .idle).expectedDie 0 ≠ some ({ said with die := 2 } : KeyMsg).die.toNat ∧
    (({ said with serial := 9 } : KeyMsg).serial = (keying .idle).fuses.serial ∧ pointOf ({ said with pub := [] } : KeyMsg).pub = none) := by
  unfold Genuine
  decide +kernel

theorem witness_KeyingAndSync_resend :
    (let t := (keying .sentHello).port 0
     t.st = .keying ∧ t.keying.step = .sentHello ∧ t.txKey = [] ∧ t.hello = none) ∧
    (let t := (onPort 0 { st := .keying, enabled := true, holdSeen := true, keying := { step := .sentHello } }).port 0
     t.holdSeen = true) ∧ upPort.txKey ≠ [] := by
  decide +kernel

/-- The partner's CREDIT_SYNC. -/
def synced : SyncMsg := { epoch := 5, granted := [32, 32, 128, 16], returned := [0, 0, 0, 16], lastSeq := 0, macOk := true }

/-- The same port in KEYING, keyed, 50 ms and `late` ticks after it left UP. -/
def syncing (t : Port) (late : Nat) : State :=
  { onPort 0 { t with st := .keying, epoch := 5, keying := { step := .keyed } } with time := 5000000 + late }

theorem witness_KeyingAndSync_sync :
    (let s := syncing upPort 0
     let t := s.port 0
     let raw := sent (flit 4 0 0 []) 0
     s.arrives 0 4 raw = true ∧ t.enabled = true ∧ t.st = .keying ∧ t.keying.step = .keyed ∧ t.fresh = false ∧ t.lost = false ∧
       synced.macOk = true ∧ synced.epoch = t.epoch ∧ t.forceLost = false ∧ s.time ≤ t.leftUp + t.lostLimit.toNat * 100000 ∧
       (∀ v, v < 4 → (t.credit v).held + (({ synced with returned := [] } : SyncMsg).returned.getD v 0 - (t.credit v).retSeen) ≤ (t.credit v).granted)) ∧
    (let s := syncing upPort 1
     (s.port 0).leftUp + (s.port 0).lostLimit.toNat * 100000 < s.time ∧ (s.port 0).hello = none) ∧
    ((syncing { upPort with fresh := true } 0).port 0).fresh = true ∧ ((syncing { upPort with lost := true } 0).port 0).lost = true := by
  decide +kernel

/-! ### Windows, transfers and coherence -/

/-- WINDOW_OPEN of window 15 over square 0 of Islet 0, for partition 0 of die `d`. -/
def opening (k d : Nat) : Run :=
  started 0x8C [(24, 1, 15), (25, 1, k), (26, 1, d), (32, 6, 0x1000000000), (40, 6, 128), (48, 6, 128)]

theorem witness_Windows_open :
    (let s : State := { onRing 48 (opening 2 0) with islets := [(0, { free := 1 })] }
     let e := (opening 2 0).entry
     s.mgmtRun 48 0x8C = some (opening 2 0) ∧ (s.win 0 15).isOpen = false ∧ leAt e 25 1 = 2 ∧ leAt e 26 1 = s.die ∧ leAt e 32 6 % 8 = 0 ∧
       leAt e 40 6 % 8 = 0 ∧ leAt e 48 6 ≠ 0 ∧ placeOf (leAt e 32 6) = .scratch 0 0 ∧
       (∀ x ∈ rangeSquares 0 128, (s.islet 0).free.getLsbD x = true) ∧ s.isletOwner 0 = some 0 ∧ ¬ spSize < 0 + 128 ∧
       (reservedBad e 28 32).2 = false ∧ (reservedBad e 38 40).2 = false ∧ (reservedBad e 46 48).2 = false ∧ (reservedBad e 54 64).2 = false) ∧
    (let s := onRing 48 (opening 2 0)
     ∃ x, x ∈ rangeSquares 0 128 ∧ (s.islet 0).free.getLsbD x = false) ∧
    (let s : State := { onRing 48 (opening 2 63) with mgt := { booted.mgt with machineMode := true, machineMask := 2 ^ 63 } }
     leAt (opening 2 63).entry 26 1 = 63 ∧ 63 ≠ s.die ∧ s.mgt.machineMask.getLsbD 63 = true) := by
  refine ⟨?_, ⟨0, ?_⟩, ?_⟩ <;> decide +kernel

theorem witness_Windows_close :
    (let s : State := { onRing 48 (started 0x8D [(24, 1, 15)]) with
       parts := [(0, { state := .active, windows := [(15, { isOpen := true, srcDie := 0 })] })] }
     s.mgmtRun 48 0x8D = some (started 0x8D [(24, 1, 15)]) ∧ (s.win 0 15).isOpen = true ∧ (s.win 0 15).closing = false ∧ (s.win 0 15).binding = false ∧
       (s.win 0 15).srcDie.toNat = s.die ∧ (reservedBad (started 0x8D [(24, 1, 15)]).entry 25 64).2 = false) ∧
    (let s : State := { onRing 48 { started 0x8D [(24, 1, 15)] with phase := .busy, aux := [15] } with
       parts := [(0, { state := .active, windows := [(15, { isOpen := true, closing := true, revoked := true, count := 9, sent := 9 })] })] }
     (s.mgmtBusy 48 0x8D).isSome = true ∧ (s.win 0 15).closing = true ∧ (s.win 0 15).revoked = true ∧ s.pinned 0 15 = false ∧
       s.verdictDue 0 15 = false ∧ (s.win 0 15).sent = (s.win 0 15).count.toNat) ∧
    (let s : State := { onPort 0 upPort with grants := [(grantKey 1 15 15, { present := true })] }
     let f := flit 9 3 1 []
     Accepts s 0 9 (sent f 1) f ∧ (Table.get {} (accepted s 0 f).grants (grantKey 1 15 15)).present = true ∧
       (Table.get {} (accepted s 0 f).grants (grantKey 1 15 14)).present = false) ∧
    (let s : State := { onPort 0 upPort with parts := [(0, { windows := [(15, { isOpen := true, closing := true }), (14, { isOpen := true })] })] }
     let x := (accepted s 0 (flit 9 3 1 [])).win 0 15
     let y := (accepted s 0 (flit 9 3 1 [])).win 0 14
     (x.binding = false ∧ x.closing = true ∧ x.revoked = false) ∧ y.binding = false ∧ y.isOpen = true ∧ y.closing = false) ∧
    (let s : State := { onPort 0 upPort with queues := [(48, { run := [{ started 0x8C [] with phase := .busy, aux := [15, 1] }] })] }
     ((accepted s 0 (flit 9 3 1 [])).mgmtBusy 48 0x8C).map Run.aux = some [15, 1] ∧ (0 : Nat) = s.die) := by
  unfold Accepts Taken
  decide +kernel

theorem witness_TransfersEnd_flits :
    (let s : State := { onPort 0 upPort with xfers := [(1, { queue := some 2, total := 64, acked := 63, part := 0, window := 15 }),
                                                       (2, { queue := some 2, total := 64, gather := true })] }
     (∀ typ ∈ [0x18, 0x19, 9], let f := flit typ 1 1 []
       rawType (sent f 1) = typ ∧ Taken s 0 (rawType (sent f 1)) (sent f 1) f ∧ f.dst.toNat = s.die ∧
       ((accepted s 0 f).xfer 1).gather = false ∧
       1 + (((accepted s 0 f).xfer 1).acked + ((accepted s 0 f).xfer 1).lost) ≤ ((accepted s 0 f).xfer 1).total ∧
       ((accepted s 0 f).xfer 1).queue = some 2 ∧ ((accepted s 0 f).xfer 2).queue = some 2 ∧ ((accepted s 0 f).xfer 2).gather = true)) := by
  unfold Taken
  decide +kernel

theorem witness_TransfersEnd :
    (let s : State := { onRing 2 { started 0x63 [] with phase := .busy, xfer := some 2 } with
       xfers := [(2, { queue := some 2, total := 64, gather := true }), (1, { queue := some 2, total := 64, acked := 64 })] }
     s.runOfXfer 2 2 = some 0 ∧ (s.runAt 2 0).isSome = true ∧ (s.xfer 1).acked + (s.xfer 1).lost = (s.xfer 1).total) ∧
    (let u : Push := { die := 1, part := 0, window := 15, xfer := 4, qos := 15, scratch := false, src := 0x30000000, off := 0, len := 128 }
     let s : State := { booted with islets := [(0, { pushes := [u] })] }
     (s.islet 0).pushes[0]? = some u ∧ u.served = false ∧ (s.islet 0).serving < 2 ∧ (s.isletsOf 0).find? s.on = some 0 ∧
       (s.islet 0).quiesce = false ∧ (s.islet 0).testing = false ∧ s.runReady 0x30000000 128 = true) := by
  decide +kernel

/-- A booted die with one line of granule 3 in a cache and the directory. -/
def withLine (a : Nat) (st : Mesi) (g : LagLine) : State :=
  { booted with lagoon := [(0x600000, g)], caches := [(cacheKey a 0x600000, { st := st })] }

theorem witness_Coherence :
    (let s := withLine 0 .invalid {}
     s.cacheable 0 0x600000 = true ∧ s.cacheable 16 0x600000 = true ∧ (s.cached 0 0x600000).st = .invalid ∧ (s.lag 0x600000).txn = none) ∧
    (let s := withLine 0 .shared { present := true, sharers := 1, txn := some (1, true), waiters := [(2, false)] }
     (s.cached 0 0x600000).st = .shared ∧ (s.lag 0x600000).txn = some (1, true) ∧ (∀ w ∈ (s.lag 0x600000).waiters, w.1 ≠ 0)) ∧
    (let s := withLine 0 .modified { present := true, owner := some 0, txn := some (1, true), recalling := some (0, true) }
     s.cacheable 0 0x600000 = true ∧ (s.cached 0 0x600000).st = .modified ∧ (s.lag 0x600000).recalls 0 = true ∧
       (s.lag 0x600000).recalling = some (0, true)) ∧
    (let s := withLine 16 .shared { present := true, sharers := 0x10000, waitInv := 0x10000, txn := some (1, true) }
     (s.lag 0x600000).waitInv.getLsbD 16 = true) ∧
    (let s : State := { booted with invQueue := [(0, [0x600000])] }
     0x600000 ∈ s.invs 0) ∧
    (booted.rangeReady 0x30000000 128 = true ∧ booted.isFrozen 0x30000000 = false) := by
  decide +kernel

/-! ### Frames: a command of each statement completes (the others above) -/

theorem witness_Frames :
    (seen (exec (.nop 0) (onRing 0 (started 0 []))) (fun t => t.freeCtr)).isSome = true ∧
    (seen (exec (.flitSlot 0) (onPort 0 upPort)) (fun t => t.freeCtr)).isSome = true ∧
    (seen (exec (.pcieConfigRequest 0 (.command true)) booted) (fun t => t.freeCtr)).isSome = true ∧
    (∃ t, exec .flashProgramDone booted = .next t ∧ t.flash = booted.flash) := by
  exact ⟨by decide +kernel, by decide +kernel, by decide +kernel, ⟨_, rfl, rfl⟩⟩

/-! ### A few commands, by what the rules say of them -/

-- TAG_SET of square 5 to FULL: one change, one fill (R100, R190)
theorem test_tagSet :
    let o := exec (.tagSet 1) (onVx (started 4 [(24, 4, 5 + 2 ^ 10 + 2 ^ 22)]))
    seen o (fun t => (t.islet 0).tags.toNat) = some 32 ∧ seen o (fun t => (t.islet 0).fills.toNat) = some 1 := by
  decide +kernel

-- a due poll reads 8 bytes at DB (R207, R210)
theorem test_doorbellPoll :
    (next (exec (.doorbellPoll 64) (withQueue 64 { enable := true, st := .active, pollDue := true, db := 0x1240 }))).map (fun t => t.out) =
      some [.hostRead 0 0x1240 8] := by
  decide +kernel

-- PROD 3 fetches entries 0 to 2 in one read of 192 bytes (R210, R212)
theorem test_pollReadComplete :
    (next (exec (.pollReadComplete 64 3 0) (withQueue 64 { enable := true, st := .active, pollOut := true, base := 0x4000 }))).map (fun t => t.out) =
      some [.hostRead 0 0x4000 192] := by
  decide +kernel

-- a CONS of 4 and a PROD 65 further overflows a ring of 64 (R213)
theorem test_poll_overflow :
    seen (exec (.pollReadComplete 64 69 0) (withQueue 64 { enable := true, st := .active, pollOut := true, cons := 4, prod := 4, fetched := 4 }))
      (fun t => (t.queue 64).ringFault) = some 6 := by
  decide +kernel

-- the first completion of a ring has phase bit 1, the 65th 0 (R216)
theorem test_phase_bit :
    (let k : Completion := { queue := 64, seq := 0, status := 0, info := 0, irq := false }
     (completionBytes k 1).getD 5 0 = 0x81 ∧ (completionBytes k 0).getD 5 0 = 0x80) := by
  decide +kernel

-- GPIO_SET of a pin that the host owns (R486)
theorem test_gpioSet :
    let s : State := { booted with gpio := { pins := [(9, { owner := 1 })] } }
    seen (exec (.gpioSetWrite .hif 0 0x300) s) (fun t => t.gpio.out.toNat) = some 0x100 ∧
    seen (exec (.gpioSetWrite .hif 0 0x300) s) (fun t => t.gpio.deny.toNat) = some 1 := by
  decide +kernel

-- a read miss on a line nobody holds ends Exclusive (R257)
theorem test_readShared_exclusive :
    (next (exec (.readShared 3 0x600000) booted)).map (fun t => (t.cached 3 0x600000).st) = some .exclusive := by
  decide +kernel

-- a correctable patrol error is corrected; an uncorrectable one in an owned granule is poisoned (R282, R458)
theorem test_patrol :
    (let s : State := { booted with up := { pos0 := 0x30000000 } }
     seen (exec (.hbmPatrolRead 0 [(0x1800000, 1)] false) s) (fun t => Table.get 0 t.hbmErr 0x1800000) = some 0 ∧
     (next (exec (.hbmPatrolRead 0 [(0x1800000, 2)] false) s)).map (fun t => Table.get false t.hbmPoison 0x1800000) = some true) := by
  decide +kernel

-- a local scratchpad window opens at once (R314)
theorem test_windowOpen :
    let s : State := { onRing 48 (opening 2 0) with islets := [(0, { free := 1 })] }
    (next (exec (.windowOpen 48) s)).map (fun t => (t.win 0 15).isOpen) = some true := by
  decide +kernel

-- the full grants of R295
theorem test_creditSync_first :
    let s := syncing { upPort with fresh := true, credits := [] } 0
    let t := next (exec (.creditSync 0 (sent (flit 4 0 0 []) 0) synced) s)
    t.map (fun t => (t.port 0).st) = some .up ∧
    t.map (fun t => (List.range 4).map (fun v => ((t.port 0).credit v).held)) = some [32, 32, 128, 16] := by
  decide +kernel

-- a hot sensor trips the die (R433): every domain OFF
theorem test_thermalTrip :
    seen (exec (.thermalTrip 115) booted) (fun t => if t.domSt 32 = .off then t.power.tripCount.toNat else 99) = some 1 := by
  decide +kernel

-- VOLT_SET 800 mV at exponent -9: 409.6 is rounded up (R413)
/-- The balls of chapter 19's worked case. -/
theorem test_balls :
    ballAt 22 1 = some (.pcie 5 true false) ∧ ballAt 23 1 = some (.pcie 5 true true) ∧ ballAt 22 3 = some (.pcie 5 false false) ∧
    ballAt 24 1 = some .ground ∧ ballAt 1 7 = some (.strait 0 0 true false) ∧ ballAt 1 19 = some (.strait 1 0 true false) ∧
    ballAt 43 63 = some (.gpio 2) ∧ ballAt 62 43 = some (.pin .xtal32kIn) ∧ ballAt 62 53 = some (.sense false) ∧
    ballAt 61 52 = some (.sense true) ∧ ballAt 16 9 = some (.rail .core) ∧ ballAt 16 10 = some .ground ∧
    rowName 43 = some "BE" ∧ rowName 62 = some "CE" ∧ rowName 64 = some "CG" := by
  decide

/-- Some totals of R509, and the cells of R519. -/
theorem test_ballTotals :
    let balls := (List.range 65).flatMap (fun r => (List.range 65).filterMap (ballAt r))
    balls.length = 3868 ∧ balls.count .ground = 2081 ∧ balls.count (.rail .core) = 744 ∧ balls.count (.rail .sram) = 104 ∧
      boundaryCells.length = 106 := by
  decide +kernel

theorem test_voutCommand : voutCommand 800 (-9) = 410 ∧ voutCommand 750 (-9) = 384 ∧ voutCommand 2000 0 = 2 ∧ voutCommand 2001 0 = 3 := by
  decide

end Sys2Proof.Tests
end

section
/-!
PROOF. Single 32-bit register accesses. Once the host interface takes it, no path is frozen and its rights hold, an aligned
whole access of a 32-bit register is one `State.writeOutReg`, or one `State.readOut` with its answer (R9, R334 to R337).
-/

/-! ### Shape -/

namespace Sys2Proof

open Sys2Proof.Machine

/-- An access of the four bytes of an aligned word (R334). -/
structure Acc.WholeWord (a : Acc) : Prop where
  size : a.size = 4
  en : a.en = 0xF
  aligned : a.off % 4 = 0

/-- The half of its aligned 8 bytes that an access begins in. -/
def Acc.half (a : Acc) : Nat := a.off % 8 / 4

theorem Acc.half_eq (a : Acc) : a.half = 0 ∨ a.half = 1 := by
  unfold Acc.half
  omega

variable {s : State} {a : Acc}

theorem Acc.WholeWord.mod_eight (h : a.WholeWord) : a.off % 8 = 4 * a.half := by
  have := h.aligned
  unfold Acc.half
  omega

theorem Acc.WholeWord.off_eq (h : a.WholeWord) : a.off / 8 * 8 + 4 * a.half = a.off := by
  have := h.mod_eight
  omega

theorem Acc.WholeWord.enables (h : a.WholeWord) : enables a = 15 * 16 ^ a.half := by
  unfold Machine.enables
  rw [h.en, h.mod_eight]
  rcases a.half_eq with hk | hk <;> rw [hk] <;> rfl

theorem Acc.WholeWord.shapeFault (h : a.WholeWord) : shapeFault a = none := by
  simp [Machine.shapeFault, h.size, h.aligned]

theorem Acc.WholeWord.narrowWrite (h : a.WholeWord) : narrowWrite (Machine.enables a) = false := by
  rw [h.enables]
  rcases a.half_eq with hk | hk <;> rw [hk] <;> rfl

theorem Acc.WholeWord.halves (h : a.WholeWord) : halves (Machine.enables a) = [a.half] := by
  rw [h.enables]
  rcases a.half_eq with hk | hk <;> rw [hk] <;> rfl

theorem Acc.WholeWord.halfEn (h : a.WholeWord) : halfEn (Machine.enables a) a.half = 15 := by
  rw [h.enables]
  rcases a.half_eq with hk | hk <;> rw [hk] <;> rfl

/-- A word access never takes a 64-bit register whole. -/
theorem Acc.WholeWord.atomic (h : a.WholeWord) (w : Bool) : s.atomic a w = none := by
  have part : Machine.enables a ≠ 0xFF := by
    rw [h.enables]
    rcases a.half_eq with hk | hk <;> rw [hk] <;> decide
  unfold State.atomic
  split
  · rw [if_neg (fun both => part both.2)]
  · rfl

end Sys2Proof

/-! ### The walk -/

namespace Sys2Proof.Machine

open Sys2Proof.Claims

variable {s : State} {a : Acc}

theorem auxiliary_of_hit_reg {k : Nat} {r : Reg} {hi : Bool} (h : s.hit a true k = .reg r hi) : s.auxiliary a = false := by
  by_contra aux
  simp [State.hit, Bool.eq_true_of_not_eq_false aux] at h

/-- The half of the bus in which a word write lies carries the word. -/
theorem laid_half (h : a.WholeWord) {v : Nat} (hv : v < 2 ^ 32) :
    (BitVec.ofNat 64 v <<< (8 * (a.off % 8))).toNat / 2 ^ (32 * a.half) % 2 ^ 32 = v := by
  rw [h.mod_eight, BitVec.toNat_shiftLeft, BitVec.toNat_ofNat, Nat.shiftLeft_eq]
  rcases a.half_eq with hk | hk <;> rw [hk] <;> omega

theorem writeOn_word (h : a.WholeWord) {r : Reg} {v : Nat} (hv : v < 2 ^ 32) (hit : s.hit a true a.half = .reg r false)
    (narrow : s.hit a true 1 ≠ .reg r true) :
    s.writeOn a false (enables a) (BitVec.ofNat 64 v <<< (8 * (a.off % 8))) = s.writeOutReg a r v := by
  have wide : (s.hit a true 1 == .reg r true && s.hit a true 0 == .reg r false) = false := by simp [narrow]
  simp only [State.writeOn, h.halves, State.writeHalves, hit, wide, laid_half h hv, Bool.not_false, if_true]

theorem readOn_word (h : a.WholeWord) {r : Reg} (hit : s.hit a false a.half = .reg r false) :
    s.readOn a false (enables a) 0 = (s.readOut a r true).2.answer a ((s.readOut a r true).1 % 2 ^ 32) := by
  have whole : halfMask 15 = 2 ^ 32 - 1 := rfl
  have data (v : Nat) : readData a (v % 2 ^ 32 * 2 ^ (32 * a.half)) = v % 2 ^ 32 := by
    have := h.size
    unfold readData
    rw [if_neg (by omega), h.mod_eight, Nat.mul_div_cancel_left _ (by omega), Nat.mul_div_cancel _ (by positivity), Nat.mod_mod]
  simp only [State.readOn, h.halves, State.readHalves, hit, h.halfEn, whole, Nat.and_two_pow_sub_one_eq_mod, Nat.mod_mod]
  simpa using congrArg ((s.readOut a r true).2.answer a) (data (s.readOut a r true).1)

/-! ### The whole access -/

theorem busWrite_word (h : a.WholeWord) {r : Reg} {v : Nat} (hv : v < 2 ^ 32) (taken : s.noRequests a = false)
    (path : s.frozenPath a = false) (rights : s.accessReason a true = none) (hit : s.hit a true a.half = .reg r false)
    (narrow : s.hit a true 1 ≠ .reg r true) : s.busWrite a (BitVec.ofNat 64 v) = s.writeOutReg a r v := by
  simp [State.busWrite, taken, path, rights, h.shapeFault, h.narrowWrite, h.atomic, auxiliary_of_hit_reg hit,
    writeOn_word h hv hit narrow]

theorem busRead_word (h : a.WholeWord) {r : Reg} (taken : s.noRequests a = false) (path : s.frozenPath a = false)
    (rights : s.accessReason a false = none) (hit : s.hit a false a.half = .reg r false) :
    s.busRead a = (s.readOut a r true).2.answer a ((s.readOut a r true).1 % 2 ^ 32) := by
  simp only [State.busRead, taken, path, rights, h.shapeFault, h.atomic, readOn_word h hit, Bool.false_eq_true, if_false]

theorem busRead_refused (h : a.WholeWord) {reason : Nat} (taken : s.noRequests a = false) (path : s.frozenPath a = false)
    (refused : s.accessReason a false = some reason) : s.busRead a = s.refuseAccess a false reason := by
  simp [State.busRead, taken, path, refused, h.shapeFault]

/-- A write that does not name DBG_RELEASE releases no master. -/
theorem releaseBits_of_off_ne (h : a.WholeWord) (ne : a.off ≠ 0x500020) (data : BitVec 64) : s.releaseBits a data = 0 := by
  have off : a.off / 8 * 8 + 4 * (if a.off % 8 = 0 then 0 else 1) = a.off := by
    have := h.aligned
    split <;> omega
  simp only [State.releaseBits, off, beq_eq_false_iff_ne.mpr ne, Bool.false_and, Bool.false_eq_true, if_false]

theorem releaseMasters_zero (s : State) : s.releaseMasters 0 = s := by
  have none_named (k : Nat) : bit 0 k = false := by simp [bit]
  simp [State.releaseMasters, none_named, List.range_succ]

theorem writeAccess_word (h : a.WholeWord) (ne : a.off ≠ 0x500020) (data : BitVec 64) : s.writeAccess a data = s.busWrite a data := by
  rw [State.writeAccess, releaseBits_of_off_ne h ne, releaseMasters_zero]

/-! ### Accesses that reach a register -/

variable {m : Master} {fn o : Nat} {r : Reg}

theorem accOf_wholeWord (h : (accOf m fn o).off % 4 = 0) : (accOf m fn o).WholeWord := ⟨rfl, rfl, h⟩

theorem writeAccess_of_reaches (h : Reaches s m fn o true r) (ne : (accOf m fn o).off ≠ 0x500020) {v : Nat} (hv : v < 2 ^ 32) :
    s.writeAccess (accOf m fn o) (BitVec.ofNat 64 v) = s.writeOutReg (accOf m fn o) r v := by
  obtain ⟨aligned, taken, path, rights, hit, narrow⟩ := h
  have word := accOf_wholeWord aligned
  rw [writeAccess_word word ne, busWrite_word word hv taken path rights hit narrow]

theorem put_of_reaches (h : Reaches s m fn o true r) (ne : (accOf m fn o).off ≠ 0x500020) {v : Nat} (hv : v < 2 ^ 32) :
    s.put m fn o v = .next (s.writeOutReg (accOf m fn o) r v) :=
  congrArg Host.Outcome.next (writeAccess_of_reaches h ne hv)

theorem busRead_of_reaches (h : Reaches s m fn o false r) :
    s.busRead (accOf m fn o) =
      (s.readOut (accOf m fn o) r true).2.answer (accOf m fn o) ((s.readOut (accOf m fn o) r true).1 % 2 ^ 32) := by
  obtain ⟨aligned, taken, path, rights, hit, -⟩ := h
  exact busRead_word (accOf_wholeWord aligned) taken path rights hit

end Sys2Proof.Machine
end

section
/-! PROOF. The control registers of completion and event rings, and the statement about them (O29). -/

namespace Sys2Proof.Machine

open Sys2Proof.Claims

/-! ### The commands are writes of the ring's registers -/

theorem exec_cqHeadWrite (fn c : Nat) (head : Word) (s : State) :
    exec (.cqHeadWrite fn c head) s = s.put .hif fn (0x12000 + 0x20 * c + 12) head.toNat := rfl

theorem exec_eqHeadWrite (fn c : Nat) (head : Word) (s : State) :
    exec (.eqHeadWrite fn c head) s = s.put .hif fn (0x13000 + 0x20 * c + 12) head.toNat := rfl

theorem exec_cqEnable (fn : Nat) (ev : Bool) (c : Nat) (cfg : Word) (s : State) :
    exec (.cqEnable fn ev c cfg) s = s.put .hif fn (ringOff ev c + 8) (cfg ||| 0x80000000).toNat := rfl

theorem exec_cqDisable (fn : Nat) (ev : Bool) (c : Nat) (cfg : Word) (s : State) :
    exec (.cqDisable fn ev c cfg) s = s.put .hif fn (ringOff ev c + 8) (cfg &&& 0x7FFFFFFF).toNat := rfl

/-- Key in `State.rings` of completion ring `c`, or of event ring `c`. -/
def ringKey (event : Bool) (c : Nat) : Nat := if event then evRing c else c

/-- The HIF block has its offsets in the PF's space and in a VF's alike (R524). -/
theorem accOf_off_hif (m : Master) (fn : Nat) {o : Nat} (h : o < 0x20000) : (accOf m fn o).off = o := by
  simp [accOf, accAt, vfOffset, h]

theorem ringOff_bound {event : Bool} {c : Nat} (h : c ≤ 64) : ringOff event c + 0x20 ≤ 0x20000 := by
  unfold ringOff
  split <;> omega

theorem setsRing_accOf {fn key : Nat} (o : Nat) (h : fn = ringFn key) : setsRing (accOf .hif fn o) key = true := by
  simp [setsRing, fromHost, accOf, accAt, h]

section
variable {s : State} {fn c x : Nat} {event : Bool} {v : Nat}

/-- A write of a ring's register through the function that owns the ring is `State.writeHif`. -/
theorem put_ring {r : Reg} (hc : c ≤ 64) (hx : x < 0x20) (hr : r = .cqCfg (ringKey event c) ∨ r = .cqHead (ringKey event c))
    (h : Reaches s .hif fn (ringOff event c + x) true r) (hv : v < 2 ^ 32) :
    s.put .hif fn (ringOff event c + x) v = .next (s.writeHif (accOf .hif fn (ringOff event c + x)) r v) := by
  have bound := ringOff_bound (event := event) hc
  have off := accOf_off_hif .hif fn (o := ringOff event c + x) (by omega)
  rw [put_of_reaches h (by omega) hv]
  rcases hr with rfl | rfl <;> rfl

theorem put_ringHead (hc : c ≤ 64) (hfn : fn = ringFn (ringKey event c))
    (h : Reaches s .hif fn (ringOff event c + 12) true (.cqHead (ringKey event c))) (head : Word) :
    s.put .hif fn (ringOff event c + 12) head.toNat =
      .next (s.writeHead (accOf .hif fn (ringOff event c + 12)) (ringKey event c) head) := by
  rw [put_ring hc (by omega) (.inr rfl) h head.isLt]
  simp [State.writeHif, State.ruled, setsRing_accOf _ hfn]

theorem put_ringCfg (hc : c ≤ 64) (hfn : fn = ringFn (ringKey event c))
    (h : Reaches s .hif fn (ringOff event c + 8) true (.cqCfg (ringKey event c))) (cfg : Word) :
    s.put .hif fn (ringOff event c + 8) cfg.toNat =
      .next (s.writeCqcfg (accOf .hif fn (ringOff event c + 8)) (ringKey event c) cfg.toNat) := by
  rw [put_ring hc (by omega) (.inl rfl) h cfg.isLt]
  simp [State.writeHif, State.ruled, setsRing_accOf _ hfn]

end

/-! ### Heads (R220, R222, R224) -/

theorem ringRoom_completion (s : State) {c : Nat} (h : c < 128) :
    s.ringRoom c = (State.releaseRing (s.ring c).waiting.length c s).reportFull c := by
  have no_event : ringEvent c = none := if_neg (by omega)
  simp [State.ringRoom, no_event]

theorem ringRoom_event (s : State) (e : Nat) : s.ringRoom (evRing e) = s.markerDue e := by
  have event : ringEvent (evRing e) = some e := by simp [ringEvent, evRing]
  simp [State.ringRoom, event]

theorem writeHead_fits (s : State) (a : Acc) (c : Nat) (head : Word)
    (fits : ((s.ring c).tail - head).toNat ≤ 2 ^ (s.ring c).sizeLog2.toNat) :
    let r : Ring := { s.ring c with head := head }
    s.writeHead a c head = (s.setRing c { r with fullTold := r.fullTold && r.full }).ringRoom c := by
  have fits' : ¬ (s.ring c).size < ((s.ring c).tail - head).toNat := Nat.not_lt.mpr fits
  simp only [State.writeHead, if_neg fits']

/-! ### CQ_ENABLE and CQ_DISABLE (R230) -/

/-- ENABLE is bit 31, and leaves the fields below it. -/
theorem toNat_or_enable (cfg : Word) : (cfg ||| 0x80000000).toNat = 2 ^ 31 + cfg.toNat % 2 ^ 31 := by
  have high : (cfg.toNat ||| 2 ^ 31) / 2 ^ 31 = 1 := by
    have : cfg.toNat / 2 ^ 31 = 0 ∨ cfg.toNat / 2 ^ 31 = 1 := by omega
    rw [Nat.or_div_two_pow]
    rcases this with h | h <;> rw [h] <;> rfl
  have low : (cfg.toNat ||| 2 ^ 31) % 2 ^ 31 = cfg.toNat % 2 ^ 31 := by
    rw [Nat.or_mod_two_pow, Nat.mod_self, Nat.or_zero]
  change cfg.toNat ||| 2 ^ 31 = _
  omega

theorem toNat_and_disable (cfg : Word) : (cfg &&& 0x7FFFFFFF).toNat = cfg.toNat % 2 ^ 31 :=
  Nat.and_two_pow_sub_one_eq_mod cfg.toNat 31

/-- What a write of HIF_CQCFG or HIF_EQCFG says: the fields of `cfg`, and ENABLE. -/
structure CfgSays (v : Nat) (cfg : Word) (on : Bool) : Prop where
  size : v % 32 = cfg.toNat % 32
  vector : bits v 14 8 = cfg.toNat / 2 ^ 8 % 2 ^ 7
  enable : bit v 31 = on

theorem cfgSays_enable (cfg : Word) : CfgSays (cfg ||| 0x80000000).toNat cfg true := by
  rw [toNat_or_enable]
  refine ⟨by omega, ?_, decide_eq_true (by omega)⟩
  unfold bits
  omega

theorem cfgSays_disable (cfg : Word) : CfgSays (cfg &&& 0x7FFFFFFF).toNat cfg false := by
  rw [toNat_and_disable]
  refine ⟨by omega, ?_, decide_eq_false (by omega)⟩
  unfold bits
  omega

/-- The ring that has taken SIZE_LOG2 and VECTOR of `cfg`, neither of them reserved. -/
def Ring.configured (r : Ring) (cfg : Word) : Ring :=
  { r with sizeLog2 := BitVec.ofNat 5 (cfg.toNat % 32), vector := some (BitVec.ofNat 7 (cfg.toNat / 2 ^ 8 % 2 ^ 7)) }

/-- SIZE_LOG2 of `cfg` is no reserved encoding (R12, R230). -/
def sizeValid (cfg : Word) : Bool := decide (6 ≤ cfg.toNat % 32) && decide (cfg.toNat % 32 ≤ 16)

/-- VECTOR of `cfg` is one that the function of ring `key` has (R226). -/
def vectorValid (key : Nat) (cfg : Word) : Bool := decide (ringFn key = 0) || decide (cfg.toNat / 2 ^ 8 % 2 ^ 7 < 8)

theorem sizeValid_iff (cfg : Word) : sizeValid cfg = true ↔ 6 ≤ cfg.toNat % 32 ∧ cfg.toNat % 32 ≤ 16 := by
  simp only [sizeValid, Bool.and_eq_true, decide_eq_true_eq]

theorem vectorValid_iff (key : Nat) (cfg : Word) :
    vectorValid key cfg = true ↔ ringFn key = 0 ∨ cfg.toNat / 2 ^ 8 % 2 ^ 7 < 8 := by
  simp only [vectorValid, Bool.or_eq_true, decide_eq_true_eq]

section
variable {s : State} {a : Acc} {key v : Nat} {cfg : Word}

theorem writeCqcfg_enable (h : CfgSays v cfg true) (size : sizeValid cfg = true) (vec : vectorValid key cfg = true)
    (disabled : (s.ring key).enable = false) :
    s.writeCqcfg a key v =
      if (s.ring key).base.toNat % 4096 = 0 then (s.setRing key ((s.ring key).configured cfg)).enableRing key
      else (s.setRing key ((s.ring key).configured cfg)).logAccess causeState a true := by
  unfold sizeValid at size
  unfold vectorValid at vec
  simp only [State.writeCqcfg, h.size, h.vector, h.enable, size, vec, disabled]
  by_cases aligned : (s.ring key).base.toNat % 4096 = 0 <;> simp [Ring.configured, disabled, aligned]

theorem writeCqcfg_disable (h : CfgSays v cfg false) (size : sizeValid cfg = true) (vec : vectorValid key cfg = true)
    (enabled : (s.ring key).enable = true) :
    s.writeCqcfg a key v =
      if s.ringNamed key then (s.setRing key ((s.ring key).configured cfg)).logAccess causeState a true
      else (s.setRing key ((s.ring key).configured cfg)).setRing key
        { (s.ring key).configured cfg with enable := false, coalesce := false, fullTold := false } := by
  unfold sizeValid at size
  unfold vectorValid at vec
  simp only [State.writeCqcfg, h.size, h.vector, h.enable, size, vec, enabled]
  cases named : s.ringNamed key <;> simp [Ring.configured, enabled]

theorem writeCqcfg_reserved (h : CfgSays v cfg false) (size : sizeValid cfg = false) (vec : vectorValid key cfg = true)
    (disabled : (s.ring key).enable = false) :
    s.writeCqcfg a key v =
      (s.setRing key { s.ring key with vector := some (BitVec.ofNat 7 (cfg.toNat / 2 ^ 8 % 2 ^ 7)) }).logAccess causeReserved a true := by
  unfold sizeValid at size
  unfold vectorValid at vec
  simp only [State.writeCqcfg, h.size, h.vector, h.enable, size, vec, disabled]
  simp

theorem enableRing_setRing (r : Ring) :
    (s.setRing key r).enableRing key =
      (((s.setRing key r).setRing key
        { r with enable := true, tail := 0, fullTold := false,
                 generated := if key < 128 then BitVec.ofNat 32 r.waiting.length else r.generated }).ringRoom key).bootPost key := by
  simp [State.enableRing]

end

theorem exec_cqEnable_of_reaches {fn c : Nat} {ev : Bool} {s : State} (hc : c ≤ 64) (hfn : fn = ringFn (ringKey ev c))
    (h : Reaches s .hif fn (ringOff ev c + 8) true (.cqCfg (ringKey ev c))) (cfg : Word) :
    exec (.cqEnable fn ev c cfg) s =
      .next (s.writeCqcfg (accOf .hif fn (ringOff ev c + 8)) (ringKey ev c) (cfg ||| 0x80000000).toNat) :=
  put_ringCfg hc hfn h _

theorem exec_cqDisable_of_reaches {fn c : Nat} {ev : Bool} {s : State} (hc : c ≤ 64) (hfn : fn = ringFn (ringKey ev c))
    (h : Reaches s .hif fn (ringOff ev c + 8) true (.cqCfg (ringKey ev c))) (cfg : Word) :
    exec (.cqDisable fn ev c cfg) s =
      .next (s.writeCqcfg (accOf .hif fn (ringOff ev c + 8)) (ringKey ev c) (cfg &&& 0x7FFFFFFF).toNat) :=
  put_ringCfg hc hfn h _

/-- Settles O29: each write of a ring's register comes down to what `State.writeHead` or `State.writeCqcfg` does in one case. -/
theorem ringControl : Obligations.RingControl := by
  refine ⟨fun fn c head s => ⟨?_, ?_⟩, ?_⟩
  · intro hc hfn h r fits
    have key : c < 128 := by omega
    have done := put_ringHead (event := false) hc hfn h head
    rw [ringKey, if_neg Bool.false_ne_true, writeHead_fits s _ _ _ fits, ringRoom_completion _ key, State.ring_setRing_same] at done
    exact done
  · intro hc hfn h r fits
    have done := put_ringHead (event := true) (by omega) hfn h head
    rw [ringKey, if_pos rfl, writeHead_fits s _ _ _ fits, ringRoom_event] at done
    exact done
  · intro fn c ev cfg s key o r size vec set logged hc hfn h hvec
    have bound : c ≤ 64 := by split at hc <;> omega
    have vecOk := (vectorValid_iff key cfg).mpr (hfn ▸ hvec)
    have enable := exec_cqEnable_of_reaches bound hfn h cfg
    have disable := exec_cqDisable_of_reaches bound hfn h cfg
    have on := cfgSays_enable cfg
    have off := cfgSays_disable cfg
    refine ⟨fun low high => ?_, fun reserved disabled => disable.trans (congrArg _ ?_)⟩
    · have sizeOk := (sizeValid_iff cfg).mpr ⟨low, high⟩
      refine ⟨fun disabled aligned => enable.trans (congrArg _ ?_), fun disabled aligned => enable.trans (congrArg _ ?_),
        fun enabled free => disable.trans (congrArg _ ?_), fun enabled named => disable.trans (congrArg _ ?_)⟩
      · exact ((writeCqcfg_enable on sizeOk vecOk disabled).trans (if_pos aligned)).trans (enableRing_setRing _)
      · exact (writeCqcfg_enable on sizeOk vecOk disabled).trans (if_neg aligned)
      · exact (writeCqcfg_disable off sizeOk vecOk enabled).trans (if_neg (ne_true_of_eq_false free))
      · exact (writeCqcfg_disable off sizeOk vecOk enabled).trans (if_pos named)
    · have sizeBad : sizeValid cfg = false := by
        rw [← Bool.not_eq_true, sizeValid_iff]
        omega
      exact writeCqcfg_reserved off sizeBad vecOk disabled

end Sys2Proof.Machine
end

section
/-! PROOF. Debug memory, the sealed log's words and refused reads, and the statement about register accesses (O34). -/

namespace Sys2Proof.Machine

open Sys2Proof.Claims

/-! ### The commands are accesses -/

theorem exec_dbgMemAccess_write (m : Master) (fn : Nat) (data : Word) (s : State) :
    exec (.dbgMemAccess m fn true data) s = s.put m fn 0x500048 data.toNat := rfl

theorem exec_dbgMemAccess_read (m : Master) (fn : Nat) (data : Word) (s : State) :
    exec (.dbgMemAccess m fn false data) s = .next (s.busRead (accOf m fn 0x500048)) := rfl

theorem exec_dbgLogRead (m : Master) (fn k : Nat) (s : State) :
    exec (.dbgLogRead m fn k) s = .next (s.busRead (accOf m fn (0x500110 + 4 * k))) := rfl

theorem exec_registerWrite (a : Acc) (data : BitVec 64) (s : State) :
    exec (.registerWrite a data) s = execRegisterWrite a data s := rfl

theorem exec_registerRead (a : Acc) (s : State) : exec (.registerRead a) s = execRegisterRead a s := rfl

/-- An access of BAR0 goes to this die's registers, whoever makes it. -/
theorem exec_registerWrite_accOf (m : Master) (fn o : Nat) (data : BitVec 64) (s : State) :
    exec (.registerWrite (accOf m fn o) data) s = .next (s.writeAccess (accOf m fn o) data) := by
  have bar : (accOf m fn o).bar = 0 := rfl
  simp [exec_registerWrite, execRegisterWrite, bar]

theorem exec_registerRead_accOf (m : Master) (fn o : Nat) (s : State) :
    exec (.registerRead (accOf m fn o)) s = .next (s.busRead (accOf m fn o)) := by
  have bar : (accOf m fn o).bar = 0 := rfl
  simp [exec_registerRead, execRegisterRead, bar]

section
variable {s : State} {m : Master} {fn o : Nat}

/-! ### Debug memory (R400, R401) -/

/-- The DBG block has no place in a VF's space, so no write of its memory registers is one of DBG_RELEASE. -/
theorem accOf_dbgMemData_off_ne (m : Master) (fn : Nat) : (accOf m fn 0x500048).off ≠ 0x500020 := by
  by_cases h : fn = 0 <;> simp [accOf, accAt, vfOffset, h]

theorem writeOutReg_dbgMemData {p : Nat} (reach : s.dbgReach = some p) (a : Acc) (data : Word) :
    s.writeOutReg a .dbgMemData data.toNat =
      (({ s with bus := { s.bus with dbgData := data } } : State).dbgStore a data).observe p := by
  simp only [State.writeOutReg, reach, BitVec.ofNat_toNat, BitVec.setWidth_eq]

theorem readOut_dbgMemData {p : Nat} (reach : s.dbgReach = some p) (a : Acc) :
    s.readOut a .dbgMemData true =
      (s.dbgLoad.1.toNat, ({ s.dbgLoad.2 with bus := { s.dbgLoad.2.bus with dbgData := s.dbgLoad.1 } } : State).observe p) := by
  simp [State.readOut, reach]

/-! ### The sealed log (R402) -/

theorem readOut_dbgLogEntry (a : Acc) (k : Nat) : s.readOut a (.dbgLogEntry k) true = (s.logWord k, s.logObserved) := rfl

variable {l : LogEntry}

theorem logSeen_iff : s.logSeen l = true ↔ l.part = 0xFF ∨ s.bus.dbgMask.getLsbD l.part.toNat = true := by
  simp only [State.logSeen, Bool.or_eq_true, beq_iff_eq]

theorem logWord_seen (entry : s.logEntry = some l) (seen : s.logSeen l = true) (k : Nat) : s.logWord k = l.word k := by
  simp [State.logWord, entry, seen]

theorem logWord_unseen (entry : s.logEntry = some l) (unseen : s.logSeen l = false) (k : Nat) : s.logWord k = 0xFFFFFFFF := by
  simp [State.logWord, entry, unseen]

theorem logObserved_part (entry : s.logEntry = some l) (seen : s.logSeen l = true) (part : l.part ≠ 0xFF) :
    s.logObserved = s.observe l.part.toNat := by
  simp only [State.logObserved, entry, seen, bne_iff_ne.mpr part, Bool.and_self, if_true]

theorem logObserved_quiet (entry : s.logEntry = some l) (quiet : s.logSeen l = false ∨ l.part = 0xFF) : s.logObserved = s := by
  rcases quiet with h | h <;> simp [State.logObserved, entry, h]

/-! ### Reads in general (R9, R334, R336, R337) -/

theorem readOut_plain {r : Reg} (log : ∀ k, r ≠ .dbgLogEntry k) (mem : r ≠ .dbgMemData) (a : Acc) :
    s.readOut a r true = ((s.counted r).readReg (viewFn a) r, s.counted r) := by
  cases r
  case dbgLogEntry k => exact absurd rfl (log k)
  case dbgMemData => exact absurd rfl mem
  all_goals rfl

theorem viewFn_accOf (gate : m ≠ .soundGw) (fn o : Nat) : viewFn (accOf m fn o) = if m = .hif then fn else 0 := by
  cases m <;> simp_all [viewFn, fromHost, accOf, accAt]

theorem answer_accOf (gate : m ≠ .soundGw) (fn o data : Nat) :
    s.answer (accOf m fn o) data = s.emit (.readAnswer fn (BitVec.ofNat 64 data)) := by
  have here : ((accOf m fn o).master == .soundGw) = false := beq_eq_false_iff_ne.mpr gate
  simp only [State.answer, here, Bool.false_eq_true, if_false]
  rfl

theorem refuse_time (m : Nat) (p : Option Nat) (queue reason : Nat) (seq : Word) (addr : Nat) :
    (s.refuse m p queue reason seq addr).time = s.time := by
  cases p <;> rfl

/-- A refused read of HIF: the sealed log, the tally of its function, and all-ones 16 µs after it (R337, R384, R388). -/
theorem refuseAccess_hif_read (fn o reason : Nat) :
    s.refuseAccess (accOf .hif fn o) false reason =
      (s.refuse 0 (if fn = 0 then none else some (fn - 1)) 0xFF reason 0 (accOf .hif fn o).off).emit
        (.refusedAnswer fn (s.time + 1600)) := by
  rw [← refuse_time (s := s) 0 (if fn = 0 then none else some (fn - 1)) 0xFF reason 0 (accOf .hif fn o).off]
  by_cases h : fn = 0 <;> simp [State.refuseAccess, fromHost, masterNum, accOf, accAt, h]

end

/-- Settles O34: a debug access and a register access that reach their register are `State.writeOutReg` or `State.readOut`
of it, and a refused one is `State.refuseAccess`. -/
theorem registerAccess : Obligations.RegisterAccess := by
  refine ⟨fun m fn s => ⟨?_, ?_, ?_⟩, ?_⟩
  · intro p data h reach
    rw [exec_dbgMemAccess_write, put_of_reaches h (accOf_dbgMemData_off_ne m fn) data.isLt, writeOutReg_dbgMemData reach]
  · intro p data h reach
    rw [exec_dbgMemAccess_read, busRead_of_reaches h, readOut_dbgMemData reach, Nat.mod_eq_of_lt s.dbgLoad.1.isLt]
  · intro k l _ h entry
    have entry : s.logEntry = some l := entry
    rw [exec_dbgLogRead, busRead_of_reaches h, readOut_dbgLogEntry]
    refine ⟨fun whole => ?_, fun part out => ?_, fun part inside => ?_⟩
    · have seen : s.logSeen l = true := logSeen_iff.mpr (.inl whole)
      rw [logWord_seen entry seen, logObserved_quiet entry (.inr whole)]
    · have unseen : s.logSeen l = false := by
        rw [← Bool.not_eq_true, logSeen_iff, out]
        exact fun seen => seen.elim part Bool.false_ne_true
      rw [logWord_unseen entry unseen, logObserved_quiet entry (.inl unseen)]
      rfl
    · have seen : s.logSeen l = true := logSeen_iff.mpr (.inr inside)
      rw [logWord_seen entry seen, logObserved_part entry seen part]
  · intro m fn o s gate a
    refine ⟨fun r v h ne => ?_, fun r h log mem => ?_, fun reason hif aligned taken path refused => ?_⟩
    · rw [exec_registerWrite_accOf, writeAccess_of_reaches h ne v.isLt]
    · rw [exec_registerRead_accOf, busRead_of_reaches h, readOut_plain log mem, viewFn_accOf gate, answer_accOf gate]
    · subst hif
      rw [exec_registerRead_accOf, busRead_refused (accOf_wholeWord aligned) taken path refused, refuseAccess_hif_read]

end Sys2Proof.Machine
end

section
/-! PROOF. What events and the coherence protocol leave of partitions and ports: a partition keeps all but its ledger halt and its
counters, a port all but the flits that wait to be sent. -/

namespace Sys2Proof.Machine

/-- The partitions of `t` are those of `s` but for ledger halts and performance counters, and its ports those of `s` but for the flits
that wait to be sent. -/
structure Kept (s t : State) : Prop where
  part : ∀ p, ∃ h f, t.part p = { s.part p with halted := h, perf := f }
  port : ∀ p, ∃ q, t.port p = { s.port p with txq := q }

theorem Kept.of_eq {s t : State} (parts : t.parts = s.parts) (ports : t.ports = s.ports) : Kept s t where
  part p := ⟨(s.part p).halted, (s.part p).perf, by simp only [State.part, parts]⟩
  port p := ⟨(s.port p).txq, by simp only [State.port, ports]⟩

theorem Kept.refl (s : State) : Kept s s := .of_eq rfl rfl

theorem Kept.trans {s t u : State} (h : Kept s t) (k : Kept t u) : Kept s u where
  part p := by
    obtain ⟨_, _, h⟩ := h.part p
    obtain ⟨_, _, k⟩ := k.part p
    exact ⟨_, _, by rw [k, h]⟩
  port p := by
    obtain ⟨_, h⟩ := h.port p
    obtain ⟨_, k⟩ := k.port p
    exact ⟨_, by rw [k, h]⟩

theorem Kept.foldl_mem {α : Type} (f : State → α → State) (l : List α) (h : ∀ s x, x ∈ l → Kept s (f s x)) (s : State) :
    Kept s (l.foldl f s) :=
  List.foldlRecOn l f (.refl s) fun u k x hx => k.trans (h u x hx)

theorem Kept.foldl {α : Type} (f : State → α → State) (h : ∀ s x, Kept s (f s x)) (l : List α) (s : State) : Kept s (l.foldl f s) :=
  .foldl_mem f l (fun s x _ => h s x) s

theorem Kept.ite {c : Prop} [Decidable c] {s t u : State} (h : Kept s t) (k : Kept s u) : Kept s (if c then t else u) := by
  split
  · exact h
  · exact k

section
variable {s t : State} (h : Kept s t)
include h

theorem Kept.state (p : Nat) : (t.part p).state = (s.part p).state := by
  obtain ⟨_, _, h⟩ := h.part p
  rw [h]

end

/-! ### Events (R195, R220 to R225, R469, R470) -/

theorem kept_setQueue (s : State) (q : Nat) (v : Queue) : Kept s (s.setQueue q v) := .of_eq rfl rfl
theorem kept_setRing (s : State) (c : Nat) (v : Ring) : Kept s (s.setRing c v) := .of_eq rfl rfl
theorem kept_setIslet (s : State) (n : Nat) (v : Islet) : Kept s (s.setIslet n v) := .of_eq rfl rfl
theorem kept_setLag (s : State) (l : Nat) (v : LagLine) : Kept s (s.setLag l v) := .of_eq rfl rfl
theorem kept_setCached (s : State) (a l : Nat) (v : CacheLine) : Kept s (s.setCached a l v) := .of_eq rfl rfl
theorem kept_setInvs (s : State) (a : Nat) (l : List Nat) : Kept s (s.setInvs a l) := .of_eq rfl rfl
theorem kept_emit (s : State) (o : Out) : Kept s (s.emit o) := .of_eq rfl rfl
theorem kept_up (s : State) (u : Upkeep) : Kept s { s with up := u } := .of_eq rfl rfl
theorem kept_xfers (s : State) (x : Table Xfer) : Kept s { s with xfers := x } := .of_eq rfl rfl
theorem kept_setRun (s : State) (q i : Nat) (r : Run) : Kept s (s.setRun q i r) := .of_eq rfl rfl

theorem kept_setPart (s : State) (p : Nat) (h : Bool) (f : Table DWord) :
    Kept s (s.setPart p { s.part p with halted := h, perf := f }) where
  part j := by
    rw [State.part_setPart]
    split
    · next e => exact ⟨h, f, by rw [e]⟩
    · exact ⟨_, _, rfl⟩
  port _ := ⟨_, rfl⟩

theorem kept_setPort (s : State) (p : Nat) (q : List Waiting) : Kept s (s.setPort p { s.port p with txq := q }) where
  part _ := ⟨_, _, rfl⟩
  port j := by
    rw [State.port_setPort]
    split
    · next e => exact ⟨q, by rw [e]⟩
    · exact ⟨_, rfl⟩

theorem kept_sendFlit (s : State) (f : Flit) (seg : Nat) : Kept s (s.sendFlit f seg) := kept_setPort _ _ _
theorem kept_sendNote (s : State) (d : Nat) (w : Note) (args : List Nat) : Kept s (s.sendNote d w args) := kept_sendFlit _ _ _
theorem kept_forward (s : State) (d : Nat) (w : Fwd) (args : List Nat) : Kept s (s.forward d w args) := kept_sendNote _ _ _ _

theorem kept_toHost (s : State) (q : Nat) (o : Out) : Kept s (s.toHost q o) := by
  unfold State.toHost
  refine .ite (kept_emit _ _) ?_
  split
  · refine .ite (kept_emit _ _) ?_
    exact .trans (t := { s with hostFifo := s.hostFifo ++ [q] }) (.of_eq rfl rfl) (kept_forward _ _ _ _)
  · exact .ite (kept_emit _ _) (kept_forward _ _ _ _)
  · exact kept_forward _ _ _ _
  · exact kept_emit _ _

theorem kept_tellLead (s : State) (q : Nat) : Kept s (s.tellLead q) :=
  .ite ((kept_setQueue _ _ _).trans (kept_forward _ _ _ _)) (.refl _)

theorem kept_message (s : State) (fn v : Nat) : Kept s (s.message fn v) :=
  .ite (kept_toHost _ _ _) (.ite (.refl _) (.ite (kept_emit _ _) (.of_eq rfl rfl)))

theorem kept_writeEntry (s : State) (c : Nat) (bytes : List Byte) (msix : Bool) : Kept s (s.writeEntry c bytes msix) :=
  ((kept_toHost _ _ _).trans (.ite (kept_message _ _ _) (.refl _))).trans (kept_setRing _ _ _)

theorem kept_deliverEvent (s : State) (e : Event) : Kept s (s.deliverEvent e) :=
  .ite (kept_setRing _ _ _) ((kept_writeEntry _ _ _ _).trans (kept_setRing _ _ _))

theorem kept_raiseRaw (s : State) (e code queue : Nat) (seq : Word) (data : List Byte) : Kept s (s.raiseRaw e code queue seq data) :=
  (kept_setRing _ _ _).trans (.ite (.of_eq rfl rfl) (kept_deliverEvent _ _))

theorem kept_recordHalt (s : State) (q : Nat) (st : BitVec 8) (seq : Word) : Kept s (s.recordHalt q st seq) :=
  (kept_setQueue _ _ _).trans (kept_tellLead _ _)

theorem kept_grantSent (s : State) (key : Option Nat) (more less : Nat) : Kept s (s.grantSent key more less) := by
  unfold State.grantSent
  split
  · exact .refl s
  · exact .ite (.of_eq rfl rfl) (.refl _)

theorem kept_recallFlits (s : State) (key : Nat) : Kept s (s.recallFlits key).2 := by
  unfold State.recallFlits
  refine List.foldlRecOn (motive := fun c : Nat × State => Kept s c.2) _ _ (.refl s) ?_
  intro c h p _
  dsimp only
  split
  · exact h
  · exact h.trans (kept_setPort _ _ _)

theorem kept_stopXfer (s : State) (k : Nat) (st : BitVec 8) : Kept s (s.stopXfer k st).1 := by
  unfold State.stopXfer
  split
  · exact .refl s
  · have recalled := (kept_recallFlits s k).trans (kept_grantSent _ ((s.recallFlits k).2.xfer k).grantKey 0 (s.recallFlits k).1)
    dsimp only
    split
    · exact recalled.trans (kept_xfers _ _)
    · exact recalled.trans (kept_xfers _ _)

theorem kept_stopRun (s : State) (q i : Nat) (st : BitVec 8) : Kept s (s.stopRun q i st) := by
  unfold State.stopRun
  split
  · exact .refl s
  · dsimp only
    have unclaimed (v : Islet) : Kept s (if q < 48 then s.setIslet (q / 3) v else s) := .ite (kept_setIslet _ _ _) (.refl _)
    split
    · exact (unclaimed _).trans (kept_setRun _ _ _ _)
    · exact ((unclaimed _).trans (kept_stopXfer _ _ _)).trans (kept_setRun _ _ _ _)

theorem kept_stopFrom (s : State) (q i : Nat) (st : BitVec 8) : Kept s (s.stopFrom q i st) :=
  .foldl _ (fun _ _ => kept_stopRun _ _ _ _) _ _

theorem kept_ledgerHaltQueue (s : State) (q : Nat) : Kept s (s.ledgerHaltQueue q) :=
  .ite (.refl _) (.ite ((kept_recordHalt _ _ _ _).trans (kept_raiseRaw _ _ _ _ _ _))
    ((kept_stopRun _ _ _ _).trans (kept_stopFrom _ _ _ _)))

theorem kept_ledgerHalt (s : State) (p : Nat) : Kept s (s.ledgerHalt p) :=
  (kept_setPart s p true (s.part p).perf).trans (.foldl _ kept_ledgerHaltQueue _ _)

theorem kept_haltElsewhere (s : State) (p : Nat) : Kept s (s.haltElsewhere p) :=
  .ite (.foldl _ (fun _ _ => kept_forward _ _ _ _) _ _) (.refl _)

theorem kept_breach (s : State) (kind obj sub : Nat) (o : Option Nat) (snap : List Word) (d : Int) :
    Kept s (s.breach kind obj sub o snap d) := by
  unfold State.breach
  cases o with
  | none => exact (kept_up _ _).trans (kept_raiseRaw _ _ _ _ _ _)
  | some p =>
    exact (((kept_up _ _).trans (kept_raiseRaw _ _ _ _ _ _)).trans (.ite (.refl _) (kept_raiseRaw _ _ _ _ _ _))).trans
      ((kept_haltElsewhere _ _).trans (kept_ledgerHalt _ _))

theorem kept_judge (s : State) (f : Option Found) : Kept s (s.judge f) := by
  cases f with
  | none => exact .refl s
  | some x => exact kept_breach _ _ _ _ _ _ _

theorem kept_raiseEvent (s : State) (e code queue : Nat) (seq : Word) (data : List Byte) : Kept s (s.raiseEvent e code queue seq data) :=
  (kept_raiseRaw _ _ _ _ _ _).trans (kept_judge _ _)

/-! ### The coherence protocol (R256 to R261, R269 to R273) -/

theorem kept_takeData (s : State) (a l : Nat) : Kept s (s.takeData a l) := .ite (.of_eq rfl rfl) (.refl _)

theorem kept_demote (s : State) (a l : Nat) (d : Mesi) : Kept s (s.demote a l d) :=
  (kept_takeData _ _ _).trans (.ite (kept_setCached _ _ _ _) (kept_setCached _ _ _ _))

theorem kept_recallShared (s : State) (l : Nat) : Kept s (s.recallShared l) := by
  unfold State.recallShared
  split
  · exact .refl s
  · exact (kept_demote _ _ _ _).trans (kept_setLag _ _ _)

theorem kept_recallOwned (s : State) (l : Nat) : Kept s (s.recallOwned l) := by
  unfold State.recallOwned
  split
  · exact .refl s
  · exact (kept_demote _ _ _ _).trans (kept_setLag _ _ _)

theorem kept_applyInv (s : State) (a l : Nat) : Kept s (s.applyInv a l) := .ite (.of_eq rfl rfl) (.refl _)

theorem kept_acceptInv (s : State) (a l : Nat) : Kept s (s.acceptInv a l) := by
  unfold State.acceptInv
  refine .ite (kept_setCached _ _ _ _) (.trans ?_ (kept_setInvs _ _ _))
  split
  · exact .refl s
  · exact .ite (kept_applyInv _ _ _) (.refl _)

theorem kept_invalidateSharers (s : State) (l : Nat) (x : Option Nat) : Kept s (s.invalidateSharers l x) :=
  (Kept.foldl _ (fun _ _ => kept_acceptInv _ _ _) _ _).trans (kept_setLag _ _ _)

theorem kept_needsRebuild (s : State) (b : Nat) : Kept s (s.needsRebuild b) := .ite (.of_eq rfl rfl) (.refl _)

theorem kept_hbmCorrected (s : State) : Kept s s.hbmCorrected := kept_up _ _
theorem kept_hbmUncorrectable (s : State) (b : Nat) : Kept s (s.hbmUncorrectable b) := kept_up _ _
theorem kept_logPoison (s : State) (a n : Nat) (x y : Bool) : Kept s (s.logPoison a n x y) := kept_up _ _
theorem kept_hbmErr (s : State) (e : Table Nat) : Kept s { s with hbmErr := e } := .of_eq rfl rfl
theorem kept_hbmPoison (s : State) (e : Table Bool) : Kept s { s with hbmPoison := e } := .of_eq rfl rfl

theorem kept_blockMarks (s : State) (e : Table Bool) (n : Table Nat) : Kept s { s with hbmPoison := e, hbmErr := n } := .of_eq rfl rfl

theorem kept_eccBlock (s : State) (b : Nat) : Kept s (s.eccBlock b) := by
  unfold State.eccBlock
  have read (u : State) : Kept u (if Table.get 0 s.hbmErr b = 1 then u.hbmCorrected else u) := .ite (kept_hbmCorrected _) (.refl _)
  have marked (u : State) : Kept u (if Table.get false s.hbmPoison b then u else
      ({ u with hbmPoison := Table.set false u.hbmPoison b true } : State).logPoison (b * 32) 0 false true) :=
    .ite (.refl _) ((kept_hbmPoison _ _).trans (kept_logPoison _ _ _ _ _))
  have scrubbed := (Kept.ite (c := Table.get 0 s.hbmErr b = 0) (.refl s) (kept_hbmErr s (Table.set 0 s.hbmErr b 0))).trans (read _)
  refine .ite scrubbed (scrubbed.trans (.trans ?_ (kept_needsRebuild _ _)))
  exact (marked _).trans (kept_hbmUncorrectable _ _)

theorem kept_evictLag (s : State) (l : Nat) : Kept s (s.evictLag l) := by
  unfold State.evictLag
  refine .trans ?_ (kept_setLag _ _ _)
  refine .trans ?_ (.ite (.foldl _ (fun _ _ => kept_blockMarks _ _ _) _ _) (.refl _))
  exact (kept_recallOwned s l).trans (.foldl _ (fun _ _ => .ite (kept_setCached _ _ _ _) (.refl _)) _ _)

theorem kept_touchWay (s : State) (a w : Nat) : Kept s (s.touchWay a w) := .of_eq rfl rfl
theorem kept_perfAdd (s : State) (p k n : Nat) : Kept s (s.perfAdd p k n) := kept_setPart _ _ _ _

theorem kept_allocate (s : State) (l : Nat) (fetch : Bool) : Kept s (s.allocate l fetch) := by
  unfold State.allocate
  refine .ite (kept_touchWay _ _ _) ?_
  refine .trans ?_ ((kept_setLag _ _ _).trans (kept_touchWay _ _ _))
  refine .trans ?_ (.ite (kept_perfAdd _ _ _ _) (.refl _))
  refine .trans ?_ (.ite (.foldl _ (fun _ _ => kept_eccBlock _ _) _ _) (.refl _))
  split
  · exact kept_evictLag _ _
  · exact .refl s

theorem kept_dropLine (s : State) (a l : Nat) : Kept s (s.dropLine a l) :=
  (kept_takeData _ _ _).trans ((kept_setLag _ _ _).trans (kept_setCached _ _ _ _))

theorem kept_makeRoom (s : State) (a l : Nat) : Kept s (s.makeRoom a l) := by
  unfold State.makeRoom
  refine .ite (.refl _) (.ite (.refl _) ?_)
  split
  · exact .refl s
  · exact kept_dropLine _ _ _

theorem kept_roomFor (s : State) (a l : Nat) : Kept s ((s.makeRoom a l).allocate l true) :=
  (kept_makeRoom _ _ _).trans (kept_allocate _ _ _)

theorem kept_shareLine (s : State) (a l : Nat) : Kept s (s.shareLine a l) := by
  unfold State.shareLine
  have asked := kept_applyInv s a l
  have here := (asked.trans (kept_recallShared _ l)).trans (kept_roomFor _ a l)
  exact .ite asked (.ite (here.trans ((kept_setLag _ _ _).trans (kept_setCached _ _ _ _)))
    (here.trans ((kept_setLag _ _ _).trans (kept_setCached _ _ _ _))))

theorem kept_ownLine (s : State) (a l : Nat) : Kept s (s.ownLine a l) := by
  unfold State.ownLine
  have asked := kept_applyInv s a l
  have here := ((asked.trans (kept_recallOwned _ l)).trans (kept_invalidateSharers _ l (some a))).trans (kept_roomFor _ a l)
  exact .ite asked (here.trans ((kept_setLag _ _ _).trans (kept_setCached _ _ _ _)))

theorem kept_drainOwned (s : State) (n l : Nat) : Kept s (s.drainOwned n l) :=
  ((Kept.foldl _ (fun _ _ => kept_setCached _ _ _ _) _ _).trans
    (.foldl _ (fun _ _ => .ite (kept_setLag _ _ _) (.refl _)) _ _)).trans (kept_setIslet _ _ _)

theorem kept_freeTaken (s : State) : Kept s s.freeTaken := .of_eq rfl rfl

theorem kept_grantLine (s : State) (l a : Nat) (own : Bool) : Kept s (s.grantLine l a own) := by
  unfold State.grantLine
  have owned := kept_ownLine s a l
  exact .ite (kept_shareLine _ _ _) (.ite (owned.trans ((kept_freeTaken _).trans (kept_setCached _ _ _ _)))
    (.ite (owned.trans (kept_drainOwned _ _ _)) owned))

theorem kept_finishTxn (s : State) (l a : Nat) (own : Bool) : Kept s (s.finishTxn l a own) := by
  unfold State.finishTxn
  refine .trans ?_ (kept_grantLine _ l a own)
  refine .trans ?_ (.ite (kept_recallOwned _ _) (kept_recallShared _ _))
  exact (Kept.foldl _ (fun _ _ => .ite (kept_acceptInv _ _ _) (.refl _)) _ _).trans (kept_setLag _ _ _)

theorem kept_settleGo (l : Nat) : ∀ (fuel : Nat) (s : State), Kept s (State.settleGo l fuel s)
  | 0, s => .refl s
  | fuel + 1, s => by
    unfold State.settleGo
    split
    · exact .refl s
    · next a own _ =>
      have ended := kept_finishTxn s l a own
      dsimp only
      split
      · exact ended
      · exact ended.trans ((kept_setLag _ _ _).trans (kept_settleGo l fuel _))

theorem kept_drainLine (s : State) (n l : Nat) : Kept s (s.drainLine n l) :=
  .ite (.refl _) (((kept_settleGo _ _ _).trans (kept_ownLine _ _ _)).trans (kept_drainOwned _ _ _))

theorem kept_flushCache (s : State) (n : Nat) : Kept s (s.flushCache n) :=
  ((Kept.foldl _ (fun _ _ => kept_drainLine _ _ _) _ _).trans (.foldl _ (fun _ _ => kept_applyInv _ _ _) _ _)).trans
    (.foldl _ (fun _ _ => kept_dropLine _ _ _) _ _)

end Sys2Proof.Machine
end

section
/-! PROOF. How a management command's row answers once it runs, in the words of the statements. -/

namespace Sys2Proof.Machine

open Sys2Proof.Claims

section
variable {s : State} {q op : Nat} {r : Run}

theorem runAt_of_mgmtRun (h : s.mgmtRun q op = some r) : s.runAt q 0 = some r := ((mgmtRun_iff s q op r).mp h).1

theorem mgmtEnd_eq_ended (h : s.runAt q 0 = some r) (st : BitVec 8) (info : Nat) : s.mgmtEnd q st info = ended s q r st info :=
  mgmtEnd_run s q st info r h

theorem mgmtMal_eq_malformed (h : s.runAt q 0 = some r) (sub detail : Nat) : s.mgmtMal q sub detail = malformed s q r sub detail :=
  mgmtEnd_run s q stMalformed _ r h

theorem mgmtDone_eq_ended (h : s.runAt q 0 = some r) (info : Nat) : s.mgmtDone q info = ended s q r stDone info :=
  mgmtDone_run s q info r h

theorem mgmtWait_eq_waits (h : s.runAt q 0 = some r) (aux : List Nat) : s.mgmtWait q aux = waits s q r aux :=
  mgmtWait_run s q aux r h

/-- A command whose field checks pass is its body. -/
theorem mgmtDesc_clean {checks : List (Nat × Bool)} (h : Clean checks) (f : State) : s.mgmtDesc q checks f = f :=
  mgmtDesc_pass s f q checks ((firstBad_none_iff checks).mpr h)

end

end Sys2Proof.Machine
end

section
/-! PROOF. The tenant switch and the resets of a function, and the statement about them (O38). -/

namespace Sys2Proof.Machine

open Sys2Proof.Claims

/-! ### What a switch stops leaves the partition CLEARING (R396) -/

theorem kept_tellPart (s : State) (p code : Nat) : Kept s (s.tellPart p code) := .foldl _ (fun _ _ => kept_forward _ _ _ _) _ _

theorem kept_actElsewhere (s : State) (op p : Nat) (ide : Bool) : Kept s (s.actElsewhere op p ide) :=
  .foldl _ (fun _ _ => kept_forward _ _ _ _) _ _

theorem kept_stopTests (s : State) (p : Nat) : Kept s (s.stopTests p) := by
  refine .foldl _ (fun u i => ?_) _ _
  dsimp only
  split
  · exact .ite (kept_setQueue _ _ _) (.refl _)
  · exact .refl _

theorem kept_dropWaiting (s : State) (p : Nat) : Kept s (s.dropWaiting p) := .foldl _ (fun _ _ => kept_setRing _ _ _) _ _

theorem kept_resetPin (s : State) (k : Nat) : Kept s (s.resetPin k) := .of_eq rfl rfl

theorem kept_resetPartPins (s : State) (p : Nat) : Kept s (s.resetPartPins p) :=
  .foldl _ (fun _ _ => .ite (kept_resetPin _ _) (.refl _)) _ _

theorem kept_stopTransfers (s : State) (p : Nat) : Kept s (s.stopTransfers p) := by
  unfold State.stopTransfers
  refine .trans ?_ (kept_xfers _ _)
  exact (Kept.foldl _ (fun _ _ => kept_setPort _ _ _) _ _).trans (.foldl _ (fun _ _ => kept_setIslet _ _ _) _ _)

theorem kept_grants (s : State) (g : Table Grant) : Kept s { s with grants := g } := .of_eq rfl rfl

theorem kept_dropWindows (s : State) (p : Nat) : Kept s (s.dropWindows p) := by
  unfold State.dropWindows
  refine .trans ?_ (kept_grants _ _)
  exact .foldl _ (fun _ _ => .ite (kept_sendNote _ _ _ _) (.refl _)) _ _

theorem kept_discard (s : State) (a len : Nat) : Kept s (s.discard a len) :=
  .foldl _ (fun _ _ => (Kept.foldl _ (fun _ _ => (kept_setCached _ _ _ _).trans (kept_setInvs _ _ _)) _ _).trans (kept_setLag _ _ _)) _ _

theorem kept_setNum (s : State) (q : Nat) (v : Num) : Kept s (s.setNum q v) := .of_eq rfl rfl

theorem kept_scratch (s : State) (m : Memory) (e : Table Nat) (x : Table Bool) :
    Kept s { s with scratch := m, spErr := e, spPoison := x } := .of_eq rfl rfl

theorem kept_clearSp (s : State) (n : Nat) : Kept s (s.clearSp n) := (kept_scratch s _ _ _).trans (kept_setIslet _ _ _)

theorem kept_isletLost (s : State) (n : Nat) : Kept s (s.isletLost n) :=
  (kept_clearSp s n).trans ((kept_setIslet _ _ _).trans (((kept_setNum _ _ _).trans (kept_setNum _ _ _)).trans (kept_setNum _ _ _)))

theorem kept_setDomain (s : State) (d : Nat) (v : Domain) : Kept s (s.setDomain d v) := .of_eq rfl rfl

/-- An Islet changes its state without effect on any port (R423). -/
theorem kept_enterState {s : State} {n : Nat} (hn : n < 16) (d : DomState) : Kept s (s.enterState n d) := by
  unfold State.enterState
  rw [if_pos hn]
  have moved := kept_setDomain s n { s.domain n with st := d, since := s.time }
  have flushed := moved.trans (u := if s.domSt n == .on then State.flushCache _ n else _) (.ite (kept_flushCache _ _) (.refl _))
  exact .ite (flushed.trans (kept_isletLost _ _)) (flushed.trans (kept_setIslet _ _ _))

theorem kept_clearIslet {s : State} {n : Nat} (hn : n < 16) (cause : Option (Nat × Word)) : Kept s (s.clearIslet n cause) := by
  unfold State.clearIslet
  split
  · exact kept_isletLost _ _
  · have off (v : Domain) := (kept_enterState (s := s) hn .off).trans (kept_setDomain _ n v)
    cases cause with
    | none => exact off _
    | some c => exact (off _).trans (kept_raiseEvent _ _ _ _ _ _)
  · exact kept_isletLost _ _

theorem kept_setSwitch (s : State) (p : Nat) (v : Option Switch) : Kept s (s.setSwitch p v) := .of_eq rfl rfl
theorem kept_upFrozen (s : State) (u : Upkeep) (f : Table Bool) : Kept s { s with up := u, frozen := f } := .of_eq rfl rfl
theorem kept_cachesInvs (s : State) (c : Table CacheLine) (i : Table (List Nat)) : Kept s { s with caches := c, invQueue := i } :=
  .of_eq rfl rfl

theorem lt_of_mem_isletsOf {s : State} {p n : Nat} (h : n ∈ s.isletsOf p) : n < 16 :=
  List.mem_range.mp (List.mem_of_mem_filter h)

/-! ### The end of step 6 -/

/-- What a partition keeps of its tenant once a switch has started. -/
def Part.tenantless (t : Part) : Part :=
  { t with cues := [], windows := [], pkgId := 0, pkgDst := 0, pkgFrames := 0, loaded := false, binding := [],
           bindCount := 0, pkgDigest := 0, perf := [], halted := false }

/-- The last of what `State.startSwitch` does: session, stream, keys and tenant of the partition go, and the fill is queued. -/
def State.tenantGone (s : State) (p : Nat) (destroy : Bool) (gs : List Nat) : State :=
  let u := ((s.setSession (p + 1) {}).ideInsecure (p + 1)).endKeys p destroy
  (u.setPart p (u.part p).tenantless).queueFill gs 2 p (if destroy then 1 else 16 + p)

/-- What comes before leaves the partition CLEARING. -/
theorem startSwitch_eq (s : State) (p : Nat) (issuer : Option Nat) (destroy : Bool) (start : Nat) :
    ∃ (u : State) (gs : List Nat), (u.part p).state = .clearing ∧ s.startSwitch p issuer destroy start = u.tenantGone p destroy gs := by
  refine ⟨_, _, ?_, rfl⟩
  refine Eq.trans (Kept.state (s := s.setPart p { s.part p with state := .clearing }) ?_ p) (by rw [State.part_setPart_same])
  refine .trans ?_ (kept_upFrozen _ _ _)
  refine .trans ?_ (.foldl_mem _ _ (fun _ n hn => kept_clearIslet (lt_of_mem_isletsOf hn) _) _)
  refine .trans ?_ (.foldl _ (fun _ _ => kept_discard _ _ _) _ _)
  refine .trans ?_ (.foldl _ (fun _ _ => kept_cachesInvs _ _ _) _ _)
  refine .trans ?_ (kept_dropWindows _ _)
  refine .trans ?_ ((kept_resetPartPins _ _).trans (kept_stopTransfers _ _))
  refine .trans ?_ (.foldl _ (fun _ _ => kept_setQueue _ _ _) _ _)
  refine .trans ?_ ((kept_stopTests _ _).trans (kept_dropWaiting _ _))
  refine .trans ?_ (kept_setSwitch _ _ _)
  exact (kept_tellPart _ _ _).trans (.ite (.refl _) (kept_actElsewhere _ _ _ _))

/-- Raising a domain for a fill changes upkeep, domains and ports. -/
theorem beginMove_eq (s : State) (d : Nat) (dest : DomState) (told : Bool) (cause : Nat) :
    ∃ u x k, s.beginMove d dest told cause = { s with up := u, domains := x, ports := k } := by
  unfold State.beginMove State.portLower State.portReset
  dsimp only
  split
  · exact ⟨_, _, _, rfl⟩
  · split
    · split <;> exact ⟨_, _, _, rfl⟩
    · exact ⟨_, _, _, rfl⟩

theorem queueFill_eq (s : State) (gs : List Nat) (purpose part key : Nat) :
    ∃ u x k, s.queueFill gs purpose part key = { s with up := u, domains := x, ports := k } := by
  have raised (l : List Nat) : ∃ u x k, l.foldl (fun v d => v.beginMove d .on true 0) s = { s with up := u, domains := x, ports := k } := by
    refine List.foldlRecOn (motive := fun v => ∃ u x k, v = { s with up := u, domains := x, ports := k }) l _ ⟨s.up, s.domains, s.ports, rfl⟩ ?_
    rintro _ ⟨_, _, _, rfl⟩ d -
    obtain ⟨_, _, _, e⟩ := beginMove_eq { s with up := _, domains := _, ports := _ } d .on true 0
    exact ⟨_, _, _, e⟩
  obtain ⟨u, x, k, e⟩ := raised ((fillDomains gs).filter (fun d => s.settled d == .ret))
  exact ⟨_, x, k, by rw [State.queueFill, e]⟩

section
variable (s : State) (p : Nat) (destroy : Bool)

@[simp] theorem endKeys_part (j : Nat) : (s.endKeys p destroy).part j = s.part j := by
  unfold State.endKeys
  dsimp only
  split <;> rfl

@[simp] theorem endKeys_session (f : Nat) : (s.endKeys p destroy).session f = s.session f := by
  unfold State.endKeys
  dsimp only
  split <;> rfl

/-- The content key of a partition that ends is gone (R349). -/
theorem endKeys_content : Table.get [] (s.endKeys p destroy).store.content p = [] := by
  unfold State.endKeys
  dsimp only
  split <;> exact Table.get_set_same [] s.store.content p []

theorem endKeys_atRest : Table.get [] (s.endKeys p true).store.atRest p = [] :=
  Table.get_set_same [] s.store.atRest p []

theorem ideInsecure_part (k j : Nat) :
    (s.ideInsecure k).part j = if j = k - 1 then { s.part j with ideSecure := false } else s.part j := by
  unfold State.ideInsecure
  rw [State.part_setPart]
  split
  · next e => rw [e]
  · rfl

@[simp] theorem ideInsecure_session (k f : Nat) : (s.ideInsecure k).session f = s.session f := rfl

theorem tenantGone_facts (gs : List Nat) (clearing : (s.part p).state = .clearing) :
    let t := s.tenantGone p destroy gs
    t.part p = { (s.part p).tenantless with state := .clearing, ideSecure := false } ∧ t.session (p + 1) = {} ∧
      Table.get [] t.store.content p = [] ∧ (destroy = true → Table.get [] t.store.atRest p = []) := by
  obtain ⟨u, x, k, e⟩ := queueFill_eq _ gs 2 p (if destroy then 1 else 16 + p)
  simp only [State.tenantGone]
  rw [e]
  refine ⟨?_, ?_, endKeys_content _ _ _, ?_⟩
  · refine (State.part_setPart_same _ _ _).trans ?_
    rw [endKeys_part, ideInsecure_part, if_pos (Nat.add_sub_cancel p 1).symm, State.setSession_part]
    simp [Part.tenantless, clearing]
  · refine (endKeys_session _ _ _ _).trans ?_
    rw [ideInsecure_session, State.session_setSession_same]
  · rintro rfl
    exact endKeys_atRest _ _

end

/-! ### TENANT_END and PART_DESTROY -/

/-- The partition that TENANT_END on ring `q` names (R396). -/
def endedPart (q : Nat) (e : List Byte) : Nat := if q = 64 then leAt e 24 1 % 16 else q - 48

/-- The field checks of TENANT_END on ring `q` (R219). -/
def tenantEndChecks (q : Nat) (e : List Byte) : List (Nat × Bool) :=
  if q = 64 then [(24, decide (leAt e 24 1 / 16 ≠ 0)), reservedBad e 25 64] else [reservedBad e 24 64]

section
variable {s : State} {q : Nat} {r : Run}

theorem exec_tenantEnd (h : s.mgmtRun q 0x83 = some r) :
    exec (.tenantEnd q) s = .next (s.mgmtDesc q (tenantEndChecks q r.entry)
      (if s.follower then malformed s q r subMachinePart 24
       else if (s.part (endedPart q r.entry)).state != .active then malformed s q r subPartState 24
       else (waits s q r [endedPart q r.entry]).startSwitch (endedPart q r.entry) (some q) false r.start)) := by
  have front := runAt_of_mgmtRun h
  rw [← mgmtMal_eq_malformed front, ← mgmtMal_eq_malformed front, ← mgmtWait_eq_waits front]
  exact mgmt_run _ _ _ _ r h

theorem exec_partDestroy (h : s.mgmtRun 64 0x81 = some r) :
    let p := leAt r.entry 24 1 % 16
    exec .partDestroy s = .next (s.mgmtDesc 64 [(24, decide (leAt r.entry 24 1 / 16 ≠ 0)), reservedBad r.entry 25 64]
      (if s.follower then malformed s 64 r subMachinePart 24
       else if (s.part p).state == .none || (s.part p).state == .clearing then malformed s 64 r subPartState 24
       else (waits s 64 r [p]).startSwitch p (some 64) true r.start)) := by
  have front := runAt_of_mgmtRun h
  dsimp only
  rw [← mgmtMal_eq_malformed front, ← mgmtMal_eq_malformed front, ← mgmtWait_eq_waits front]
  exact mgmt_run _ _ _ _ r h

end

/-! ### The end of a switch (R396 step 8, R204) -/

theorem endSwitch_eq {s : State} {p us start : Nat} {issuer : Option Nat} {destroy : Bool}
    (h : s.switchOf p = some { start := start, issuer := issuer, destroy := destroy, took := some us })
    (others : s.follower = true ∨ (s.part p).othersAre (if destroy then 0 else 1) = true) :
    let by_ := (issuer.getD noQueue, (issuer.map s.ringSeq).getD 0)
    let s1 := s.setSwitch p none
    let s2 := match issuer with
      | some q => (s1.mgmtDone q us).complete q 0
      | none => s1
    let s3 := s2.resetPartRings p
    let s4 := if destroy then (s3.releasePart p).tellPart p 0 else s3.nowCreated p by_.1 by_.2
    s.endSwitch p = s4.raiseEvent 16 0x0602 by_.1 by_.2 ([BitVec.ofNat 8 p, 0, 0, 0] ++ leBytes 4 us) := by
  have go : (!s.follower && !(s.part p).othersAre (if destroy then 0 else 1)) = false := by
    rcases others with f | o
    · rw [f]; rfl
    · rw [o, Bool.not_true, Bool.and_false]
  simp only [State.endSwitch, h, go, Bool.false_eq_true, if_false]
  cases issuer <;> rfl

theorem tellLead_ring (s : State) (q c : Nat) : (s.tellLead q).ring c = s.ring c := by
  unfold State.tellLead
  split <;> rfl

theorem forward_queue (s : State) (d : Nat) (w : Fwd) (args : List Nat) (q : Nat) : (s.forward d w args).queue q = s.queue q := rfl

theorem tellLead_reset_queue (s : State) (q j : Nat) :
    ((s.setQueue q {}).tellLead q).queue j = if j = q then {} else s.queue j := by
  unfold State.tellLead
  split
  · rw [forward_queue, State.queue_setQueue_same, State.queue_setQueue, State.queue_setQueue]
    split <;> rfl
  · exact State.queue_setQueue _ _ _ _

/-- A completion or event ring at its reset values, but for what waits for it (R204, R220). -/
def Ring.atReset (r : Ring) : Ring := { ({} : Ring) with waiting := r.waiting, generated := BitVec.ofNat 32 r.waiting.length }

theorem ring_foldl_atReset (l : List Nat) (s : State) (c : Nat) :
    (l.foldl (fun (u : State) d => u.setRing d (u.ring d).atReset) s).ring c = if c ∈ l then (s.ring c).atReset else s.ring c := by
  induction l generalizing s with
  | nil => rfl
  | cons d l ih =>
    rw [List.foldl_cons, ih, State.ring_setRing]
    by_cases e : c = d
    · subst e
      simp [Ring.atReset]
    · simp [e]

theorem ring_power (s : State) (w : Power) (c : Nat) : ({ s with power := w } : State).ring c = s.ring c := rfl
theorem queue_power (s : State) (w : Power) (q : Nat) : ({ s with power := w } : State).queue q = s.queue q := rfl

theorem foldl_tellLead_ring (l : List Nat) (s : State) (c : Nat) :
    (l.foldl (fun (u : State) q => (u.setQueue q {}).tellLead q) s).ring c = s.ring c :=
  List.foldlRecOn (motive := fun u => State.ring u c = s.ring c) l _ rfl fun u h q _ => (tellLead_ring (u.setQueue q {}) q c).trans h

/-- Set-up registers of queues go back to reset, and the machine's lead hears of it. -/
def State.queuesReset (s : State) (p : Nat) : State := (s.queuesOf p).foldl (fun u q => (u.setQueue q {}).tellLead q) s

/-- So do those of rings. -/
def State.ringsReset (s : State) (l : List Nat) : State := l.foldl (fun u d => u.setRing d (u.ring d).atReset) s

theorem resetPartRings_eq (s : State) (p : Nat) :
    ∃ w, s.resetPartRings p =
      { (s.queuesReset p).ringsReset [4 * p, 4 * p + 1, 4 * p + 2, 4 * p + 3, evRing p] with power := w } := ⟨_, rfl⟩

/-- The rings of the partition, and no others, are reset. -/
theorem resetPartRings_ring (s : State) (p c : Nat) :
    (s.resetPartRings p).ring c =
      if c ∈ [4 * p, 4 * p + 1, 4 * p + 2, 4 * p + 3, evRing p] then (s.ring c).atReset else s.ring c := by
  obtain ⟨w, e⟩ := resetPartRings_eq s p
  rw [e, ring_power, State.ringsReset, ring_foldl_atReset, State.queuesReset, foldl_tellLead_ring]

theorem foldl_reset_queue (l : List Nat) (s : State) (q : Nat) (h : q ∈ l ∨ s.queue q = {}) :
    (l.foldl (fun (u : State) j => (u.setQueue j {}).tellLead j) s).queue q = {} := by
  induction l generalizing s with
  | nil => exact h.resolve_left (List.not_mem_nil)
  | cons j l ih =>
    refine ih _ ?_
    rw [tellLead_reset_queue]
    by_cases e : q = j
    · exact .inr (if_pos e)
    · rw [if_neg e]
      simpa [e] using h

theorem queueOwner_lt {s : State} {q p : Nat} (h : s.queueOwner q = some p) : q < 64 := by
  unfold State.queueOwner at h
  split at h
  · omega
  · split at h
    · assumption
    · cases h

/-- So are its queues (R204). -/
theorem resetPartRings_queue {s : State} {p q : Nat} (h : s.queueOwner q = some p) : (s.resetPartRings p).queue q = {} := by
  have mem : q ∈ s.queuesOf p := List.mem_filter.mpr ⟨List.mem_range.mpr (queueOwner_lt h), decide_eq_true h⟩
  obtain ⟨w, e⟩ := resetPartRings_eq s p
  have rings (l : List Nat) (u : State) : (u.ringsReset l).queue q = u.queue q :=
    List.foldlRecOn (motive := fun (v : State) => v.queue q = u.queue q) l _ rfl fun _ h _ _ => h
  rw [e, queue_power, rings, State.queuesReset, foldl_reset_queue _ s q (.inl mem)]

theorem part_ports (s : State) (k : Table Port) (p : Nat) : ({ s with ports := k } : State).part p = s.part p := rfl
theorem owner_ports (s : State) (k : Table Port) (g : Nat) : ({ s with ports := k } : State).owner g = s.owner g := rfl

theorem tellPart_ports (s : State) (p code : Nat) : ∃ k, s.tellPart p code = { s with ports := k } := by
  unfold State.tellPart
  refine List.foldlRecOn (motive := fun (u : State) => ∃ k, u = { s with ports := k }) _ _ ⟨s.ports, rfl⟩ ?_
  rintro _ ⟨k, rfl⟩ d -
  exact ⟨_, rfl⟩

theorem returnPins_gpio (s : State) (p : Nat) : ∃ g, s.returnPins p = { s with gpio := g } := by
  unfold State.returnPins
  refine List.foldlRecOn (motive := fun (u : State) => ∃ g, u = { s with gpio := g }) _ _ ⟨s.gpio, rfl⟩ ?_
  rintro _ ⟨g, rfl⟩ k -
  split <;> exact ⟨_, rfl⟩

theorem owner_foldl_setOwner (l : List Nat) (v : Nat) (s : State) (g : Nat) :
    (l.foldl (fun (u : State) k => u.setOwner k v) s).owner g = if g ∈ l then v else s.owner g := by
  induction l generalizing s with
  | nil => rfl
  | cons k l ih =>
    rw [List.foldl_cons, ih, State.owner_setOwner]
    by_cases e : g = k <;> simp [e]

/-- A destroyed partition is NONE and owns nothing (R378). -/
theorem releasePart_facts (s : State) {p : Nat} (hp : p < 16) :
    let t := s.releasePart p
    (t.part p).state = .none ∧ (t.part p).islets = 0 ∧ ∀ g, g < 192 → t.owner g ≠ p := by
  obtain ⟨v, e⟩ := returnPins_gpio s p
  simp only [State.releasePart]
  rw [e]
  refine ⟨by rw [State.part_setPart_same], by rw [State.part_setPart_same], fun g hg => ?_⟩
  rw [State.setPart_owner, owner_foldl_setOwner]
  split
  · omega
  · next out =>
    intro own
    exact out (List.mem_filter.mpr ⟨List.mem_range.mpr hg, decide_eq_true own⟩)

/-! ### Resets of a function (R382, R393, R48) -/

/-- What VF_FLR ends for its function: configuration, session and IDE stream. -/
def State.vfReset (s : State) (fn : Nat) : State :=
  ({ (s.resetConfig fn).setSession fn {} with ideOn := Table.set false s.ideOn fn false } : State).ideInsecure fn

theorem exec_vfFlr_main {s : State} {fn : Nat} (low : 1 ≤ fn) (high : fn ≤ 16) (main : s.die = 0) :
    exec (.vfFlr fn) s = .next (if (s.part (fn - 1)).state = .active then (s.vfReset fn).startSwitch (fn - 1) none false s.time
      else s.vfReset fn) := by
  have vf : ¬ (fn = 0 ∨ 16 < fn ∨ s.die ≠ 0) := by omega
  have same : ((s.vfReset fn).part (fn - 1)).state = (s.part (fn - 1)).state := by
    rw [State.vfReset, ideInsecure_part, if_pos rfl]
    rfl
  refine (if_neg vf).trans (congrArg Host.Outcome.next ?_)
  rw [← same]
  exact ite_congr (propext beq_iff_eq) (fun _ => rfl) (fun _ => rfl)

/-- The PF's configuration, and the operator ring and its two rings at reset (R382). -/
def State.pfRingsReset (s : State) : State :=
  let v := s.ring (evRing 16)
  let t := (s.resetConfig 0).setQueue 64 { ({} : Queue) with run := (s.queue 64).run }
  (t.setRing 64 (s.ring 64).atReset).setRing (evRing 16)
    { ({} : Ring) with raised := v.raised, coalesced := v.coalesced, written := v.written, since := v.since, classes := v.classes }

/-- What PF_FLR resets, before anything that was held goes out. -/
def State.pfReset (s : State) : State :=
  { s.pfRingsReset.setSession 0 {} with power := { s.power with d3hot := false } }

theorem exec_pfFlr_main {s : State} (main : s.die = 0) : exec .pfFlr s = .next s.pfReset.releaseHeld := by
  have lead : ¬ (s.resetConfig 0).die ≠ 0 := not_not.mpr main
  change execPfFlr s = _
  unfold execPfFlr
  rw [if_neg lead]
  rfl

@[simp] theorem resetConfig_queue (s : State) (fn q : Nat) : (s.resetConfig fn).queue q = s.queue q := rfl
@[simp] theorem resetConfig_ring (s : State) (fn c : Nat) : (s.resetConfig fn).ring c = s.ring c := rfl

theorem pfReset_queue (s : State) (q : Nat) :
    s.pfReset.queue q = if q = 64 then { ({} : Queue) with run := (s.queue 64).run } else s.queue q := by
  change s.pfRingsReset.queue q = _
  simp [State.pfRingsReset, State.queue_setQueue]

theorem pfReset_ring (s : State) {c : Nat} (h : c ≠ evRing 16) :
    s.pfReset.ring c = if c = 64 then (s.ring 64).atReset else s.ring c := by
  change s.pfRingsReset.ring c = _
  simp [State.pfRingsReset, State.ring_setRing, h]

theorem pfReset_events (s : State) :
    s.pfReset.ring (evRing 16) =
      { ({} : Ring) with raised := (s.ring (evRing 16)).raised, coalesced := (s.ring (evRing 16)).coalesced,
                         written := (s.ring (evRing 16)).written, since := (s.ring (evRing 16)).since,
                         classes := (s.ring (evRing 16)).classes } := by
  change s.pfRingsReset.ring (evRing 16) = _
  simp [State.pfRingsReset]

theorem pfReset_session (s : State) : s.pfReset.session 0 = {} := State.session_setSession_same s.pfRingsReset 0 {}

theorem pfReset_config (s : State) : s.pfReset.config 0 = {} := Table.get_set_same (α := Pcie) {} s.pcie 0 {}

theorem pfReset_rest (s : State) :
    s.pfReset.power.d3hot = false ∧ s.pfReset.parts = s.parts ∧ s.pfReset.hbm = s.hbm ∧ s.pfReset.scratch = s.scratch ∧
      s.pfReset.ports = s.ports := by
  refine ⟨rfl, ?_, ?_, ?_, ?_⟩ <;> simp [State.pfReset, State.pfRingsReset, State.resetConfig]

/-! ### The statement -/

/-- Settles O38: what a switch stops keeps the partition CLEARING, `State.tenantGone` and `State.resetPartRings` do the rest, and each
row is its case of the model. -/
theorem tenantSwitch : Obligations.TenantSwitch := by
  refine ⟨fun s => ⟨fun q r h => ?tenantEnd, fun r h => ?partDestroy,
    fun fn low high => ⟨fun aux => if_pos (.inr (.inr aux)), fun main => ?vfFlr⟩,
    fun p issuer destroy start => ?started⟩, fun s p us start issuer destroy hp h others => ?ended,
    fun s => ⟨fun aux => if_pos aux, fun main => ?pfFlr⟩⟩
  case tenantEnd =>
    have row := exec_tenantEnd h
    have front := runAt_of_mgmtRun h
    refine ⟨fun o bad => ?_, fun clean => ?_⟩
    · rw [row, mgmtDesc_fail (checks := tenantEndChecks q r.entry) _ _ _ _ bad, mgmtMal_eq_malformed front]
    · rw [row, mgmtDesc_clean (checks := tenantEndChecks q r.entry) clean]
      refine ⟨fun f => by rw [if_pos f], fun f => ⟨fun st => ?_, fun st => ?_⟩⟩
      · rw [if_neg (ne_true_of_eq_false f), if_pos ((bne_iff_ne (a := (s.part (endedPart q r.entry)).state)).mpr st)]
      · rw [if_neg (ne_true_of_eq_false f), if_neg (by simpa [endedPart] using st)]
        rfl
  case partDestroy =>
    have row := exec_partDestroy h
    have front := runAt_of_mgmtRun h
    refine ⟨fun o bad => ?_, fun clean => ?_⟩
    · rw [row, mgmtDesc_fail _ _ _ _ _ bad, mgmtMal_eq_malformed front]
    · rw [row, mgmtDesc_clean clean]
      refine ⟨fun f => by rw [if_pos f], fun f => ⟨fun st => ?_, fun st => ?_⟩⟩
      · rw [if_neg (ne_true_of_eq_false f), if_pos (by simpa using st)]
      · rw [if_neg (ne_true_of_eq_false f), if_neg (by rcases st with e | e <;> simp [e])]
  case vfFlr =>
    refine ⟨Table.get_set_same (α := Pcie) {} s.pcie fn {}, ?_, ?_, exec_vfFlr_main low high main⟩
    · exact (ideInsecure_session _ _ _).trans (State.session_setSession_same (s.resetConfig fn) fn {})
    · rw [ideInsecure_part, if_pos rfl]
  case started =>
    obtain ⟨u, gs, clearing, e⟩ := startSwitch_eq s p issuer destroy start
    obtain ⟨part, session, content, atRest⟩ := tenantGone_facts u p destroy gs clearing
    dsimp only
    rw [e]
    refine ⟨fun k => ?_, fun w => ?_, ?_, ?_, ?_, ?_, session, content, atRest⟩
    · rw [State.cue, part]
      rfl
    · rw [State.win, part]
      rfl
    · rw [part]
    · rw [part]
      rfl
    · rw [part]
      rfl
    · rw [part]
  case ended =>
    refine ⟨endSwitch_eq h others, fun q own => resetPartRings_queue own, fun j hj => ?_, ?_, ?_, ?_⟩
    · rw [resetPartRings_ring, if_pos (by simp; omega)]
      rfl
    · rw [resetPartRings_ring, if_pos (by simp)]
      rfl
    · rw [resetPartRings_ring, if_pos (by simp)]
      rfl
    · rintro rfl
      dsimp only
      rw [if_pos rfl]
      obtain ⟨k, e⟩ := tellPart_ports (State.releasePart _ p) p 0
      rw [e, part_ports]
      simp only [owner_ports]
      exact releasePart_facts _ hp
  case pfFlr =>
    refine ⟨_, s.pfReset, exec_pfFlr_main main, rfl, ?_⟩
    obtain ⟨d3hot, rest⟩ := pfReset_rest s
    refine ⟨(pfReset_queue s 64).trans (if_pos rfl), (pfReset_ring s (by decide)).trans (if_pos rfl), ?_⟩
    rw [pfReset_events]
    exact ⟨rfl, rfl, rfl, pfReset_session s, d3hot, pfReset_config s, fun q hq => (pfReset_queue s q).trans (if_neg hq),
      fun c hc he => (pfReset_ring s he).trans (if_neg hc), rest⟩

end Sys2Proof.Machine
end

section
/-! PROOF. RAND_GET, MACHINE_JOIN, SCRUB_CONFIG, EXPORT_SEAL, GPIO_OWN and WEIGHT_LOAD, and the statement about them (O46). -/

namespace Sys2Proof.Machine

open Sys2Proof.Claims

theorem clean_cons {c : Nat × Bool} {l : List (Nat × Bool)} : Clean (c :: l) ↔ c.2 = false ∧ Clean l := List.forall_mem_cons

theorem clean_nil : Clean [] := List.forall_mem_nil _

theorem toHost_runAt (s : State) (q : Nat) (o : Out) (c i : Nat) : (s.toHost q o).runAt c i = s.runAt c i := by
  unfold State.toHost
  repeat' split
  all_goals rfl

theorem freeTaken_runAt (s : State) (q i : Nat) : s.freeTaken.runAt q i = s.runAt q i := rfl

section
variable {s : State} {q : Nat} {r : Run}

/-- Bytes of host memory that have come are given to the command that asked for them. -/
theorem needHost_got {i a n off : Nat} {f : List Byte → State} {l : List Byte} (h : hostGot r a n = some l) :
    s.needHost q r i a n off f = f l := by
  rw [State.needHost, h]

/-! ### RAND_GET (R367, R371) -/

theorem exec_randGet (h : s.mgmtRun q 0x97 = some r) (low : 1 ≤ leAt r.entry 32 4) (high : leAt r.entry 32 4 ≤ 4096)
    (rest : (reservedBad r.entry 36 64).2 = false) :
    exec (.randGet q) s = .next (if !s.mgt.trngReady then s.mgmtEnd q stNotReady 0
      else ((s.toHost q (.hostWrite (ringOwnerFn q) (leAt r.entry 24 8) (s.random (leAt r.entry 32 4)))).freeTaken).mgmtDone q
        (leAt r.entry 32 4)) := by
  refine (mgmt_run _ _ _ _ r h).trans (congrArg _ (mgmtDesc_clean ?_ _))
  refine clean_cons.mpr ⟨?_, clean_cons.mpr ⟨rest, clean_nil⟩⟩
  simp
  omega

/-! ### MACHINE_JOIN (R46) -/

/-- A die that is not in a machine, or leads it, tells nobody of its queues. -/
theorem tellLead_of_not_follower {u : State} (h : u.follower = false) (q : Nat) : u.tellLead q = u := by
  simp [State.tellLead, h]

end

/-- The die has joined a machine, and has told nobody yet (R46). -/
def State.inMachine (s : State) (mask : BitVec 64) (dies : List RemoteDie) : State :=
  { s with mgt := { s.mgt with machineMode := true, machineLead := decide (s.die = 0), machineMask := mask },
           remotes := dies.foldl (fun t d => if mask.getLsbD d.die then Table.set none t d.die (some d) else t) s.remotes }

/-- The queues that a die of a machine tells its lead of. -/
def State.enabledQueues (s : State) : List Nat := (List.range 65).filter (fun q => (s.queue q).enable)

/-- The state of a partition is told to the other dies. -/
def State.tellState (s : State) (p : Nat) : State := s.tellPart p (s.part p).state.code

theorem joined_eq (s : State) (mask : BitVec 64) (dies : List RemoteDie) :
    s.joined mask dies =
      (let u := (s.inMachine mask dies).enabledQueues.foldl State.tellLead (s.inMachine mask dies)
       ((List.range 16).filter (fun p => (u.part p).state != .none)).foldl State.tellState u) := rfl

theorem tellLead_mgt (s : State) (q : Nat) : (s.tellLead q).mgt = s.mgt := by
  unfold State.tellLead
  split <;> rfl

theorem mgt_ports (s : State) (k : Table Port) : ({ s with ports := k } : State).mgt = s.mgt := rfl
theorem runAt_ports (s : State) (k : Table Port) (q i : Nat) : ({ s with ports := k } : State).runAt q i = s.runAt q i := rfl

theorem tellState_mgt (s : State) (p : Nat) : (s.tellState p).mgt = s.mgt := by
  obtain ⟨k, e⟩ := tellPart_ports s p (s.part p).state.code
  rw [State.tellState, e, mgt_ports]

theorem tellState_runAt (s : State) (p q i : Nat) : (s.tellState p).runAt q i = s.runAt q i := by
  obtain ⟨k, e⟩ := tellPart_ports s p (s.part p).state.code
  rw [State.tellState, e, runAt_ports]

/-- An accessor that no step of a fold changes. -/
theorem foldl_keeps {α β : Type} (g : State → β) (f : State → α → State) (h : ∀ s x, g (f s x) = g s) (l : List α) (s : State) :
    g (l.foldl f s) = g s :=
  List.foldlRecOn (motive := fun u => g u = g s) l f rfl fun u e x _ => (h u x).trans e

/-- What the machine is, on a die that has joined it (R46). -/
theorem joined_mgt (s : State) (mask : BitVec 64) (dies : List RemoteDie) :
    (s.joined mask dies).mgt = { s.mgt with machineMode := true, machineLead := decide (s.die = 0), machineMask := mask } := by
  rw [joined_eq]
  dsimp only
  rw [foldl_keeps State.mgt _ tellState_mgt, foldl_keeps State.mgt _ tellLead_mgt]
  rfl

theorem foldl_tellLead_of_not_follower {u : State} (h : u.follower = false) (l : List Nat) : l.foldl State.tellLead u = u :=
  List.foldlRecOn (motive := fun v => v = u) l _ rfl fun _ e q _ => e ▸ tellLead_of_not_follower h q

/-- The lead goes on with what its rings run. -/
theorem joined_runAt {s : State} (main : s.die = 0) (mask : BitVec 64) (dies : List RemoteDie) (q i : Nat) :
    (s.joined mask dies).runAt q i = s.runAt q i := by
  have lead : (s.inMachine mask dies).follower = false := by simp [State.follower, State.inMachine, main]
  rw [joined_eq]
  dsimp only
  rw [foldl_keeps (State.runAt · q i) _ (tellState_runAt · · q i), foldl_tellLead_of_not_follower lead]
  rfl

/-- Which die of a machine fails (R46): die 0 where it is not there or this die is another, else the lowest that `State.joinFails`. -/
def State.joinBad (s : State) (mask : BitVec 64) (dies : List RemoteDie) : Option Nat :=
  if !mask.getLsbD 0 || decide (s.die ≠ 0) then some 0
  else (List.range 64).find? (fun d => mask.getLsbD d && s.joinFails dies d)

section
variable {s : State} {r : Run} {dies : List RemoteDie}

theorem joinBad_outside {mask : BitVec 64} (h : s.die ≠ 0 ∨ mask.getLsbD 0 = false) : s.joinBad mask dies = some 0 := by
  refine if_pos ?_
  rcases h with h | h
  · simp [h]
  · rw [h]
    rfl

theorem joinBad_inside {mask : BitVec 64} (main : s.die = 0) (named : mask.getLsbD 0 = true) :
    s.joinBad mask dies = (List.range 64).find? (fun d => mask.getLsbD d && s.joinFails dies d) :=
  if_neg (by simp [main, named])

/-- The first die that fails its check is the one that is named (R46). -/
theorem joinBad_first {mask : BitVec 64} (main : s.die = 0) (inside : mask.getLsbD 0 = true) {d : Nat} (hd : d < 64)
    (named : mask.getLsbD d = true) (fails : s.joinFails dies d = true)
    (least : ∀ k, k < d → mask.getLsbD k = true → s.joinFails dies k = false) : s.joinBad mask dies = some d := by
  rw [joinBad_inside main inside, List.find?_range_eq_some]
  refine ⟨by rw [named, fails]; rfl, List.mem_range.mpr hd, fun k hk => ?_⟩
  cases on : mask.getLsbD k with
  | false => rfl
  | true =>
    rw [least k hk on]
    rfl

theorem joinBad_none {mask : BitVec 64} (main : s.die = 0) (inside : mask.getLsbD 0 = true)
    (good : ∀ d, d < 64 → mask.getLsbD d = true → s.joinFails dies d = false) : s.joinBad mask dies = none := by
  rw [joinBad_inside main inside, List.find?_eq_none]
  intro d hd both
  obtain ⟨named, fails⟩ := Bool.and_eq_true_iff.mp both
  exact Bool.false_ne_true ((good d (List.mem_range.mp hd) named).symm.trans fails)

/-- The other dies of a machine are told of it, and this die joins it. -/
def State.joinAll (s : State) (mask : BitVec 64) (dies : List RemoteDie) : State :=
  (((List.range 64).filter (fun d => mask.getLsbD d && decide (d ≠ s.die))).foldl (fun u d => u.forward d .join (joinArgs mask dies)) s).joined
    mask dies

theorem exec_machineJoin (h : s.mgmtRun 64 0x98 = some r) (rest : (reservedBad r.entry 32 64).2 = false) :
    let mask := BitVec.ofNat 64 (leAt r.entry 24 8)
    exec (.machineJoin dies) s = .next (match s.joinBad mask dies with
      | some d => s.mgmtMal 64 subJoin d
      | none => (s.joinAll mask dies).mgmtDone 64 0) :=
  (mgmt_run _ _ _ _ r h).trans (congrArg _ (mgmtDesc_clean (clean_cons.mpr ⟨rest, clean_nil⟩) _))

theorem foldl_forward_ports (l : List Nat) (s : State) (w : Fwd) (args : List Nat) :
    ∃ k, l.foldl (fun u d => u.forward d w args) s = { s with ports := k } := by
  refine List.foldlRecOn (motive := fun (u : State) => ∃ k, u = { s with ports := k }) l _ ⟨s.ports, rfl⟩ ?_
  rintro _ ⟨k, rfl⟩ d -
  exact ⟨_, rfl⟩

theorem die_ports (s : State) (k : Table Port) : ({ s with ports := k } : State).die = s.die := rfl

theorem joinAll_runAt (main : s.die = 0) (mask : BitVec 64) (q i : Nat) : (s.joinAll mask dies).runAt q i = s.runAt q i := by
  unfold State.joinAll
  obtain ⟨k, e⟩ := foldl_forward_ports ((List.range 64).filter (fun d => mask.getLsbD d && decide (d ≠ s.die))) s .join (joinArgs mask dies)
  rw [e, joined_runAt (by rw [die_ports, main]), runAt_ports]

theorem joinAll_mgt (main : s.die = 0) (mask : BitVec 64) :
    (s.joinAll mask dies).mgt = { s.mgt with machineMode := true, machineLead := true, machineMask := mask } := by
  unfold State.joinAll
  obtain ⟨k, e⟩ := foldl_forward_ports ((List.range 64).filter (fun d => mask.getLsbD d && decide (d ≠ s.die))) s .join (joinArgs mask dies)
  rw [e, joined_mgt, die_ports, main]
  rfl

end

/-! ### SCRUB_CONFIG (R462) -/

/-- The settings of scrubbing that an entry gives (R462). -/
def Upkeep.scrubSet (u : Upkeep) (e : List Byte) : Upkeep :=
  { u with hbmEn := bit (leAt e 24 1) 0, spEn := bit (leAt e 24 1) 1, hbmPassS := BitVec.ofNat 17 (leAt e 28 4),
           spPassMs := BitVec.ofNat 16 (leAt e 32 4) }

section
variable {s : State} {q : Nat} {r : Run}

theorem exec_scrubConfig (h : s.mgmtRun 64 0x99 = some r) (enables : leAt r.entry 24 1 / 4 = 0)
    (gap : (reservedBad r.entry 25 28).2 = false) (sLow : 4 ≤ leAt r.entry 28 4) (sHigh : leAt r.entry 28 4 ≤ 86400)
    (msLow : 10 ≤ leAt r.entry 32 4) (msHigh : leAt r.entry 32 4 ≤ 60000) (rest : (reservedBad r.entry 36 64).2 = false) :
    exec .scrubConfig s = .next (ended { s with up := s.up.scrubSet r.entry } 64 r stDone 0) := by
  have checks : Clean [(24, decide (leAt r.entry 24 1 / 4 ≠ 0)), reservedBad r.entry 25 28,
      (28, decide (leAt r.entry 28 4 < 4) || decide (86400 < leAt r.entry 28 4)),
      (32, decide (leAt r.entry 32 4 < 10) || decide (60000 < leAt r.entry 32 4)), reservedBad r.entry 36 64] := by
    simp only [clean_cons, clean_nil, gap, rest, enables]
    simp
    omega
  refine (mgmt_run _ _ _ _ r h).trans (congrArg _ ((mgmtDesc_clean checks _).trans ?_))
  exact mgmtDone_eq_ended (s := { s with up := s.up.scrubSet r.entry }) (runAt_of_mgmtRun h) 0

/-! ### EXPORT_SEAL (R368) -/

/-- EXPORT_SEAL once the exporter's key has come. -/
theorem exec_exportSeal (h : s.mgmtRun q 0x9A = some r) {key : List Byte} (got : hostGot r (leAt r.entry 48 8) 96 = some key)
    (low : 1 ≤ leAt r.entry 40 8) (high : leAt r.entry 40 8 < 2 ^ 32) :
    let e := r.entry
    let src := leAt e 24 8
    let len := leAt e 40 8
    exec (.exportSeal q) s = .next (match pointOf key with
      | none => s.mgmtMal q subKeyPoint 48
      | some z =>
        if !s.ownsHbm (q - 48) src len || s.touchesFrozen src len then s.mgmtRefuse q 0x0E
        else if !s.mgt.trngReady || !s.runReady src len then s
        else
          let x := s.readHbm .lagoon src len
          match x.bad with
          | some b => (x.s.poisonEvent (q - 48) q (eSeq e) (s.relAddr (q - 48) b) 0xFF).mgmtEnd q stPoison (s.relAddr (q - 48) b)
          | none =>
            let l := x.s.exportBytes e z key x.bytes
            ((x.s.toHost q (.hostWrite (ringOwnerFn q) (leAt e 32 8) l)).freeTaken).mgmtDone q l.length) := by
  have checks : Clean [(40, leAt r.entry 40 8 == 0 || decide (2 ^ 32 ≤ leAt r.entry 40 8))] := by
    refine clean_cons.mpr ⟨?_, clean_nil⟩
    simp
    omega
  exact (mgmt_run _ _ _ _ r h).trans (congrArg _ ((mgmtDesc_clean checks _).trans (needHost_got got)))

/-! ### GPIO_OWN (R483, R484) -/

/-- The pins that an entry names (R483). -/
def namedPins (e : List Byte) : List Nat := (List.range 24).filter (fun k => bit (leAt e 24 4) k)

theorem exec_gpioOwn (h : s.mgmtRun 64 0x94 = some r) (some_ : leAt r.entry 24 4 % 2 ^ 24 ≠ 0) (top : leAt r.entry 24 4 / 2 ^ 24 = 0)
    (owner : leAt r.entry 28 1 = 0 ∨ 0x10 ≤ leAt r.entry 28 1 ∧ leAt r.entry 28 1 < 0x20)
    (rest : (reservedBad r.entry 29 64).2 = false)
    (free : ∀ k, k ∈ namedPins r.entry → (s.pin k).owner ≠ 1 ∧
      (0x10 ≤ leAt r.entry 28 1 → 8 ≤ k ∧ (s.isletOwner (leAt r.entry 28 1 - 0x10)).isSome = true) ∧
      (k < 8 → s.power.wakePins.getLsbD k = false)) :
    let o := leAt r.entry 28 1
    let ch := (namedPins r.entry).filter (fun k => (s.pin k).owner != BitVec.ofNat 8 o)
    exec .gpioOwn s =
      .next ((ch.foldl (fun u k => (u.resetPin k).setPin k { (u.resetPin k).pin k with owner := BitVec.ofNat 8 o }) s).mgmtDone 64 ch.length) := by
  have checks : Clean [(24, decide (leAt r.entry 24 4 % 2 ^ 24 = 0)), (27, decide (leAt r.entry 24 4 / 2 ^ 24 ≠ 0)),
      (28, !(leAt r.entry 28 1 == 0 || decide (0x10 ≤ leAt r.entry 28 1 ∧ leAt r.entry 28 1 < 0x20))), reservedBad r.entry 29 64] := by
    simp only [clean_cons, clean_nil, rest, some_, top]
    simpa [or_iff_not_imp_left] using owner
  have wrong : (namedPins r.entry).find? (fun k => (decide (k < 8) && decide (0x10 ≤ leAt r.entry 28 1)) ||
      (decide (0x10 ≤ leAt r.entry 28 1) && (s.isletOwner (leAt r.entry 28 1 - 0x10)).isNone) || (s.pin k).owner == ownGoose) = none := by
    refine List.find?_eq_none.mpr fun k hk => ?_
    obtain ⟨notGoose, islet, -⟩ := free k hk
    have notGoose : (s.pin k).owner ≠ ownGoose := notGoose
    by_cases high : 0x10 ≤ leAt r.entry 28 1
    · obtain ⟨low, owned⟩ := islet high
      simp [high, notGoose, Nat.not_lt.mpr low, Option.isSome_iff_ne_none.mp owned]
    · simp [high, notGoose]
  have armed : (namedPins r.entry).find? (fun k => decide (k < 8) && s.power.wakePins.getLsbD k) = none := by
    refine List.find?_eq_none.mpr fun k hk => ?_
    obtain ⟨-, -, unarmed⟩ := free k hk
    by_cases low : k < 8
    · rw [unarmed low, Bool.and_false]
      exact Bool.false_ne_true
    · simp [low]
  refine (mgmt_run _ _ _ _ r h).trans (congrArg _ ((mgmtDesc_clean checks _).trans ?_))
  unfold namedPins at wrong armed
  rw [wrong, armed]
  rfl

/-! ### WEIGHT_LOAD (R366, R372) -/

/-- The entries of a package that are wrapped for this die (R366). -/
def State.ownWraps (s : State) (ents : List Byte) : List (List Byte) :=
  (chunks 160 ents).filter (fun w => leAt w 0 8 == s.fuses.serial.toNat)

theorem packageKey_eq (s : State) (header ents : List Byte) :
    s.packageKey header ents = match (s.ownWraps ents).map (s.unwrap header) with
      | some k :: _ =>
        if ecdsaVerify (slice header 48 96) (sha384 (slice header 0 144 ++ ents)) (slice header 144 96) &&
          ((s.ownWraps ents).map (s.unwrap header)).all (fun x => x == some k) && slice (sha (textKcv ++ k)) 0 16 == slice header 32 16
        then some k else none
      | _ => none := rfl

/-- The key that a package gives this die (R366): all its entries for this die unwrap to it, its check value is right, and the header is
signed. -/
theorem packageKey_eq_some {header ents k : List Byte} :
    s.packageKey header ents = some k ↔
      s.ownWraps ents ≠ [] ∧ (∀ w, w ∈ s.ownWraps ents → s.unwrap header w = some k) ∧
        slice (sha (textKcv ++ k)) 0 16 = slice header 32 16 ∧
        ecdsaVerify (slice header 48 96) (sha384 (slice header 0 144 ++ ents)) (slice header 144 96) = true := by
  rw [packageKey_eq]
  cases s.ownWraps ents with
  | nil => simp
  | cons w l =>
    cases first : s.unwrap header w with
    | none => simp [first]
    | some x =>
      simp only [List.map_cons, first, List.all_cons, List.all_map, beq_self_eq_true, Bool.true_and, Option.ite_none_right_eq_some,
        Option.some.injEq, Bool.and_eq_true, List.all_eq_true, Function.comp_apply, beq_iff_eq, ne_eq, reduceCtorEq, not_false_eq_true,
        List.mem_cons, forall_eq_or_imp, true_and]
      constructor
      · rintro ⟨⟨⟨signed, same⟩, check⟩, rfl⟩
        exact ⟨⟨rfl, same⟩, check, signed⟩
      · rintro ⟨⟨rfl, same⟩, check, signed⟩
        exact ⟨⟨⟨signed, same⟩, check⟩, rfl⟩

/-- An open window on HBM overlaps where a package is to go (R372). -/
def State.packageOverlaps (s : State) (p dst body : Nat) : Bool :=
  (List.range 16).any (fun w => (s.win p w).isOpen && !(s.win p w).scratch && decide ((s.win p w).base.toNat < dst + body) &&
    decide (dst < (s.win p w).base.toNat + (s.win p w).size.toNat))

theorem packageOverlaps_eq_false {p dst body : Nat}
    (apart : ∀ w, w < 16 → (s.win p w).isOpen = true → (s.win p w).scratch = false →
      (s.win p w).base.toNat + (s.win p w).size.toNat ≤ dst ∨ dst + body ≤ (s.win p w).base.toNat) :
    s.packageOverlaps p dst body = false := by
  refine List.any_eq_false.mpr fun w hw => ?_
  simp only [Bool.and_eq_true, Bool.not_eq_true', decide_eq_true_eq, not_and, Nat.not_lt]
  rintro ⟨⟨isOpen, hbm⟩, below⟩
  have := apart w (List.mem_range.mp hw) isOpen hbm
  omega

/-- WEIGHT_LOAD once header and entries have come and pass their checks. -/
theorem exec_weightLoad (h : s.mgmtRun q 0x8B = some r) {header ents : List Byte} (src : leAt r.entry 24 8 % 64 = 0)
    (dst : leAt r.entry 32 8 % 0x200000 = 0) (rest : (reservedBad r.entry 48 64).2 = false)
    (got : hostGot r (leAt r.entry 24 8) 256 = some header) (good : packageHeaderBad header (leAt r.entry 40 8) = none)
    (gotEnts : hostGot r (leAt r.entry 24 8 + 256) (160 * leAt header 6 2) = some ents) (wraps : wrapsBad (leAt header 6 2) ents = false)
    (again : (s.part (q - 48)).loaded = true →
      (s.part (q - 48)).pkgId.toNat = leAt header 8 8 ∧ (s.part (q - 48)).pkgDst.toNat = leAt r.entry 32 8)
    (apart : s.packageOverlaps (q - 48) (leAt r.entry 32 8) (leAt header 16 8) = false) :
    exec (.weightLoad q) s = .next (match s.packageKey header ents with
      | some k =>
        if s.ownsHbm (q - 48) (leAt r.entry 32 8) ((leAt header 16 8 + 0x1FFFFF) / 0x200000 * 0x200000) then
          ((s.setContent (q - 48) k).mgmtWait q [leAt r.entry 32 8, leAt header 16 8, leAt r.entry 32 8]).askChunk q r.entry
            (leAt header 6 2) (leAt header 16 8) 0
        else s.mgmtRefuse q 0x08
      | none => s.mgmtRefuse q 0x08) := by
  have checks : Clean [(24, decide (leAt r.entry 24 8 % 64 ≠ 0)), (32, decide (leAt r.entry 32 8 % 0x200000 ≠ 0)),
      reservedBad r.entry 48 64] := by
    simp [clean_cons, clean_nil, rest, src, dst]
  refine (mgmt_run _ _ _ _ r h).trans (congrArg _ ((mgmtDesc_clean checks _).trans ((needHost_got got).trans ?_)))
  rw [good]
  refine (needHost_got gotEnts).trans ?_
  have id : ((s.part (q - 48)).loaded && decide ((s.part (q - 48)).pkgId.toNat ≠ leAt header 8 8)) = false := by
    cases l : (s.part (q - 48)).loaded
    · rfl
    · simp [(again l).1]
  have place : ((s.part (q - 48)).loaded && decide ((s.part (q - 48)).pkgDst.toNat ≠ leAt r.entry 32 8)) = false := by
    cases l : (s.part (q - 48)).loaded
    · rfl
    · simp [(again l).2]
  refine (if_neg (ne_true_of_eq_false wraps)).trans ((if_neg (ne_true_of_eq_false id)).trans ?_)
  exact (if_neg (ne_true_of_eq_false place)).trans (if_neg (ne_true_of_eq_false apart))

/-! ### The chunks of WEIGHT_LOAD (R366) -/

theorem exec_weightLoadChunk_failed (h : s.mgmtBusy q 0x8B = some r) {dst body done sub detail : Nat}
    (aux : r.aux = [dst, body, done, sub, detail]) : exec (.weightLoadChunk q) s = .next (s.loadFailed q r sub detail) := by
  change execWeightLoadChunk q s = _
  simp only [execWeightLoadChunk, h, aux, List.drop_succ_cons, List.drop_zero]

/-- A chunk of a package that loads, once it has come. -/
theorem exec_weightLoadChunk_got (h : s.mgmtBusy q 0x8B = some r) {dst body done : Nat} {header l : List Byte}
    (aux : r.aux = [dst, body, done]) (got : hostGot r (leAt r.entry 24 8) 256 = some header) :
    let e := r.entry
    let c := (done - dst) / 65536
    let n := leAt header 6 2
    let span := chunkAt e n body c
    let len := span.2 - 16
    hostGot r span.1 span.2 = some l →
    exec (.weightLoadChunk q) s =
      match gcmOpen (Table.get [] s.store.content (q - 48)) (slice header 24 8 ++ leBytes 4 c) (slice header 8 8 ++ leBytes 4 c)
        (slice l 0 len) (slice l len 16) with
      | none => .next (s.loadFailed q r subBodyAuth c)
      | some plain =>
        let data := slice plain 0 ((len + 31) / 32 * 32)
        if !s.runReady done data.length then .next s
        else
          let t := ((s.freeze (frameOf done)).writeRaw done data.length data).mgmtWait q [dst, body, done + len]
          if done + len < dst + body then .next (t.askChunk q e n body (c + 1))
          else
            let ents := (hostGot r (leAt e 24 8 + 256) (160 * n)).getD []
            .next (((t.packageLoaded (q - 48) dst body header ents).mgmtDone q (loadedFrames body)).reevaluate) := by
  intro e c n span len gotChunk
  change execWeightLoadChunk q s = _
  simp only [execWeightLoadChunk, h, aux, got, List.getD_cons_zero, List.getD_cons_succ, List.drop_succ_cons, List.drop_nil,
    Option.getD_some]
  simp only [n, span, c, e] at gotChunk
  rw [gotChunk]
  rfl

theorem frozen_setFrozen (u : State) (f : Nat) :
    Table.get false ({ u with frozen := Table.set false u.frozen f true } : State).frozen f = true :=
  Table.get_set_same false u.frozen f true

/-- A frame that is frozen stays so, and one that was not is frozen now (R372). -/
theorem freeze_frozen (f : Nat) : Table.get false (s.freeze f).frozen f = true := by
  unfold State.freeze
  split
  · assumption
  · exact frozen_setFrozen _ f

@[simp] theorem setContent_part (p j : Nat) (k : List Byte) : (s.setContent p k).part j = s.part j := rfl

theorem packageLoaded_facts (p dst body : Nat) (header ents : List Byte) :
    let u := s.packageLoaded p dst body header ents
    (u.part p).loaded = true ∧ (u.part p).pkgId = BitVec.ofNat 64 (leAt header 8 8) ∧
      (u.part p).pkgDigest = sha384 (slice header 0 144 ++ ents) ∧ Table.get [] u.store.content p = [] := by
  dsimp only [State.packageLoaded]
  rw [setContent_part, State.part_setPart_same]
  exact ⟨rfl, rfl, rfl, Table.get_set_same [] s.store.content p []⟩

end

/-! ### The statement -/

/-- Settles O46: each row's checks pass, what it needs of host memory has come, and it comes down to its case of the model. -/
theorem otherManagement : Obligations.OtherManagement := by
  intro s q r
  refine ⟨?randGet, ?machineJoin, ?scrubConfig, ?exportSeal, ?gpioOwn, ?weightLoadChunk, ?weightLoad⟩
  case randGet =>
    intro h low high rest
    have row := exec_randGet h low high rest
    have front := runAt_of_mgmtRun h
    refine ⟨fun unready => ?_, fun ready => ?_⟩
    · rw [row, if_pos (by rw [unready]; rfl), mgmtEnd_eq_ended front]
    · rw [row, if_neg (by rw [ready]; decide), mgmtDone_eq_ended (((freeTaken_runAt _ _ _).trans (toHost_runAt _ _ _ _ _)).trans front)]
  case machineJoin =>
    intro h rest dies mask
    have row := exec_machineJoin (dies := dies) h rest
    have front := runAt_of_mgmtRun h
    refine ⟨fun outside => ?_, fun main inside => ⟨fun d hd named fails least => ?_, fun good => ?_⟩⟩
    · rw [row, joinBad_outside outside]
      exact congrArg _ (mgmtMal_eq_malformed front _ _)
    · rw [row, joinBad_first main inside hd named fails least]
      exact congrArg _ (mgmtMal_eq_malformed front _ _)
    · have bad := joinBad_none main inside good
      have mgt := joinAll_mgt (dies := dies) main mask
      refine ⟨congrArg Mgt.machineMode mgt, congrArg Mgt.machineLead mgt, congrArg Mgt.machineMask mgt, ?_⟩
      rw [row, bad]
      exact congrArg _ (mgmtDone_eq_ended ((joinAll_runAt main _ _ _).trans front) 0)
  case scrubConfig =>
    intro h enables gap sLow sHigh msLow msHigh rest
    exact exec_scrubConfig h enables gap sLow sHigh msLow msHigh rest
  case exportSeal =>
    intro h key got src len low high
    have row := exec_exportSeal h got low high
    have front := runAt_of_mgmtRun h
    refine ⟨fun off => ?_, fun z on => ⟨fun barred => ?_, fun owned warm ready reach => ?_⟩⟩
    · rw [row, off]
      exact congrArg _ (mgmtMal_eq_malformed front _ _)
    · rw [row, on]
      exact congrArg _ (if_pos (by rcases barred with b | b <;> simp [src, len, b]))
    · intro x good l
      rw [row, on]
      refine congrArg _ ((if_neg (by simp [src, len, owned, warm])).trans ((if_neg (by simp [src, len, ready, reach])).trans ?_))
      simp only [x, src, len] at good ⊢
      rw [good]
  case gpioOwn =>
    intro h pins o named some_ top owner rest free
    exact exec_gpioOwn h some_ top owner rest free
  case weightLoadChunk =>
    intro h
    refine ⟨?_, ?_, ?_⟩
    · intro dst body done header l aux got c n span len opened gotChunk
      have row := exec_weightLoadChunk_got h aux got gotChunk
      refine ⟨fun fails => ?_, fun plain opens => ?_⟩
      · rw [row]
        simp only [opened, c, len, span, n] at fails
        rw [fails]
      · intro data t
        simp only [opened, c, len, span, n] at opens
        rw [row, opens]
        refine ⟨freeze_frozen _, fun ready more => ?_, fun ents ready last gotEnts => ?_⟩
        · exact (if_neg (by rw [ready]; decide)).trans (if_pos more)
        · obtain ⟨loaded, id, digest, content⟩ := packageLoaded_facts (s := t) (q - 48) dst body header ents
          refine ⟨loaded, id, digest, content, ?_⟩
          refine (if_neg (by rw [ready]; decide)).trans ((if_neg (Nat.not_lt.mpr last)).trans ?_)
          rw [gotEnts]
          rfl
    · intro dst body done sub detail aux
      exact exec_weightLoadChunk_failed h aux
    · intro dst body done more sub detail aux
      have front := ((mgmtBusy_iff _ _ _ _).mp h).1
      simp only [State.loadFailed, aux, List.getD_cons_zero, List.getD_cons_succ]
      exact ⟨fun ready => if_pos ready, fun wait => (if_neg (ne_true_of_eq_false wait)).trans (mgmtWait_eq_waits front _)⟩
  case weightLoad =>
    intro h header ents p dst n body room mine src aligned rest got good gotEnts wraps again apart
    have row := exec_weightLoad h src aligned rest got good gotEnts wraps again (packageOverlaps_eq_false apart)
    refine ⟨fun k => packageKey_eq_some, fun barred => ?_, fun k owned key => ?_⟩
    · rw [row]
      rcases barred with b | b
      · cases s.packageKey header ents with
        | none => rfl
        | some k => exact congrArg _ (if_neg (ne_true_of_eq_false b))
      · rw [b]
    · rw [row, key]
      exact congrArg _ (if_pos owned)

end Sys2Proof.Machine
end

section
/-! PROOF. Keying messages and CREDIT_SYNC, and the statement about them (O54). -/

namespace Sys2Proof.Machine

open Sys2Proof.Claims

/-! ### What a link event leaves of its port (R321) -/

theorem kept_linkEvent (s : State) (code : Nat) (data : List Byte) : Kept s (s.linkEvent code data) :=
  (kept_raiseEvent _ _ _ _ _ _).trans (.foldl _ (fun _ _ => kept_raiseEvent _ _ _ _ _ _) _ _)

theorem linkDown_port (s : State) (p cause : Nat) :
    ∃ q, (s.linkDown p cause).port p = { s.port p with cause := BitVec.ofNat 4 cause, txq := q } := by
  obtain ⟨q, e⟩ := (kept_linkEvent (s.setPort p { s.port p with cause := BitVec.ofNat 4 cause }) 0x0301
    [BitVec.ofNat 8 p, BitVec.ofNat 8 cause, BitVec.ofNat 8 (s.port p).partnerDie.toNat]).port p
  have same : s.linkDown p cause = (s.setPort p { s.port p with cause := BitVec.ofNat 4 cause }).linkEvent 0x0301
    [BitVec.ofNat 8 p, BitVec.ofNat 8 cause, BitVec.ofNat 8 (s.port p).partnerDie.toNat] := by
    simp [State.linkDown]
  exact ⟨q, by rw [same, e, State.port_setPort_same]⟩

theorem Evt.bus {s t : State} (h : Evt s t) : t.bus = s.bus := by
  obtain ⟨_, _, _, _, _, _, _, _, _, _, _, _, rfl⟩ := h
  rfl

theorem linkDown_bus (s : State) (p cause : Nat) : (s.linkDown p cause).bus = s.bus := by
  rw [(linkDown_evt s p cause).bus, State.setPort_bus]

theorem linkUp_port (s : State) (p path : Nat) : ∃ q, (s.linkUp p path).port p = { s.port p with txq := q } :=
  (kept_linkEvent _ _ _).port p

/-! ### KEY flits (R291, R303) -/

/-- The pieces of a list make it up again. -/
theorem chunksGo_flatten {α : Type} {n : Nat} (pos : 0 < n) :
    ∀ (fuel : Nat) (l : List α), l.length ≤ n * fuel → (chunksGo n fuel l).flatten = l
  | 0, l, h => by
    have : l = [] := List.eq_nil_of_length_eq_zero (by omega)
    simp [chunksGo, this]
  | fuel + 1, l, h => by
    unfold chunksGo
    split
    · next e => simp [List.isEmpty_iff.mp e]
    · rw [List.flatten_cons, chunksGo_flatten pos fuel _ (by rw [List.length_drop, Nat.mul_succ] at *; omega), List.take_append_drop]

theorem chunks_flatten {α : Type} {n : Nat} (pos : 0 < n) (l : List α) : (chunks n l).flatten = l := by
  refine chunksGo_flatten pos _ l ?_
  have := Nat.div_add_mod (l.length + n - 1) n
  have := Nat.mod_lt (l.length + n - 1) pos
  omega

/-- The KEY flits of a keying message. -/
def State.keyFlits (s : State) (p : Nat) (bytes : List Byte) : List Flit :=
  (match chunks 232 bytes with
    | [] => [[]]
    | l => l).map (fun b => mkFlit typKey 3 0 ((s.expectedDie p).getD 0) s.die false b)

theorem keyFlits_ne_nil (s : State) (p : Nat) (bytes : List Byte) : s.keyFlits p bytes ≠ [] := by
  unfold State.keyFlits
  cases chunks 232 bytes <;> simp

/-- They carry the message. -/
theorem keyFlits_body (s : State) (p : Nat) (bytes : List Byte) : (s.keyFlits p bytes).flatMap Flit.body = bytes := by
  have whole := chunks_flatten (n := 232) (by decide) bytes
  have bodies (l : List (List Byte)) (d : Nat) : (l.map (fun b => mkFlit typKey 3 0 d s.die false b)).flatMap Flit.body = l.flatten := by
    simp [List.flatMap_map, mkFlit, List.flatMap_id']
  unfold State.keyFlits
  rw [bodies]
  cases h : chunks 232 bytes with
  | nil => rw [h] at whole; simpa using whole
  | cons x l => rw [h] at whole; exact whole

theorem sendKey_eq (s : State) (p : Nat) (bytes : List Byte) :
    s.sendKey p bytes =
      s.setPort p { s.port p with keying := { (s.port p).keying with txq := (s.port p).keying.txq ++ s.keyFlits p bytes } } := rfl

theorem sendKey_port (s : State) (p : Nat) (bytes : List Byte) :
    (s.sendKey p bytes).port p =
      { s.port p with keying := { (s.port p).keying with txq := (s.port p).keying.txq ++ s.keyFlits p bytes } } :=
  State.port_setPort_same _ _ _

/-! ### A keying message is read (R302, R303) -/

/-- A KEY flit changes its port, which stays in its state. -/
theorem takeKeyFlit_facts (p : Nat) (c : Bool × State) (raw : List Byte) :
    (∃ k, (State.takeKeyFlit p c raw).2 = { c.2 with ports := k }) ∧ ((State.takeKeyFlit p c raw).2.port p).st = (c.2.port p).st := by
  unfold State.takeKeyFlit
  dsimp only
  split
  · exact ⟨⟨_, rfl⟩, by simp⟩
  · split
    · exact ⟨⟨_, rfl⟩, by simp [State.sendCtl]⟩
    · exact ⟨⟨_, rfl⟩, by simp⟩

theorem heard_facts (s : State) (p : Nat) (raws : List (List Byte)) :
    (∃ k, heard s p raws = { s with ports := k }) ∧ ((heard s p raws).port p).st = (s.port p).st := by
  refine List.foldlRecOn (motive := fun c : Bool × State => (∃ k, c.2 = { s with ports := k }) ∧ (c.2.port p).st = (s.port p).st)
    raws _ ⟨⟨s.ports, rfl⟩, rfl⟩ ?_
  rintro c ⟨⟨k, e⟩, st⟩ raw -
  obtain ⟨⟨k', e'⟩, st'⟩ := takeKeyFlit_facts p c raw
  exact ⟨⟨k', by rw [e', e]⟩, st'.trans st⟩

section
variable (s : State) (p : Nat) (raws : List (List Byte))

theorem heard_st : ((heard s p raws).port p).st = (s.port p).st := (heard_facts s p raws).2

theorem heard_mgt : (heard s p raws).mgt = s.mgt := by
  obtain ⟨k, e⟩ := (heard_facts s p raws).1
  rw [e]

theorem heard_fuses : (heard s p raws).fuses = s.fuses := by
  obtain ⟨k, e⟩ := (heard_facts s p raws).1
  rw [e]

theorem heard_mayKey : (heard s p raws).mayKey = s.mayKey := by
  unfold State.mayKey
  rw [heard_mgt]

theorem heard_expectedDie : (heard s p raws).expectedDie p = s.expectedDie p := by
  unfold State.expectedDie State.die
  rw [heard_mgt]

end

section
variable {s : State} {p : Nat} {raws : List (List Byte)} {m : KeyMsg}

theorem keyReceive_of_keys (h : Keys s p raws) (k : State → State) : s.keyReceive p raws k = .next (k (heard s p raws)) := by
  obtain ⟨some_, arrive, enabled, st, whole⟩ := h
  have go : (raws.isEmpty || !raws.all (s.arrives p typKey)) = false := by
    rw [arrive, List.isEmpty_eq_false_iff.mpr some_]
    rfl
  simp only [State.keyReceive, go, enabled, st, whole, Bool.not_true, Bool.false_eq_true, if_false, if_true]
  rfl

theorem not_keying_of_keys (h : Keys s p raws) : (((heard s p raws).port p).st != .keying) = false := by
  obtain ⟨-, -, -, st, -⟩ := h
  rw [heard_st, st]
  rfl

/-- Nothing is given up where the link is not UP. -/
theorem keyGone_of_keys (h : Keys s p raws) : s.keyGone p = s := by
  obtain ⟨-, -, -, st, -⟩ := h
  exact if_pos (by rw [st]; rfl)

theorem exec_helloI_of_keys (h : Keys s p raws) :
    exec (.helloI p raws m) s = .next (
      if !s.mayKey then (heard s p raws).setPort p { (heard s p raws).port p with hello := some m }
      else if ((heard s p raws).port p).keying.step == .sentHello && decide (s.fuses.serial.toNat < m.serial.toNat) then heard s p raws
      else (heard s p raws).answerHello p m) := by
  change execHelloI p raws m s = _
  simp only [execHelloI, keyGone_of_keys h, ite_self]
  rw [keyReceive_of_keys h, not_keying_of_keys h, heard_mayKey, heard_fuses, Bool.false_or]

end

/-! ### The checks of a hello (R41, R303) -/

section
variable {s : State} {p : Nat} {m : KeyMsg} {ok : Bool}

theorem keyCheck_pass (die : s.expectedDie p = some m.die.toNat) (port : m.port = p) (good : ok = true)
    (other : m.serial ≠ s.fuses.serial) (point : (pointOf m.pub).isSome = true) (k : State → State) : s.keyCheck p m ok k = k s := by
  have wired : ¬ (s.expectedDie p ≠ some m.die.toNat ∨ m.port ≠ p) := by simp [die, port]
  have pass : (!ok || m.serial == s.fuses.serial || (pointOf m.pub).isNone) = false := by
    simp [good, other, point]
  exact (if_neg wired).trans (if_neg (ne_true_of_eq_false pass))

theorem keyCheck_miswired (h : s.expectedDie p ≠ some m.die.toNat ∨ m.port ≠ p) (k : State → State) :
    s.keyCheck p m ok k = s.miswired p := if_pos h

theorem keyCheck_refused (die : s.expectedDie p = some m.die.toNat) (port : m.port = p)
    (bad : ok = false ∨ m.serial = s.fuses.serial ∨ pointOf m.pub = none) (k : State → State) :
    s.keyCheck p m ok k = s.refuseKeying p := by
  have wired : ¬ (s.expectedDie p ≠ some m.die.toNat ∨ m.port ≠ p) := by simp [die, port]
  have fails : (!ok || m.serial == s.fuses.serial || (pointOf m.pub).isNone) = true := by
    rcases bad with b | b | b <;> simp [b]
  exact (if_neg wired).trans (if_pos fails)

end

/-! ### What each message leads to (R303 to R305) -/

/-- The port keeps an exchange `k` and queues a message for it. -/
def State.keyStep (s : State) (p : Nat) (t : Port) (k : Keying) (bytes : List Byte) : State :=
  (s.setPort p { t with keying := k }).sendKey p bytes

theorem keyStep_port (s : State) (p : Nat) (t : Port) (k : Keying) (bytes : List Byte) :
    ∃ l, l ≠ [] ∧ l.flatMap Flit.body = bytes ∧ (s.keyStep p t k bytes).port p = { t with keying := { k with txq := k.txq ++ l } } := by
  refine ⟨_, keyFlits_ne_nil (s.setPort p { t with keying := k }) p bytes, keyFlits_body _ _ _, ?_⟩
  rw [State.keyStep, sendKey_port, State.port_setPort_same]

section
variable {s : State} {p : Nat} {m : KeyMsg}

/-- A genuine HELLO_I is answered (R303, R304). -/
theorem answerHello_pass (die : s.expectedDie p = some m.die.toNat) (port : m.port = p)
    (other : m.serial ≠ s.fuses.serial) (point : (pointOf m.pub).isSome = true) :
    ∃ (u : State) (k : Keying) (bytes : List Byte), k.step = .sentReply ∧ k.peer = some m ∧
      s.answerHello p m = u.keyStep p { (u.port p).dropKeys with hello := none } k bytes :=
  ⟨_, _, _, rfl, rfl, keyCheck_pass die port rfl other point _⟩

/-- The initiator's HELLO_I (R41, R303). -/
theorem sendHello_eq (s : State) (p : Nat) :
    ∃ (u : State) (k : Keying) (m : KeyMsg), u.ports = s.ports ∧
      s.sendHello p = u.keyStep p { s.port p with hello := none } k (keyBytes m 1) ∧
      k.step = .sentHello ∧ k.secret = privateKey (s.random 48) ∧ k.talk = keyBytes m 1 ∧ k.txq = [] ∧
      m.serial = s.fuses.serial ∧ m.die = BitVec.ofNat 6 s.die ∧ m.port = p ∧ m.secVer = s.mgt.runningSv ∧
      m.epoch = (s.port p).epoch ∧ m.pub = publicKey (privateKey (s.random 48)) :=
  ⟨s.freeTaken.freeTaken, _, s.freeTaken.ownHello p (privateKey (s.random 48)), rfl, rfl, rfl, rfl, rfl, rfl, rfl, rfl, rfl, rfl, rfl, rfl⟩

/-- What `State.enterKeying` makes of the port first (R300). -/
def Port.keysNow (t : Port) (now : Nat) : Port :=
  { t with st := .keying, asleep := false, asleepOff := false, refused := false, heard := now, lastProbe := now, probeAt := none,
           holdSeen := false }

theorem enterKeying_eq (s : State) (p : Nat) :
    s.enterKeying p =
      (let t := (s.port p).keysNow s.time
       if t.hasKey then s.setPort p { t with keying := { t.keying with step := .keyed, syncDue := true } }
       else if !s.mayKey then s.setPort p t
       else match t.hello with
         | some m => (s.setPort p t).answerHello p m
         | none => (s.setPort p t).sendHello p) := rfl

theorem enterKeying_keyed (h : (s.port p).txKey ≠ []) :
    s.enterKeying p = s.setPort p
      { (s.port p).keysNow s.time with keying := { (s.port p).keying with step := .keyed, syncDue := true } } := by
  have key : ((s.port p).keysNow s.time).hasKey = true := by
    simpa [Port.hasKey, Port.keysNow] using h
  exact if_pos key

theorem enterKeying_keyless (h : (s.port p).txKey = []) (none_ : (s.port p).hello = none) :
    s.enterKeying p =
      if s.mayKey then (s.setPort p ((s.port p).keysNow s.time)).sendHello p else s.setPort p ((s.port p).keysNow s.time) := by
  have key : ((s.port p).keysNow s.time).hasKey = false := by
    simp [Port.hasKey, Port.keysNow, h]
  have hello : ((s.port p).keysNow s.time).hello = none := none_
  rw [enterKeying_eq]
  dsimp only
  rw [key, hello]
  cases s.mayKey <;> rfl

theorem sealedEntry_head (e : LogEntry) : (s.sealedEntry e).bus.sealedLog.head? = some e := rfl

end

/-! ### The responder's and the closing messages (R304, R305) -/

/-- What a genuine HELLO_R does (R304): FINISH_I is queued, and the exchange waits for FINISH_R. -/
def State.answerHelloR (s : State) (p : Nat) (m : KeyMsg) : State :=
  let s := s.partnerEpoch p m
  let talk := (s.port p).keying.talk ++ keyBytes m 2
  let last := Config.keyBytes 3 [] (s.keyProof talk).1
  let s := (s.keyProof talk).2
  s.keyStep p (s.port p) { (s.port p).keying with step := .sentFinish, talk := talk ++ last, peer := some m } last

/-- What a genuine FINISH_I does (R305): the keys are taken, and FINISH_R is queued. -/
def State.answerFinishI (s : State) (p : Nat) (m : KeyMsg) : State :=
  let t := s.port p
  let s := (s.setPort p { t with keying := { t.keying with talk := t.keying.talk ++ Config.keyBytes 3 [] m.proof } }).keyed p false
  s.sendKey p (Config.keyBytes 4 [] (Config.linkMac (s.port p).resume ((s.port p).digest.map BitVec.toNat)))

/-- The port after the keys of an exchange with `x` are taken (R305). -/
theorem keyed_eq (s : State) (p : Nat) (initiator : Bool) {x : KeyMsg} (peer : (s.port p).keying.peer = some x) :
    ∃ t : Port, s.keyed p initiator = s.setPort p t ∧ t.keying = { (s.port p).keying with step := .keyed, syncDue := true } ∧
      t.verified = true ∧ t.partnerSerial = x.serial ∧ t.partnerDie = x.die ∧
      (initiator = true → ∀ z, pointOf x.pub = some z →
        let out := kdf (ecdh (s.port p).keying.secret z) (sha (s.port p).keying.talk) 104
        t.txKey = slice out 0 32 ∧ t.rxKey = slice out 32 32 ∧ t.txIv = slice out 64 4 ∧ t.rxIv = slice out 68 4 ∧
          t.resume = slice out 72 32) := by
  unfold State.keyed
  dsimp only
  rw [peer]
  refine ⟨_, rfl, rfl, rfl, rfl, rfl, ?_⟩
  intro i z point
  simp [i, point]

section
variable {s : State} {p : Nat} {raws : List (List Byte)} {m : KeyMsg}

theorem step_ne {a b : KeyStep} (h : a = b) : (a != b) = false := by
  subst h
  cases a <;> rfl

theorem exec_helloR_of_keys (h : Keys s p raws) (step : ((heard s p raws).port p).keying.step = .sentHello) :
    exec (.helloR p raws m) s =
      .next ((heard s p raws).keyCheck p m m.verified (fun u => u.answerHelloR p m)) := by
  change execHelloR p raws m s = _
  rw [execHelloR, keyReceive_of_keys h, not_keying_of_keys h, step_ne step]
  rfl

/-- FINISH_I refused, or taken (R304, R305). -/
theorem exec_finishI_of_keys (h : Keys s p raws) (step : ((heard s p raws).port p).keying.step = .sentReply) :
    exec (.finishI p raws m) s = .next (
      if m.verified then (heard s p raws).answerFinishI p m else (heard s p raws).refuseKeying p) := by
  change execFinishI p raws m s = _
  rw [execFinishI, keyReceive_of_keys h]
  dsimp only
  rw [not_keying_of_keys h, step_ne step]
  cases m.verified <;> rfl

/-- FINISH_R refused, or taken (R305). -/
theorem exec_finishR_of_keys (h : Keys s p raws) (step : ((heard s p raws).port p).keying.step = .sentFinish) :
    exec (.finishR p raws m) s = .next (if m.verified then (heard s p raws).keyed p true else (heard s p raws).refuseKeying p) := by
  change execFinishR p raws m s = _
  rw [execFinishR, keyReceive_of_keys h]
  dsimp only
  rw [not_keying_of_keys h, step_ne step]
  cases m.verified <;> rfl

end

/-! ### Refusals (R41, R303) -/

/-- A port is refused keying: the sealed log has its entry, and the port is QUIET (R303). -/
structure Refusing (u : State) (p : Nat) : Prop where
  st : (u.port p).st = .quiet
  refused : (u.port p).refused = true
  txKey : (u.port p).txKey = []
  cause : (u.port p).cause = 6
  logged : ∃ e, u.bus.sealedLog.head? = some e ∧ e.reason = 0x0B

/-- A link that goes down with REFUSED. -/
theorem Refusing.of_linkDown {s : State} {p : Nat} {e : LogEntry} (st : (s.port p).st = .quiet) (refused : (s.port p).refused = true)
    (txKey : (s.port p).txKey = []) (head : s.bus.sealedLog.head? = some e) (reason : e.reason = 0x0B) :
    Refusing (s.linkDown p causeRefused) p := by
  obtain ⟨q, port⟩ := linkDown_port s p causeRefused
  constructor
  · rw [port]; exact st
  · rw [port]; exact refused
  · rw [port]; exact txKey
  · rw [port]; rfl
  · exact ⟨e, by rw [linkDown_bus]; exact head, reason⟩

/-- The entry of a refused keying (R303). -/
def State.refusalEntry (s : State) : LogEntry :=
  { time := s.us, master := BitVec.ofNat 8 (masterNum .goose), part := 0xFF, queue := 0xFF, reason := 0x0B, seq := 0, addr := 0 }

theorem sealedEntry_logged (s : State) (e : LogEntry) (t : Nat) :
    ((s.sealedEntry e).advanceTo t).bus.sealedLog.head? = some e := by
  unfold State.advanceTo
  split <;> exact sealedEntry_head e

/-- What the port of a refused exchange becomes (R303). -/
def State.refusedExchange (s : State) (p : Nat) : State :=
  let k := { (s.port p).keying with step := .idle, txq := [], resend := [], syncDue := false }
  s.keyStep p { ((s.port p).unlinked s.time).dropKeys with st := .quiet, refused := true, hello := none } k (Config.keyBytes 5 [] [])

theorem refuseKeying_eq (s : State) (p : Nat) :
    s.refuseKeying p =
      (((s.sealedEntry s.refusalEntry).advanceTo ((s.sealedEntry s.refusalEntry).time + 1600)).refusedExchange p).linkDown p causeRefused :=
  rfl

theorem refuseKeying_refusing (s : State) (p : Nat) : Refusing (s.refuseKeying p) p := by
  rw [refuseKeying_eq]
  have head := sealedEntry_logged s s.refusalEntry ((s.sealedEntry s.refusalEntry).time + 1600)
  generalize (s.sealedEntry s.refusalEntry).advanceTo ((s.sealedEntry s.refusalEntry).time + 1600) = u at head ⊢
  obtain ⟨l, -, -, port⟩ := keyStep_port u p { ((u.port p).unlinked u.time).dropKeys with st := .quiet, refused := true, hello := none }
    { (u.port p).keying with step := .idle, txq := [], resend := [], syncDue := false } (Config.keyBytes 5 [] [])
  rw [← State.refusedExchange] at port
  refine .of_linkDown (e := s.refusalEntry) ?_ ?_ ?_ ?_ rfl
  · rw [port]
  · rw [port]
  · rw [port]; rfl
  · rw [State.refusedExchange, State.keyStep, sendKey_eq, State.setPort_bus, State.setPort_bus]
    exact head

theorem exec_keyRefused_of_keys {s : State} {p : Nat} {raws : List (List Byte)} (h : Keys s p raws) :
    ∃ u, exec (.keyRefused p raws) s = .next u ∧ Refusing u p := by
  have run : exec (.keyRefused p raws) s = .next (
      let v := (heard s p raws).sealedEntry (heard s p raws).refusalEntry
      (v.setPort p { ((v.port p).unlinked v.time).dropKeys with st := .quiet, refused := true, hello := none }).linkDown p causeRefused) := by
    change execKeyRefused p raws s = _
    rw [execKeyRefused, keyReceive_of_keys h]
    dsimp only
    rw [not_keying_of_keys h]
    rfl
  refine ⟨_, run, ?_⟩
  have head := sealedEntry_head (s := heard s p raws) (heard s p raws).refusalEntry
  generalize (heard s p raws).sealedEntry (heard s p raws).refusalEntry = v at head ⊢
  refine .of_linkDown (e := (heard s p raws).refusalEntry) ?_ ?_ ?_ ?_ rfl
  · rw [State.port_setPort_same]
  · rw [State.port_setPort_same]
  · rw [State.port_setPort_same]; rfl
  · rw [State.setPort_bus]; exact head

theorem miswired_port (s : State) (p : Nat) :
    ((s.miswired p).port p).st = .quiet ∧ ((s.miswired p).port p).verified = false ∧ ((s.miswired p).port p).cause = 5 := by
  obtain ⟨q, port⟩ := linkDown_port (s.setPort p { (s.port p).unlinked s.time with st := .quiet, verified := false, hello := none })
    p causeMiswired
  rw [State.port_setPort_same] at port
  rw [State.miswired, port]
  exact ⟨rfl, rfl, rfl⟩

/-! ### The rows of the exchange, assembled (R303 to R305) -/

section
variable {s : State} {p : Nat} {raws : List (List Byte)} {m : KeyMsg}

/-- The wiring of `s` is the wiring of the state in which its message is read. -/
theorem expectedDie_heard (h : s.expectedDie p = some m.die.toNat) : (heard s p raws).expectedDie p = some m.die.toNat :=
  (heard_expectedDie s p raws).trans h

theorem serial_heard (h : m.serial ≠ s.fuses.serial) : m.serial ≠ (heard s p raws).fuses.serial := by
  rwa [heard_fuses]

/-- A hello that fails its check, in either row (R41, R303). -/
theorem keyCheck_fails {a : Outcome} {ok : Bool} {k : State → State} (e : a = .next ((heard s p raws).keyCheck p m ok k)) :
    (s.expectedDie p ≠ some m.die.toNat ∨ m.port ≠ p → a = .next ((heard s p raws).miswired p)) ∧
    (s.expectedDie p = some m.die.toNat → m.port = p → (ok = false ∨ m.serial = s.fuses.serial ∨ pointOf m.pub = none) →
      a = .next ((heard s p raws).refuseKeying p)) := by
  subst e
  refine ⟨fun bad => ?_, fun die port bad => ?_⟩
  · rw [keyCheck_miswired (by rwa [heard_expectedDie])]
  · rw [keyCheck_refused (expectedDie_heard die) port (by rwa [heard_fuses])]

theorem helloI_answered (h : Keys s p raws) (may : s.mayKey = true)
    (first : ((heard s p raws).port p).keying.step ≠ .sentHello ∨ m.serial.toNat ≤ s.fuses.serial.toNat) :
    exec (.helloI p raws m) s = .next ((heard s p raws).answerHello p m) := by
  rw [exec_helloI_of_keys h, may]
  have no : (((heard s p raws).port p).keying.step == .sentHello && decide (s.fuses.serial.toNat < m.serial.toNat)) = false := by
    rcases first with f | f
    · simp [f]
    · simp [Nat.not_lt.mpr f]
  simp [no]

theorem helloI_genuine (good : Genuine s p m) :
    ∃ t : Port, ((heard s p raws).answerHello p m).port p = t ∧ t.keying.step = .sentReply ∧ t.txKey = [] ∧
      t.keying.peer = some m ∧ t.hello = none ∧ t.keying.txq ≠ [] := by
  obtain ⟨die, port, other, point⟩ := good
  obtain ⟨u, k, bytes, step, peer, e⟩ := answerHello_pass (expectedDie_heard (raws := raws) die) port (serial_heard other) point
  obtain ⟨l, some_, -, r⟩ := keyStep_port u p { (u.port p).dropKeys with hello := none } k bytes
  rw [e, r]
  exact ⟨_, rfl, step, rfl, peer, rfl, by simp [some_]⟩

theorem helloR_genuine (good : Genuine s p m) (ok : m.verified = true) :
    ∃ t : Port, ((heard s p raws).keyCheck p m m.verified (fun u => u.answerHelloR p m)).port p = t ∧ t.keying.step = .sentFinish ∧
      t.keying.peer = some m ∧ t.keying.txq ≠ [] := by
  obtain ⟨die, port, other, point⟩ := good
  rw [keyCheck_pass (expectedDie_heard (raws := raws) die) port ok (serial_heard other) point]
  unfold State.answerHelloR
  dsimp only
  generalize (heard s p raws).partnerEpoch p m = u
  generalize (u.port p).keying.talk ++ keyBytes m 2 = talk
  generalize (u.keyProof talk).2 = v
  generalize Config.keyBytes 3 [] (u.keyProof talk).1 = last
  obtain ⟨l, some_, -, r⟩ := keyStep_port v p (v.port p) { (v.port p).keying with step := .sentFinish, talk := talk ++ last, peer := some m } last
  rw [r]
  exact ⟨_, rfl, rfl, rfl, by simp [some_]⟩

theorem answerFinishI_port (v : State) {x : KeyMsg} (peer : (v.port p).keying.peer = some x) :
    ∃ t : Port, (v.answerFinishI p m).port p = t ∧ t.keying.step = .keyed ∧ t.keying.syncDue = true ∧ t.verified = true ∧
      t.partnerSerial = x.serial ∧ t.partnerDie = x.die ∧ t.keying.txq ≠ [] := by
  unfold State.answerFinishI
  dsimp only
  generalize hw : v.setPort p _ = w
  have peer' : (w.port p).keying.peer = some x := by
    rw [← hw, State.port_setPort_same]
    exact peer
  obtain ⟨t, e, keying, verified, serial, die, -⟩ := keyed_eq w p false peer'
  rw [e, sendKey_port, State.port_setPort_same]
  refine ⟨_, rfl, ?_, ?_, verified, serial, die, ?_⟩
  · simp [keying]
  · simp [keying]
  · simp [keyFlits_ne_nil]

end

/-! ### HELLO_RESEND and the start of an exchange (R300, R303) -/

/-- The initiator's hello as the exchange starts. -/
theorem enterKeying_hello {s : State} {p : Nat} (noKey : (s.port p).txKey = []) (noHello : (s.port p).hello = none)
    (may : s.mayKey = true) :
    ∃ m : KeyMsg, ∃ t : Port, (s.enterKeying p).port p = t ∧ t.st = .keying ∧ t.keying.step = .sentHello ∧
      t.keying.secret = privateKey (s.random 48) ∧ t.keying.talk = keyBytes m 1 ∧ t.keying.txq.flatMap Flit.body = keyBytes m 1 ∧
      m.serial = s.fuses.serial ∧ m.die = BitVec.ofNat 6 s.die ∧ m.port = p ∧ m.secVer = s.mgt.runningSv ∧
      m.epoch = (s.port p).epoch ∧ m.pub = publicKey (privateKey (s.random 48)) := by
  rw [enterKeying_keyless noKey noHello, if_pos may]
  obtain ⟨u, k, m, -, e, step, secret, talk, txq, serial, die, port, sv, epoch, pub⟩ :=
    sendHello_eq (s.setPort p ((s.port p).keysNow s.time)) p
  obtain ⟨l, -, body, r⟩ := keyStep_port u p { (s.setPort p ((s.port p).keysNow s.time)).port p with hello := none } k (keyBytes m 1)
  rw [e, r]
  refine ⟨m, _, rfl, ?_, step, secret, talk, ?_, serial, die, port, sv, ?_, pub⟩
  · rw [State.port_setPort_same]; rfl
  · rw [txq]; simpa using body
  · rw [epoch, State.port_setPort_same]; rfl

/-- What does not depend on how the exchange starts. -/
theorem enterKeying_keeps {s : State} {p : Nat} (noKey : (s.port p).txKey = []) (noHello : (s.port p).hello = none) :
    ∃ t : Port, (s.enterKeying p).port p = t ∧ t.st = .keying ∧ t.replay = (s.port p).replay ∧ t.txKey = (s.port p).txKey ∧
      t.lost = (s.port p).lost ∧ t.gone = (s.port p).gone ∧ t.credits = (s.port p).credits := by
  rw [enterKeying_keyless noKey noHello]
  split
  · obtain ⟨u, k, m, -, e, -⟩ := sendHello_eq (s.setPort p ((s.port p).keysNow s.time)) p
    obtain ⟨l, -, -, r⟩ := keyStep_port u p { (s.setPort p ((s.port p).keysNow s.time)).port p with hello := none } k (keyBytes m 1)
    rw [e, r, State.port_setPort_same]
    exact ⟨_, rfl, rfl, rfl, rfl, rfl, rfl, rfl⟩
  · rw [State.port_setPort_same]
    exact ⟨_, rfl, rfl, rfl, rfl, rfl, rfl, rfl⟩

section
variable {s : State} {p : Nat}

theorem helloResend_idle (st : (s.port p).st = .keying) (may : s.mayKey = true) (step : (s.port p).keying.step = .idle) :
    exec (.helloResend p) s = .next (s.enterKeying p) := by
  change execHelloResend p s = _
  simp [execHelloResend, st, may, step]

theorem helloResend_again (st : (s.port p).st = .keying) (may : s.mayKey = true) (step : (s.port p).keying.step = .sentHello)
    (hold : (s.port p).holdSeen = true ∨ (s.port p).keying.replay ≠ []) :
    exec (.helloResend p) s = .next (
      let v := s.advanceTo ((s.port p).keying.sentAt + 10000)
      v.setPort p { s.port p with keying := { (s.port p).keying with resend := (s.port p).keying.replay, sentAt := v.time } }) := by
  have again : ((s.port p).holdSeen || !(s.port p).keying.replay.isEmpty) = true := by
    simpa using hold
  change execHelloResend p s = _
  simp [execHelloResend, st, may, step, again]

end

/-! ### CREDIT_SYNC (R308, R309) -/

/-- Credits set on channels 0 to 3. -/
theorem foldl_setCredit (g : Nat → Credit) (t : Port) :
    (∃ c, (List.range 4).foldl (fun u v => u.setCredit v (g v)) t = { t with credits := c }) ∧
    ∀ v, v < 4 → ((List.range 4).foldl (fun u v => u.setCredit v (g v)) t).credit v = g v := by
  refine ⟨?_, fun v lt => ?_⟩
  · exact List.foldlRecOn (motive := fun u : Port => ∃ c, u = { t with credits := c }) _ _ ⟨t.credits, rfl⟩
      fun _ ⟨c, e⟩ v _ => ⟨Table.set {} c v (g v), by rw [e]; rfl⟩
  change ((((t.setCredit 0 (g 0)).setCredit 1 (g 1)).setCredit 2 (g 2)).setCredit 3 (g 3)).credit v = g v
  unfold Port.setCredit Port.credit
  simp only [Table.get_set]
  split_ifs with h3 h2 h1 h0
  · rw [h3]
  · rw [h2]
  · rw [h1]
  · rw [h0]
  · omega

theorem fullCredits_credit (t : Port) {v : Nat} (lt : v < 4) : (t.fullCredits.credit v).held = (if v = 2 then 128 else if v = 3 then 16 else 32) := by
  rw [Port.fullCredits, (foldl_setCredit (fun v => { granted := fullGrant v, held := fullGrant v }) t).2 v lt]
  rfl

theorem enterUp_port (s : State) (p path : Nat) :
    ∃ t : Port, (s.enterUp p path).port p = t ∧ t.st = .up ∧ t.resend = (s.port p).resend ∧ t.replay = (s.port p).replay ∧
      t.credits = (s.port p).credits := by
  unfold State.enterUp
  dsimp only
  generalize hu : s.setPort p _ = u
  obtain ⟨q, e⟩ := linkUp_port u p path
  rw [e, ← hu, State.port_setPort_same]
  exact ⟨_, rfl, rfl, rfl, rfl, rfl⟩

/-- A CREDIT_SYNC is read in KEYING: its header is taken, and this end's own leaves, if it is due. -/
def State.syncTaken (s : State) (p : Nat) (raw : List Byte) : State :=
  let h := s.takeHeader p (readFlit raw)
  if (h.port p).keying.syncDue then h.setPort p { h.port p with ctl := h.syncFlit p :: (h.port p).ctl } else h

/-- The path of a CREDIT_SYNC `m` (R308, R309). -/
def State.syncPath (h : State) (p : Nat) (m : SyncMsg) : State :=
  let t := h.port p
  if t.fresh && m.macOk && m.epoch == t.epoch then (h.setPort p t.fullCredits).upReport p 0
  else if t.lost && m.macOk && m.epoch == t.epoch then h.lostUp p
  else if m.epoch == t.epoch && m.macOk && !t.lost && !t.forceLost && decide (h.time ≤ t.leftUp + t.lostLimit.toNat * 100000)
    then h.resumeLink p m
  else h.lostPath p m

section
variable {h : State} {p : Nat} {m : SyncMsg}

theorem syncPath_fresh (fresh : (h.port p).fresh = true) (mac : m.macOk = true) (epoch : m.epoch = (h.port p).epoch) :
    h.syncPath p m = (h.setPort p (h.port p).fullCredits).upReport p 0 := by
  unfold State.syncPath
  exact if_pos (by simp [fresh, mac, epoch])

theorem syncPath_lost (fresh : (h.port p).fresh = false) (lost : (h.port p).lost = true) (mac : m.macOk = true)
    (epoch : m.epoch = (h.port p).epoch) : h.syncPath p m = h.lostUp p := by
  unfold State.syncPath
  exact (if_neg (by simp [fresh])).trans (if_pos (by simp [lost, mac, epoch]))

theorem syncPath_resume (fresh : (h.port p).fresh = false) (lost : (h.port p).lost = false) (mac : m.macOk = true)
    (epoch : m.epoch = (h.port p).epoch) (noForce : (h.port p).forceLost = false)
    (inTime : h.time ≤ (h.port p).leftUp + (h.port p).lostLimit.toNat * 100000) : h.syncPath p m = h.resumeLink p m := by
  unfold State.syncPath
  exact (if_neg (by simp [fresh])).trans ((if_neg (by simp [lost])).trans (if_pos (by simp [lost, mac, epoch, noForce, inTime])))

theorem syncPath_not_good (bad : ¬ (m.macOk = true ∧ m.epoch = (h.port p).epoch)) : h.syncPath p m = h.lostPath p m := by
  unfold State.syncPath
  exact (if_neg (by simpa using fun _ => not_and.mp bad)).trans ((if_neg (by simpa using fun _ => not_and.mp bad)).trans
    (if_neg (by simpa using fun epoch mac => absurd ⟨mac, epoch⟩ bad)))

theorem syncPath_late (fresh : (h.port p).fresh = false) (lost : (h.port p).lost = false)
    (late : (h.port p).forceLost = true ∨ (h.port p).leftUp + (h.port p).lostLimit.toNat * 100000 < h.time) :
    h.syncPath p m = h.lostPath p m := by
  have no : ((m.epoch == (h.port p).epoch && m.macOk && !(h.port p).lost && !(h.port p).forceLost) &&
      decide (h.time ≤ (h.port p).leftUp + (h.port p).lostLimit.toNat * 100000)) = false := by
    rcases late with l | l
    · simp [l]
    · rw [decide_eq_false (Nat.not_le.mpr l), Bool.and_false]
  unfold State.syncPath
  exact (if_neg (by simp [fresh])).trans ((if_neg (by simp [lost])).trans (if_neg (ne_true_of_eq_false no)))

end

section
variable {s : State} {p : Nat} {raw : List Byte} {m : SyncMsg}

theorem takeHeader_keying (st : (s.port p).st = .keying) (f : Flit) :
    s.takeHeader p f =
      s.setPort p { s.port p with keying := (s.port p).keying.ackTo f, heard := s.time, holdSeen := false } := by
  unfold State.takeHeader
  dsimp only
  rw [st]
  rfl

theorem syncTaken_time (st : (s.port p).st = .keying) : (s.syncTaken p raw).time = s.time := by
  unfold State.syncTaken
  dsimp only
  split <;> rw [takeHeader_keying st]
  · rfl
  · rfl

theorem exec_creditSync_of_keyed (arrive : s.arrives p 4 raw = true) (enabled : (s.port p).enabled = true)
    (st : (s.port p).st = .keying) (step : (s.port p).keying.step = .keyed) :
    exec (.creditSync p raw m) s = .next ((s.syncTaken p raw).syncPath p m) := by
  have alive : (s.port p).alive = true := by simp [Port.alive, st]
  have st' : (((s.takeHeader p (readFlit raw)).port p).st != .keying) = false := by
    rw [takeHeader_keying st, State.port_setPort_same, st]
    rfl
  have step' : (((s.takeHeader p (readFlit raw)).port p).keying.step != .keyed) = false := by
    rw [takeHeader_keying st, State.port_setPort_same]
    exact step_ne step
  change execCreditSync p raw m s = _
  rw [execCreditSync, controlReceive_next]
  dsimp only
  rw [show s.arrives p typSync raw = true from arrive, enabled, alive, st', step']
  rfl

end

/-- The returns that were lost on the way are recovered (R308). -/
def Port.recovered (t : Port) (m : SyncMsg) : Port :=
  (List.range 4).foldl (fun u v =>
    let c := t.credit v
    u.setCredit v { c with held := c.held + t.unseen m v, retSeen := c.retSeen + t.unseen m v }) t

theorem recovered_eq (t : Port) (m : SyncMsg) : ∃ c, t.recovered m = { t with credits := c } :=
  (foldl_setCredit (fun v => { t.credit v with held := (t.credit v).held + t.unseen m v, retSeen := (t.credit v).retSeen + t.unseen m v }) t).1

theorem recovered_held (t : Port) (m : SyncMsg) {v : Nat} (lt : v < 4) :
    ((t.recovered m).credit v).held = (t.credit v).held + t.unseen m v :=
  congrArg Credit.held ((foldl_setCredit
    (fun v => { t.credit v with held := (t.credit v).held + t.unseen m v, retSeen := (t.credit v).retSeen + t.unseen m v }) t).2 v lt)

section
variable {s : State} {p : Nat} {m : SyncMsg}

theorem resumeLink_eq (h : ∀ v, v < 4 → ((s.port p).credit v).held + (s.port p).unseen m v ≤ ((s.port p).credit v).granted) :
    ∃ last : Nat, s.resumeLink p m = (
      let u := ((s.port p).recovered m).ackTo m.lastSeq
      let v := s.setPort p { u with resend := u.replay, synced := true, syncCount := satInc u.syncCount, syncLast := BitVec.ofNat 32 last }
      ({ v with up := { v.up with recSync := satInc v.up.recSync } } : State).enterUp p 1) := by
  have none_ : (List.range 4).find? (fun v => decide (((s.port p).credit v).granted < ((s.port p).credit v).held + (s.port p).unseen m v))
      = none := by
    refine List.find?_eq_none.mpr fun v mem => ?_
    have := h v (List.mem_range.mp mem)
    simpa using this
  unfold State.resumeLink
  dsimp only
  rw [none_]
  exact ⟨_, rfl⟩

/-- The counters of the recoveries are no part of a port. -/
theorem port_up (s : State) (u : Upkeep) (p : Nat) : ({ s with up := u } : State).port p = s.port p := rfl

theorem resumeLink_port (h : ∀ v, v < 4 → ((s.port p).credit v).held + (s.port p).unseen m v ≤ ((s.port p).credit v).granted) :
    ∃ t : Port, (s.resumeLink p m).port p = t ∧ t.st = .up ∧ t.resend = t.replay ∧
      t.replay = (s.port p).replay.filter (fun w => seqAfter w.flit.seq m.lastSeq) ∧
      ∀ v, v < 4 → (t.credit v).held = ((s.port p).credit v).held + (s.port p).unseen m v := by
  obtain ⟨last, e⟩ := resumeLink_eq h
  rw [e]
  dsimp only
  obtain ⟨c, same⟩ := recovered_eq (s.port p) m
  have held := @recovered_held (s.port p) m
  rw [same] at held ⊢
  generalize hv : s.setPort p _ = v
  have port : v.port p = _ := hv ▸ State.port_setPort_same s p _
  obtain ⟨t, r, st, resend, replay, credits⟩ := enterUp_port ({ v with up := { v.up with recSync := satInc v.up.recSync } } : State) p 1
  rw [port_up, port] at resend replay credits
  rw [r]
  refine ⟨t, rfl, st, by rw [resend, replay], replay, fun v lt => ?_⟩
  rw [Port.credit, credits]
  exact held lt

/-- The port of a lost path, before its keys are made anew (R309). -/
def Port.lostWith (t : Port) (m : SyncMsg) : Port :=
  { t.fullCredits.dropKeys with
      replay := [], resend := [], gone := (t.gone ++ t.replay).filter (fun w => seqAfter w.flit.seq m.lastSeq), lost := true,
      forceLost := false, txSeq := countOf t.txSeq m.lastSeq,
      keying := { t.keying with step := .idle, syncDue := false, syncSent := false } }

theorem lostWith_keeps (t : Port) (m : SyncMsg) : (t.lostWith m).hello = t.hello ∧ (t.lostWith m).credits = t.fullCredits.credits := by
  obtain ⟨c, full⟩ := (foldl_setCredit (fun v => { granted := fullGrant v, held := fullGrant v }) t).1
  rw [← Port.fullCredits] at full
  have hello : t.fullCredits.hello = t.hello := by rw [full]
  exact ⟨hello, rfl⟩

/-- Flits that wait for a slot of port `p` wait no longer. -/
def State.hopsFreed (s : State) (p : Nat) : State :=
  (List.range 10).foldl (fun (s : State) q =>
    s.setPort q { s.port q with txq := (s.port q).txq.map (fun w => if w.hop.map Prod.fst = some p then { w with hop := none } else w) }) s

theorem lostPath_eq (s : State) (p : Nat) (m : SyncMsg) :
    s.lostPath p m = ((s.setPort p ((s.port p).lostWith m)).hopsFreed p).enterKeying p := rfl

theorem hopsFreed_port (s : State) (p j : Nat) : ∃ q, (s.hopsFreed p).port j = { s.port j with txq := q } := by
  refine List.foldlRecOn (motive := fun u : State => ∃ q, u.port j = { s.port j with txq := q }) _ _ ⟨(s.port j).txq, rfl⟩ ?_
  rintro u ⟨q, e⟩ i -
  by_cases h : j = i
  · subst h
    exact ⟨_, by rw [State.port_setPort_same, e]⟩
  · exact ⟨q, by rw [State.port_setPort, if_neg h, e]⟩

theorem lostPath_port (hello : (s.port p).hello = none) :
    ∃ t : Port, (s.lostPath p m).port p = t ∧ t.st = .keying ∧ t.replay = [] ∧ t.txKey = [] ∧ t.lost = true ∧
      t.gone = ((s.port p).gone ++ (s.port p).replay).filter (fun w => seqAfter w.flit.seq m.lastSeq) ∧
      ∀ v, v < 4 → (t.credit v).held = (if v = 2 then 128 else if v = 3 then 16 else 32) := by
  obtain ⟨q, port⟩ := hopsFreed_port (s.setPort p ((s.port p).lostWith m)) p p
  rw [State.port_setPort_same] at port
  obtain ⟨hello', credits'⟩ := lostWith_keeps (s.port p) m
  rw [lostPath_eq]
  generalize (s.setPort p ((s.port p).lostWith m)).hopsFreed p = u at port ⊢
  obtain ⟨t, r, st, replay, key, lost, gone, credits⟩ :=
    enterKeying_keeps (s := u) (p := p) (by rw [port]; rfl) (by rw [port]; exact hello'.trans hello)
  rw [port] at replay key lost gone credits
  refine ⟨t, r, st, replay, key, lost, gone, fun v lt => ?_⟩
  rw [Port.credit, credits]
  exact fullCredits_credit (s.port p) lt

end

/-! ### The statement -/

/-- Settles O54, a lemma per message, and for CREDIT_SYNC one per path. -/
theorem keyingAndSync : Obligations.KeyingAndSync := by
  unfold Obligations.KeyingAndSync
  refine ⟨?messages, ?exchange, ?sync⟩
  case messages =>
    intro p raws s h hd t k fails
    refine ⟨?_, ?_, ?_, ?_, ?_, ?_, ?_⟩
    · intro m may
      rw [exec_helloI_of_keys h, may]
      rfl
    · intro m may step first
      have yields : (k.step == .sentHello && decide (s.fuses.serial.toNat < m.serial.toNat)) = true := by
        simp [step, first]
      rw [exec_helloI_of_keys h, may, if_neg (by decide), if_pos yields]
    · intro m may first
      have run := helloI_answered h may first
      refine ⟨fun good => ?_, keyCheck_fails run⟩
      obtain ⟨u, e, step, txKey, peer, hello, txq⟩ := helloI_genuine good (raws := raws)
      exact ⟨_, run, by rw [e]; exact ⟨step, txKey, peer, hello, txq⟩⟩
    · intro m step
      have run := exec_helloR_of_keys (m := m) h step
      refine ⟨fun good ok => ?_, keyCheck_fails run⟩
      obtain ⟨u, e, step', peer, txq⟩ := helloR_genuine good ok (raws := raws)
      exact ⟨_, run, by rw [e]; exact ⟨step', peer, txq⟩⟩
    · intro m step
      have run := exec_finishI_of_keys (m := m) h step
      refine ⟨fun bad => by rw [run, bad]; rfl, fun x ok peer => ?_⟩
      rw [ok, if_pos rfl] at run
      obtain ⟨u, e, step', due, verified, serial, die, txq⟩ := answerFinishI_port (m := m) (heard s p raws) peer
      exact ⟨_, run, by rw [e]; exact ⟨step', due, verified, serial, die, txq⟩⟩
    · intro m step
      have run := exec_finishR_of_keys (m := m) h step
      refine ⟨fun bad => by rw [run, bad]; rfl, fun x z ok peer point => ?_⟩
      obtain ⟨u, e, keying, verified, serial, die, keys⟩ := keyed_eq hd p true peer
      obtain ⟨tx, rx, txIv, rxIv, resume⟩ := keys rfl z point
      refine ⟨hd.setPort p u, ?_, ?_⟩
      · rw [run, ok, ← e]
        rfl
      · rw [State.port_setPort_same]
        exact ⟨by rw [keying], verified, serial, die, tx, rx, txIv, rxIv, resume⟩
    · obtain ⟨u, run, st, refused, txKey, cause, logged⟩ := exec_keyRefused_of_keys h
      exact ⟨u, run, st, refused, txKey, cause, logged⟩
  case exchange =>
    intro p s t
    have refusing := refuseKeying_refusing s p
    refine ⟨helloResend_idle, helloResend_again, ?_, ?_, refusing.st, refusing.refused, refusing.txKey, refusing.logged, miswired_port s p⟩
    · intro noKey noHello may u
      obtain ⟨m, w, e, st, step, secret, talk, body, serial, die, port, sv, epoch, pub⟩ := enterKeying_hello noKey noHello may
      rw [show u.port p = w from e]
      exact ⟨st, step, secret, m, talk, serial, die, port, sv, epoch, pub, body⟩
    · intro key
      rw [enterKeying_keyed key, State.port_setPort_same]
      exact ⟨rfl, rfl, rfl⟩
  case sync =>
    intro p raw m s arrive enabled st step h h' t good late
    have run := exec_creditSync_of_keyed (m := m) arrive enabled st step
    have time : h'.time = s.time := syncTaken_time (raw := raw) st
    rw [show s.syncTaken p raw = h' from rfl] at run
    rw [run]
    clear run
    clear_value h'
    refine ⟨?_, ?_, ?_, ?_, fun v lt => fullCredits_credit t lt⟩
    · rintro fresh ⟨mac, epoch⟩
      rw [syncPath_fresh fresh mac epoch]
    · rintro fresh lost ⟨mac, epoch⟩
      rw [syncPath_lost fresh lost mac epoch]
    · rintro fresh lost ⟨mac, epoch⟩ onTime
      obtain ⟨noForce, inTime⟩ := not_or.mp onTime
      refine ⟨?_, fun within => ?_⟩
      · rw [syncPath_resume fresh lost mac epoch (Bool.eq_false_iff.mpr noForce) (time ▸ Nat.not_lt.mp inTime)]
      · obtain ⟨u, e, facts⟩ := resumeLink_port within
        rw [e]
        exact facts
    · refine fun bad => ⟨?_, fun hello => ?_⟩
      · rcases bad with b | ⟨fresh, lost, l⟩
        · rw [syncPath_not_good b]
        · rw [syncPath_late fresh lost (time ▸ l)]
      · obtain ⟨u, e, facts⟩ := lostPath_port (m := m) hello
        rw [e]
        exact facts

end Sys2Proof.Machine
end

section
/-! PROOF. Flits on a channel, and the statement about them (O52). -/

namespace Sys2Proof.Machine

open Sys2Proof.Claims

/-! ### A header without a breach (R296, R298, R312) -/

section
variable {s : State} {p : Nat} {f : Flit}

theorem takeCredits_ports (h : f.crCount.toNat = 0 ∨
    ((s.port p).credit f.crVc.toNat).held + f.crCount.toNat ≤ ((s.port p).credit f.crVc.toNat).granted) :
    ∃ k, s.takeCredits p f = { s with ports := k } := by
  unfold State.takeCredits
  dsimp only
  split
  · exact ⟨s.ports, rfl⟩
  · next some_ =>
    rw [if_neg (Nat.not_lt.mpr (h.resolve_left some_))]
    exact ⟨_, rfl⟩

theorem trySleep_ports (s : State) (p : Nat) : ∃ k, s.trySleep p = { s with ports := k } := by
  unfold State.trySleep
  dsimp only
  split
  · exact ⟨s.ports, rfl⟩
  · split
    · exact ⟨_, rfl⟩
    · exact ⟨s.ports, rfl⟩

/-- A header that returns no credit too many changes ports alone. -/
theorem takeHeader_ports (st : (s.port p).st = .up) (h : f.crCount.toNat = 0 ∨
    ((s.port p).credit f.crVc.toNat).held + f.crCount.toNat ≤ ((s.port p).credit f.crVc.toNat).granted) :
    ∃ k, s.takeHeader p f = { s with ports := k } := by
  unfold State.takeHeader
  dsimp only
  rw [st]
  generalize hu : s.setPort p _ = u
  have credit (v : Nat) : (u.port p).credit v = (s.port p).credit v := by
    rw [← hu, State.port_setPort_same]
    rfl
  have ports : ∃ k, u = { s with ports := k } := ⟨_, hu.symm⟩
  obtain ⟨k, e⟩ := ports
  obtain ⟨k', e'⟩ := takeCredits_ports (s := u) (p := p) (f := f) (by rwa [credit])
  obtain ⟨k'', e''⟩ := trySleep_ports (u.takeCredits p f) p
  refine ⟨k'', ?_⟩
  change (u.takeCredits p f).trySleep p = _
  rw [e'', e', e]

end

/-! ### What becomes of the bytes of a flit (R291 to R298, R302) -/

section
variable {s : State} {p typ : Nat} {raw : List Byte} {f : Flit} {c : Instr}

theorem admitted_of_keyed (enabled : (s.port p).enabled = true) (st : (s.port p).st = .up) (keyed : (readFlit raw).keyed = true) :
    s.admitted p raw = (s.port p).open raw := by
  unfold State.admitted
  rw [enabled, st, keyed]
  rfl

theorem admitted_of_unkeyed (keyed : (readFlit raw).keyed = false) : s.admitted p raw = none := by
  unfold State.admitted
  rw [keyed, Bool.and_false]
  rfl

theorem receive_of_unkeyed (enabled : (s.port p).enabled = true) (st : (s.port p).st = .up) (keyed : (readFlit raw).keyed = false)
    (k : Flit → State → State) : s.receive p raw k = s.rxDiscard p := by
  unfold State.receive
  dsimp only
  rw [enabled, st, keyed]
  rfl

/-- A keyed flit goes by what opening it gives. -/
theorem receive_of_keyed (enabled : (s.port p).enabled = true) (st : (s.port p).st = .up) (keyed : (readFlit raw).keyed = true)
    (k : Flit → State → State) :
    s.receive p raw k = match (s.port p).open raw with
      | none => s.retrain p causeAuth
      | some f =>
        let t := s.takeHeader p f
        let u := t.port p
        if u.st != .up then t
        else if f.seq = seqOf (u.rxSeq + 1) then t.accept p f k
        else if seqAfter f.seq (seqOf u.rxSeq) then t.sendCtl p typNak
        else t := by
  unfold State.receive
  dsimp only
  rw [enabled, st, keyed]
  rfl

theorem receive_of_forged (enabled : (s.port p).enabled = true) (st : (s.port p).st = .up) (keyed : (readFlit raw).keyed = true)
    (forged : (s.port p).open raw = none) (k : Flit → State → State) : s.receive p raw k = s.retrain p causeAuth := by
  rw [receive_of_keyed enabled st keyed, forged]

theorem receive_of_outOfTurn (enabled : (s.port p).enabled = true) (st : (s.port p).st = .up) (keyed : (readFlit raw).keyed = true)
    (opened : (s.port p).open raw = some f) (stays : ((s.takeHeader p f).port p).st = .up)
    (turn : f.seq ≠ seqOf (((s.takeHeader p f).port p).rxSeq + 1)) (k : Flit → State → State) :
    s.receive p raw k =
      if seqAfter f.seq (seqOf ((s.takeHeader p f).port p).rxSeq) then (s.takeHeader p f).sendCtl p typNak else s.takeHeader p f := by
  rw [receive_of_keyed enabled st keyed, opened]
  dsimp only
  rw [stays, if_neg turn]
  rfl

/-- A flit that is taken acts on its die, or waits in the queue of the port towards its die (R42, R43, R293). -/
theorem receive_of_taken (h : Taken s p typ raw f) (k : Flit → State → State) :
    s.receive p raw k =
      if f.dst.toNat = s.die then delivered s p f (k f)
      else
        let t := accepted s p f
        let q := portToward s.mgt.product.toNat s.die f.dst.toNat 0
        t.setPort q { t.port q with txq := (t.port q).txq ++ [{ flit := f, hop := some (p, f.vc.toNat) }] } := by
  obtain ⟨-, enabled, st, keyed, opened, credits, stays, turn, slot⟩ := h
  obtain ⟨ports, e⟩ := takeHeader_ports st credits
  have die : (accepted s p f).die = s.die := by
    rw [accepted, e]
    rfl
  have product : (accepted s p f).mgt.product = s.mgt.product := by
    rw [accepted, e]
    rfl
  rw [receive_of_keyed enabled st keyed, opened]
  dsimp only
  rw [stays, if_neg (by decide), if_pos turn, State.accept]
  dsimp only
  rw [if_neg (Nat.not_le.mpr slot), ← die, ← product]
  rfl

theorem exec_winData_of_ready (ready : ∀ f, s.admitted p raw = some f → s.winDataReady f = true) :
    exec (.winDataReceive p raw) s = s.linkReceive p 0x20 raw (fun f t => t.deliverWinData f) := by
  refine if_neg fun waits => ?_
  obtain ⟨f, admitted, no⟩ := (Option.any_eq_true _ _).mp waits
  simp [ready f admitted] at no

theorem exec_fwd_of_ready {m : FwdMsg} (ready : ∀ f, s.admitted p raw = some f → ¬ (f.dst.toNat = s.die ∧ s.fwdWaits m = true)) :
    exec (.fwdReceive p raw m) s = s.linkReceive p 0x0A raw (fun f t => t.forwarded f.src.toNat m) := by
  refine if_neg fun waits => ?_
  obtain ⟨f, admitted, held⟩ := (Option.any_eq_true _ _).mp waits
  exact ready f admitted (by simpa using held)

/-- A flit on a channel is received by its row, unless what it asks must wait. -/
theorem carries_linkReceive (h : Carries p raw typ c) (channel : 8 < typ) :
    ∃ k, (∀ f, s.admitted p raw = some f → ¬ Delayed s f c) → exec c s = s.linkReceive p typ raw k := by
  cases h with
  | idle => omega
  | probe => omega
  | echo => omega
  | nak => omega
  | sync => omega
  | lost => exact ⟨_, fun _ => rfl⟩
  | grant => exact ⟨_, fun _ => rfl⟩
  | revoke => exact ⟨_, fun _ => rfl⟩
  | revokeAck => exact ⟨_, fun _ => rfl⟩
  | sleepReq => exact ⟨_, fun _ => rfl⟩
  | sleepAck => exact ⟨_, fun _ => rfl⟩
  | audit => exact ⟨_, fun _ => rfl⟩
  | fwd => exact ⟨_, fun ready => exec_fwd_of_ready ready⟩
  | gather => exact ⟨_, fun _ => rfl⟩
  | winAck => exact ⟨_, fun _ => rfl⟩
  | verdict => exact ⟨_, fun _ => rfl⟩
  | winData => exact ⟨_, fun ready => exec_winData_of_ready fun f e => by simpa [Delayed] using ready f e⟩

/-- What a flit asks of another die never waits here. -/
theorem not_delayed_of_dst (h : f.dst.toNat ≠ s.die) : ¬ Delayed s f c := by
  unfold Delayed
  split
  · simp [State.winDataReady, h]
  · simp [h]
  · exact not_false

/-! ### The rows, assembled -/

theorem linkReceive_of_accepts (h : Accepts s p typ raw f) (k : Flit → State → State) :
    s.linkReceive p typ raw k = .next (delivered s p f (k f)) := by
  obtain ⟨taken, here⟩ := h
  have arrives : s.arrives p typ raw = true := taken.1
  rw [linkReceive_arrives _ _ _ _ _ arrives, receive_of_taken taken, if_pos here]

theorem admitted_of_taken (h : Taken s p typ raw f) : s.admitted p raw = some f := by
  obtain ⟨-, enabled, st, keyed, opened, -⟩ := h
  rw [admitted_of_keyed enabled st keyed, opened]

/-- A flit of another die takes the queue of the port towards it (R42, R43). -/
theorem carries_passed_on (h : Carries p raw typ c) (channel : 8 < typ) (taken : Taken s p typ raw f) (other : f.dst.toNat ≠ s.die) :
    exec c s = .next (
      let t := accepted s p f
      let q := portToward s.mgt.product.toNat s.die f.dst.toNat 0
      t.setPort q { t.port q with txq := (t.port q).txq ++ [{ flit := f, hop := some (p, f.vc.toNat) }] }) := by
  obtain ⟨k, run⟩ := carries_linkReceive (s := s) h channel
  have arrives : s.arrives p typ raw = true := taken.1
  have ready (g : Flit) (e : s.admitted p raw = some g) : ¬ Delayed s g c := by
    obtain rfl : f = g := Option.some.inj ((admitted_of_taken taken).symm.trans e)
    exact not_delayed_of_dst other
  rw [run ready, linkReceive_arrives _ _ _ _ _ arrives, receive_of_taken taken, if_neg other]

/-- A flit that is not taken (R298, R302). -/
theorem carries_not_taken (h : Carries p raw typ c) (channel : 8 < typ) (arrives : s.arrives p typ raw = true)
    (enabled : (s.port p).enabled = true) (st : (s.port p).st = .up) :
    ((readFlit raw).keyed = false → exec c s = .next (s.rxDiscard p)) ∧
    ((readFlit raw).keyed = true → (s.port p).open raw = none → exec c s = .next (s.retrain p causeAuth)) ∧
    ((readFlit raw).keyed = true → (s.port p).open raw = some f → ¬ Delayed s f c →
      ((s.takeHeader p f).port p).st = .up → f.seq ≠ seqOf (((s.takeHeader p f).port p).rxSeq + 1) →
        exec c s = .next (if seqAfter f.seq (seqOf ((s.takeHeader p f).port p).rxSeq) then (s.takeHeader p f).sendCtl p 3
          else s.takeHeader p f)) := by
  obtain ⟨k, run⟩ := carries_linkReceive (s := s) h channel
  rw [linkReceive_arrives _ _ _ _ _ arrives] at run
  refine ⟨fun keyed => ?_, fun keyed forged => ?_, fun keyed opened prompt stays turn => ?_⟩
  · rw [run (by simp [admitted_of_unkeyed keyed]), receive_of_unkeyed enabled st keyed]
  · rw [run (by simp [admitted_of_keyed enabled st keyed, forged]), receive_of_forged enabled st keyed forged]
  · have ready (g : Flit) (e : s.admitted p raw = some g) : ¬ Delayed s g c := by
      obtain rfl : f = g := Option.some.inj (opened.symm.trans ((admitted_of_keyed enabled st keyed).symm.trans e))
      exact prompt
    rw [run ready, receive_of_outOfTurn enabled st keyed opened stays turn]
    rfl

end

/-! ### Forwarded messages (R227 to R229) -/

section
variable {t : State} {d q : Nat} {index : Word} {bytes : List Byte}

theorem forwardedEntry_stale (h : index ≠ (t.queue q).fetched) : t.forwardedEntry q index bytes = t := by
  have stale : (index != (t.queue q).fetched) = true := by simpa using h
  unfold State.forwardedEntry
  dsimp only
  rw [stale, Bool.or_true]
  rfl

theorem forwardedEntry_next (turn : index = (t.queue q).fetched) (enable : (t.queue q).enable = true)
    (owner : ∀ p, t.queueOwner q = some p → (t.part p).state ≠ .clearing) (keeps : (t.queue q).discarding = false)
    (runs : (t.queue q).halted = false) (room : (t.queue q).entries.length < 8) :
    t.forwardedEntry q index bytes =
      ((t.setQueue q { t.queue q with fetched := (t.queue q).fetched + 1,
                                      entries := (t.queue q).entries ++ [slice bytes 0 64] }).headArrive q).tellLead q := by
  have short : ¬ ((t.queue q).halted || decide (8 ≤ (t.queue q).entries.length)) = true := by simp [runs, room]
  have go (closing : Bool) (h : closing = false) : ¬ (!(t.queue q).enable || closing || index != (t.queue q).fetched) = true := by
    simp [enable, h, turn]
  refine (if_neg (go _ ?_)).trans ((if_neg (ne_true_of_eq_false keeps)).trans (if_neg short))
  cases own : t.queueOwner q with
  | none => rfl
  | some p => simpa using owner p own

end

/-- Settles O52, a flit's fate by `State.receive` and each message by its row. -/
theorem flitsDelivered : Obligations.FlitsDelivered := by
  unfold Obligations.FlitsDelivered
  refine ⟨fun p raw f s => ⟨fun h ready => ?_, fun h => ?_, fun m h ready => ?_, fun typ c h channel arrives => ⟨?_, ?_⟩⟩, ?_⟩
  · rw [exec_winData_of_ready, linkReceive_of_accepts h]
    intro g e
    obtain rfl : f = g := Option.some.inj ((admitted_of_taken h.1).symm.trans e)
    exact ready
  · exact linkReceive_of_accepts h _
  · rw [exec_fwd_of_ready (by simp [ready]), linkReceive_of_accepts h]
  · exact carries_passed_on h channel
  · exact carries_not_taken h channel arrives
  · intro t d q index bytes k
    refine ⟨forwardedEntry_stale, forwardedEntry_next, fun _ => rfl, fun _ _ => rfl, fun machine lead => ?_,
      fun fn off size => ⟨fun _ => rfl, rfl⟩, fun mask dies other mine => ?_⟩
    · have isLead : (t.mgt.machineMode && t.mgt.machineLead) = true := by rw [machine, lead]; rfl
      exact ⟨fun _ _ => if_pos isLead, fun _ _ _ => if_pos isLead, fun _ _ => if_pos isLead⟩
    · have run : t.forwarded d (.join mask dies) = t.joined mask dies := if_pos ⟨other, mine⟩
      rw [run]
      dsimp only
      rw [joined_mgt]
      exact ⟨rfl, decide_eq_false other, rfl⟩

end Sys2Proof.Machine
end

section
/-! PROOF. The host link's requests, and the statement about them (O35). -/

namespace Sys2Proof.Machine

open Sys2Proof.Claims

section
variable {s : State} {fn : Nat} {a : Acc}

/-! ### Configuration requests (R48, R430, R445) -/

theorem exec_pcieConfigRequest_unsupported (c : ConfigAct) (aux : s.die ≠ 0) (vf : fn ≠ 0) :
    exec (.pcieConfigRequest fn c) s = .next (s.emit (.unsupported fn)) :=
  congrArg Host.Outcome.next (if_pos (by simp [aux, vf]))

theorem exec_pcieConfigRequest_answered (c : ConfigAct) (here : s.die = 0 ∨ fn = 0) :
    exec (.pcieConfigRequest fn c) s =
      .next (if s.mgt.cfgReady then (s.configure fn c).emit (.configAnswer fn false) else s.emit (.configAnswer fn true)) :=
  congrArg Host.Outcome.next (if_neg (by rcases here with h | h <;> simp [h]))

/-- Configuration space after the write of one function's. -/
theorem config_set (s : State) (fn f : Nat) (x : Pcie) :
    ({ s with pcie := Table.set {} s.pcie fn x } : State).config f = if f = fn then x else s.config f :=
  Table.get_set (α := Pcie) {} s.pcie fn f x

/-! ### BAR2 (R229) -/

theorem bar2_of_frozen {write : Bool} {data : BitVec 64} (taken : s.noRequests a = false) (path : s.frozenPath a = true) :
    s.bar2 a write data = if write then s.logAccess causeHeld a true else s := by
  simp [State.bar2, taken, path]

theorem bar2_of_single {write : Bool} {data : BitVec 64} (taken : s.noRequests a = false) (path : s.frozenPath a = false)
    (single : s.mgt.machineMode = false) :
    s.bar2 a write data = if write then s.logAccess causeState a true else (s.logAccess causeState a false).answer a onesData := by
  simp [State.bar2, taken, path, single]

theorem bar2_of_other {write : Bool} {data : BitVec 64} (taken : s.noRequests a = false) (path : s.frozenPath a = false)
    (machine : s.mgt.machineMode = true) (lead : s.mgt.machineLead = true)
    (member : s.mgt.machineMask.getLsbD (a.off / if a.fn = 0 then 2 ^ 26 else 2 ^ 20) = true)
    (other : (a.off / if a.fn = 0 then 2 ^ 26 else 2 ^ 20) ≠ s.die) :
    s.bar2 a write data = s.forward (a.off / if a.fn = 0 then 2 ^ 26 else 2 ^ 20) .access
      [a.fn, b2n write, a.off % if a.fn = 0 then 2 ^ 26 else 2 ^ 20, data.toNat, a.size, a.en] := by
  unfold State.bar2
  dsimp only
  rw [taken, path, machine, lead, member, if_neg other]
  rfl

/-! ### Writes through an auxiliary port (R48) -/

/-- An auxiliary port takes requests in its first 4 KiB only. -/
theorem off_lt_of_auxiliary (aux : s.auxiliary a = true) (hif : a.master = .hif) (taken : s.noRequests a = false) : a.off < 0x1000 := by
  by_contra far
  have beyond : decide (0x1000 ≤ a.off) = true := decide_eq_true (Nat.not_lt.mp far)
  simp [State.noRequests, hif, aux, beyond] at taken

theorem busWrite_auxiliary (h : a.WholeWord) (aux : s.auxiliary a = true) (taken : s.noRequests a = false) (path : s.frozenPath a = false)
    (data : BitVec 64) : s.busWrite a data = s.logAccess causeState a true := by
  simp [State.busWrite, taken, path, aux, h.shapeFault, h.narrowWrite]

theorem exec_registerWrite_auxiliary {o : Nat} (v : BitVec 64) (other : s.die ≠ 0) (aligned : o % 4 = 0)
    (taken : s.noRequests (accOf .hif 0 o) = false) (path : s.frozenPath (accOf .hif 0 o) = false) :
    exec (.registerWrite (accOf .hif 0 o) v) s = .next (s.logAccess causeState (accOf .hif 0 o) true) := by
  have aux : s.auxiliary (accOf .hif 0 o) = true := by simp [State.auxiliary, accOf, other]
  have word := accOf_wholeWord (m := .hif) (fn := 0) (o := o) aligned
  have near := off_lt_of_auxiliary aux rfl taken
  rw [exec_registerWrite_accOf, writeAccess_word word (by omega), busWrite_auxiliary word aux taken path]

end

/-- Settles O35, a lemma per kind of request. -/
theorem hostLink : Obligations.HostLink := by
  unfold Obligations.HostLink
  intro fn s
  refine ⟨fun c => exec_pcieConfigRequest_unsupported c, fun c here => ⟨fun early => ?_, fun ready => ?_⟩, fun b => ⟨rfl, ?_, ?_⟩,
    fun early => ?_, fun a hif held => ?_, ?bar2, fun o v => exec_registerWrite_auxiliary v⟩
  · rw [exec_pcieConfigRequest_answered c here, early]
    rfl
  · rw [exec_pcieConfigRequest_answered c here, ready]
    rfl
  · rw [config_set, if_pos rfl]
  · intro f ne
    rw [config_set, if_neg ne]
  · exact if_neg (by simp [early])
  · have frozen : (a.master == .hif && s.frozenPath a) = true := by
      simp [State.frozenPath, hif, masterNum, held]
    have answered (t : State) : t.answer a onesData = t.emit (.readAnswer a.fn (BitVec.ofNat 64 (2 ^ 64 - 1))) := by
      simp [State.answer, hif, onesData]
    exact (if_pos frozen).trans (by rw [answered])
  case bar2 =>
    intro write off data a size taken
    refine ⟨fun path => ?_, fun path => ⟨fun single => ?_, fun machine lead member other => ?_⟩⟩
    · exact congrArg Host.Outcome.next (bar2_of_frozen taken path)
    · exact congrArg Host.Outcome.next (bar2_of_single taken path single)
    · refine congrArg Host.Outcome.next ((bar2_of_other taken path machine lead member other).trans ?_)
      have same : (BitVec.ofNat 64 data.toNat).toNat = data.toNat := by
        rw [BitVec.toNat_ofNat]
        omega
      rw [same]
      cases write <;> rfl

end Sys2Proof.Machine
end

section
/-! PROOF. Pins, their units and the fans, and the statement about them (O32). -/

namespace Sys2Proof.Machine

open Sys2Proof.Claims

/-! ### Writes of the pins' registers (R481, R488) -/

section
variable {s : State} {m : Master} {fn k : Nat}

/-- The pins' block ends below DBG_RELEASE in every function's space (R524). -/
theorem accOf_off_pins (m : Master) (fn : Nat) {o : Nat} (low : 0x50000 ≤ o) (high : o < 0x51000) : (accOf m fn o).off ≠ 0x500020 := by
  by_cases pf : fn = 0
  · simp only [accOf, accAt, pf, if_true]
    omega
  · have vf : (accOf m fn o).off = o - 0x50000 + 0x20000 := by
      simp only [accOf, accAt, if_neg pf, vfOffset]
      rw [if_neg (by omega), if_pos (by omega)]
    omega

/-- GOOSE has no meaning of its own for a register of the pins. -/
theorem writeOutReg_gpioCfg (a : Acc) (v : Nat) : s.writeOutReg a (.gpioCfg k) v = s.writeCfg a k v := by
  change (if a.master = .goose then s else s).writeCfg a k v = _
  rw [ite_self]

theorem writeOutReg_fanDuty (a : Acc) (v : Nat) :
    s.writeOutReg a (.fanDuty k) v = s.ruled a s.leadDie (fun s => s.writeFanDuty k (BitVec.ofNat 8 v)) := by
  change (if a.master = .goose then s else s).writeGpio a (.fanDuty k) v = _
  rw [ite_self]
  rfl

theorem exec_gpioCfgWrite_of_reaches (hk : k < 24) (h : Reaches s m fn (0x50100 + 4 * k) true (.gpioCfg k)) (v : Word) :
    exec (.gpioCfgWrite m fn k v) s = .next (s.writeCfg (accOf m fn (0x50100 + 4 * k)) k v.toNat) := by
  change s.put m fn (0x50100 + 4 * k) v.toNat = _
  rw [put_of_reaches h (accOf_off_pins m fn (by omega) (by omega)) v.isLt, writeOutReg_gpioCfg]

theorem exec_trayFanDutyWrite_of_reaches (hk : k < 4) (h : Reaches s .hif fn (0x50800 + 4 * k) true (.fanDuty k)) (duty : BitVec 8) :
    exec (.trayFanDutyWrite fn k duty) s =
      .next (s.ruled (accOf .hif fn (0x50800 + 4 * k)) s.leadDie (fun s => s.writeFanDuty k (BitVec.ofNat 8 duty.toNat))) := by
  have fits : duty.toNat < 2 ^ 32 := lt_trans duty.isLt (by decide)
  change s.put .hif fn (0x50800 + 4 * k) duty.toNat = _
  rw [put_of_reaches h (accOf_off_pins .hif fn (by omega) (by omega)) fits, writeOutReg_fanDuty]

end

/-! ### GPIO_CFG_k (R488, R496 to R498) -/

/-- A number's low bits are its BitVec. -/
theorem ofNat_mod_self (n x : Nat) : BitVec.ofNat n (x % 2 ^ n) = BitVec.ofNat n x :=
  BitVec.eq_of_toNat_eq (by rw [BitVec.toNat_ofNat, BitVec.toNat_ofNat, Nat.mod_mod])

section
variable {p : Pin} {w : Nat}

/-- A value with no reserved code gives every field of its pin. -/
theorem configure_of_clean (func : w % 64 ≤ 0x14) (pinOwner : p.owner.toNat < 0x10 ∨ w % 64 = 0) (pull : w / 2 ^ 11 % 4 ≠ 3)
    (irq : w / 2 ^ 13 % 8 ≤ 5) :
    p.configure w = { p with func := BitVec.ofNat 6 w, oe := bit w 6, drive := BitVec.ofNat 2 (w / 2 ^ 7), slew := bit w 9,
                             od := bit w 10, pull := BitVec.ofNat 2 (w / 2 ^ 11), irq := BitVec.ofNat 3 (w / 2 ^ 13),
                             debounce := BitVec.ofNat 8 (w / 2 ^ 16), sleep := BitVec.ofNat 2 (w / 2 ^ 24), configured := true } := by
  have ok : (decide (w % 64 ≤ 0x14) && (decide (p.owner.toNat < 0x10) || w % 64 == 0)) = true := by
    rcases pinOwner with h | h <;> simp [func, h]
  have pull' : ¬ bits w 12 11 = 3 := pull
  have irq' : ¬ 5 < bits w 15 13 := Nat.not_lt.mpr irq
  unfold Pin.configure
  dsimp only
  rw [if_pos ok, if_neg pull', if_neg irq']
  simp only [bits, Nat.reduceAdd, Nat.reduceSub, ofNat_mod_self, show w % 64 = w % 2 ^ 6 from rfl]

theorem cfgReserved_of_clean (func : w % 64 ≤ 0x14) (pinOwner : p.owner.toNat < 0x10 ∨ w % 64 = 0) (pull : w / 2 ^ 11 % 4 ≠ 3)
    (irq : w / 2 ^ 13 % 8 ≤ 5) : p.cfgReserved w = false := by
  have pull' : bits w 12 11 ≠ 3 := pull
  have irq' : bits w 15 13 ≤ 5 := irq
  unfold Pin.cfgReserved
  rcases pinOwner with h | h <;> simp [func, pull', irq', h]

end

section
variable {s : State} {a : Acc} {k v : Nat}

theorem writeCfg_of_off (dead : s.pinAlive k = false) : s.writeCfg a k v = s.logAccess causeState a true :=
  if_neg (by simp [dead])

theorem writeCfg_of_owned (live : s.pinAlive k = true) (own : s.ownsPin (writerOf a) k = true) :
    s.writeCfg a k v = s.ruled a (!(decide (k < 8) && s.power.wakePins.getLsbD k)) (fun s =>
      (s.configurePin k v).logIf ((s.pin k).cfgReserved v) causeReserved a) :=
  (if_pos live).trans (if_neg (by simp [own]))

theorem writeCfg_of_denied (live : s.pinAlive k = true) (own : s.ownsPin (writerOf a) k = false) :
    s.writeCfg a k v = { s with gpio := { s.gpio with deny := satInc s.gpio.deny } } :=
  (if_pos live).trans ((if_pos (by simp [own])).trans (if_neg (by decide)))

end

/-! ### Levels, captures and seconds (R491, R494, R520) -/

section
variable {s : State}

theorem exec_gpioLevelAccept {k : Nat} {level : Bool} (hk : k < 24) (up : s.boot.porHigh = true) (live : k < 8 ∨ s.on 32 = true)
    (new : s.gpio.level.getLsbD k ≠ level) :
    exec (.gpioLevelAccept k level) s = .next (
      let g := s.gpio
      let p := s.pin k
      State.edgeRaise s (({ s with gpio := { g with level := setBit g.level k level, rise := if level then setBit g.rise k true else g.rise,
                                                    fall := if level then g.fall else setBit g.fall k true } } : State).setPin k
        (if level then { p with riseCount := satInc p.riseCount } else { p with fallCount := satInc p.fallCount })) k) := by
  have go : (s.boot.porHigh && s.pinAlive k && decide (k < 24)) = true := by
    rcases live with h | h <;> simp [State.pinAlive, up, hk, h]
  exact (if_pos go).trans (congrArg Host.Outcome.next (if_neg new))

theorem inputPin_of_enabled {f : Nat} (enabled : (Table.get 0 s.gpio.isel f).getLsbD 7 = true) (on : s.on 32 = true) :
    (s.inputPin f).isSome = true := by
  have seven : bit (Table.get 0 s.gpio.isel f).toNat 7 = true := by
    rw [bit, ← enabled, BitVec.getLsbD, Nat.testBit_eq_decide_div_mod_eq]
  unfold State.inputPin
  dsimp only
  rw [seven, on]
  rfl

/-- A sampled edge counts for every tachometer that reads its pin. -/
theorem foldl_pulses (t : Nat) (ns : List Nat) (nodup : ns.Nodup) (g : Gpio) :
    let h := ns.foldl (fun g n => { g with pulses := Table.set 0 g.pulses n (Table.get 0 g.pulses n + 1),
                                           fanPulse := Table.set 0 g.fanPulse n t, fanStalled := setBit g.fanStalled n false }) g
    h = { g with pulses := h.pulses, fanPulse := h.fanPulse, fanStalled := h.fanStalled } ∧
      ∀ n, Table.get 0 h.pulses n = if n ∈ ns then Table.get 0 g.pulses n + 1 else Table.get 0 g.pulses n := by
  induction ns generalizing g with
  | nil => exact ⟨rfl, fun n => by simp⟩
  | cons x l ih =>
    obtain ⟨notin, nodup⟩ := List.nodup_cons.mp nodup
    obtain ⟨same, count⟩ := ih nodup { g with pulses := Table.set 0 g.pulses x (Table.get 0 g.pulses x + 1),
                                              fanPulse := Table.set 0 g.fanPulse x t, fanStalled := setBit g.fanStalled x false }
    refine ⟨same, fun n => (count n).trans ?_⟩
    rw [Table.get_set]
    by_cases h : n = x
    · subst h
      simp [notin]
    · simp [h]

/-- The counts of the last second. -/
theorem get_foldl_set {w : Nat} (f : Nat → BitVec w) (t : Table (BitVec w)) (l : List Nat) (n : Nat) (mem : n ∈ l) :
    Table.get 0 (l.foldl (fun t n => Table.set 0 t n (f n)) t) n = f n := by
  induction l using List.reverseRecOn with
  | nil => cases mem
  | append_singleton l x ih =>
    rw [List.foldl_append]
    by_cases h : n = x
    · subst h
      exact Table.get_set_same _ _ _ _
    · refine (Table.get_set_ne _ _ _ _ _ h).trans (ih ?_)
      simpa [h] using mem

theorem advanceTo_eq (s : State) (t : Nat) : s.advanceTo t = { s with time := max s.time t } := by
  unfold State.advanceTo
  split
  · next h => rw [Nat.max_eq_right (Nat.le_of_lt h)]
  · next h => rw [Nat.max_eq_left (Nat.not_lt.mp h)]

/-- A second begins at a whole number of seconds (R494). -/
theorem atSecond_eq (s : State) (k : Nat) :
    ∃ n, s.atSecond k = { s with time := n * second, secDone := Table.set 0 s.secDone k n } := by
  have cover : s.time ≤ (s.time + second - 1) / second * second := by
    have := Nat.div_add_mod (s.time + second - 1) second
    have := Nat.mod_lt (s.time + second - 1) (show 0 < second by decide)
    rw [Nat.mul_comm]
    omega
  refine ⟨Nat.max (Table.get 0 s.secDone k + 1) ((s.time + second - 1) / second), ?_⟩
  have late : s.time ≤ Nat.max (Table.get 0 s.secDone k + 1) ((s.time + second - 1) / second) * second :=
    cover.trans (Nat.mul_le_mul_right _ (Nat.le_max_right _ _))
  rw [State.atSecond, advanceTo_eq, Nat.max_eq_right late]

end

section
variable {s : State}

theorem exec_tachSecond_off (runs : s.timeRuns = true) (off : s.on 32 = false) : exec .tachSecond s = .next (s.atSecond 0) := by
  have off' : (s.atSecond 0).on 32 = false := by
    obtain ⟨n, e⟩ := atSecond_eq s 0
    rw [e]
    exact off
  exact (if_neg (by simp [runs])).trans (if_pos (by simp [off']))

theorem exec_tachSecond_on (runs : s.timeRuns = true) (on : s.on 32 = true) :
    exec .tachSecond s = .next { s.atSecond 0 with gpio := { s.gpio with
      tach := (List.range 4).foldl (fun t n =>
        Table.set 0 t n (BitVec.ofNat 16 (Nat.min 0xFFFF (Table.get 0 s.gpio.pulses n)))) s.gpio.tach, pulses := [] } } := by
  obtain ⟨n, e⟩ := atSecond_eq s 0
  have on' : (s.atSecond 0).on 32 = true := by
    rw [e]
    exact on
  have gpio : (s.atSecond 0).gpio = s.gpio := by rw [e]
  rw [← gpio]
  exact (if_neg (by simp [runs])).trans (if_neg (by simp [on']))

theorem exec_syncOutPulse_on (runs : s.timeRuns = true) (on : s.on 32 = true) :
    exec .syncOutPulse s =
      .next { s.atSecond 1 with gpio := { s.gpio with syncHigh := true, syncAt := (s.atSecond 1).time } } := by
  have gpio : (s.atSecond 1).gpio = s.gpio := by
    obtain ⟨n, e⟩ := atSecond_eq s 1
    rw [e]
  rw [← gpio]
  exact if_neg (by simp [runs, on])

theorem exec_captureEdge_of_enabled {f : Nat} (unit : 11 ≤ f ∧ f < 15 ∨ f = 17) (enabled : (Table.get 0 s.gpio.isel f).getLsbD 7 = true)
    (on : s.on 32 = true) :
    exec (.captureEdge f) s = .next { s with freeCtr := s.freeCtr + 1, gpio := { s.gpio with
      capt := Table.set 0 s.gpio.capt (if f = 17 then 4 else f - 11)
        (BitVec.ofNat 64 (s.time + (5 + (s.freeValue 2).toNat % 3))) } } := by
  have go : ((s.inputPin f).isSome && (f == 17 || decide (11 ≤ f ∧ f < 15))) = true := by
    rw [inputPin_of_enabled enabled on]
    rcases unit with h | h <;> simp [h]
  exact if_pos go

/-! ### Fans (R50, R51, R55) -/

theorem leadDie_of_slot (lead : s.mgt.slot = 0) : s.leadDie = true := by simp [State.leadDie, lead]

theorem exec_fanTachUpdate_of_lead {k : Nat} (hk : k < 4) (lead : s.mgt.slot = 0) (ready : s.mgt.stage = .ready) :
    exec (.fanTachUpdate k) s = .next { s with gpio := { s.gpio with
      fanRpm := Table.set 0 s.gpio.fanRpm k (BitVec.ofNat 16 (Nat.min 0xFFFF ((Table.get 0 s.gpio.tach k).toNat * 30))) } } :=
  if_pos (by simp [leadDie_of_slot lead, ready, hk])

/-- A stalled fan's event, on a state whose pins and temperature are those of `s`. -/
theorem fanStall_thermEvent {t : State} (k : Nat) (gpio : t.gpio = s.gpio) (power : t.power = s.power) :
    ({ t with gpio := { t.gpio with fanStalled := setBit t.gpio.fanStalled k true } } : State).thermEvent 2 k =
      ({ t with gpio := { s.gpio with fanStalled := setBit s.gpio.fanStalled k true } } : State).raiseEvent
        16 0x0502 noQueue 0 [2, BitVec.ofNat 8 k, s.power.tempC] := by
  rw [← gpio, ← power]
  rfl

theorem exec_fanStall_of_lead {k : Nat} (hk : k < 4) (lead : s.mgt.slot = 0) (ready : s.mgt.stage = .ready) (duty : s.fanDuty k ≠ 0)
    (turns : s.gpio.fanStalled.getLsbD k = false) :
    exec (.fanStall k) s = .next (
      let t := s.advanceTo (Table.get 0 s.gpio.fanPulse k + 2 * second)
      ({ t with gpio := { s.gpio with fanStalled := setBit s.gpio.fanStalled k true } } : State).raiseEvent
        16 0x0502 noQueue 0 [2, BitVec.ofNat 8 k, s.power.tempC]) := by
  have gpio : (s.advanceTo (Table.get 0 s.gpio.fanPulse k + 2 * second)).gpio = s.gpio := by rw [advanceTo_eq]
  have power : (s.advanceTo (Table.get 0 s.gpio.fanPulse k + 2 * second)).power = s.power := by rw [advanceTo_eq]
  have go : (s.leadDie && s.mgt.stage == .ready && decide (k < 4) && s.fanDuty k != 0 && !s.gpio.fanStalled.getLsbD k) = true := by
    rw [leadDie_of_slot lead, ready, decide_eq_true hk, bne_iff_ne.mpr duty, turns]
    rfl
  exact (if_pos go).trans (congrArg Host.Outcome.next (fanStall_thermEvent k gpio power))

end

/-- Settles O32, a lemma per row. -/
theorem pinUnits : Obligations.PinUnits := by
  unfold Obligations.PinUnits
  refine ⟨?cfg, ?level, ?capture, ?tach, ?second, ?sync, ?pwm, ?fan, ?duty, ?follower⟩
  case cfg =>
    intro m fn k v s hk h p w armed logged taken
    rw [exec_gpioCfgWrite_of_reaches hk h]
    refine ⟨fun main off => ?_, fun live => ⟨fun own arm => ?_, fun own arm func pinOwner pull irq => ?_, fun own => ?_⟩⟩
    · rw [writeCfg_of_off (by simp [State.pinAlive, off, Nat.not_lt.mpr main])]
    all_goals have live' : s.pinAlive k = true := by rcases live with l | l <;> simp [State.pinAlive, l]
    · have arm' : (decide (k < 8) && s.power.wakePins.getLsbD k) = true := arm
      rw [writeCfg_of_owned (a := accOf m fn _) live' own, arm']
      rfl
    · have arm' : (decide (k < 8) && s.power.wakePins.getLsbD k) = false := arm
      rw [writeCfg_of_owned (a := accOf m fn _) live' own, arm']
      dsimp only [State.ruled]
      rw [cfgReserved_of_clean func pinOwner pull irq, State.configurePin, configure_of_clean func pinOwner pull irq]
      rfl
    · rw [writeCfg_of_denied (a := accOf m fn _) live' own]
  case level =>
    intro k level s hk up live new
    exact exec_gpioLevelAccept hk up live new
  case capture =>
    intro f s unit enabled on
    exact ⟨_, by omega, by omega, exec_captureEdge_of_enabled unit enabled on⟩
  case tach =>
    intro k s
    obtain ⟨same, count⟩ := foldl_pulses s.time ((List.range 4).filter (fun n => decide (s.inputPin (7 + n) = some k)))
      (List.nodup_range.filter _) s.gpio
    exact ⟨_, rfl, same, fun n => by rw [count n]; simp⟩
  case second =>
    intro s runs t
    refine ⟨?_, exec_tachSecond_off runs, fun on => ⟨_, exec_tachSecond_on runs on, fun n hn => ?_⟩⟩
    · obtain ⟨n, e⟩ := atSecond_eq s 0
      rw [show t = _ from e]
      exact Nat.mul_mod_left n _
    · exact get_foldl_set _ _ _ n (List.mem_range.mpr hn)
  case sync =>
    intro s runs on
    exact exec_syncOutPulse_on runs on
  case pwm =>
    intro k s hk on
    exact if_pos (by simp [hk, on])
  case fan =>
    intro k s hk lead ready
    exact ⟨exec_fanTachUpdate_of_lead hk lead ready, exec_fanStall_of_lead hk lead ready⟩
  case duty =>
    intro fn k duty s hk h g g' t lead
    rw [exec_trayFanDutyWrite_of_reaches hk h, leadDie_of_slot lead, BitVec.ofNat_toNat, BitVec.setWidth_eq]
    refine congrArg Host.Outcome.next ((if_pos rfl).trans (if_neg ?_))
    simp [leadDie_of_slot lead]
  case follower =>
    intro m fn k duty s hk _ other h
    have fits : duty.toNat < 2 ^ 32 := lt_trans duty.isLt (by decide)
    have notLead : s.leadDie = false := beq_eq_false_iff_ne.mpr other
    rw [exec_registerWrite_accOf, writeAccess_of_reaches h (accOf_off_pins m fn (by omega) (by omega)) fits, writeOutReg_fanDuty, notLead]
    rfl

end Sys2Proof.Machine
end

section
/-! PROOF. Supply and temperature, the resets and the boot, and the statement about them (O42). -/

namespace Sys2Proof.Machine

open Sys2Proof.Claims

/-! ### Readings, alerts and limits (R398, R410, R412, R414, R432) -/

section
variable {s : State}

theorem exec_pmbusTelemetryRead_of_up (up : s.gooseUp = true) (mv ma : Nat) (tempC : Int) :
    exec (.pmbusTelemetryRead mv ma tempC) s = .next { s with power := { s.power with lastMv := mv, lastMa := ma, lastTemp := tempC } } :=
  if_pos up

theorem exec_telemetryUpdate_of_up (up : s.gooseUp = true) (avgW : Nat) (avgC : Int) :
    exec (.telemetryUpdate avgW avgC) s =
      .next { s with power := { s.power with powerW := BitVec.ofNat 10 (Nat.min avgW 0x3FF), tempC := BitVec.ofInt 8 avgC } } :=
  if_pos up

theorem exec_pmbusAlert_of_up (up : s.gooseUp = true) (status : BitVec 16) :
    exec (.pmbusAlert status) s = .next (
      let w := s.power
      (({ s with power := { w with pmbusLast := status, pmbusFault := true, pmbusCount := satInc w.pmbusCount } } : State).raiseEvent
        16 0x0502 noQueue 0 [3, 0, w.tempC]).emit (.pmbus 3 0)) :=
  if_neg (by simp [up])

theorem exec_paceShortfall_of_up (runs : s.power.tripped = false) (up : s.boot.porHigh = true) :
    exec .paceShortfall s = .next (
      let w := s.power
      let t : State := { s with power := { w with shortfall := true, shortCount := satInc w.shortCount,
                                                  shortTold := some (s.time / 10000000) } }
      if w.shortTold = some (s.time / 10000000) then t else t.raiseEvent 16 0x0502 noQueue 0 [4, 0, w.tempC]) := by
  refine (if_neg (by simp [runs, up])).trans (congrArg Host.Outcome.next ?_)
  by_cases again : s.power.shortTold = some (s.time / 10000000)
  · exact (if_pos (decide_eq_true again)).trans (if_pos again).symm
  · exact (if_neg (by simp [again])).trans (if_neg again).symm

theorem exec_powerLimitCheck_of_up (runs : s.power.tripped = false) (avgW : Nat) :
    exec (.powerLimitCheck avgW) s = .next (
      let w := s.power
      let t : State := { s with power := { w with overLimit := decide (w.limitW.toNat < avgW) } }
      if w.limitW.toNat < avgW ∧ w.overLimit = false then t.raiseEvent 16 0x0502 noQueue 0 [1, 0, w.tempC] else t) := by
  refine (if_neg (by simp [runs])).trans (congrArg Host.Outcome.next ?_)
  by_cases high : s.power.limitW.toNat < avgW ∧ s.power.overLimit = false
  · exact (if_pos (by simp [high])).trans (if_pos high).symm
  · exact (if_neg (by simpa using high)).trans (if_neg high).symm

theorem exec_thermalAlert_of_hot (runs : s.power.tripped = false) {avgC : Int} (hot : (s.power.thresholdC.toNat : Int) ≤ avgC)
    (new : s.power.alert = false) :
    exec (.thermalAlert avgC) s = .next (
      let w := s.power
      ({ s with power := { w with alert := true, alertSeen := true, alertCount := satInc w.alertCount } } : State).raiseEvent
        16 0x0502 noQueue 0 [0, 0, w.tempC]) :=
  (if_neg (by simp [runs])).trans ((if_pos hot).trans (if_neg (by simp [new])))

theorem exec_thermalAlert_of_cool (runs : s.power.tripped = false) {avgC : Int}
    (cool : avgC < (s.power.thresholdC.toNat : Int) - s.power.hystC.toNat) :
    exec (.thermalAlert avgC) s = .next { s with power := { s.power with alert := false } } :=
  (if_neg (by simp [runs])).trans ((if_neg (by omega)).trans (if_pos cool))

/-! ### What a reset leaves (R453, R454) -/

theorem alive_of (up : s.boot.porHigh = true) (runs : s.power.tripped = false) : s.alive = true := by
  simp [State.alive, up, runs]

theorem exec_thermalTrip_of_alive {sensorC : Int} (hot : 115 ≤ sensorC) (alive : s.alive = true) :
    ∃ t, exec (.thermalTrip sensorC) s = .next t ∧ t.domains = [] ∧ t.power.trip = true ∧ t.power.tripCount = satInc s.power.tripCount ∧
      t.power.tripped = true ∧ t.fuses = s.fuses ∧ t.flash = s.flash ∧ t.queues = [] ∧ t.hbm = [] ∧ t.scratch = [] ∧ t.time = s.time := by
  refine ⟨_, if_neg ?_, rfl, rfl, rfl, rfl, rfl, rfl, rfl, rfl, rfl, rfl⟩
  simp [alive, Int.not_lt.mpr hot]

/-- A fold over domains that are raised. -/
theorem foldl_beginMove_eq (l : List Nat) (s : State) :
    ∃ u x k, l.foldl (fun s d => s.beginMove d .on true 0) s = { s with up := u, domains := x, ports := k } := by
  refine List.foldlRecOn (motive := fun v : State => ∃ u x k, v = { s with up := u, domains := x, ports := k }) l _
    ⟨s.up, s.domains, s.ports, rfl⟩ ?_
  rintro _ ⟨_, _, _, rfl⟩ d -
  obtain ⟨_, _, _, e⟩ := beginMove_eq { s with up := _, domains := _, ports := _ } d .on true 0
  exact ⟨_, _, _, e⟩

theorem bootLimit_eq (s : State) (b : Board) : ∃ c w, s.bootLimit b = { s with freeCtr := c, power := { s.power with limitW := w } } := by
  unfold State.bootLimit
  dsimp only
  split
  · exact ⟨s.freeCtr, _, rfl⟩
  · split
    · exact ⟨s.freeCtr, _, rfl⟩
    · exact ⟨_, _, rfl⟩

/-- `t` is `s` after steps 3 to 5 of the boot (R440): what they set, and what they leave. -/
structure RomStarted (s t : State) (kind : ResetKind) : Prop where
  resetKind : t.mgt.resetKind = kind
  slot : t.mgt.slot = s.mgt.slot
  tray : t.mgt.tray = s.mgt.tray
  slotRunning : t.mgt.slotRunning = s.mgt.slotRunning
  trngReady : t.mgt.trngReady = s.mgt.trngReady
  porHigh : t.boot.porHigh = true
  origin : t.boot.origin = s.boot.origin
  perstHigh : t.boot.perstHigh = s.boot.perstHigh
  power : ∃ w, t.power = { s.power with limitW := w }
  time : t.time = s.time
  fuses : t.fuses = s.fuses
  flash : t.flash = s.flash
  hbm : t.hbm = s.hbm
  scratch : t.scratch = s.scratch
  queues : t.queues = s.queues
  parts : t.parts = s.parts

theorem RomStarted.recovery {t : State} {kind : ResetKind} (h : RomStarted s t kind) (cause : BitVec 2) :
    RomStarted s (t.freeTaken.enterRecovery cause) kind := by
  obtain ⟨a, b, c, d, e, f, g, i, j, k, l, m, n, o, p, q⟩ := h
  exact ⟨a, b, c, d, e, f, g, i, j, k, l, m, n, o, p, q⟩

/-- The state of `State.romStart` before a RECOVERY. -/
theorem romStart_eq (s : State) (kind : ResetKind) (failed : Bool) :
    ∃ t, RomStarted s t kind ∧ t.mgt.stage = .fwLoad ∧
      s.romStart kind failed = if failed then t.freeTaken.enterRecovery (t.freeValue 2) else t := by
  unfold State.romStart
  dsimp only
  generalize hu : ({ s with mgt := _, boot := _ } : State) = u
  obtain ⟨c, w, limit⟩ := bootLimit_eq u (boardOf s.flash)
  rw [limit]
  generalize hv : ({ u with freeCtr := c, power := { u.power with limitW := w } } : State) = v
  generalize hx : ({ v with store := _ } : State) = x
  obtain ⟨y, d, k, raised⟩ := foldl_beginMove_eq
    ([20, 21] ++ ((List.range 10).filter (fun p => v.mgt.portWired.getLsbD p)).map (· + 22)) x
  rw [raised]
  refine ⟨_, ?_, ?_, rfl⟩
  · subst hx hv hu
    exact ⟨rfl, rfl, rfl, rfl, rfl, rfl, rfl, rfl, ⟨w, rfl⟩, rfl, rfl, rfl, rfl, rfl, rfl, rfl⟩
  · subst hx hv hu
    rfl

theorem romStarted_of_romStart (s : State) (kind : ResetKind) (failed : Bool) : RomStarted s (s.romStart kind failed) kind := by
  obtain ⟨t, started, -, e⟩ := romStart_eq s kind failed
  rw [e]
  split
  · exact started.recovery _
  · exact started

theorem romStart_stage (s : State) (kind : ResetKind) : (s.romStart kind false).mgt.stage = .fwLoad := by
  obtain ⟨t, -, stage, e⟩ := romStart_eq s kind false
  rw [e]
  exact stage

/-- A cold reset that is not a trip's (R434, R440). -/
theorem exec_brownout_of_up (up : s.boot.porHigh = true) (slot tray : BitVec 3) (xtal : Bool) :
    ∃ t, exec (.brownout slot tray xtal) s = .next t ∧ t.power.brownout = true ∧ t.power.brownCount = satInc s.power.brownCount ∧
      t.power.inLp = s.power.lp ∧ t.power.trip = s.power.trip ∧ t.fuses = s.fuses ∧ t.flash = s.flash ∧
      (s.power.tripped = false → t.mgt.resetKind = .brownout ∧ t.mgt.slot = slot ∧ t.mgt.tray = tray ∧ t.hbm = [] ∧ t.scratch = [] ∧
        t.queues = [] ∧ t.parts = []) := by
  by_cases stopped : s.power.tripped = true
  · refine ⟨_, (if_neg (by simp [up])).trans (if_pos stopped), rfl, rfl, rfl, rfl, rfl, rfl, fun runs => ?_⟩
    rw [runs] at stopped
    cases stopped
  · refine ⟨_, (if_neg (by simp [up])).trans (if_neg stopped), ?_⟩
    unfold State.coldStart
    dsimp only
    generalize hu : ({ s.wiped with mgt := _, boot := _, power := _ } : State) = u
    obtain ⟨t, started⟩ : ∃ t, t = u.romStart .brownout s.fwStopped := ⟨_, rfl⟩
    have facts := romStarted_of_romStart u .brownout s.fwStopped
    rw [← started] at facts ⊢
    obtain ⟨w, power⟩ := facts.power
    rw [power, facts.fuses, facts.flash]
    refine ⟨?_, ?_, ?_, ?_, ?_, ?_, fun _ => ⟨facts.resetKind, facts.slot.trans ?_, facts.tray.trans ?_, facts.hbm.trans ?_, facts.scratch.trans ?_,
      facts.queues.trans ?_, facts.parts.trans ?_⟩⟩ <;> rw [← hu] <;> rfl

theorem exec_porNLow_of_long {lowUs : Nat} (long : 1000 ≤ lowUs) :
    ∃ t, exec (.porNLow lowUs) s = .next t ∧ t.boot.porHigh = false ∧ t.mgt.prevTrip = s.power.trip ∧
      t.hbm = [] ∧ t.scratch = [] ∧ t.parts = [] ∧ t.queues = [] ∧ t.fuses = s.fuses ∧ t.flash = s.flash ∧ t.power = {} :=
  ⟨_, if_neg (Nat.not_lt.mpr long), rfl, rfl, rfl, rfl, rfl, rfl, rfl, rfl, rfl⟩

theorem exec_powerOnReset_of_low (low : s.boot.porHigh = false) (verified : s.up.fwFailed = false) (slot tray : BitVec 3) (xtal : Bool) :
    ∃ t, exec (.powerOnReset slot tray xtal) s = .next t ∧ t.boot.porHigh = true ∧ t.time = 0 ∧ t.mgt.stage = .fwLoad ∧
      t.mgt.slot = slot ∧ t.mgt.tray = tray ∧ t.mgt.resetKind = .cold ∧ t.fuses = s.fuses ∧ t.flash = s.flash ∧ t.queues = s.queues := by
  refine ⟨_, if_neg (by simp [low]), ?_⟩
  unfold State.coldStart State.fwStopped
  dsimp only
  rw [verified]
  generalize hu : ({ s with time := 0, up := _, mgt := _, boot := _ } : State) = u
  have facts := romStarted_of_romStart u .cold false
  refine ⟨facts.porHigh, facts.time.trans ?_, romStart_stage u .cold, facts.slot.trans ?_, facts.tray.trans ?_, facts.resetKind,
    facts.fuses.trans ?_, facts.flash.trans ?_, facts.queues.trans ?_⟩ <;> rw [← hu]

/-- A warm reset's state (R454). -/
theorem romStart_warmed (s : State) (xtal : Bool) (kind : ResetKind) :
    let t := (s.warmed xtal).romStart kind false
    t.mgt.resetKind = kind ∧ t.mgt.stage = .fwLoad ∧ t.time = s.time ∧ t.boot.origin = s.time ∧ t.mgt.slotRunning = s.mgt.slotRunning ∧
      t.mgt.trngReady = s.mgt.trngReady ∧ t.mgt.slot = s.mgt.slot ∧ t.mgt.tray = s.mgt.tray ∧ t.power.trip = s.power.trip ∧
      t.hbm = [] ∧ t.scratch = [] ∧ t.parts = [] ∧ t.fuses = s.fuses ∧ t.flash = s.flash ∧ t.boot.perstHigh = s.boot.perstHigh := by
  have facts := romStarted_of_romStart (s.warmed xtal) kind false
  obtain ⟨w, power⟩ := facts.power
  exact ⟨facts.resetKind, romStart_stage _ _, facts.time, facts.origin, facts.slotRunning, facts.trngReady, facts.slot, facts.tray,
    by rw [power]; rfl, facts.hbm, facts.scratch, facts.parts, facts.fuses, facts.flash, facts.perstHigh⟩

theorem exec_warmReset_of_long (alive : s.alive = true) (verified : s.up.fwFailed = false) {lowUs : Nat} (long : 10 ≤ lowUs)
    (xtal : Bool) : exec (.warmReset lowUs xtal) s = .next ((s.warmed xtal).romStart .warmPin false) := by
  refine (if_neg (by simp [alive])).trans ((if_neg (Nat.not_lt.mpr long)).trans ?_)
  rw [State.fwStopped, verified]

theorem exec_perstReset_of_main (alive : s.alive = true) (verified : s.up.fwFailed = false) (high : s.boot.perstHigh = true) (main : s.die = 0)
    (xtal : Bool) :
    exec (.perstReset xtal) s =
      .next ((({ s with boot := { s.boot with perstHigh := false } } : State).warmed xtal).romStart .perst false) := by
  have same : (({ s with boot := { s.boot with perstHigh := false } } : State).alive &&
      decide (({ s with boot := { s.boot with perstHigh := false } } : State).die = 0)) = true := by
    change (s.alive && decide (s.die = 0)) = true
    simp [alive, main]
  refine (if_neg (by simp [high])).trans ((if_pos same).trans ?_)
  change Host.Outcome.next (State.romStart _ .perst s.up.fwFailed) = _
  rw [verified]

theorem exec_perstReset_of_other (high : s.boot.perstHigh = true) (other : s.die ≠ 0) (xtal : Bool) :
    exec (.perstReset xtal) s =
      .next { s with boot := { s.boot with perstHigh := false }, pcie := [], power := { s.power with d3hot := false } } := by
  have port : ¬ (({ s with boot := { s.boot with perstHigh := false } } : State).alive &&
      decide (({ s with boot := { s.boot with perstHigh := false } } : State).die = 0)) = true := by
    change ¬ (s.alive && decide (s.die = 0)) = true
    simp [other]
  exact (if_neg (by simp [high])).trans (if_neg port)

/-! ### Entropy (R370, R371, R450) -/

theorem exec_trngSample_of_few (alive : s.alive = true) (few : s.boot.trngRun + 1 < 1024) :
    exec .trngSample s = .next { s with boot := { s.boot with trngRun := s.boot.trngRun + 1 } } := by
  have count : Nat.min trngNeed (s.boot.trngRun + 1) = s.boot.trngRun + 1 := Nat.min_eq_right (Nat.le_of_lt few)
  refine (if_neg (by simp [alive])).trans ((if_pos ?_).trans ?_)
  · rw [count, decide_eq_true (show s.boot.trngRun + 1 < trngNeed from few), Bool.or_true]
  · rw [count]

theorem exec_trngSample_of_ready (alive : s.alive = true) (full : 1024 ≤ s.boot.trngRun + 1) (new : s.mgt.trngReady = false)
    (nonce : s.mgt.nonce ≠ 0) :
    exec .trngSample s = .next
      ({ s with boot := { s.boot with trngRun := 1024 }, mgt := { s.mgt with trngReady := true } } : State).signedAgain.startKeying := by
  have count : Nat.min trngNeed (s.boot.trngRun + 1) = 1024 := Nat.min_eq_left full
  have kept : (s.mgt.nonce == 0) = false := beq_eq_false_iff_ne.mpr nonce
  change execTrngSample s = _
  unfold execTrngSample
  dsimp only
  rw [count, alive, new, kept]
  rfl

theorem exec_trngTestFail_of_alive (alive : s.alive = true) :
    exec .trngTestFail s = .next
      { s with mgt := { s.mgt with trngReady := false, trngFail := true, trngFailCount := satInc s.mgt.trngFailCount },
               boot := { s.boot with trngRun := 0 } } :=
  if_neg (by simp [alive])

/-! ### The boot (R354, R440 to R442, R451) -/

/-- The slot whose image boots first (R354). -/
def State.firstSlot (s : State) : Bool := if s.boot.cold then s.mgt.activeSlot else s.mgt.slotRunning

theorem firmwareVerified_guard (alive : s.alive = true) (stage : s.mgt.stage = .fwLoad) (new : s.boot.fwDone = false) :
    ¬ (!s.alive || s.mgt.stage != .fwLoad || s.boot.fwDone) = true := by
  simp [alive, stage, new]

theorem exec_firmwareVerified_of_invalid (alive : s.alive = true) (stage : s.mgt.stage = .fwLoad) (new : s.boot.fwDone = false)
    (first : s.imageValid s.firstSlot = false) (other : s.imageValid (!s.firstSlot) = false) :
    exec .firmwareVerified s = .next (s.enterRecovery 1) :=
  (if_neg (firmwareVerified_guard alive stage new)).trans (if_pos (by
    change (!s.imageValid s.firstSlot && !s.imageValid (!s.firstSlot)) = true
    simp [first, other]))

/-- The firmware of slot `run` starts (R354, R412). -/
def State.firmwareRuns (s : State) (run : Bool) : State :=
  State.pmbusSetUp (State.deriveKeys { s with mgt := { s.mgt with slotRunning := run, runningSv := BitVec.ofNat 7 (s.imageSv run) },
                                              boot := { s.boot with fwDone := true } })

theorem exec_firmwareVerified_of_valid (alive : s.alive = true) (stage : s.mgt.stage = .fwLoad) (new : s.boot.fwDone = false)
    (valid : s.imageValid s.firstSlot = true ∨ s.imageValid (!s.firstSlot) = true) :
    exec .firmwareVerified s = .next (s.firmwareRuns (if s.imageValid s.firstSlot then s.firstSlot else !s.firstSlot)) :=
  (if_neg (firmwareVerified_guard alive stage new)).trans (if_neg (by
    change ¬ (!s.imageValid s.firstSlot && !s.imageValid (!s.firstSlot)) = true
    rcases valid with v | v <;> simp [v]))

theorem firmwareRuns_facts (s : State) (run : Bool) :
    let t := s.firmwareRuns run
    t.boot.fwDone = true ∧ t.mgt.slotRunning = run ∧ t.mgt.runningSv = BitVec.ofNat 7 (s.imageSv run) ∧
      t.store.identity = beBytes 48 (privateKey (s.derive textId 48)) ∧ t.store.binding = beBytes 48 (privateKey (s.derive textBind 48)) ∧
      t.store.region = s.derive textFwr 64 ∧ t.store.firmware = [] ∧ Out.pmbus 1 0x80 ∈ t.out :=
  ⟨rfl, rfl, rfl, rfl, rfl, rfl, rfl, List.mem_cons_self⟩

theorem exec_bootDeadline_of_early (alive : s.alive = true) (stage : s.mgt.stage = .rom ∨ s.mgt.stage = .fwLoad) :
    exec .bootDeadline s = .next ((s.advanceTo (s.boot.origin + 38000000)).enterRecovery 2) := by
  refine if_neg ?_
  rcases stage with h | h <;> simp [alive, h]

/-- A flag of a register after it is written. -/
theorem getLsbD_setBit_true {w : Nat} (v : BitVec w) {i : Nat} (h : i < w) : (setBit v i true).getLsbD i = true := by
  simp [setBit, h]

theorem getLsbD_setBit_false {w : Nat} (v : BitVec w) (i : Nat) : (setBit v i false).getLsbD i = false := by
  by_cases h : i < w
  · simp [setBit, h]
  · exact BitVec.getLsbD_of_ge _ _ (Nat.not_lt.mp h)

/-- A domain that is set, in a state whose boot goes on. -/
theorem domSt_setDomain_boot (s : State) (d : Nat) (x : Domain) (b : Boot) (m : Mgt) :
    ({ s.setDomain d x with boot := b, mgt := m } : State).domSt d = x.st :=
  congrArg Domain.st (Table.get_set_same (α := Domain) {} s.domains d x)

theorem exec_hbmTrainingDone_of_trained (alive : s.alive = true) {stack : Nat} (hs : stack < 2) (new : s.boot.stackDone.getLsbD stack = false)
    (stage : s.mgt.stage ≠ .rom) :
    ∃ t, exec (.hbmTrainingDone stack true) s = .next t ∧ t.domSt (20 + stack) = .on ∧ t.boot.stackDone.getLsbD stack = true ∧
      t.mgt.hbmFail.getLsbD stack = false := by
  have guard : ¬ (!s.alive || decide (1 < stack) || s.boot.stackDone.getLsbD stack || s.mgt.stage == .rom) = true := by
    rw [alive, decide_eq_false (by omega), new, beq_eq_false_iff_ne.mpr stage]
    decide
  refine ⟨_, (if_neg guard).trans (if_neg (by simp)), ?_, getLsbD_setBit_true _ hs, getLsbD_setBit_false _ _⟩
  exact domSt_setDomain_boot s (20 + stack) _ _ _

/-! ### READY (R440 step 9) -/

/-- A pin whose edges are cleared and whose interrupt is none of the levels' has nothing to report. -/
theorem livePending_of_cleared {k : Nat} (irq : (s.pin k).irq.toNat ≤ 3) (rise : s.gpio.rise.getLsbD k = false)
    (fall : s.gpio.fall.getLsbD k = false) : s.livePending k = false := by
  have none_ : s.pinPending k = false := by
    unfold State.pinPending
    dsimp only
    split
    · exact rise
    · exact fall
    · rw [rise, fall]; rfl
    · next h => omega
    · next h => omega
    · rfl
  rw [State.livePending, none_, Bool.and_false]

theorem configurePin_of_cleared {k v : Nat} (irq : bits v 15 13 ≤ 3) (rise : s.gpio.rise.getLsbD k = false)
    (fall : s.gpio.fall.getLsbD k = false) : s.configurePin k v = s.setPin k ((s.pin k).configure v) := by
  have code : ((s.pin k).configure v).irq.toNat ≤ 3 := by
    have field : ((s.pin k).configure v).irq = BitVec.ofNat 3 (bits v 15 13) := if_neg (by omega)
    rw [field, BitVec.toNat_ofNat]
    omega
  have quiet : (s.setPin k ((s.pin k).configure v)).livePending k = false := by
    refine livePending_of_cleared ?_ rise fall
    rwa [State.pin_setPin_same]
  rw [State.configurePin, State.edgeRaise, quiet, Bool.not_false, Bool.or_true]
  rfl

theorem resetPin_rise (s : State) (k : Nat) : (s.resetPin k).gpio.rise.getLsbD k = false := getLsbD_setBit_false _ _

theorem resetPin_fall (s : State) (k : Nat) : (s.resetPin k).gpio.fall.getLsbD k = false := getLsbD_setBit_false _ _

/-- `t` differs from `s` in its pins and in which free values are taken. -/
def PinsOnly (s t : State) : Prop := ∃ c g, t = { s with freeCtr := c, gpio := g }

theorem PinsOnly.refl (s : State) : PinsOnly s s := ⟨s.freeCtr, s.gpio, rfl⟩

theorem PinsOnly.trans {s t u : State} (h : PinsOnly s t) (k : PinsOnly t u) : PinsOnly s u := by
  obtain ⟨_, _, rfl⟩ := h
  obtain ⟨_, _, rfl⟩ := k
  exact ⟨_, _, rfl⟩

theorem PinsOnly.foldl_mem {f : State → Nat → State} {l : List Nat} (h : ∀ s x, x ∈ l → PinsOnly s (f s x)) (s : State) :
    PinsOnly s (l.foldl f s) :=
  List.foldlRecOn (motive := fun t : State => PinsOnly s t) l f (.refl s) fun _ e x mem => e.trans (h _ x mem)

theorem pinsOnly_gpio (s : State) (g : Gpio) : PinsOnly s { s with gpio := g } := ⟨s.freeCtr, g, rfl⟩

/-- Taking a pin of the tray raises nothing. -/
theorem pinsOnly_trayPin (s : State) (k v : Nat) (irq : bits v 15 13 ≤ 3) : PinsOnly s (s.trayPin k v) := by
  have pins : ∃ g, s.resetPin k = { s with gpio := g } := ⟨_, rfl⟩
  obtain ⟨g, e⟩ := pins
  have rise := resetPin_rise s k
  have fall := resetPin_fall s k
  unfold State.trayPin
  dsimp only
  generalize s.resetPin k = u at e rise fall ⊢
  rw [configurePin_of_cleared (s := u.setPin k _) irq rise fall, e]
  exact ⟨_, _, rfl⟩

theorem pinsOnly_driveFan (s : State) (k : Nat) : PinsOnly s (s.driveFan k) := ⟨_, _, rfl⟩

/-- A fan's pins, for each of the four fans. -/
theorem fanPin_irq {k : Nat} (h : k < 4) : bits (0x0202008A + k) 15 13 ≤ 3 := by
  unfold bits
  omega

/-- The tray-management pins at step 9 (R449, R482). -/
theorem pinsOnly_trayPins (s : State) : PinsOnly s s.trayPins := by
  have fans (s : State) : PinsOnly s ((List.range 4).foldl
      (fun (s : State) k => (s.trayPin (8 + k) (0x0202008A + k)).trayPin (12 + k) 0x02000880) s) :=
    .foldl_mem (fun s k mem =>
      (pinsOnly_trayPin s _ _ (fanPin_irq (List.mem_range.mp mem))).trans (pinsOnly_trayPin _ _ _ (by decide))) s
  have drives (s : State) : PinsOnly s ((List.range 4).foldl State.driveFan s) := .foldl_mem (fun s k _ => pinsOnly_driveFan s k) s
  unfold State.trayPins
  dsimp only
  split
  · exact .refl s
  · refine .trans (pinsOnly_trayPin s 18 0x02020513 (by decide)) ?_
    generalize s.trayPin 18 0x02020513 = t
    split
    · exact .refl t
    · refine .trans (fans t) ?_
      refine .trans (pinsOnly_trayPin _ 16 0x02206080 (by decide)) ?_
      refine .trans (pinsOnly_trayPin _ 17 0x02206080 (by decide)) ?_
      exact .trans (pinsOnly_gpio _ _) (drives _)

/-- `t` differs from `s` in HBM and in what the caches know of it. -/
def StoreOnly (s t : State) : Prop :=
  ∃ c i l h p e, t = { s with caches := c, invQueue := i, lagoon := l, hbm := h, hbmPoison := p, hbmErr := e }

theorem StoreOnly.refl (s : State) : StoreOnly s s := ⟨s.caches, s.invQueue, s.lagoon, s.hbm, s.hbmPoison, s.hbmErr, rfl⟩

theorem StoreOnly.trans {s t u : State} (h : StoreOnly s t) (k : StoreOnly t u) : StoreOnly s u := by
  obtain ⟨_, _, _, _, _, _, rfl⟩ := h
  obtain ⟨_, _, _, _, _, _, rfl⟩ := k
  exact ⟨_, _, _, _, _, _, rfl⟩

theorem StoreOnly.foldl {α : Type} {f : State → α → State} (h : ∀ s x, StoreOnly s (f s x)) (l : List α) (s : State) :
    StoreOnly s (l.foldl f s) :=
  List.foldlRecOn (motive := fun t : State => StoreOnly s t) l f (.refl s) fun _ e x _ => e.trans (h _ x)

theorem storeOnly_discard (s : State) (a len : Nat) : StoreOnly s (s.discard a len) := by
  refine .foldl (fun t l => ?_) _ s
  refine .trans (.foldl (fun u ag => ?_) (List.range 17) t) ⟨_, _, _, _, _, _, rfl⟩
  exact ⟨_, _, _, _, _, _, rfl⟩

theorem storeOnly_writeRaw (s : State) (a len : Nat) (bytes : List Byte) : StoreOnly s (s.writeRaw a len bytes) := by
  refine (storeOnly_discard s a len).trans ?_
  exact ⟨(s.discard a len).caches, (s.discard a len).invQueue, (s.discard a len).lagoon, _, _, _, rfl⟩

/-- The idle key is generated (R451). -/
def State.idleKeyDrawn (s : State) : State := { s.freeTaken with store := { s.store with idle := s.random 64 } }

/-- The state with the firmware in granule 191 and the tray's pins taken, on a die whose stack 1 is trained (R440, R451). -/
def State.firmwareLoaded (s : State) (firmware : List Byte) : State :=
  ((s.fillGranule 2 191).writeRaw (191 * 2 ^ 28) (Nat.min (2 ^ 28) firmware.length) (firmware.take (2 ^ 28))).trayPins.jtagEnds

/-- What READY reports and the fill needs is in `t` as it was in `s`. -/
structure ReadyParts (s t : State) : Prop where
  time : t.time = s.time
  mgt : t.mgt = s.mgt
  store : t.store = s.store
  up : t.up = s.up
  fuses : t.fuses = s.fuses
  keys : t.keys = s.keys

theorem ReadyParts.trans {s t u : State} (h : ReadyParts s t) (k : ReadyParts t u) : ReadyParts s u :=
  ⟨k.time.trans h.time, k.mgt.trans h.mgt, k.store.trans h.store, k.up.trans h.up, k.fuses.trans h.fuses, k.keys.trans h.keys⟩

theorem StoreOnly.readyParts {s t : State} (h : StoreOnly s t) : ReadyParts s t := by
  obtain ⟨_, _, _, _, _, _, rfl⟩ := h
  exact ⟨rfl, rfl, rfl, rfl, rfl, rfl⟩

theorem PinsOnly.readyParts {s t : State} (h : PinsOnly s t) : ReadyParts s t := by
  obtain ⟨_, _, rfl⟩ := h
  exact ⟨rfl, rfl, rfl, rfl, rfl, rfl⟩

theorem jtagEnds_readyParts (s : State) : ReadyParts s s.jtagEnds := by
  unfold State.jtagEnds
  dsimp only
  split <;> exact ⟨rfl, rfl, rfl, rfl, rfl, rfl⟩

/-- The firmware granule is filled under the firmware region's key (R275, R451). -/
theorem fillGranule_firmware (s : State) :
    ∃ t, StoreOnly s t ∧ s.fillGranule 2 191 = { t with keys := Table.set [] t.keys 191 t.store.region } :=
  ⟨_, storeOnly_writeRaw s _ _ _, rfl⟩

/-- The same as `ReadyParts`, with the region's key on granule 191. -/
structure LoadedFrom (s t : State) : Prop where
  time : t.time = s.time
  mgt : t.mgt = s.mgt
  store : t.store = s.store
  up : t.up = s.up
  fuses : t.fuses = s.fuses
  key : Table.get [] t.keys 191 = s.store.region

theorem LoadedFrom.trans {s t u : State} (h : LoadedFrom s t) (k : ReadyParts t u) : LoadedFrom s u :=
  ⟨k.time.trans h.time, k.mgt.trans h.mgt, k.store.trans h.store, k.up.trans h.up, k.fuses.trans h.fuses, by rw [k.keys, h.key]⟩

theorem loadedFrom_fillGranule (s : State) : LoadedFrom s (s.fillGranule 2 191) := by
  obtain ⟨t, stored, e⟩ := fillGranule_firmware s
  obtain ⟨time, mgt, store, up, fuses, -⟩ := stored.readyParts
  rw [e]
  refine ⟨time, mgt, store, up, fuses, ?_⟩
  rw [← store]
  exact Table.get_set_same [] t.keys 191 t.store.region

theorem loadedFrom_firmwareLoaded (s : State) (firmware : List Byte) : LoadedFrom s (s.firmwareLoaded firmware) :=
  (((loadedFrom_fillGranule s).trans (storeOnly_writeRaw _ _ _ _).readyParts).trans (pinsOnly_trayPins _).readyParts).trans
    (jtagEnds_readyParts _)

/-- MGT_NONCE takes fresh bits where it has no value yet (R450). -/
def State.nonceDrawn (s : State) : State := if s.mgt.nonce == 0 then s.newNonce else s

theorem nonceDrawn_eq (s : State) : ∃ c n, s.nonceDrawn = { s with freeCtr := c, mgt := { s.mgt with nonce := n } } ∧
    (s.mgt.nonce ≠ 0 → n = s.mgt.nonce) := by
  unfold State.nonceDrawn
  split
  · next zero => exact ⟨_, _, rfl, fun h => absurd (beq_iff_eq.mp zero) h⟩
  · exact ⟨s.freeCtr, s.mgt.nonce, rfl, fun _ => rfl⟩

/-- BOOT_TIME's count at READY (R443). -/
def State.readyTime (s : State) : BitVec 16 := BitVec.ofNat 16 (Nat.min 0xFFFF ((s.time - s.boot.origin) / 1000))

/-- STAGE READY at `readyT`, with the fill of the idle granules before it (R440). -/
def State.becomesReady (s : State) (readyT : BitVec 16) : State :=
  { s with mgt := { s.mgt with stage := .ready, cfgReady := true, readyT := readyT }
           up := { s.up with fill := s.up.fill ++ [{ granules := List.range 191, purpose := 4, part := 0, key := 1, start := s.time }] } }

theorem exec_gooseReady_of_trained (alive : s.alive = true) (stage : s.mgt.stage = .fwLoad) (verified : s.boot.fwDone = true)
    (random : s.mgt.trngReady = true) (both : s.boot.stackDone = 3) (trained : s.mgt.hbmFail = 0) :
    ∃ firmware, exec .gooseReady s = .next (
      (s.idleKeyDrawn.firmwareLoaded firmware).nonceDrawn.becomesReady (s.idleKeyDrawn.firmwareLoaded firmware).readyTime) := by
  have guard : ¬ (!s.alive || s.mgt.stage != .fwLoad || !s.boot.fwDone || !s.mgt.trngReady || s.boot.stackDone != 3) = true := by
    simp [alive, stage, verified, random, both]
  have all_ : (List.range 191).filter (fun g => !s.mgt.hbmFail.getLsbD (g / 96)) = List.range 191 := by
    rw [trained]
    exact List.filter_eq_self.mpr fun g _ => by simp
  have second_ : s.mgt.hbmFail.getLsbD 1 = false := by simp [trained]
  have some_ : (List.range 191).isEmpty = false := rfl
  refine ⟨Config.icpFirmware ((s.imageBody s.mgt.slotRunning).getD []), ?_⟩
  change execGooseReady s = _
  rw [execGooseReady, if_neg guard]
  extract_lets fail firmware free keep idle filled written loaded readyT drawn mgt ready gs up
  have all' : gs = List.range 191 := all_
  have written' : written = filled.writeRaw (191 * 2 ^ 28) (Nat.min (2 ^ 28) firmware.length) (firmware.take (2 ^ 28)) :=
    if_neg (ne_true_of_eq_false second_)
  have loaded' : loaded = s.idleKeyDrawn.firmwareLoaded firmware := congrArg (fun u : State => u.trayPins.jtagEnds) written'
  rw [← loaded']
  clear_value loaded
  refine (if_neg (by rw [all', some_]; decide)).trans ?_
  rw [all']
  rfl

/-- What READY leaves of the state before it. -/
theorem becomesReady_facts {v : State} (loaded : LoadedFrom s v) (readyT : BitVec 16) :
    let t := v.nonceDrawn.becomesReady readyT
    t.mgt.stage = .ready ∧ t.mgt.cfgReady = true ∧ (s.mgt.nonce ≠ 0 → t.mgt.nonce = s.mgt.nonce) ∧ t.store = s.store ∧
      t.up.fill = s.up.fill ++ [{ granules := List.range 191, purpose := 4, part := 0, key := 1, start := s.time }] ∧
      Table.get [] t.keys 191 = s.store.region ∧ t.fuses = s.fuses := by
  obtain ⟨time, mgt, store, up, fuses, key⟩ := loaded
  obtain ⟨c, n, e, kept⟩ := nonceDrawn_eq v
  rw [e]
  rw [mgt] at kept
  rw [← time, ← up]
  exact ⟨rfl, rfl, kept, store, rfl, key, fuses⟩

/-! ### JTAG (R519) -/

/-- The instruction that JTAG takes for `code` (R519). -/
def State.jtagTaken (s : State) (code : BitVec 8) : JtagInstr :=
  if (jtagOf code == .extest || jtagOf code == .highz || jtagOf code == .clamp) && !s.jtagMay then .bypass else jtagOf code

theorem exec_jtagInstruction (code : BitVec 8) (s : State) :
    exec (.jtagInstruction code) s = .next { s with bus := { s.bus with jtag := s.jtagTaken code } } := rfl

theorem jtagTaken_of_unnamed {code : BitVec 8} (h0 : code ≠ 0) (h1 : code ≠ 1) (h2 : code ≠ 2) (h3 : code ≠ 3) (h4 : code ≠ 0x20) :
    s.jtagTaken code = .bypass := by
  have n {k : Nat} (lt : k < 256) (ne : code ≠ BitVec.ofNat 8 k) : code.toNat ≠ k :=
    fun e => ne (BitVec.eq_of_toNat_eq (by rw [e, BitVec.toNat_ofNat, Nat.mod_eq_of_lt lt]))
  have other : jtagOf code = .bypass := by
    unfold jtagOf
    split
    · next e => exact absurd e (n (k := 0) (by decide) h0)
    · next e => exact absurd e (n (k := 1) (by decide) h1)
    · next e => exact absurd e (n (k := 2) (by decide) h2)
    · next e => exact absurd e (n (k := 3) (by decide) h3)
    · next e => exact absurd e (n (k := 0x20) (by decide) h4)
    · rfl
  rw [State.jtagTaken, other]
  rfl

theorem jtagTaken_of_pins {code : BitVec 8} (pins : code = 0 ∨ code = 2 ∨ code = 3) (stage : s.mgt.stage = .ready)
    (closed : ¬ (s.bus.dbgOpen = true ∧ s.bus.dbgJtag = true)) : s.jtagTaken code = .bypass := by
  have may : s.jtagMay = false := by
    have shut : (s.bus.dbgOpen && s.bus.dbgJtag) = false := by simpa using closed
    rw [State.jtagMay, stage, shut]
    rfl
  rw [State.jtagTaken, may]
  rcases pins with rfl | rfl | rfl <;> rfl

end

/-- Settles O42, a lemma per command. -/
theorem supplyAndBoot : Obligations.SupplyAndBoot := by
  unfold Obligations.SupplyAndBoot
  refine ⟨?supply, ?boot⟩
  case supply =>
    intro s w therm
    refine ⟨fun up => ⟨exec_pmbusTelemetryRead_of_up up, exec_telemetryUpdate_of_up up, exec_pmbusAlert_of_up up⟩,
      exec_paceShortfall_of_up, exec_powerLimitCheck_of_up, fun runs avgC => ⟨exec_thermalAlert_of_hot runs, exec_thermalAlert_of_cool runs⟩,
      fun sensorC hot up runs => ?_, fun up slot tray xtal => ?_⟩
    · obtain ⟨t, run, domains, trip, count, tripped, fuses, flash, queues, hbm, scratch, time⟩ :=
        exec_thermalTrip_of_alive hot (alive_of up runs)
      refine ⟨t, run, fun d => ?_, trip, count, tripped, fuses, flash, fun q => ?_, hbm, scratch, time⟩
      · rw [State.domSt, State.domain, domains]
        rfl
      · rw [State.queue, queues]
        rfl
    · obtain ⟨t, run, brown, count, inLp, trip, fuses, flash, cold⟩ := exec_brownout_of_up up slot tray xtal
      refine ⟨t, run, brown, count, inLp, trip, fuses, flash, fun runs => ?_⟩
      obtain ⟨kind, slot', tray', hbm, scratch, queues, parts⟩ := cold runs
      refine ⟨kind, slot', tray', hbm, scratch, fun q => ?_, fun p => ?_⟩
      · rw [State.queue, queues]
        rfl
      · rw [State.part, parts]
        rfl
  case boot =>
    intro s
    refine ⟨fun lowUs short => if_pos short, fun lowUs long => exec_porNLow_of_long long, exec_powerOnReset_of_low,
      fun alive verified => ⟨fun lowUs xtal short => ?_, fun lowUs xtal long => ?_, fun high main xtal => ?_, exec_perstReset_of_other⟩, rfl,
      fun alive => ?running, fun code => ⟨_, exec_jtagInstruction code s, jtagTaken_of_unnamed, jtagTaken_of_pins⟩⟩
    · exact (if_neg (by simp [alive])).trans (if_pos short)
    · obtain ⟨kind, stage, time, origin, running, ready, slot, tray, trip, hbm, scratch, parts, fuses, flash, -⟩ := romStart_warmed s xtal .warmPin
      exact ⟨_, exec_warmReset_of_long alive verified long xtal, kind, stage, time, origin, running, ready, slot, tray, trip, hbm, scratch,
        parts, fuses, flash⟩
    · obtain ⟨kind, -, -, -, -, -, -, -, -, hbm, -, parts, fuses, -, perst⟩ :=
        romStart_warmed { s with boot := { s.boot with perstHigh := false } } xtal .perst
      exact ⟨_, exec_perstReset_of_main alive verified high main xtal, kind, perst, hbm, parts, fuses⟩
    case running =>
      refine ⟨exec_trngSample_of_few alive, exec_trngSample_of_ready alive, exec_trngTestFail_of_alive alive, fun stage new => ?_,
        exec_bootDeadline_of_early alive, fun stack hs new stage => exec_hbmTrainingDone_of_trained alive hs new stage,
        fun stage done random both trained => ?_⟩
      · intro first
        refine ⟨exec_firmwareVerified_of_invalid alive stage new, fun valid => ?_⟩
        obtain ⟨done, slot, sv, identity, binding, region, firmware, operation⟩ :=
          firmwareRuns_facts s (if s.imageValid first then first else !first)
        exact ⟨_, exec_firmwareVerified_of_valid alive stage new valid, done, slot, slot.symm ▸ sv, identity, binding, region, firmware, operation⟩
      · obtain ⟨firmware, run⟩ := exec_gooseReady_of_trained alive stage done random both trained
        obtain ⟨ready, cfg, nonce, store, fill, key, fuses⟩ := becomesReady_facts (loadedFrom_firmwareLoaded s.idleKeyDrawn firmware)
          (s.idleKeyDrawn.firmwareLoaded firmware).readyTime
        exact ⟨_, run, ready, cfg, nonce, store, fill, key, fuses⟩

end Sys2Proof.Machine
end

section
/-! PROOF. Exact sums, products and the rounding of a magnitude, and the statements about them (O20, O21). -/

namespace Sys2Proof.Machine

/-! ### Exact sums (R69, R70) -/

section
variable {neg : Bool} {m : Nat} {e p q : Int}

theorem signedAt_eq : signedAt neg m e q = (if neg then -(m : Int) else m) * 2 ^ (e - q).toNat := by
  unfold signedAt
  split <;> push_cast <;> ring

@[simp] theorem signedAt_zero : signedAt neg 0 e q = 0 := by simp [signedAt_eq]

/-- In a finer unit the same number counts by the ratio of the units. -/
theorem signedAt_finer (fine : q ≤ p) (unit : p ≤ e) : signedAt neg m e q = signedAt neg m e p * 2 ^ (p - q).toNat := by
  have steps : (e - q).toNat = (e - p).toNat + (p - q).toNat := by omega
  rw [signedAt_eq, signedAt_eq, steps, pow_add, mul_assoc]

/-- A magnitude made of an integer count of units has its value. -/
theorem signedAt_magOfInt (i : Int) (e : Int) (z : Bool) (q : Int) :
    signedAt (magOfInt i e z).neg (magOfInt i e z).m (magOfInt i e z).e q = i * 2 ^ (e - q).toNat := by
  unfold magOfInt
  split
  case isTrue zero => simp [zero]
  case isFalse =>
    have value : (if decide (i < 0) then -(i.natAbs : Int) else i.natAbs) = i := by
      simp only [decide_eq_true_eq]
      omega
    rw [signedAt_eq, value]

theorem magOfInt_sticky (i : Int) (e : Int) (z : Bool) : (magOfInt i e z).sticky = false := by
  unfold magOfInt
  split <;> rfl

theorem magOfInt_neg_of_zero {i e : Int} {z : Bool} (zero : (magOfInt i e z).m = 0) : (magOfInt i e z).neg = z := by
  unfold magOfInt at zero ⊢
  split at zero
  case isTrue zeroSum => rw [if_pos zeroSum]
  case isFalse nonzero => exact absurd (Int.natAbs_eq_zero.mp zero) nonzero

end

section
variable (rm : Rnd) (n1 n2 : Bool) (m1 m2 : Nat) (e1 e2 : Int)

theorem addFin_sticky : (addFin rm n1 m1 e1 n2 m2 e2).sticky = false := by
  unfold addFin
  split
  · rfl
  · split
    · rfl
    · split
      · rfl
      · exact magOfInt_sticky _ _ _

/-- The sum is exact in every unit that both terms are counted in. -/
theorem addFin_value {q : Int} (h1 : q ≤ e1) (h2 : q ≤ e2) :
    let x := addFin rm n1 m1 e1 n2 m2 e2
    signedAt x.neg x.m x.e q = signedAt n1 m1 e1 q + signedAt n2 m2 e2 q := by
  unfold addFin
  by_cases both : m1 = 0 ∧ m2 = 0
  · simp [both]
  rw [if_neg both]
  by_cases first : m1 = 0
  · simp [first]
  rw [if_neg first]
  by_cases second : m2 = 0
  · simp [second]
  rw [if_neg second]
  have unit : (if e1 < e2 then e1 else e2) = min e1 e2 := by omega
  have fine : q ≤ min e1 e2 := le_min h1 h2
  simp only [unit, signedAt_magOfInt]
  rw [add_mul, ← signedAt_finer fine (min_le_left _ _), ← signedAt_finer fine (min_le_right _ _)]

/-- A zero sum of opposite signs is +0, or -0 when rounding down (R70). -/
theorem addFin_zero_sign (opposite : n1 ≠ n2) (zero : (addFin rm n1 m1 e1 n2 m2 e2).m = 0) :
    (addFin rm n1 m1 e1 n2 m2 e2).neg = (rm == .rdn) := by
  unfold addFin at zero ⊢
  split at zero
  case isTrue both => rw [if_pos both, if_neg opposite]
  case isFalse notBoth =>
    rw [if_neg notBoth]
    split at zero
    case isTrue first => exact absurd ⟨first, zero⟩ notBoth
    case isFalse first =>
      rw [if_neg first]
      split at zero
      case isTrue => exact absurd zero first
      case isFalse second =>
        rw [if_neg second]
        exact magOfInt_neg_of_zero zero

end

/-- Settles O20: `addFin` keeps the value in every common unit, and `exMul` multiplies the magnitudes. -/
theorem exactSumAndProduct : Obligations.ExactSumAndProduct := by
  intro rm n1 n2 m1 m2 e1 e2
  refine ⟨⟨addFin rm n1 m1 e1 n2 m2 e2, rfl, addFin_sticky .., fun q h1 h2 _ => addFin_value rm n1 n2 m1 m2 e1 e2 h1 h2,
    fun zero opposite => addFin_zero_sign rm n1 n2 m1 m2 e1 e2 opposite zero⟩, ⟨_, rfl, rfl, rfl, rfl, rfl⟩⟩

/-! ### Rounding to units (R64, R65) -/

/-- `c` counts the whole units `u` in `m` and says of the remainder `r` whether there is one, and how it compares with half a unit. -/
structure Cut.Splits (c : Cut) (m u r : Nat) : Prop where
  sum : c.k * u + r = m
  below : r < u
  rest : c.rest = true ↔ r ≠ 0
  half : c.half = true ↔ u ≤ 2 * r
  above : c.above = true ↔ u < 2 * r

/-- Where the unit divides the magnitude, every mode gives the count itself. -/
theorem round_cut_of_le {x : Mag} {q : Int} (whole : x.sticky = false) (unit : q ≤ x.e) (rm : Rnd) (neg : Bool) :
    (x.cut q).round rm neg = x.m * 2 ^ (x.e - q).toNat := by
  rw [Mag.cut, if_pos unit, whole]
  cases rm <;> rfl

theorem splits_cut {x : Mag} {q : Int} (whole : x.sticky = false) (coarse : x.e < q) :
    (x.cut q).Splits x.m (2 ^ (q - x.e).toNat) (x.m % 2 ^ (q - x.e).toNat) := by
  have halves : 2 ^ (q - x.e).toNat = 2 * 2 ^ ((q - x.e).toNat - 1) := by
    rw [← pow_succ', Nat.sub_add_cancel (by omega)]
  simp only [Mag.cut, if_neg (Int.not_le.mpr coarse), whole, Bool.false_and, Bool.or_false]
  refine ⟨Nat.div_add_mod' _ _, Nat.mod_lt _ (by positivity), by simp, ?_, ?_⟩ <;> simp only [decide_eq_true_eq] <;> omega

namespace Cut.Splits

variable {c : Cut} {m u r : Nat} {neg : Bool} (h : c.Splits m u r)
include h

/-- To nearest rounds up above the middle, down below it, and to the even count on it. -/
theorem round_rne : c.round .rne neg = if u < 2 * r then c.k + 1 else if u = 2 * r then c.k + c.k % 2 else c.k := by
  have choice : c.round .rne neg = if c.above || (c.half && decide (c.k % 2 = 1)) then c.k + 1 else c.k := rfl
  simp only [choice, Bool.or_eq_true, Bool.and_eq_true, decide_eq_true_eq, h.above, h.half]
  have parity : c.k % 2 = 0 ∨ c.k % 2 = 1 := by omega
  split_ifs <;> omega

/-- A directed mode that points away from zero rounds up whatever remains. -/
theorem round_away {rm : Rnd} (away : (neg = false ∧ rm = .rup) ∨ (neg = true ∧ rm = .rdn)) :
    c.round rm neg = if r = 0 then c.k else c.k + 1 := by
  rcases away with ⟨rfl, rfl⟩ | ⟨rfl, rfl⟩ <;> simp [Cut.round, h.rest, ite_not]

theorem rne_near : 2 * m ≤ 2 * (c.round .rne neg * u) + u ∧ 2 * (c.round .rne neg * u) ≤ 2 * m + u := by
  have sum := h.sum
  have below := h.below
  have succ : (c.k + 1) * u = c.k * u + u := Nat.succ_mul c.k u
  have parity : c.k % 2 = 0 ∨ c.k % 2 = 1 := by omega
  rw [h.round_rne]
  split_ifs
  · omega
  · rcases parity with even | odd
    · rw [even, Nat.add_zero]
      omega
    · rw [odd]
      omega
  · omega

/-- A magnitude half a unit away from its count lies on a middle, which is rounded to the even count. -/
theorem rne_even (tie : 2 * m = 2 * (c.round .rne neg * u) + u ∨ 2 * (c.round .rne neg * u) = 2 * m + u) :
    c.round .rne neg % 2 = 0 := by
  have sum := h.sum
  have below := h.below
  have succ : (c.k + 1) * u = c.k * u + u := Nat.succ_mul c.k u
  rw [h.round_rne] at tie ⊢
  split_ifs at tie ⊢ <;> omega

theorem rtz_below : c.round .rtz neg * u ≤ m ∧ m < c.round .rtz neg * u + u := by
  have sum := h.sum
  have below := h.below
  have down : c.round .rtz neg = c.k := rfl
  rw [down]
  omega

theorem away_above {rm : Rnd} (away : (neg = false ∧ rm = .rup) ∨ (neg = true ∧ rm = .rdn)) :
    m ≤ c.round rm neg * u ∧ c.round rm neg * u < m + u := by
  have sum := h.sum
  have below := h.below
  have succ : (c.k + 1) * u = c.k * u + u := Nat.succ_mul c.k u
  rw [h.round_away away]
  split_ifs <;> omega

end Cut.Splits

/-- A directed mode that points towards zero rounds as RTZ does. -/
theorem round_towards (c : Cut) {rm : Rnd} {neg : Bool} (towards : (neg = false ∧ rm = .rdn) ∨ (neg = true ∧ rm = .rup)) :
    c.round rm neg = c.round .rtz neg := by
  rcases towards with ⟨rfl, rfl⟩ | ⟨rfl, rfl⟩ <;> simp [Cut.round]

/-- Settles O21: a cut splits the magnitude into whole units and a remainder, and each mode decides by the remainder. -/
theorem roundingOfMagnitude : Obligations.RoundingOfMagnitude := by
  intro neg m e q
  refine ⟨fun unit rm _ => round_cut_of_le rfl unit rm neg, fun coarse => ?_⟩
  have split := splits_cut (x := { neg := neg, m := m, e := e }) rfl coarse
  refine ⟨split.rne_near, split.rne_even, split.rtz_below, fun positive => ?_, fun negative => ?_⟩
  · exact ⟨round_towards _ (.inl ⟨positive, rfl⟩), split.away_above (.inl ⟨positive, rfl⟩)⟩
  · exact ⟨round_towards _ (.inr ⟨negative, rfl⟩), split.away_above (.inr ⟨negative, rfl⟩)⟩

end Sys2Proof.Machine
end

section
/-! PROOF. What an engine command writes when it does not stop, and the statements about the Matrix and Vector engines (O18, O19). -/

namespace Sys2Proof.Machine

open Sys2Proof.Claims

/-! ### Writing the outputs (R82, R95) -/

section
variable {s0 s : State} {q n : Nat} {r : Run} {outs : List (Ref × List (Nat × List Byte))} {flags : FpFlags} {trap : Option (Nat × Nat)}
  {hidden : Bool}

/-- Past all its wait points, a command that stores without a stop has written everything and ends. -/
theorem writeOutputs_stored (islet : q / 3 = n) (passed : r.waits = [])
    (stored : (storeAll ((s.isletOwner n).getD 0) n (plainOuts outs) s).2.2 = none) :
    let t := (storeAll ((s.isletOwner n).getD 0) n (plainOuts outs) s).1
    State.writeOutputs s0 s q r outs flags trap hidden =
      (t.unseal n (spOuts outs) hidden).endWork q (t.liveIdx q)
        { r with flags := flags, status := (trapStatus r trap).1, info := (trapStatus r trap).2, trap := trap } false := by
  subst islet
  simp only [State.writeOutputs, passed, stored, List.isEmpty_nil, if_true]
  rfl

/-- With wait points of its outputs ahead, it keeps what it may not write yet. -/
theorem writeOutputs_waiting (ahead : r.waits ≠ []) :
    State.writeOutputs s0 s q r outs flags trap hidden =
      State.writePending s0 s q r { outs := plainOuts outs, all := spOuts outs, flags := flags, trap := trap, hidden := hidden } :=
  if_neg (mt List.isEmpty_iff.mp ahead)

end

theorem spOuts_singleton (z : Ref) (runs : List (Nat × List Byte)) : spOuts [(z, runs)] = if z.td.mem then [] else z.runs := by
  cases mem : z.td.mem <;> simp [spOuts, mem]

/-! ### The Matrix engine (R126) -/

theorem exec_mxMatmul (n : Nat) (s : State) : exec (.mxMatmul n) s = execMxMatmul n s := rfl

/-- Settles O18: once both operands are loaded, MX_MATMUL is `State.writeOutputs` of its one output. -/
theorem matrixMultiply : Obligations.MatrixMultiply := by
  intro n s
  refine ⟨fun idle => by rw [exec_mxMatmul, execMxMatmul, idle], fun r run => ?_⟩
  intro p a b c la lb x hidden first second
  have loaded : exec (.mxMatmul n) s =
      .next (State.writeOutputs s lb.s (3 * n) r [(c, c.storedRuns x.codes)] x.flags x.trap hidden) := by
    simp only [exec_mxMatmul, execMxMatmul, run]
    rw [first]
    dsimp only
    rw [second]
    rfl
  rw [loaded]
  refine ⟨fun passed => ?_, fun ahead => ?_⟩
  · intro w stored
    rw [writeOutputs_stored (Nat.mul_div_cancel_left n (by decide)) passed stored, spOuts_singleton]
    rfl
  · rw [writeOutputs_waiting ahead, spOuts_singleton]
    rfl

/-! ### The Vector engine (R114, R129) -/

theorem exec_vector {c : Nat → Instr} {w : Work} (command : (c, w) ∈ vectorWorks) (n : Nat) (s : State) :
    exec (c n) s = .next (runVector n w s) := by
  have each : ∀ x ∈ vectorWorks, exec (x.1 n) s = .next (runVector n x.2 s) := by
    simp only [vectorWorks, List.forall_mem_cons]
    exact ⟨rfl, rfl, rfl, rfl, rfl, rfl, rfl, rfl, rfl, rfl, rfl, rfl, rfl, rfl, rfl, rfl, rfl, rfl, List.forall_mem_nil _⟩
  exact each _ command

section
variable {n : Nat} {w : Work} {s : State} {r : Run}

theorem runVector_idle (idle : s.engineRun (3 * n + 1) w.op = none) : runVector n w s = s.engineAhead (3 * n + 1) w.op := by
  rw [runVector, idle]

variable (run : s.engineRun (3 * n + 1) w.op = some r)
include run

theorem runVector_stopped {st : Stop} (stop : (loadRefs ((s.isletOwner n).getD 0) n r (w.ins r) s).1.stop = some st) :
    let l := loadRefs ((s.isletOwner n).getD 0) n r (w.ins r) s
    runVector n w s = State.endStopped s l.1.s (3 * n + 1) (s.liveIdx (3 * n + 1))
      { r with readSq := r.readSq ++ readWhole l.1 (w.ins r) l.2 } st := by
  simp only [runVector, run, stop]

theorem runVector_loaded (stop : (loadRefs ((s.isletOwner n).getD 0) n r (w.ins r) s).1.stop = none) :
    let l := loadRefs ((s.isletOwner n).getD 0) n r (w.ins r) s
    let o := w.outs r l.2
    runVector n w s = State.writeOutputs s l.1.s (3 * n + 1) r o.1 o.2.1 o.2.2 (l.1.s.readsSealed n (w.ins r)) := by
  simp only [runVector, run, stop]

end

/-- Settles O19: a Vector command is `State.endStopped` where an operand stops it, and `State.writeOutputs` otherwise. -/
theorem vectorCommands : Obligations.VectorCommands := by
  intro c w command n s
  rw [exec_vector command]
  refine ⟨fun idle => congrArg _ (runVector_idle idle), fun r run => ⟨fun loaded passed => ?_, fun loaded ahead => ?_,
    fun info poison => ?_, fun a k host => ?_, fun wait => ?_⟩⟩
  · intro st stored
    rw [runVector_loaded run loaded, writeOutputs_stored (by omega) passed stored]
  · rw [runVector_loaded run loaded, writeOutputs_waiting ahead]
  · rw [runVector_stopped run poison]
    rfl
  · rw [runVector_stopped run host]
    rfl
  · rw [runVector_stopped run wait]
    rfl

end Sys2Proof.Machine
end

section
/-! PROOF. The posting of completions, and the statement about COMMAND_COMPLETE (O16). -/

namespace Sys2Proof.Machine

/-! ### The front of a queue (R82, R140, R195) -/

section
variable {s : State} {q i : Nat} {r x : Run} {rest : List Run}

/-- The state in which the oldest command `x` of queue `q` has left its queue and posted its completion, behind `x` being `rest`. -/
def State.frontPosted (s : State) (q : Nat) (x : Run) (rest : List Run) : State :=
  let u := s.setQueue q { s.queue q with run := rest, idleAt := s.time }
  let v := match x.trap with
    | some (index, offset) =>
      if x.status = stNanTrap then u.raiseEvent (u.queueEvent q) 0x0201 q (eSeq x.entry) (leBytes 4 index ++ leBytes 4 offset) else u
    | none => u
  v.postCompletion (completionOf q x x.status x.info)

/-- The state in which queue `q` has halted for its command `x`, what is in flight has stopped, and QUEUE_HALTED is posted. -/
def State.haltedFor (s : State) (q : Nat) (x : Run) : State :=
  let u := (s.recordHalt q x.status (eSeq x.entry)).abortRest q
  let v := if q < 48 then (u.settleIslet (q / 3)).reevaluate else u
  v.haltEvent q x.status.toNat (eSeq x.entry) 0

theorem postFront_cons (front : (s.queue q).run = x :: rest) :
    s.postFront q =
      if haltsQueue x.status || x.halts then (s.frontPosted q x rest).haltedFor q x else (s.frontPosted q x rest).headArrive q := by
  simp only [State.postFront, front, State.frontPosted]
  cases x.trap with
  | none =>
    simp only [ite_self]
    rfl
  | some _ => rfl

/-! ### COMMAND_COMPLETE (R182, R185) -/

theorem exec_commandComplete (q i : Nat) (s : State) : exec (.commandComplete q i) s = .next (s.complete q i).settleRevokes := rfl

variable (run : s.runAt q i = some r)
include run

theorem complete_held (held : s.icpHeld q = true ∨ (qKind q = .vx ∧ s.storesReady (q / 3) = false) ∨ s.passedOn q = false) :
    s.complete q i = s := by
  rw [State.complete, run]
  refine if_neg ?_
  rcases held with icp | ⟨vx, stores⟩ | host
  · simp [icp]
  · simp [vx, stores]
  · simp [host]

theorem complete_ready (done : r.phase = .done) (unclaimed : r.claims = []) (order : i = 0 ∨ qKind q = .mv) (icp : s.icpHeld q = false)
    (stores : qKind q = .vx → s.storesReady (q / 3) = true) (host : s.passedOn q = true) :
    s.complete q i = if i = 0 then (s.settleEffects q i).postFront q else s.settleEffects q i := by
  have drained : (qKind q != .vx || s.storesReady (q / 3)) = true := by
    by_cases vx : qKind q = .vx <;> simp [vx, stores]
  have turn : (i == 0 || qKind q == .mv) = true := by simpa using order
  simp only [State.complete, run, done, unclaimed, icp, drained, turn, host]
  rfl

end

/-- Settles O16: a completion that nothing holds back settles its effects, and the oldest is then `State.postFront`. -/
theorem commandCompletes : Obligations.CommandCompletes := by
  intro q i s r run done unclaimed
  rw [exec_commandComplete]
  refine ⟨fun held => by rw [complete_held run held], fun icp stores host => ⟨fun later mv => ?_, fun oldest x rest front => ?_⟩⟩
  · rw [complete_ready run done unclaimed (.inr mv) icp stores host, if_neg later]
  subst oldest
  rw [complete_ready run done unclaimed (.inl rfl) icp stores host, if_pos rfl, postFront_cons front]
  refine ⟨fun goes unhalted => ?_, fun halts => ?_⟩
  · rw [goes, unhalted]
    rfl
  · rw [if_pos (by simpa using halts)]
    rfl

end Sys2Proof.Machine
end

section
/-! PROOF. The tags of a scratchpad: what a change of one or of several does to the tags and to the ledger's counts, and the statements
about them (O10, O11). -/

namespace Sys2Proof.Machine

open Sys2Proof.Claims

/-- Bits after one of them is set to a value. -/
theorem getLsbD_setBit {w : Nat} (v : BitVec w) {i : Nat} (h : i < w) (b : Bool) (k : Nat) :
    (setBit v i b).getLsbD k = if k = i then b else v.getLsbD k := by
  by_cases hk : k = i
  · rw [hk, if_pos rfl]
    cases b
    · exact getLsbD_setBit_false v i
    · exact getLsbD_setBit_true v h
  have one : (1#w <<< i).getLsbD k = false := by
    refine (BitVec.getLsbD_twoPow i k).trans ?_
    simp [Ne.symm hk]
  have inside : v.getLsbD k = true → k < w := BitVec.lt_of_getLsbD
  cases b with
  | true => simp [setBit, one, hk, -BitVec.getLsbD_shiftLeft]
  | false => simpa [setBit, one, hk, -BitVec.getLsbD_shiftLeft] using inside

/-- A member that begins to satisfy `p` adds one to the count. -/
theorem countP_change {p p' : Nat → Bool} {l : List Nat} {x : Nat} (nodup : l.Nodup) (mem : x ∈ l) (before : p x = false)
    (after : p' x = true) (same : ∀ k, k ≠ x → p' k = p k) : l.countP p' = l.countP p + 1 := by
  have split := List.perm_cons_erase mem
  have rest : (l.erase x).countP p' = (l.erase x).countP p :=
    List.countP_congr fun k hk => by rw [same k (nodup.mem_erase_iff.mp hk).1]
  rw [split.countP_eq p', split.countP_eq p, List.countP_cons_of_pos after, List.countP_cons_of_neg (by simp [before]), rest]

/-! ### One tag (R100) -/

section
variable {i : Islet} {sq : Nat} {full : Bool}

theorem setTag_of_same (h : i.tagFull sq = full) : i.setTag sq full = i := if_pos h

theorem setTag_of_ne (h : i.tagFull sq ≠ full) :
    i.setTag sq full = { i with tags := setBit i.tags sq full, stallTold := false,
                                fills := if full then i.fills + 1 else i.fills,
                                takes := if full then i.takes else i.takes + 1 } := if_neg h

theorem tagFull_setTag (h : sq < 1024) (k : Nat) : (i.setTag sq full).tagFull k = if k = sq then full else i.tagFull k := by
  by_cases same : i.tagFull sq = full
  · rw [setTag_of_same same]
    split
    · next e => rw [e, same]
    · rfl
  · rw [setTag_of_ne same]
    exact getLsbD_setBit _ h _ _

@[simp] theorem isClaimed_setTag (k : Nat) : (i.setTag sq full).isClaimed k = i.isClaimed k := by
  unfold Islet.setTag
  split <;> rfl

theorem fullCount_eq (i : Islet) : i.fullCount = (List.range 1024).countP i.tagFull := List.countP_eq_length_filter.symm

/-- A fill adds one FULL square, a take removes one. -/
theorem fullCount_setTag_of_ne (h : sq < 1024) (ne : i.tagFull sq ≠ full) :
    if full then (i.setTag sq full).fullCount = i.fullCount + 1 else i.fullCount = (i.setTag sq full).fullCount + 1 := by
  have now : (i.setTag sq full).tagFull sq = full := by rw [tagFull_setTag h, if_pos rfl]
  have others (k : Nat) (hk : k ≠ sq) : (i.setTag sq full).tagFull k = i.tagFull k := by rw [tagFull_setTag h, if_neg hk]
  have mem := List.mem_range.mpr h
  rw [fullCount_eq, fullCount_eq]
  cases full with
  | true => exact countP_change List.nodup_range mem (by simpa using ne) now others
  | false => exact countP_change List.nodup_range mem now (by simpa using ne) fun k hk => (others k hk).symm

theorem ofNat32_succ (c : Nat) : BitVec.ofNat 32 (c + 1) = BitVec.ofNat 32 c + 1 := BitVec.ofNat_add c 1

/-- Fills less takes stay the number of FULL squares (R467). -/
theorem ledger_setTag (h : sq < 1024) (ledger : i.fills - i.takes = BitVec.ofNat 32 i.fullCount) :
    (i.setTag sq full).fills - (i.setTag sq full).takes = BitVec.ofNat 32 (i.setTag sq full).fullCount := by
  by_cases same : i.tagFull sq = full
  · rw [setTag_of_same same, ledger]
  have count := fullCount_setTag_of_ne h same
  generalize (i.setTag sq full).fullCount = c at count ⊢
  rw [setTag_of_ne same]
  cases full with
  | true =>
    have count : c = i.fullCount + 1 := count
    show i.fills + 1 - i.takes = _
    rw [count, ofNat32_succ, ← ledger]
    ring
  | false =>
    have count : i.fullCount = c + 1 := count
    rw [count, ofNat32_succ] at ledger
    show i.fills - (i.takes + 1) = _
    linear_combination ledger

end

/-- Settles O11: a fill adds one to FILLS and to the FULL squares, a take one to TAKES and one square less is FULL. -/
theorem tagLedger : Obligations.TagLedger :=
  fun _ _ _ h => ⟨fun k _ => tagFull_setTag h k, ledger_setTag h⟩

/-! ### Several tags (R190) -/

/-- The Islet after the tags of several squares are set, in order. -/
def Islet.setTags (i : Islet) (sqs : List Nat) (full : Bool) : Islet := sqs.foldl (fun x sq => x.setTag sq full) i

/-- The squares of a range with a step (R190), `n` of them from the `j`-th on. -/
def rangeFrom (first step j n : Nat) : List Nat := (List.range' j n).map (fun k => first + k * step)

theorem rangeFrom_succ (first step j n : Nat) :
    rangeFrom first step j (n + 1) = (first + j * step) :: rangeFrom first step (j + 1) n := rfl

/-- How many of some squares have another tag. -/
def Islet.otherTags (i : Islet) (sqs : List Nat) (full : Bool) : Nat := sqs.countP (fun sq => i.tagFull sq != full)

section
variable {i : Islet} {sqs : List Nat} {full : Bool}

theorem setTags_cons (sq : Nat) : i.setTags (sq :: sqs) full = (i.setTag sq full).setTags sqs full := rfl

theorem tagFull_setTags (inside : ∀ sq, sq ∈ sqs → sq < 1024) (k : Nat) :
    (i.setTags sqs full).tagFull k = if k ∈ sqs then full else i.tagFull k := by
  induction sqs generalizing i with
  | nil => simp [Islet.setTags]
  | cons sq sqs ih =>
    have first := tagFull_setTag (i := i) (full := full) (inside sq List.mem_cons_self) k
    refine (ih (i := i.setTag sq full) fun x hx => inside x (List.mem_cons_of_mem _ hx)).trans ?_
    rw [first]
    by_cases hk : k = sq <;> simp [hk]

/-- The first of several squares, none of which comes twice. -/
theorem otherTags_cons {sq : Nat} (h : sq < 1024) (new : sq ∉ sqs) :
    i.otherTags (sq :: sqs) full = (if i.tagFull sq = full then 0 else 1) + (i.setTag sq full).otherTags sqs full := by
  have later : (i.setTag sq full).otherTags sqs full = i.otherTags sqs full :=
    List.countP_congr fun k hk => by rw [tagFull_setTag h, if_neg (ne_of_mem_of_not_mem hk new)]
  rw [later, Islet.otherTags, List.countP_cons, Nat.add_comm]
  simp only [bne_iff_ne, ite_not]
  rfl

/-- Each change of a tag counts as a fill or a take, and nothing else of the Islet changes but that its stall is to be told anew. -/
theorem setTags_eq (inside : ∀ sq, sq ∈ sqs → sq < 1024) (nodup : sqs.Nodup) :
    { i.setTags sqs full with stallTold := false } =
      { i with tags := (i.setTags sqs full).tags, stallTold := false,
               fills := if full then i.fills + BitVec.ofNat 32 (i.otherTags sqs full) else i.fills,
               takes := if full then i.takes else i.takes + BitVec.ofNat 32 (i.otherTags sqs full) } := by
  induction sqs generalizing i with
  | nil => simp [Islet.setTags, Islet.otherTags]
  | cons sq sqs ih =>
    have ih := ih (i := i.setTag sq full) (fun x hx => inside x (List.mem_cons_of_mem _ hx)) nodup.of_cons
    refine ih.trans ?_
    rw [otherTags_cons (inside sq List.mem_cons_self) (List.nodup_cons.mp nodup).1, setTags_cons]
    generalize (i.setTag sq full).setTags sqs full = x
    generalize (i.setTag sq full).otherTags sqs full = c
    by_cases same : i.tagFull sq = full
    · simp [setTag_of_same same, same]
    · rw [setTag_of_ne same, if_neg same, BitVec.ofNat_add]
      cases full <;> simp [BitVec.add_assoc]

/-- Over squares none of which is claimed or comes twice, TAG_SET goes to the end of its range and adds up the changes. -/
theorem tagSetGo_unclaimed {first step cnt n : Nat} {i : Islet} (fuel j c : Nat) (enough : n < fuel) (last : cnt = j + n)
    (inside : ∀ sq, sq ∈ rangeFrom first step j n → sq < 1024) (nodup : (rangeFrom first step j n).Nodup)
    (unclaimed : ∀ sq, sq ∈ rangeFrom first step j n → i.isClaimed sq = false) :
    tagSetGo first step cnt full fuel i j c =
      (i.setTags (rangeFrom first step j n) full, cnt, c + i.otherTags (rangeFrom first step j n) full) := by
  induction n generalizing fuel i j c with
  | zero =>
    obtain ⟨fuel, rfl⟩ : ∃ m, fuel = m + 1 := ⟨fuel - 1, by omega⟩
    simp [tagSetGo, last, rangeFrom, Islet.setTags, Islet.otherTags]
  | succ n ih =>
    obtain ⟨fuel, rfl⟩ : ∃ m, fuel = m + 1 := ⟨fuel - 1, by omega⟩
    rw [rangeFrom_succ] at inside nodup unclaimed ⊢
    have free := unclaimed _ List.mem_cons_self
    have more : ¬ cnt ≤ j := by omega
    have later := ih (i := i.setTag (first + j * step) full) fuel (j + 1)
      (if i.tagFull (first + j * step) = full then c else c + 1) (by omega) (by omega)
      (fun sq h => inside sq (List.mem_cons_of_mem _ h)) nodup.of_cons
      (fun sq h => (isClaimed_setTag sq).trans (unclaimed sq (List.mem_cons_of_mem _ h)))
    have visit : ¬ (cnt ≤ j ∨ i.isClaimed (first + j * step) = true) := by simp [more, free]
    rw [otherTags_cons (inside _ List.mem_cons_self) (List.nodup_cons.mp nodup).1, setTags_cons]
    refine (if_neg visit).trans (later.trans ?_)
    congr 2
    split <;> omega

end

/-! ### TAG_SET (R190) -/

section
variable {q : Nat} {s : State} {r : Run} {first step cnt : Nat} {full : Bool}

theorem exec_tagSet (run : s.commonRun q 4 = some r) {i : Islet} {c : Nat} (range : bits (leAt r.entry 24 4) 20 10 = cnt)
    (advances : r.steps < cnt)
    (go : tagSetGo (leAt r.entry 24 4 % 1024) (if bit (leAt r.entry 24 4) 21 then 32 else 1) cnt (bit (leAt r.entry 24 4) 22) (cnt + 1)
      (s.islet (q / 3)) r.steps r.owed = (i, cnt, c)) :
    let u := ((s.setIslet (q / 3) { i with stallTold := false }).setRun q (s.liveIdx q)
      { r with steps := cnt, owed := c, waitAt := s.time }).judgeTag (s.islet (q / 3)) (q / 3)
    exec (.tagSet q) s = .next (u.finish q (u.liveIdx q) stDone c).reevaluate := by
  show execTagSet q s = _
  simp only [execTagSet, run, range, go, advances, le_refl, if_true]

theorem mem_rangeFrom_zero {k : Nat} : k ∈ rangeFrom first step 0 cnt ↔ ∃ j, j < cnt ∧ first + j * step = k := by
  simp [rangeFrom, ← List.range_eq_range']

theorem rangeFrom_zero_nodup (pos : 0 < step) : (rangeFrom first step 0 cnt).Nodup :=
  List.Nodup.map (fun _ _ e => Nat.eq_of_mul_eq_mul_right pos (Nat.add_left_cancel e)) (List.nodup_range')

theorem rangeFrom_zero_inside (last : first + (cnt - 1) * step < 1024) : ∀ sq, sq ∈ rangeFrom first step 0 cnt → sq < 1024 := by
  intro sq h
  obtain ⟨j, hj, rfl⟩ := mem_rangeFrom_zero.mp h
  have := Nat.mul_le_mul_right step (show j ≤ cnt - 1 by omega)
  omega

theorem otherTags_rangeFrom_zero (i : Islet) :
    i.otherTags (rangeFrom first step 0 cnt) full =
      ((List.range cnt).filter (fun j => i.tagFull (first + j * step) != full)).length := by
  rw [Islet.otherTags, rangeFrom, List.countP_map, ← List.range_eq_range', List.countP_eq_length_filter]
  rfl

end

/-- The squares of TAG_SET and TAG_CHECK with the operand `v` (R190). -/
def tagRange (v : Nat) : List Nat := rangeFrom (v % 1024) (if bit v 21 then 32 else 1) 0 (bits v 20 10)

/-- Settles O10: `tagSetGo` sets the tags of the whole range, and `setTags_eq` counts the changes. -/
theorem tagSet : Obligations.TagSet := by
  intro q s r run steps owed v cnt sq full n i some_ last unclaimed
  have pos : 0 < (if bit v 21 then 32 else 1) := by split <;> omega
  have members (k : Nat) : k ∈ tagRange v ↔ ∃ j, j < cnt ∧ sq j = k := mem_rangeFrom_zero
  have inside : ∀ k, k ∈ tagRange v → k < 1024 := rangeFrom_zero_inside last
  have nodup : (tagRange v).Nodup := rangeFrom_zero_nodup pos
  have free (k : Nat) (h : k ∈ tagRange v) : i.isClaimed k = false := by
    obtain ⟨j, hj, rfl⟩ := (members k).mp h
    exact unclaimed j hj
  have changes : i.otherTags (tagRange v) full = ((List.range cnt).filter (fun j => i.tagFull (sq j) != full)).length :=
    otherTags_rangeFrom_zero i
  have go : tagSetGo (v % 1024) (if bit v 21 then 32 else 1) cnt full (cnt + 1) i r.steps r.owed =
      (i.setTags (tagRange v) full, cnt, i.otherTags (tagRange v) full) := by
    rw [steps, owed, tagSetGo_unclaimed (cnt + 1) 0 0 (Nat.lt_succ_self cnt) (Nat.zero_add cnt).symm inside nodup free, Nat.zero_add]
    rfl
  refine ⟨(i.setTags (tagRange v) full).tags, fun k _ => ?_, ?_⟩
  · refine (tagFull_setTags inside k).trans ?_
    simp only [members]
    rfl
  · have after := exec_tagSet run rfl (steps ▸ some_) go
    rw [setTags_eq inside nodup, changes] at after
    exact after

end Sys2Proof.Machine
end

section
/-! PROOF. Wait points, and the delays that end: the statements about them (O14, O17). -/

namespace Sys2Proof.Machine

open Sys2Proof.Claims

/-! ### Wait points (R95 to R97, R245) -/

section
variable {q i : Nat} {s : State} {r : Run} {w : WaitPoint} {rest : List WaitPoint}

/-- A wait point waits for a FULL square unless its mode is WRITE_FILL, and for the end of another command's claim. -/
theorem waitPassable_eq (s : State) (n : Nat) (w : WaitPoint) :
    s.waitPassable n w = ((s.islet n).tagFull w.square == (w.mode != .writeFill) && !(s.islet n).isClaimed w.square) := by
  by_cases fill : w.mode = .writeFill
  · simp [State.waitPassable, fill]
  · have other : (w.mode != .writeFill) = true := bne_iff_ne.mpr fill
    simp only [State.waitPassable, other, beq_true]

/-- The state in which a command of queue `q` passes a wait point: the pending invalidations of a VX queue's cache are applied. -/
def State.atPass (s : State) (q : Nat) : State := if qKind q = .vx then s.applyAllInvs (q / 3) else s

/-- A command of a queue has started and stands at a wait point. -/
def standsAtWait : Option Run → Bool
  | some x => x.phase == .started && !x.waits.isEmpty
  | none => false

/-- An earlier transfer of a Move queue stands at a wait point. -/
def State.moveWaits (s : State) (q i : Nat) : Bool := qKind q == .mv && (List.range i).any (fun j => standsAtWait (s.runAt q j))

theorem moveWaits_eq_false (turn : qKind q = .mv → ∀ j x, j < i → s.runAt q j = some x → x.phase = .started → x.waits = []) :
    s.moveWaits q i = false := by
  by_cases mv : qKind q = .mv
  · refine Bool.and_eq_false_iff.mpr (.inr (List.any_eq_false.mpr fun j hj => ?_))
    cases run : s.runAt q j with
    | none => simp [standsAtWait]
    | some x =>
      have passed := turn mv j x (List.mem_range.mp hj) run
      simpa [standsAtWait] using passed
  · simp [State.moveWaits, mv]

theorem passWait_passable (run : s.runAt q i = some r) (started : r.phase = .started) (waits : r.waits = w :: rest)
    (turn : s.moveWaits q i = false) (passable : s.waitPassable (q / 3) w = true) :
    let s0 := s.atPass q
    let isl : Islet := { s0.islet (q / 3) with stallTold := false }
    s.passWait q i =
      if w.mode = .readKeep then
        (s0.setIslet (q / 3) isl).setRun q i { r with waits := rest, holds := w.square :: r.holds, waitAt := s0.time }
      else
        (s0.setIslet (q / 3) { isl with claimed := setBit isl.claimed w.square true }).setRun q i
          { r with waits := rest, claims := r.claims ++ [w], waitAt := s0.time } := by
  have open_ : (!(r.phase == .started) || !s.waitPassable (q / 3) w || s.moveWaits q i) = false := by
    rw [started, passable, turn]
    rfl
  unfold State.passWait
  dsimp only
  rw [run]
  dsimp only
  rw [waits]
  refine (if_neg (Bool.eq_false_iff.mp open_)).trans ?_
  simp only [beq_iff_eq]
  rfl

theorem exec_tagWaitPoint (engine : q < 48) : exec (.tagWaitPoint q i) s = .next ((s.passWait q i).askMoves q) :=
  congrArg Host.Outcome.next (if_pos engine)

end

/-- Settles O14: a wait point whose square has its tag and no other claim is passed as its mode says. -/
theorem waitPointPassed : Obligations.WaitPointPassed := by
  intro q i s r w rest engine run started waits turn unclaimed tag
  have passable : s.waitPassable (q / 3) w = true := by simp [waitPassable_eq, unclaimed, tag]
  have passed := passWait_passable run started waits (moveWaits_eq_false turn) passable
  rw [exec_tagWaitPoint engine, passed]
  refine ⟨fun keep => ?_, fun claim => ?_⟩
  · rw [if_pos keep]
    rfl
  · rw [if_neg claim]
    rfl

/-! ### WAIT_TIMEOUT (R188) -/

section
variable {q : Nat} {s : State} {e : List Byte} {rest : List (List Byte)}

/-- The state in which the time of the WAIT `e` at the head of queue `q` is up. -/
def State.waitEnd (s : State) (q : Nat) (e : List Byte) : State := s.advanceTo ((s.queue q).headTime + leAt e 24 4 * 100)

theorem exec_waitTimeout (entries : (s.queue q).entries = e :: rest) (head : (s.queue q).headOk = true) (open_ : (s.queue q).passed = false)
    (wait : eOpcode e = 2) (limit : leAt e 24 4 ≠ 0) (runs : (s.queue q).halted = false) :
    exec (.waitTimeout q) s = .next (if (s.waitEnd q e).waitHolds q e then (s.waitEnd q e).setQueue q { s.queue q with passed := true }
      else ((s.waitEnd q e).popHead q { entry := e, start := (s.waitEnd q e).time, phase := .done, status := stStallTimeout }).complete q
        (s.queue q).run.length) := by
  have due : ¬ (!(s.queue q).headOk || (s.queue q).passed || eOpcode e != 2 || leAt e 24 4 == 0 || (s.queue q).halted) = true := by
    simp [head, open_, wait, limit, runs]
  show execWaitTimeout q s = _
  simp only [execWaitTimeout, entries]
  rw [if_neg due, apply_ite Host.Outcome.next]
  rfl

end

/-! ### REFUSAL_COMPLETE (R384) -/

theorem exec_refusalComplete {q i : Nat} {s : State} {r : Run} (run : s.runAt q i = some r) (refused : r.phase = .refused) :
    exec (.refusalComplete q i) s =
      .next (((s.advanceTo (r.start + 1600)).setRun q i { r with phase := .done, status := stRefused, info := 0 }).complete q
        i).settleRevokes := by
  show execRefusalComplete q i s = _
  simp only [execRefusalComplete, run, refused]
  rfl

/-! ### SQUARE_STALL (R109, R110) -/

/-- The owner of an Islet does not depend on the time or on the Islet's own state. -/
theorem isletOwner_advanceTo (s : State) (t n : Nat) : (s.advanceTo t).isletOwner n = s.isletOwner n := by
  rw [advanceTo_eq]
  rfl

theorem isletOwner_setIslet (s : State) (j : Nat) (v : Islet) (n : Nat) : (s.setIslet j v).isletOwner n = s.isletOwner n := rfl

theorem exec_squareStall {n p : Nat} {s : State} (inside : n < 16) (owner : s.isletOwner n = some p) (stalled : s.isletStalled n = true)
    (new : (s.islet n).stallTold = false) :
    let i := s.islet n
    let t := s.advanceTo (s.stallBegan n + i.stallLimit.toNat * 100)
    let w0 := stallField (t.tagWaitOf (3 * n)) + stallField (t.tagWaitOf (3 * n + 1)) * 2 ^ 16
    let w1 := stallField (t.tagWaitOf (3 * n + 2))
    exec (.squareStall n) s =
      .next ((t.setIslet n { i with stall := true, stallCount := satInc i.stallCount, stallTold := true,
                                    stallSq0 := BitVec.ofNat 32 w0, stallSq1 := BitVec.ofNat 32 w1 }).raiseEvent p 0x0202 noQueue 0
        (leBytes 4 w0 ++ leBytes 4 w1 ++ leBytes 1 n)) := by
  intro i t w0 w1
  have due : ¬ (16 ≤ n ∨ (s.islet n).stallTold = true ∨ (!s.isletStalled n) = true ∨ (s.isletOwner n).isNone = true) := by
    simp [inside, owner, stalled, new]
  refine (if_neg due).trans ?_
  simp only [isletOwner_setIslet, isletOwner_advanceTo, owner]
  rfl

/-- Settles O17, a lemma per command. -/
theorem delaysEnd : Obligations.DelaysEnd := by
  refine ⟨?_, fun q i s r run refused => exec_refusalComplete run refused,
    fun n p s inside owner stalled new => exec_squareStall inside owner stalled new⟩
  intro q s e rest k t entries head open_ wait limit runs
  have ended := exec_waitTimeout entries head open_ wait limit runs
  refine ⟨fun holds => ended.trans ?_, fun fails => ended.trans ?_⟩
  · exact congrArg Host.Outcome.next (if_pos holds)
  · exact congrArg Host.Outcome.next (if_neg (Bool.eq_false_iff.mp fails))

end Sys2Proof.Machine
end

section
/-! SUPPORT. What the coherence protocol and the accesses of HBM may change: HBM, its marks, the caches, the Lagoon and what these count
(R256 to R261, R269 to R273, R279 to R281). `HbmOnly s t`, taken apart, gives every other field at once. -/

namespace Sys2Proof.Machine

/-- `t` differs from `s` in HBM and its marks, the caches, the Lagoon, upkeep, Islets, partitions and the free values taken only. -/
def HbmOnly (s t : State) : Prop :=
  ∃ h p e c i l w u n g f,
    t = { s with hbm := h, hbmPoison := p, hbmErr := e, caches := c, invQueue := i, lagoon := l, plru := w, up := u, islets := n,
                 parts := g, freeCtr := f }

namespace HbmOnly

variable {s t u : State}

theorem scratch (h : HbmOnly s t) : t.scratch = s.scratch := by
  obtain ⟨_, _, _, _, _, _, _, _, _, _, _, rfl⟩ := h
  rfl

theorem refl (s : State) : HbmOnly s s := ⟨_, _, _, _, _, _, _, _, _, _, _, rfl⟩

/-- New values of some of these fields. -/
theorem fields {h : Memory} {p : Table Bool} {e : Table Nat} {c : Table CacheLine} {i : Table (List Nat)} {l : Table LagLine}
    {w : Table (BitVec 15)} {u : Upkeep} {n : Table Islet} {g : Table Part} {f : Nat} :
    HbmOnly s { s with hbm := h, hbmPoison := p, hbmErr := e, caches := c, invQueue := i, lagoon := l, plru := w, up := u, islets := n,
                       parts := g, freeCtr := f } := ⟨_, _, _, _, _, _, _, _, _, _, _, rfl⟩

theorem trans (h : HbmOnly s t) (k : HbmOnly t u) : HbmOnly s u := by
  obtain ⟨_, _, _, _, _, _, _, _, _, _, _, rfl⟩ := h
  obtain ⟨_, _, _, _, _, _, _, _, _, _, _, rfl⟩ := k
  exact fields

theorem foldl {α : Type} {f : State → α → State} (h : ∀ s x, HbmOnly s (f s x)) (l : List α) (s : State) :
    HbmOnly s (l.foldl f s) :=
  List.foldlRecOn (motive := fun t : State => HbmOnly s t) l f (refl s) fun _ e x _ => e.trans (h _ x)

theorem ite {c : Prop} [Decidable c] (h : HbmOnly s t) (k : HbmOnly s u) : HbmOnly s (if c then t else u) := by
  split
  · exact h
  · exact k

end HbmOnly

/-! ### Lines and caches -/

section
variable (s : State) (n a l : Nat)

theorem hbmOnly_takeData : HbmOnly s (s.takeData a l) := .ite .fields (.refl s)

theorem hbmOnly_demote (d : Mesi) : HbmOnly s (s.demote a l d) := (hbmOnly_takeData s a l).trans (.ite .fields .fields)

theorem hbmOnly_recallShared : HbmOnly s (s.recallShared l) := by
  unfold State.recallShared
  split
  · exact .refl s
  · exact (hbmOnly_demote _ _ _ _).trans .fields

theorem hbmOnly_recallOwned : HbmOnly s (s.recallOwned l) := by
  unfold State.recallOwned
  split
  · exact .refl s
  · exact (hbmOnly_demote _ _ _ _).trans .fields

theorem hbmOnly_applyInv : HbmOnly s (s.applyInv a l) := .ite .fields (.refl s)

theorem hbmOnly_acceptInv : HbmOnly s (s.acceptInv a l) := by
  unfold State.acceptInv
  refine .ite .fields (.trans ?_ .fields)
  split
  · exact .refl s
  · exact .ite (hbmOnly_applyInv _ _ _) (.refl s)

theorem hbmOnly_invalidateSharers (x : Option Nat) : HbmOnly s (s.invalidateSharers l x) :=
  .trans (.foldl (fun _ _ => hbmOnly_acceptInv _ _ _) _ s) .fields

/-! ### Marks (R279, R280) -/

theorem hbmOnly_eccBlock : HbmOnly s (s.eccBlock a) := by
  have read (u : State) : HbmOnly u (if Table.get 0 s.hbmErr a = 1 then u.hbmCorrected else u) := .ite .fields (.refl u)
  have marked (u : State) : HbmOnly u (if Table.get false s.hbmPoison a then u else
      ({ u with hbmPoison := Table.set false u.hbmPoison a true } : State).logPoison (a * 32) 0 false true) := .ite (.refl u) .fields
  have rebuild (u : State) : HbmOnly u ((u.hbmUncorrectable a).needsRebuild a) := .trans .fields (.ite .fields (.refl _))
  have cleared : HbmOnly s (if Table.get 0 s.hbmErr a = 0 then s else { s with hbmErr := Table.set 0 s.hbmErr a 0 }) :=
    .ite (.refl s) .fields
  have scrubbed := cleared.trans (read _)
  exact .ite scrubbed (scrubbed.trans ((marked _).trans (rebuild _)))

theorem hbmOnly_meetsPoison (fetched : Bool) : HbmOnly s (s.meetsPoison fetched a) := .ite (.refl s) .fields

/-! ### The Lagoon (R269 to R273) -/

theorem hbmOnly_evictLag : HbmOnly s (s.evictLag l) := by
  refine .trans (.trans ?_ (.ite (.foldl (fun _ _ => .fields) _ _) (.refl _))) .fields
  exact (hbmOnly_recallOwned s l).trans (.foldl (fun _ _ => .ite .fields (.refl _)) _ _)

theorem hbmOnly_allocate (fetch : Bool) : HbmOnly s (s.allocate l fetch) := by
  unfold State.allocate
  refine .ite .fields (.trans (.trans ?_ (.ite .fields (.refl _))) .fields)
  refine .trans ?_ (.ite (.foldl (fun _ _ => hbmOnly_eccBlock _ _) _ _) (.refl _))
  split
  · exact hbmOnly_evictLag _ _
  · exact .refl s

/-! ### Transactions (R257 to R261) -/

theorem hbmOnly_makeRoom : HbmOnly s (s.makeRoom a l) := by
  unfold State.makeRoom
  refine .ite (.refl s) (.ite (.refl s) ?_)
  split
  · exact .refl s
  · exact (hbmOnly_takeData _ _ _).trans .fields

theorem hbmOnly_roomFor : HbmOnly s ((s.makeRoom a l).allocate l true) := (hbmOnly_makeRoom s a l).trans (hbmOnly_allocate _ _ _)

theorem hbmOnly_shareLine : HbmOnly s (s.shareLine a l) := by
  have asked := hbmOnly_applyInv s a l
  have here := (asked.trans (hbmOnly_recallShared _ l)).trans (hbmOnly_roomFor _ a l)
  exact .ite asked (.ite (here.trans .fields) (here.trans .fields))

theorem hbmOnly_ownLine : HbmOnly s (s.ownLine a l) := by
  have asked := hbmOnly_applyInv s a l
  have alone := (asked.trans (hbmOnly_recallOwned _ l)).trans (hbmOnly_invalidateSharers _ l (some a))
  exact .ite asked ((alone.trans (hbmOnly_roomFor _ a l)).trans .fields)

theorem hbmOnly_drainOwned : HbmOnly s (s.drainOwned n l) :=
  .trans (.trans (.foldl (fun _ _ => .fields) _ s) (.foldl (fun _ _ => .ite .fields (.refl _)) _ _)) .fields

theorem hbmOnly_grantLine (own : Bool) : HbmOnly s (s.grantLine l a own) := by
  have owned := hbmOnly_ownLine s a l
  exact .ite (hbmOnly_shareLine s a l) (.ite (owned.trans .fields) (.ite (owned.trans (hbmOnly_drainOwned _ _ _)) owned))

theorem hbmOnly_finishTxn (own : Bool) : HbmOnly s (s.finishTxn l a own) := by
  refine .trans (.trans ?_ (.ite (hbmOnly_recallOwned _ l) (hbmOnly_recallShared _ l))) (hbmOnly_grantLine _ a l own)
  exact .trans (.foldl (fun _ _ => .ite (hbmOnly_acceptInv _ _ _) (.refl _)) _ s) .fields

theorem hbmOnly_settleGo (fuel : Nat) : HbmOnly s (State.settleGo l fuel s) := by
  induction fuel generalizing s with
  | zero => exact .refl s
  | succ fuel ih =>
    unfold State.settleGo
    split
    · exact .refl s
    · next a own _ =>
      have ended := hbmOnly_finishTxn s a l own
      dsimp only
      split
      · exact ended
      · exact (ended.trans .fields).trans (ih _)

theorem hbmOnly_drainLine : HbmOnly s (s.drainLine n l) :=
  .ite (.refl s) (((hbmOnly_settleGo s l 18).trans (hbmOnly_ownLine _ _ _)).trans (hbmOnly_drainOwned _ _ _))

end

/-! ### Writes of HBM (R236, R257, R281) -/

theorem hbmOnly_hbmWriteGo (fuel : Nat) (s : State) (a : Nat) (bytes : List Byte) : HbmOnly s (hbmWriteGo fuel s a bytes).s := by
  induction fuel generalizing s a bytes with
  | zero => exact .refl s
  | succ fuel ih =>
    have line := (((hbmOnly_settleGo s (lineOf a) 18).trans (hbmOnly_recallOwned _ (lineOf a))).trans
      (hbmOnly_invalidateSharers _ (lineOf a) none)).trans
      (hbmOnly_allocate _ (lineOf a) (decide (Nat.min bytes.length (128 - a % 128) < 128)))
    unfold hbmWriteGo
    split
    · exact .refl s
    dsimp only
    split
    · next b _ =>
      refine line.trans ((hbmOnly_meetsPoison _ b (s.fetches (lineOf a))).trans ?_)
      exact .trans .fields (.ite .fields (.refl _))
    · refine .trans (line.trans ?_) (ih _ _ _)
      exact .trans .fields (.foldl (fun _ _ => .ite .fields (.refl _)) _ _)

theorem hbmOnly_writeHbm (s : State) (a : Nat) (bytes : List Byte) : HbmOnly s (s.writeHbm a bytes).s := hbmOnly_hbmWriteGo _ s a bytes

theorem hbmOnly_storeGo (n fuel : Nat) (s : State) (a : Nat) (bytes : List Byte) : HbmOnly s (storeGo n fuel s a bytes).s := by
  induction fuel generalizing s a bytes with
  | zero => exact .refl s
  | succ fuel ih =>
    have line := hbmOnly_allocate s (lineOf a) true
    unfold storeGo
    split
    · exact .refl s
    dsimp only
    split
    · next b _ => exact (line.trans (hbmOnly_meetsPoison _ b (s.fetches (lineOf a)))).trans .fields
    · exact (line.trans .fields).trans (ih _ _ _)

theorem hbmOnly_storeHbm (s : State) (n a : Nat) (bytes : List Byte) : HbmOnly s (s.storeHbm n a bytes).s := hbmOnly_storeGo n _ s a bytes

theorem hbmOnly_writeAlias (s : State) (n a : Nat) (bytes : List Byte) : HbmOnly s (s.writeAlias n a bytes).s :=
  .trans (.trans (.foldl (fun _ _ => hbmOnly_drainLine _ _ _) _ s) (hbmOnly_writeHbm _ _ _))
    (.foldl (fun _ _ => hbmOnly_applyInv _ _ _) _ _)

end Sys2Proof.Machine
end

section
/-! PROOF. The stores of scratchpads and of tensor tables, and the statement about them (O23). -/

namespace Sys2Proof.Machine

open Sys2Proof.Claims

/-! ### Memories and tables -/

/-- A byte after a run of bytes is stored. -/
theorem Memory.byte_write (m : Memory) (a b : Nat) (l : List Byte) :
    Memory.byte (Memory.write m a l) b = if a ≤ b ∧ b < a + l.length then l.getD (b - a) 0 else Memory.byte m b := by
  induction l generalizing m a with
  | nil => simp [Memory.write]
  | cons v l ih =>
    refine (ih _ _).trans ?_
    rw [Memory.byte_setByte, List.length_cons]
    rcases Nat.lt_trichotomy b a with before | rfl | after
    · rw [if_neg (by omega), if_neg (by omega), if_neg (by omega)]
    · rw [if_neg (by omega), if_pos rfl, if_pos (by omega)]
      simp
    · obtain ⟨d, rfl⟩ : ∃ d, b = a + 1 + d := ⟨b - (a + 1), by omega⟩
      have next : a + 1 + d - a = d + 1 := by omega
      by_cases inside : d < l.length
      · rw [if_pos (by omega), if_pos (by omega), next]
        simp
      · rw [if_neg (by omega), if_neg (by omega), if_neg (by omega)]

/-- A row after a run of rows is written. -/
theorem Table.get_foldl_set_range {α : Type} [DecidableEq α] (d : α) (t : Table α) (first n : Nat) (f : Nat → α) (j : Nat) :
    Table.get d ((List.range n).foldl (fun t k => Table.set d t (first + k) (f k)) t) j =
      if first ≤ j ∧ j < first + n then f (j - first) else Table.get d t j := by
  induction n with
  | zero => simp
  | succ n ih =>
    rw [List.range_succ, List.foldl_append, List.foldl_cons, List.foldl_nil, Table.get_set, ih]
    by_cases last : j = first + n
    · subst last
      simp
    · have same : first ≤ j ∧ j < first + (n + 1) ↔ first ≤ j ∧ j < first + n := by omega
      simp [last, same]

/-! ### Stores of a scratchpad (R106, R107) -/

/-- `t` differs from `s` in the marks of scratchpads and in what Islets and upkeep count. -/
def SpMarks (s t : State) : Prop := ∃ e x i u, t = { s with spErr := e, spPoison := x, islets := i, up := u }

theorem SpMarks.refl (s : State) : SpMarks s s := ⟨_, _, _, _, rfl⟩

theorem SpMarks.trans {s t u : State} (h : SpMarks s t) (k : SpMarks t u) : SpMarks s u := by
  obtain ⟨_, _, _, _, rfl⟩ := h
  obtain ⟨_, _, _, _, rfl⟩ := k
  exact ⟨_, _, _, _, rfl⟩

theorem spMarks_spRead (s : State) (n w : Nat) : SpMarks s (s.spRead n w) := by
  unfold State.spRead
  split
  · exact .refl s
  · exact ⟨_, _, _, _, rfl⟩
  · dsimp only
    split
    · exact ⟨_, _, _, _, rfl⟩
    · exact ⟨_, _, _, _, rfl⟩

theorem spMarks_spConsumed (s : State) (n : Nat) : SpMarks s (s.spConsumed n) := ⟨_, _, _, _, rfl⟩

theorem SpMarks.foldl_spRead (n : Nat) (l : List Nat) (s : State) : SpMarks s (l.foldl (fun s w => s.spRead n w) s) :=
  List.foldlRecOn (motive := fun t : State => SpMarks s t) l _ (refl s) fun _ e w _ => e.trans (spMarks_spRead _ n w)

/-- `t` is `s` with bytes stored in the scratchpads, but for marks and counts. -/
def SpStored (s t : State) (a : Nat) (bytes : List Byte) : Prop := SpMarks { s with scratch := Memory.write s.scratch a bytes } t

/-- A store to a scratchpad writes the bytes before the poisoned word that stops it, all of them where none does. -/
theorem writeSp_stored (s : State) (n off : Nat) (bytes : List Byte) :
    ∃ k, ((s.writeSp n off bytes).bad = none → k = bytes.length) ∧
      SpStored s (s.writeSp n off bytes).s (spKey n off) (bytes.take k) := by
  by_cases empty : bytes.length = 0
  · refine ⟨0, fun _ => empty.symm, ?_⟩
    rw [State.writeSp, if_pos empty]
    exact .refl s
  rw [State.writeSp, if_neg empty]
  dsimp only
  generalize (if off % 4 ≠ 0 ∨ off + bytes.length < 4 * (off / 4) + 4 then [off / 4] else []) ++
    (if (off + bytes.length) % 4 ≠ 0 ∧ (off + bytes.length - 1) / 4 ≠ off / 4 then [(off + bytes.length - 1) / 4] else []) = part
  obtain ⟨_, _, _, _, read⟩ := SpMarks.foldl_spRead n part s
  rw [read]
  dsimp only
  split
  · exact ⟨bytes.length, fun _ => rfl, _, _, _, _, rfl⟩
  · next w _ =>
    refine ⟨4 * w - off, fun none_ => by simp at none_, ?_⟩
    exact .trans ⟨_, _, _, _, rfl⟩ (spMarks_spConsumed _ n)

section
variable {s t : State} {a : Nat} {bytes : List Byte} (h : SpStored s t a bytes)
include h

theorem SpStored.byte (b : Nat) :
    Memory.byte t.scratch b = if a ≤ b ∧ b < a + bytes.length then bytes.getD (b - a) 0 else Memory.byte s.scratch b := by
  obtain ⟨_, _, _, _, rfl⟩ := h
  exact Memory.byte_write _ _ _ _

theorem SpStored.memories : t.hbm = s.hbm ∧ t.flash = s.flash ∧ t.hbmPoison = s.hbmPoison := by
  obtain ⟨_, _, _, _, rfl⟩ := h
  exact ⟨rfl, rfl, rfl⟩

end

theorem writeSp_byte_inside {s : State} {n off : Nat} {bytes : List Byte} (clean : (s.writeSp n off bytes).bad = none) {k : Nat}
    (hk : k < bytes.length) : Memory.byte (s.writeSp n off bytes).s.scratch (spKey n off + k) = bytes.getD k 0 := by
  obtain ⟨m, whole, stored⟩ := writeSp_stored s n off bytes
  rw [whole clean, List.take_length] at stored
  rw [stored.byte, if_pos (by omega), Nat.add_sub_cancel_left]

theorem writeSp_byte_outside (s : State) (n off : Nat) (bytes : List Byte) {a : Nat}
    (out : a < spKey n off ∨ spKey n off + bytes.length ≤ a) :
    Memory.byte (s.writeSp n off bytes).s.scratch a = Memory.byte s.scratch a := by
  obtain ⟨m, -, stored⟩ := writeSp_stored s n off bytes
  have part := List.length_take_le' m bytes
  rw [stored.byte, if_neg (by omega)]

/-! ### The runs of an engine's store (R241) -/

theorem storeRun_scratchpad (s : State) (p n : Nat) (vx : Bool) (a : Nat) (bytes : List Byte) :
    (s.storeRun p n vx false a bytes).s = (s.writeSp n a bytes).s := rfl

/-- A store to device memory or to the host changes no scratchpad. -/
theorem storeRun_memory_scratch (s : State) (p n : Nat) (vx : Bool) (a : Nat) (bytes : List Byte) :
    (s.storeRun p n vx true a bytes).s.scratch = s.scratch := by
  have hbm (y : Nat) : (if vx then s.storeHbm n y bytes else s.writeHbm y bytes).s.scratch = s.scratch := by
    split
    · exact (hbmOnly_storeHbm s n y bytes).scratch
    · exact (hbmOnly_writeHbm s y bytes).scratch
  have volatile (y : Nat) : (if vx then s.writeAlias n y bytes else s.writeHbm y bytes).s.scratch = s.scratch := by
    split
    · exact (hbmOnly_writeAlias s n y bytes).scratch
    · exact (hbmOnly_writeHbm s y bytes).scratch
  have host (q : Nat) (o : Out) : (s.toHost q o).scratch = s.scratch := by
    obtain ⟨_, _, _, _, _, _, _, _, _, _, _, _, e⟩ := evt_toHost s q o
    rw [e]
  have orWait (c : Bool) {x : Store} (h : x.s.scratch = s.scratch) :
      (if c then (⟨s, 0, some .wait⟩ : Store) else x).s.scratch = s.scratch := by
    split
    · rfl
    · exact h
  unfold State.storeRun
  rw [if_neg (by decide)]
  cases placeRun a bytes.length with
  | hbm y => exact orWait _ (hbm y)
  | alias_ y => exact orWait _ (volatile y)
  | host y => exact orWait _ (host _ _)
  | _ => rfl

/-- What no run of a store changes, the store does not change. -/
theorem storeRuns_keeps {β : Type} (g : State → β) {p n : Nat} {vx mem : Bool} {runs : List (Nat × List Byte)}
    (run : ∀ u, u ∈ runs → ∀ s : State, g (s.storeRun p n vx mem u.1 u.2).s = g s) (s : State) :
    g (storeRuns p n vx mem runs s).s = g s := by
  induction runs generalizing s with
  | nil => rfl
  | cons u runs ih =>
    have first := run u List.mem_cons_self s
    unfold storeRuns
    dsimp only
    split
    · exact first
    · exact (ih (fun x hx => run x (List.mem_cons_of_mem _ hx)) _).trans first

/-! ### Tensor tables (R145) -/

theorem loadTds_get (i : Islet) (first : Nat) (bytes : List Byte) (j : Nat) :
    Table.get {} (i.loadTds first bytes).tds j =
      if first ≤ j ∧ j < first + bytes.length / 64 then tdescOf (slice bytes (64 * (j - first)) 64) else Table.get {} i.tds j :=
  Table.get_foldl_set_range {} i.tds first _ (fun k => tdescOf (slice bytes (64 * k) 64)) j

/-- Settles O23: a store writes the first of its bytes, all where no poison stops it, and each run of an engine's store keeps the bytes outside it. -/
theorem scratchpadStores : Obligations.ScratchpadStores := by
  refine ⟨fun s n off bytes => ?_, fun p n vx runs s a => ⟨fun out => ?_, ?_⟩, loadTds_get⟩
  · obtain ⟨m, -, stored⟩ := writeSp_stored s n off bytes
    exact ⟨fun clean k hk => writeSp_byte_inside clean hk, fun a out => writeSp_byte_outside s n off bytes out, stored.memories⟩
  · refine storeRuns_keeps (fun t => Memory.byte t.scratch a) (fun u hu t => ?_) s
    rw [storeRun_scratchpad]
    exact writeSp_byte_outside t n u.1 u.2 (out u hu)
  · exact storeRuns_keeps State.scratch (fun u _ t => storeRun_memory_scratch t p n vx u.1 u.2) s

end Sys2Proof.Machine
end

section
/-! PROOF. The start of a command on an engine queue and on a control ring, and the statement about COMMAND_START (O13). -/

namespace Sys2Proof.Machine

open Sys2Proof.Claims

section
variable {q : Nat} {s : State} {e : List Byte} {rest : List (List Byte)}

/-! ### Engine queues (R113, R142) -/

/-- The run as which the head `e` of engine queue `q` starts: it keeps the Islet's tables as they stand. -/
def State.startRun (s : State) (q : Nat) (e : List Byte) : Run :=
  { entry := e, start := s.time, phase := .started, tds := (s.islet (q / 3)).tds, free := (s.islet (q / 3)).free,
    trapEn := (s.num q).trapEn, waitAt := s.time }

/-- The state in which the head `e` of engine queue `q` is checked: a header wait on a VX queue has applied the pending invalidations,
and the Islet's stall is over. -/
def State.atStart (s : State) (q : Nat) (e : List Byte) : State :=
  let s0 := if eWaitKind e ≠ 0 ∧ qKind q = .vx then s.applyAllInvs (q / 3) else s
  s0.setIslet (q / 3) { s0.islet (q / 3) with stallTold := false }

theorem startEngine_malformed {m : Malformed}
    (fault : (s.atStart q e).startChecks q (s.islet (q / 3)).tds (s.islet (q / 3)).free e = some m) :
    s.startEngine q e =
      (s.atStart q e).popHead q { s.startRun q e with phase := .done, status := stMalformed, info := malformedInfo m } := by
  unfold State.atStart at fault ⊢
  simp only [State.startEngine, fault]
  rfl

section
variable (pass : (s.atStart q e).startChecks q (s.islet (q / 3)).tds (s.islet (q / 3)).free e = none)
include pass

theorem startEngine_refused {reason : Nat}
    (denied : (s.atStart q e).rightsCheck (((s.atStart q e).isletOwner (q / 3)).getD 0) (q / 3) (s.islet (q / 3)).tds e = some reason) :
    s.startEngine q e =
      ((s.atStart q e).refuse 3 ((s.atStart q e).isletOwner (q / 3)) q reason (eSeq e) 0).popHead q
        { s.startRun q e with phase := .refused } := by
  unfold State.atStart at pass denied ⊢
  simp only [State.startEngine, pass, denied]
  rfl

theorem startEngine_starts
    (allowed : (s.atStart q e).rightsCheck (((s.atStart q e).isletOwner (q / 3)).getD 0) (q / 3) (s.islet (q / 3)).tds e = none) :
    s.startEngine q e =
      ((s.atStart q e).reserve q (s.islet (q / 3)).tds e).popHead q
        { s.startRun q e with waits := waitPoints (s.islet (q / 3)).tds (s.islet (q / 3)).free e,
                              aux := (s.atStart q e).startKeys q e } := by
  unfold State.atStart at pass allowed ⊢
  simp only [State.startEngine, pass, allowed]
  rfl

end

theorem exec_commandStart_engine (engine : q < 48) (start : s.canStart q = true) (entries : (s.queue q).entries = e :: rest) :
    exec (.commandStart q) s = .next (((s.startEngine q e).headArrive q).askMoves q) := by
  show execCommandStart q s = _
  simp only [execCommandStart, start, entries, engine, Bool.not_true, Bool.false_eq_true, if_false, if_true]

/-! ### Control rings (R193, R194, R355) -/

/-- The Goose's common checks of the command `e` that has started on ring `q`: in RECOVERY the ROM knows three opcodes. -/
def State.ringChecked (t : State) (q : Nat) (e : List Byte) : State :=
  if t.mgt.stage = .recovery ∧ !([0, 0x95, 0x96].contains (eOpcode e)) then t.finish q 0 stNotReady 0
  else if eOpcode e < 6 then
    match commonDesc (qKind q) e with
    | some o => t.finish q 0 stMalformed (malformedInfo (subDesc, o)).toNat
    | none => t
  else t

theorem exec_commandStart_ring (ring : 48 ≤ q) (start : s.canStart q = true) (entries : (s.queue q).entries = e :: rest)
    (turn : s.gooseNext = some q) :
    exec (.commandStart q) s =
      .next { (s.popHead q { entry := e, start := s.time, phase := .started, waitAt := s.time }).ringChecked q e with lastRing := q } := by
  show execCommandStart q s = _
  simp only [execCommandStart, start, entries, turn, Nat.not_lt.mpr ring, Bool.not_true, Bool.false_eq_true, if_false, if_true]
  rfl

variable {t : State}

theorem romKnows_iff (op : Nat) : [0, 0x95, 0x96].contains op = true ↔ op = 0 ∨ op = 0x95 ∨ op = 0x96 := by simp

theorem ringChecked_recovery (stage : t.mgt.stage = .recovery) (unknown : ¬ (eOpcode e = 0 ∨ eOpcode e = 0x95 ∨ eOpcode e = 0x96)) :
    t.ringChecked q e = t.finish q 0 stNotReady 0 :=
  if_pos ⟨stage, by rw [Bool.eq_false_iff.mpr (mt (romKnows_iff _).mp unknown)]; rfl⟩

section
variable (known : t.mgt.stage ≠ .recovery ∨ eOpcode e = 0 ∨ eOpcode e = 0x95 ∨ eOpcode e = 0x96)
include known

theorem not_refused_in_recovery :
    ¬ (t.mgt.stage = .recovery ∧ (!([0, 0x95, 0x96].contains (eOpcode e))) = true) := by
  rintro ⟨stage, unknown⟩
  have knows := (romKnows_iff _).mpr (known.resolve_left (not_not_intro stage))
  rw [knows] at unknown
  cases unknown

theorem ringChecked_malformed {o : Nat} (common : eOpcode e < 6) (bad : commonDesc (qKind q) e = some o) :
    t.ringChecked q e = t.finish q 0 stMalformed (malformedInfo (subDesc, o)).toNat := by
  rw [State.ringChecked, if_neg (not_refused_in_recovery known), if_pos common, bad]

theorem ringChecked_passes (good : 6 ≤ eOpcode e ∨ commonDesc (qKind q) e = none) : t.ringChecked q e = t := by
  rw [State.ringChecked, if_neg (not_refused_in_recovery known)]
  split
  · next common => rw [good.resolve_left (Nat.not_le.mpr common)]
  · rfl

end

end

/-- Settles O13: an engine queue starts its head by `State.startEngine`, a control ring by `State.ringChecked`. -/
theorem commandStarts : Obligations.CommandStarts := by
  refine ⟨?_, ?_⟩
  · intro q s e rest engine start entries n i r s0 s1 next
    rw [exec_commandStart_engine engine start entries]
    refine ⟨fun m fault => ?_, fun reason pass denied => ?_, fun pass allowed => ?_⟩
    · rw [startEngine_malformed fault]
      rfl
    · rw [startEngine_refused pass denied]
      rfl
    · rw [startEngine_starts pass allowed]
      rfl
  · intro q s e rest ring start entries turn t done
    rw [exec_commandStart_ring ring start entries turn]
    refine ⟨fun stage nop staging commit => ?_, fun known => ⟨fun o common bad => ?_, fun good => ?_⟩⟩
    · rw [ringChecked_recovery stage (by simp [nop, staging, commit])]
    · rw [ringChecked_malformed known common bad]
    · rw [ringChecked_passes known good]

end Sys2Proof.Machine
end

section
/-! PROOF. What a transfer of the Move engine does when it does not stop, and the statement about the Move commands (O22). -/

namespace Sys2Proof.Machine

open Sys2Proof.Claims

/-! ### The bytes of a transfer (R136, R137, R185) -/

section
variable {s0 s : State} {n p i : Nat} {r : Run} {bytes : List Byte} {hidden : Bool}

/-- A transfer writes on die `die`: it uses no grant, or the grant of a window there. -/
def Run.landsOn (r : Run) (die : Nat) : Bool :=
  match r.grantKey with
  | some g => g / 256 == die
  | none => true

/-- The state in which a transfer has written its bytes on this die, and has ended. -/
def State.movedHere (s : State) (p n i : Nat) (r : Run) (bytes : List Byte) (hidden : Bool) : State :=
  let m := s.moveOut p n r 0 bytes hidden
  (m.s.perfAdd p 3 m.sent).endWork (3 * n + 2) i
    { r with readSq := wholeSquares (spSource r) bytes.length, wroteSq := wholeSquares (spDest r) m.sent, status := stDone } false

/-- The state in which a transfer has sent its bytes to a window of another die, keeps the claims of what it has read whole until their
set points, and waits for its acknowledgements. -/
def State.movedAway (s : State) (p n i : Nat) (r : Run) (bytes : List Byte) (hidden : Bool) : State :=
  let k := s.freshXfer.1
  let m := s.freshXfer.2.moveOut p n r k bytes hidden
  let g := r.grantKey.getD 0
  let read := wholeSquares (spSource r) bytes.length
  let v := (m.s.perfAdd p 3 m.sent).setXfer k
    { queue := some (3 * n + 2), die := g / 256, part := g / 16 % 16, window := g % 16, total := m.sent, status := stDone, info := 0,
      grantKey := r.grantKey }
  let t := (v.setIslet n ((v.islet n).unclaim (r.claims.filter (fun w => !read.contains w.square)))).setRun (3 * n + 2) i
    { r with readSq := read, wroteSq := wholeSquares (spDest r) m.sent, phase := .busy, holds := [],
             claims := r.claims.filter (fun w => read.contains w.square), xfer := some k }
  (t.settleIslet n).reevaluate

section
variable (owner : (s.isletOwner n).getD 0 = p)
include owner

theorem moveBytes_here (lands : r.landsOn s.die = true) (whole : (s.moveOut p n r 0 bytes hidden).stop = none) :
    State.moveBytes s0 s n i r bytes none hidden = s.movedHere p n i r bytes hidden := by
  subst owner
  unfold Run.landsOn at lands
  unfold State.moveBytes
  cases grant : r.grantKey with
  | none =>
    simp only [whole, Bool.false_eq_true, if_false]
    rfl
  | some g =>
    rw [grant] at lands
    have onDie : (g / 256 != s.die) = false := by simpa using lands
    simp only [onDie, whole, Bool.false_eq_true, if_false]
    rfl

theorem moveBytes_away (leaves : r.landsOn s.die = false)
    (whole : (s.freshXfer.2.moveOut p n r s.freshXfer.1 bytes hidden).stop = none)
    (sent : (s.freshXfer.2.moveOut p n r s.freshXfer.1 bytes hidden).sent ≠ 0) :
    State.moveBytes s0 s n i r bytes none hidden = s.movedAway p n i r bytes hidden := by
  subst owner
  unfold Run.landsOn at leaves
  unfold State.moveBytes
  cases grant : r.grantKey with
  | none => simp [grant] at leaves
  | some g =>
    rw [grant] at leaves
    have remote : (g / 256 != s.die) = true := by simpa using leaves
    simp only [remote, whole, sent, if_true, if_false]
    rfl

end

end

/-! ### The commands (R136 to R138, R145, R166) -/

section
variable {n i : Nat} {s : State} {r : Run}

theorem exec_mvCopy (run : s.moveRun n i 0x60 = some r) (ready : s.destReady ((s.isletOwner n).getD 0) n r.entry = true)
    (written : (copySource r).1 = true → s.loadPending ((s.isletOwner n).getD 0) (copySource r).2 = false) :
    let l := loadRuns ((s.isletOwner n).getD 0) n false r (copySource r).1 (copySource r).2 s
    let refs := if (copySource r).1 then [] else [refAt r.tds r.entry 24 true false]
    l.stop = none →
      exec (.mvCopy n i) s =
        .next ((State.moveBytes s l.s n i r l.rows.flatten none (s.readsSealed n refs || s.frozenSource r.entry)).askReads
          (3 * n + 2)) := by
  intro l refs loaded
  have due : ((copySource r).1 && s.loadPending ((s.isletOwner n).getD 0) (copySource r).2 ||
      !s.destReady ((s.isletOwner n).getD 0) n r.entry) = false := by
    rw [ready]
    cases mem : (copySource r).1 with
    | false => rfl
    | true => rw [written mem]; rfl
  show execMvCopy n i s = _
  simp only [execMvCopy, run]
  rw [if_neg (Bool.eq_false_iff.mp due), if_neg (by rw [loaded]; simp)]
  rw [loaded]

theorem exec_mvFill (run : s.moveRun n i 0x61 = some r) (ready : s.destReady ((s.isletOwner n).getD 0) n r.entry = true) :
    exec (.mvFill n i) s =
      .next (State.moveBytes s s n i r ((List.range (mvLength r.entry)).map (fun k => (slice r.entry 48 4).getD (k % 4) 0)) none
        false) := by
  show execMvFill n i s = _
  simp only [execMvFill, run, ready]
  rfl

theorem exec_mvTdescLoad (run : s.moveRun n i 0x62 = some r) :
    let p := (s.isletOwner n).getD 0
    let runs := [(mvSrc r.entry, leAt r.entry 40 4 * 64)]
    let l := loadRuns p n false r true runs s
    s.loadPending p runs = false → l.stop = none →
      exec (.mvTdescLoad n i) s =
        .next (((l.s.setIslet n ((l.s.islet n).loadTds (leAt r.entry 44 4) l.rows.flatten)).endWork (3 * n + 2) i
          { r with status := stDone } false).askReads (3 * n + 2)) := by
  intro p runs l written loaded
  show execMvTdescLoad n i s = _
  simp only [execMvTdescLoad, run]
  rw [if_neg (Bool.eq_false_iff.mp written), if_neg (by rw [loaded]; simp)]
  rw [loaded]

end

/-- Settles O22: a copy and a fill are `State.movedHere` on this die and `State.movedAway` into a window of another. -/
theorem moveCommands : Obligations.MoveCommands := by
  intro n i s r q p here finished inFlight
  refine ⟨fun run ready => ?_, fun run ready => ?_, fun run => ?_, fun run => ?_⟩
  · intro mem runs l hide written loaded die owner
    have partition : (l.s.isletOwner n).getD 0 = p := congrArg (Option.getD · 0) owner
    have lands : r.landsOn l.s.die = here := congrArg r.landsOn die
    rw [exec_mvCopy run ready written loaded]
    refine ⟨fun inside whole => ?_, fun remote => ?_⟩
    · rw [moveBytes_here partition (lands.trans inside) whole]
      rfl
    · intro m whole sent
      rw [moveBytes_away partition (lands.trans remote) whole sent]
      rfl
  · intro bytes
    rw [exec_mvFill run ready]
    refine ⟨fun inside whole => ?_, fun remote => ?_⟩
    · rw [moveBytes_here rfl inside whole]
      rfl
    · intro m whole sent
      rw [moveBytes_away rfl remote whole sent]
      rfl
  · exact exec_mvTdescLoad run
  · show execMvGatherReq n i s = _
    simp only [execMvGatherReq, run]
    cases placeOf (mvDst r.entry) <;> rfl

end Sys2Proof.Machine
end

section
/-! PROOF. Transfers that wait for their bytes and pushes that take a slot, and the statement about them (O56). -/

namespace Sys2Proof.Machine

open Sys2Proof.Claims

/-! ### The bytes of a transfer (R185, R310) -/

section
variable {t : State} {x n : Nat}

/-- A count that fits in a transfer beside its counted and its lost bytes is not more than what is open. -/
theorem Xfer.not_open_lt {k : Xfer} (fits : n + (k.acked + k.lost) ≤ k.total) : ¬ k.open < n := by
  unfold Xfer.open
  omega

theorem loseBytes_of_fits (pos : 0 < n) (fits : n + ((t.xfer x).acked + (t.xfer x).lost) ≤ (t.xfer x).total) (die port : Nat) :
    t.loseBytes x n die port =
      ((t.grantSent (t.xfer x).grantKey 0 n).setXfer x
        { t.xfer x with lost := (t.xfer x).lost + n, lostInfo := linkLostInfo die port,
                        ended := (t.xfer x).ended || (t.xfer x).gather }).settleXfer x :=
  if_neg (not_or.mpr ⟨Xfer.not_open_lt fits, pos.ne'⟩)

theorem settleXfer_of_open (h : (t.xfer x).acked + (t.xfer x).lost < (t.xfer x).total) : t.settleXfer x = t :=
  if_pos (.inr (Nat.sub_pos_of_lt h))

/-- LINK_LOST takes the place of DONE alone, and not of what a queue's stop has set (R140, R310). -/
theorem Xfer.outcome_eq (k : Xfer) :
    k.outcome = (if k.stopped = false ∧ 0 < k.lost ∧ k.status = stDone then stLinkLost else k.status,
                 if k.stopped = false ∧ 0 < k.lost ∧ k.status = stDone then k.lostInfo else k.info) := by
  unfold Xfer.outcome
  cases k.stopped
  · by_cases lost : 0 < k.lost ∧ k.status = stDone <;> simp [lost]
  · simp

/-- The run that waits for a transfer is found in its queue alone. -/
theorem runOfXfer_of_xfers (t : State) (xfers : Table Xfer) (q x : Nat) :
    ({ t with xfers := xfers } : State).runOfXfer q x = t.runOfXfer q x := rfl

/-- A transfer whose bytes are all counted or lost ends with its outcome, and is gone (R185). -/
theorem settleXfer_of_counted {q i : Nat} (queue : (t.xfer x).queue = some q) (pos : 0 < (t.xfer x).total)
    (whole : (t.xfer x).acked + (t.xfer x).lost = (t.xfer x).total) (gather : (t.xfer x).gather = false)
    (run : t.runOfXfer q x = some i) :
    t.settleXfer x = { t with xfers := Table.set {} t.xfers x {} }.finish q i (t.xfer x).outcome.1 (t.xfer x).outcome.2 := by
  have counted : ¬ ((t.xfer x).total = 0 ∨ 0 < (t.xfer x).open) := by
    unfold Xfer.open
    omega
  unfold State.settleXfer
  rw [if_neg counted]
  simp only [queue, gather, Bool.false_and, Bool.false_eq_true, if_false, runOfXfer_of_xfers, run]

end

/-! ### What a flit says of a transfer (R168, R309, R310, R318, R322) -/

section
variable {s : State} {p typ x n q sent info : Nat} {raw : List Byte} {f : Flit}

/-- The content of an accepted flit acts, and then its slot is free (R296). -/
theorem linkReceive_acts (h : Accepts s p typ raw f) {act : Flit → State → State} {u : State} (run : act f (accepted s p f) = u) :
    s.linkReceive p typ raw act = .next (u.freeSlot p f.vc.toNat) :=
  run ▸ linkReceive_of_accepts h act

theorem exec_winAck (h : Accepts s p 0x18 raw f) (gather : ((accepted s p f).xfer x).gather = false)
    (fits : n + (((accepted s p f).xfer x).acked + ((accepted s p f).xfer x).lost) ≤ ((accepted s p f).xfer x).total) :
    let t := accepted s p f
    let k := t.xfer x
    exec (.winAck p raw x n) s =
      .next (((t.setXfer x { k with acked := k.acked + n }).settleXfer x).settleRevokes.freeSlot p f.vc.toNat) :=
  linkReceive_acts h (if_neg (not_or.mpr ⟨ne_true_of_eq_false gather, Xfer.not_open_lt fits⟩))

theorem exec_lostNotice_bytes (h : Accepts s p 0x09 raw f) (pos : 0 < n) (die port : Nat) :
    exec (.lostNotice p raw x n die port) s =
      .next (((accepted s p f).loseBytes x n die port).settleRevokes.freeSlot p f.vc.toNat) :=
  linkReceive_acts h (if_neg pos.ne')

theorem exec_lostNotice_note (h : Accepts s p 0x09 raw f) (die port : Nat) :
    exec (.lostNotice p raw x 0 die port) s =
      .next ((((accepted s p f).dropOpens (fun d => d == x) die port).fetchAgain x).freeSlot p f.vc.toNat) :=
  linkReceive_acts h (if_pos rfl)

/-- A gather's window counts the bytes that the verdict reports sent, where the window is a binding one (R168). -/
def State.gatherSent (t : State) (k : Xfer) (sent : Nat) : State :=
  let w := t.win k.part k.window
  if w.binding then t.setWin k.part k.window { w with sent := w.sent + sent } else t

theorem exec_xferVerdict_gather (h : Accepts s p 0x19 raw f) (queue : ((accepted s p f).xfer x).queue = some q)
    (gather : ((accepted s p f).xfer x).gather = true) (poisoned : Bool) :
    let t := accepted s p f
    let k := t.xfer x
    exec (.xferVerdict p raw x false poisoned sent info) s =
      .next ((((t.gatherSent k sent).setXfer x
        { k with ended := true, lost := k.total - sent, info := info, lostInfo := info,
                 status := if poisoned then stPoison else if sent < k.total then stLinkLost else stDone }).settleXfer
        x).settleWindows.freeSlot p f.vc.toNat) := by
  refine linkReceive_acts h ?_
  simp only [queue, gather]
  rfl

theorem exec_xferVerdict_write (h : Accepts s p 0x19 raw f) (queue : ((accepted s p f).xfer x).queue = some q)
    (gather : ((accepted s p f).xfer x).gather = false) {refused poisoned : Bool} (bad : (refused || poisoned) = true) :
    let t := accepted s p f
    let k := t.xfer x
    let y := if k.stopped then k else { k with status := if refused then stRefused else stPoison, info := info }
    exec (.xferVerdict p raw x refused poisoned sent info) s =
      .next ((((t.grantSent k.grantKey 0 sent).setXfer x { y with lost := k.lost + sent }).settleXfer
        x).settleRevokes.freeSlot p f.vc.toNat) := by
  have bad' : (poisoned || refused) = true := (Bool.or_comm ..).trans bad
  refine linkReceive_acts h ?_
  simp only [queue, gather, bad']
  rfl

theorem exec_xferVerdict_refused {i : Nat} {r : Run} (h : Accepts s p 0x19 raw f) (queue : ((accepted s p f).xfer x).queue = some q)
    (gather : ((accepted s p f).xfer x).gather = true) (poisoned : Bool) :
    let t := accepted s p f
    let u := t.gatherSent (t.xfer x) sent
    let v : State := { u with xfers := Table.set {} u.xfers x {} }
    v.runOfXfer q x = some i → v.runAt q i = some r →
      exec (.xferVerdict p raw x true poisoned sent info) s =
        .next (((v.refuse (masterNum .icpHub) (v.queueOwner q) q 0x06 (eSeq r.entry) 0).setRun q i
          { r with phase := .refused, xfer := none }).settleWindows.freeSlot p f.vc.toNat) := by
  intro t u v found run
  refine linkReceive_acts h ?_
  simp only [State.gatherSent, u, v, t] at found run
  simp only [queue, gather, found, run]
  rfl

end

/-! ### The start of a push (R167) -/

section
variable {s : State} {n k m : Nat} {u : Push}

/-- The slot and the bytes of a push are there for it: it is the `k`-th push of Islet `n` and has no slot, one of the two is free, no
push that waits has a higher QoS, and the Islet that serves its partition and the HBM it reads are on and not held (R167, R274). -/
structure Push.Startable (s : State) (n k m : Nat) (u : Push) : Prop where
  place : (s.islet n).pushes[k]? = some u
  waits : u.served = false
  slot : (s.islet n).serving < 2
  highest : ∀ v, v ∈ (s.islet n).pushes → v.served = false → v.qos.toNat ≤ u.qos.toNat
  serves : (s.isletsOf u.part).find? s.on = some m
  moving : (s.islet m).quiesce = false
  whole : (s.islet m).testing = false
  ready : s.runReady u.src u.len = true

/-- This die holds the grant of the window that a push sends into (R316, R319). -/
def Push.granted (u : Push) (s : State) : Bool := (Table.get {} s.grants (grantKey u.die u.part u.window)).present

/-- The state after the `k`-th push of Islet `n` has taken its slot: its bytes are read and sent, and its grant has counted them. -/
def Push.sentBy (u : Push) (s : State) (n k : Nat) : State :=
  let x := s.readHbm .lagoon u.src u.len
  let t := x.s.setIslet n { x.s.islet n with pushes := (s.islet n).pushes.set k { u with served := true } }
  let t := match x.bad with
    | some b => t.poisonEvent u.part noQueue 0 (t.relAddr u.part b) u.die
    | none => t
  let t := t.sendRuns (pushKey u.die u.xfer) u.die u.qos.toNat u.part u.part u.window u.xfer 0 (s.touchesFrozen u.src u.len)
    [(u.off, x.bytes)]
  if u.granted x.s then t.grantSent (some (grantKey u.die u.part u.window)) x.bytes.length 0 else t

/-- The transfer of a push, from what its read gave: it ends with POISON where a block of it was poisoned (R168). -/
def Push.transfer (u : Push) (t : State) (n : Nat) (granted : Bool) (x : ReadRes) : Xfer :=
  { queue := none, die := u.die, part := u.part, window := u.window, total := x.bytes.length, islet := n,
    status := if x.bad.isSome then stPoison else stDone,
    info := match x.bad with
      | some b => t.relAddr u.part b
      | none => 0,
    grantKey := if granted then some (grantKey u.die u.part u.window) else none }

/-- No push that waits at Islet `n` goes before a startable one. -/
theorem Push.Startable.none_before (h : u.Startable s n k m) :
    (s.islet n).pushes.any (fun v => !v.served && decide (u.qos.toNat < v.qos.toNat)) = false := by
  refine List.any_eq_false.mpr fun v at_ before => ?_
  obtain ⟨waits, higher⟩ : v.served = false ∧ u.qos.toNat < v.qos.toNat := by simpa using before
  exact Nat.not_lt.mpr (h.highest v at_ waits) higher

theorem exec_gatherServiceStart (h : u.Startable s n k m) :
    let x := s.readHbm .lagoon u.src u.len
    let t := u.sentBy s n k
    let v := t.setXfer (pushKey u.die u.xfer) (u.transfer t n (u.granted x.s) x)
    exec (.gatherServiceStart n k) s = .next (if x.bytes.length = 0 then v.endPush (pushKey u.die u.xfer) else v) := by
  have before := h.none_before
  obtain ⟨place, waits, slot, -, serves, moving, whole, ready⟩ := h
  have free : ¬ 2 ≤ (s.islet n).serving := Nat.not_le.mpr slot
  show execGatherServiceStart n k s = _
  simp only [execGatherServiceStart, place, serves, before, moving, whole, ready, waits]
  rw [if_neg (by simp [free])]
  rfl

end

/-- Settles O56: a transfer's flits act where they are accepted, `settleXfer` ends it by its counts, and a startable push is sent. -/
theorem transfersEnd : Obligations.TransfersEnd := by
  unfold Obligations.TransfersEnd
  refine ⟨fun p x raw f s taken here => ?_, fun n k m s u place waits slot highest serves moving whole ready =>
    exec_gatherServiceStart ⟨place, waits, slot, highest, serves, moving, whole, ready⟩⟩
  intro t k after
  have accepts {typ : Nat} (h : rawType raw = typ) : Accepts s p typ raw f := ⟨h ▸ taken, here⟩
  refine ⟨fun n typ gather fits => exec_winAck (accepts typ) gather fits, fun n die port typ pos fits => ?_,
    fun die port typ => exec_lostNotice_note (accepts typ) die port,
    fun q sent info typ queue gather poisoned => exec_xferVerdict_gather (accepts typ) queue gather poisoned,
    fun q sent info refused poisoned typ queue gather bad => exec_xferVerdict_write (accepts typ) queue gather bad,
    fun q i r poisoned sent info typ queue gather => exec_xferVerdict_refused (accepts typ) queue gather poisoned,
    fun q i queue pos whole gather run => ?_, settleXfer_of_open⟩
  · rw [exec_lostNotice_bytes (accepts typ) pos, loseBytes_of_fits pos fits]
    rfl
  · rw [settleXfer_of_counted queue pos whole gather run, Xfer.outcome_eq]

end Sys2Proof.Machine
end

section
/-! PROOF. What a second write of the same key of a table does, and the statement about RESUME and DISCARD (O27). -/

namespace Sys2Proof.Machine

open Sys2Proof.Claims

/-! ### Two writes of one key -/

section
variable {α : Type} (d : α) (t : Table α) (k : Nat) (v w : α)

theorem Table.drop_drop : Table.drop (Table.drop t k) k = Table.drop t k := by
  induction t with
  | nil => rfl
  | cons e t ih =>
    by_cases at_ : k = e.1
    · subst at_
      simp [Table.drop, ih]
    · simp [Table.drop, at_, ih]

theorem Table.drop_put : Table.drop (Table.put t k v) k = Table.drop t k := by
  induction t with
  | nil => simp [Table.put, Table.drop]
  | cons e t ih =>
    rcases Nat.lt_trichotomy k e.1 with below | at_ | above
    · simp [Table.put, Table.drop, below]
    · simp [Table.put, Table.drop, at_]
    · simp [Table.put, Table.drop, Nat.lt_asymm above, Nat.ne_of_gt above, ih]

theorem Table.put_put : Table.put (Table.put t k v) k w = Table.put t k w := by
  induction t with
  | nil => simp [Table.put]
  | cons e t ih =>
    rcases Nat.lt_trichotomy k e.1 with below | at_ | above
    · simp [Table.put, below]
    · simp [Table.put, at_]
    · simp [Table.put, Nat.lt_asymm above, Nat.ne_of_gt above, ih]

/-- The second write stands alone. On a table that is not in canonical form it does so only where the first one does not drop an entry
that the second puts back. -/
theorem Table.set_set [DecidableEq α] {v w : α} (drops : v = d → w = d) :
    Table.set d (Table.set d t k v) k w = Table.set d t k w := by
  unfold Table.set
  by_cases hw : w = d
  · by_cases hv : v = d
    · simp only [hv, hw, if_true, Table.drop_drop]
    · simp only [hv, hw, if_true, if_false, Table.drop_put]
  · simp only [hw, mt drops hw, if_false, Table.put_put]

end

section
variable {s : State} {fn q : Nat}

theorem setQueue_setQueue {v w : Queue} (drops : v = {} → w = {}) : (s.setQueue q v).setQueue q w = s.setQueue q w :=
  congrArg (fun t => ({ s with queues := t } : State)) (Table.set_set _ _ _ drops)

/-! ### The write of HIF_QRESUME (R198, R204) -/

theorem setsQueue_of_maySet (may : MaySet s fn q) (o : Nat) : s.setsQueue (accOf .hif fn o) q = true := by
  have host : fromHost (accOf .hif fn o) = true := rfl
  have by_ : (accOf .hif fn o).fn = fn := rfl
  simp only [State.setsQueue, ofOwner, host, by_]
  rcases may with ⟨operator, pf⟩ | ⟨other, p, owner, vf⟩
  · simp [operator, pf]
  · simp [other, owner, vf]

/-- A write of HIF_QRESUME through a function that may set the queue is `State.writeResume`. -/
theorem put_qResume (inside : q ≤ 64) (h : Reaches s .hif fn (0x1C008 + 0x10 * q) true (.qResume q)) (may : MaySet s fn q) {v : Nat}
    (hv : v < 2 ^ 32) :
    s.put .hif fn (0x1C008 + 0x10 * q) v =
      .next (s.writeResume (accOf .hif fn (0x1C008 + 0x10 * q)) q (bit v 0) (bit v 1)) := by
  have off := accOf_off_hif .hif fn (o := 0x1C008 + 0x10 * q) (by omega)
  rw [put_of_reaches h (by omega) hv]
  exact congrArg Host.Outcome.next (if_pos (setsQueue_of_maySet may _))

theorem exec_resume_of_reaches (inside : q ≤ 64) (h : Reaches s .hif fn (0x1C008 + 0x10 * q) true (.qResume q)) (may : MaySet s fn q) :
    exec (.resume fn q) s = .next (s.writeResume (accOf .hif fn (0x1C008 + 0x10 * q)) q true false) :=
  put_qResume inside h may (v := 1) (by decide)

theorem exec_discard_of_reaches (inside : q ≤ 64) (h : Reaches s .hif fn (0x1C008 + 0x10 * q) true (.qResume q)) (may : MaySet s fn q) :
    exec (.discard fn q) s = .next (s.writeResume (accOf .hif fn (0x1C008 + 0x10 * q)) q false true) :=
  put_qResume inside h may (v := 2) (by decide)

/-! ### What the write does (R196, R197, R213) -/

theorem resumeIdle_iff :
    s.resumeIdle q = true ↔ (s.queue q).halted = false ∨ (s.queue q).discarding = true ∨ s.ledgerHeld q = true ∨
      (s.up.fwFailed = true ∧ q < 48) := by
  simp [State.resumeIdle, or_assoc]

theorem writeResume_idle (idle : s.resumeIdle q = true) (a : Acc) {resume discard : Bool} (asks : resume = true ∨ discard = true) :
    s.writeResume a q resume discard = s.logAccess causeState a true := by
  have some_ : (!resume && !discard) = false := by rcases asks with rfl | rfl <;> simp
  simp [State.writeResume, some_, idle]

theorem writeResume_resume (open_ : s.resumeIdle q = false) (a : Acc) : s.writeResume a q true false = s.resumeQueue q := by
  simp [State.writeResume, open_]

theorem writeResume_discard (open_ : s.resumeIdle q = false) (a : Acc) : s.writeResume a q false true = s.discardQueue q := by
  simp [State.writeResume, open_]

/-- The queue whose halt has ended: a KICK that was held makes a poll due (R197, R211). -/
def Queue.unhalted (k : Queue) : Queue :=
  { k with halted := false, discarding := false, discardTo := none, pollDue := k.pollDue || k.kickHeld, kickHeld := false }

theorem unhalted_reset : ({} : Queue).unhalted = {} := rfl

theorem haltEnds_setQueue (v : Queue) : (s.setQueue q v).haltEnds q = (s.setQueue q v.unhalted).fetchMore q := by
  have drops : v = {} → v.unhalted = {} := fun reset => reset ▸ unhalted_reset
  rw [State.haltEnds, State.queue_setQueue_same]
  exact congrArg (State.fetchMore · q) (setQueue_setQueue drops)

/-- A queue with no fault of its set-up goes on. -/
theorem resumeQueue_goesOn (fault : (s.queue q).ringFault = 0 ∨ 4 ≤ (s.queue q).ringFault) :
    let k := s.queue q
    s.resumeQueue q =
      (s.setQueue q { k with halted := false, ringFault := 0, discarding := false, discardTo := none,
                             pollDue := k.pollDue || decide (5 ≤ k.ringFault) || k.kickHeld, kickHeld := false }).fetchMore q := by
  have sound : ¬ (1 ≤ (s.queue q).ringFault ∧ (s.queue q).ringFault ≤ 3) := by omega
  exact (if_neg sound).trans (haltEnds_setQueue _)

theorem resumeQueue_faults (least : 1 ≤ (s.queue q).ringFault) (most : (s.queue q).ringFault ≤ 3) :
    s.resumeQueue q =
      (s.setQueue q { s.queue q with halted := false, ringFault := 0 }).ringFaultAt q (s.queue q).ringFault := by
  have no_poll : decide (5 ≤ (s.queue q).ringFault) = false := decide_eq_false (by omega)
  refine (if_pos ⟨least, most⟩).trans ?_
  rw [no_poll, Bool.or_false]

/-- Whether the host link serves a queue of this die does not depend on the state of queues. -/
theorem hostOpen_setQueue (here : q < 128) (j : Nat) (v : Queue) : (s.setQueue j v).hostOpen q = s.hostOpen q := by
  have part (u : State) : u.queuePart q = u.queueOwner q := if_pos here
  simp only [State.hostOpen, part]
  rfl

end

/-- Settles O27: a write that has no effect is logged, and the others are `State.resumeQueue` and `State.discardQueue`. -/
theorem haltsEnd : Obligations.HaltsEnd := by
  intro fn q s inside k reads h may
  rw [exec_resume_of_reaches inside h may, exec_discard_of_reaches inside h may]
  refine ⟨fun idle => ?_, fun halted undisturbed free up => ?_⟩
  · have idle := resumeIdle_iff.mpr idle
    exact ⟨by rw [writeResume_idle idle _ (.inl rfl)], by rw [writeResume_idle idle _ (.inr rfl)]⟩
  · have open_ : s.resumeIdle q = false := by
      rw [← Bool.not_eq_true, resumeIdle_iff, halted, undisturbed, free]
      rcases up with up | ring
      · simp [up]
      · simp [Nat.not_lt.mpr ring]
    rw [writeResume_resume open_, writeResume_discard open_, State.discardQueue, hostOpen_setQueue (by omega)]
    refine ⟨fun fault => by rw [resumeQueue_goesOn fault], fun least most => by rw [resumeQueue_faults least most],
      fun host => ?_, fun held => ?_⟩
    · rw [if_pos host, State.issuePoll, State.queue_setQueue_same]
    · rw [if_neg (ne_true_of_eq_false held)]

end Sys2Proof.Machine
end

section
/-! PROOF. The common commands but TAG_SET, and the statement about them (O9). -/

namespace Sys2Proof.Machine

section
variable {q op : Nat} {s : State} {r : Run}

/-- The command that has still to act ends with a status and INFO. -/
theorem finish_of_commonRun (run : s.commonRun q op = some r) (status : BitVec 8) (info : Nat) :
    s.finish q (s.liveIdx q) status info =
      s.endWork q (s.liveIdx q) { r with status := status, info := BitVec.ofNat 64 info } false := by
  rw [State.finish, ((commonRun_iff s q op r).mp run).1]

/-- What NOP, SIGNAL and WAIT answer once they have started (R187, R188). -/
theorem ends_of_commonRun (run : s.commonRun q op = some r) :
    (.next (if (s.commonRun q op).isSome then s.finish q (s.liveIdx q) stDone 0 else s) : Outcome) =
      .next (s.endWork q (s.liveIdx q) { r with status := stDone, info := 0 } false) := by
  rw [run, Option.isSome_some, if_pos rfl, finish_of_commonRun run]
  rfl

/-! ### FENCE (R189, R242, R243, R250) -/

/-- SCOPE of a FENCE. -/
def fenceScope (e : List Byte) : Nat := bits (leAt e 24 1) 1 0

/-- KIND of a FENCE: 2 and 3 release, 1 and 3 acquire. -/
def fenceKind (e : List Byte) : Nat := bits (leAt e 24 1) 3 2

theorem fenceKind_lt (e : List Byte) : fenceKind e < 4 := Nat.mod_lt _ (by decide)

/-- A release of the FENCE `e` cannot go on yet: a line of the store buffer has no slice or stack to drain to, or at SYSTEM scope host
writes of the queue have not been passed on. -/
def State.fenceHeld (s : State) (q : Nat) (e : List Byte) : Bool := !s.storesReady (q / 3) || (fenceScope e == 2 && !s.passedOn q)

theorem fenceHeld_iff (s : State) (q : Nat) (e : List Byte) :
    s.fenceHeld q e = true ↔ s.storesReady (q / 3) = false ∨ fenceScope e = 2 ∧ s.passedOn q = false := by
  simp [State.fenceHeld]

/-- The release of the FENCE `e`, where it is one. -/
def State.fenceReleased (s : State) (q : Nat) (e : List Byte) : State := if 2 ≤ fenceKind e then s.drainStores (q / 3) else s

theorem exec_fence_held (run : s.commonRun q 3 = some r) (release : 2 ≤ fenceKind r.entry) (held : s.fenceHeld q r.entry = true) :
    exec (.fence q) s = .next s := by
  show execFence q s = _
  simp only [execFence, run]
  exact if_pos ⟨release, held⟩

/-- A FENCE that nothing holds releases, then acquires on a VX queue, and ends DONE. -/
theorem exec_fence_acts (run : s.commonRun q 3 = some r) (ready : s.fenceHeld q r.entry = false ∨ fenceKind r.entry < 2) :
    let t := s.fenceReleased q r.entry
    let u := if (fenceKind r.entry = 1 ∨ fenceKind r.entry = 3) ∧ qKind q = .vx then t.applyAllInvs (q / 3) else t
    exec (.fence q) s = .next (u.finish q (u.liveIdx q) stDone 0) := by
  show execFence q s = _
  simp only [execFence, run]
  refine if_neg fun ⟨release, held⟩ => ?_
  rcases ready with free | no_release
  · exact absurd held (ne_true_of_eq_false free)
  · exact absurd release (Nat.not_le.mpr no_release)

/-! ### TAG_CHECK (R190) -/

theorem exec_tagCheck (run : s.commonRun q 5 = some r) :
    let v := leAt r.entry 24 4
    let sq : Nat → Nat := fun j => v % 1024 + j * (if bit v 21 then 32 else 1)
    let bad := ((List.range (bits v 20 10)).map sq).filter (fun k => (s.islet (q / 3)).tagFull k != bit v 22)
    exec (.tagCheck q) s = .next (s.finish q (s.liveIdx q) stDone (bad.length + bad.headD 0 * 2 ^ 32)) := by
  show execTagCheck q s = _
  simp only [execTagCheck, run]

end

/-- Settles O9, a lemma per command; of a FENCE's kinds the odd ones acquire. -/
theorem commonCommands : Obligations.CommonCommands := by
  refine ⟨fun q s r => ⟨ends_of_commonRun, ends_of_commonRun, ends_of_commonRun⟩, ?_, fun q s r => exec_tagCheck⟩
  intro q s r run scope kind n done
  refine ⟨fun release held => exec_fence_held run release ((fenceHeld_iff s q r.entry).mpr held), fun ready => ?_⟩
  have free : s.fenceHeld q r.entry = false ∨ kind < 2 := by
    refine ready.imp_left fun ⟨stores, host⟩ => ?_
    rw [← Bool.not_eq_true, fenceHeld_iff, stores]
    rintro (full | ⟨system, behind⟩)
    · cases full
    · exact host.elim (· system) (ne_true_of_eq_false behind)
  have acts := exec_fence_acts run free
  have bound : kind < 4 := fenceKind_lt r.entry
  refine ⟨fun plain => acts.trans ?_, fun vx odd => acts.trans ?_⟩
  · have no_acquire : ¬ ((kind = 1 ∨ kind = 3) ∧ qKind q = .vx) := by
      rintro ⟨acquire, vx⟩
      rcases plain with other | even
      · exact other vx
      · omega
    exact congrArg (fun u => Host.Outcome.next (done u)) (if_neg no_acquire)
  · have acquire : kind = 1 ∨ kind = 3 := by omega
    exact congrArg (fun u => Host.Outcome.next (done u)) (if_pos ⟨acquire, vx⟩)

end Sys2Proof.Machine
end

section
/-! PROOF. The state after reset, where the registers of the register rows lie, and a head beyond its ring: the statements about them
(O4, O25, O28). -/

namespace Sys2Proof.Machine

open Sys2Proof.Claims

/-! ### Reset (R405, R411, R436) -/

theorem reset_domain (d : Nat) : (State.reset.domain d).st = if d = 32 ∨ d = 33 ∨ d = 34 then .on else .off := by
  have listed : State.reset.domain d = if d = 32 then { st := .on } else if d = 33 then { st := .on } else if d = 34 then { st := .on } else {} :=
    rfl
  rw [listed]
  simp only [apply_ite Domain.st, ite_or]

/-- Settles O4: a table that lists nothing reads as its default, and the two that list something are read key by key. -/
theorem resetState : Obligations.ResetState :=
  ⟨rfl, rfl, reset_domain, fun _ => ⟨rfl, rfl⟩, fun _ => ⟨rfl, rfl⟩, fun _ => rfl, fun _ => rfl, rfl, rfl⟩

/-! ### Where registers lie (R230, R345, R405, R502, R523) -/

/-- Outside the MSI-X structures of the PF an offset reaches the register that lies there. -/
theorem plainHit_of_regAt {o : Nat} {r : Reg} (outside : o < 0x18000 ∨ 0x1A000 ≤ o) (lies : regAt o = at32 r) :
    plainHit o = .reg r false := by
  have table : ¬ (0x18000 ≤ o ∧ o < 0x18000 + 16 * vectors 0) := by
    change ¬ (_ ∧ o < 0x18800)
    omega
  have pending : ¬ (0x19000 ≤ o ∧ o < 0x19000 + (vectors 0 + 63) / 64 * 8) := by
    change ¬ (_ ∧ o < 0x19010)
    omega
  have no_msix : msixAt 0 o = none := by rw [msixAt, if_neg table, if_neg pending]
  simp only [plainHit, no_msix, lies, at32]

section
variable {x : Nat}

theorem regAt_hif (h : x < 0x10000) : regAt (0x10000 + x) = spotHif x := by
  rw [regAt, if_neg (by omega), if_pos (by omega), Nat.add_sub_cancel_left]

theorem regAt_gpio (h : x < 0x10000) : regAt (0x50000 + x) = spotGpio x := by
  rw [regAt, if_neg (by omega), if_neg (by omega), if_neg (by omega), if_pos (by omega), Nat.add_sub_cancel_left]

theorem regAt_dbg (h : x < 0x10000) : regAt (0x500000 + x) = spotDbg x := by
  simp (disch := omega) only [regAt, if_neg, if_pos, Nat.add_sub_cancel_left]

theorem regAt_isl {n : Nat} (islet : n < 16) (h : x < 0x10000) : regAt (0x100000 + (0x10000 * n + x)) = spotIsl n x := by
  have number : (0x10000 * n + x) / 0x10000 = n := by omega
  have offset : (0x100000 + (0x10000 * n + x)) % 0x10000 = x := by omega
  simp (disch := omega) only [regAt, if_neg, if_pos, Nat.add_sub_cancel_left, number, offset]

theorem regAt_str {p : Nat} (port : p < 10) (h : x < 0x10000) : regAt (0x200000 + (0x10000 * p + x)) = spotStr p x := by
  have number : (0x10000 * p + x) / 0x10000 = p := by omega
  have offset : (0x200000 + (0x10000 * p + x)) % 0x10000 = x := by omega
  simp (disch := omega) only [regAt, if_neg, if_pos, Nat.add_sub_cancel_left, number, offset]

theorem spotHif_queue {q : Nat} (queue : q ≤ 64) (h : x < 0x40) : spotHif (0x40 * q + x) = spotQueue q x := by
  have number : (0x40 * q + x) / 0x40 = q := by omega
  have offset : (0x40 * q + x) % 0x40 = x := by omega
  rw [spotHif, if_pos (by omega), number, offset]

theorem spotHif_ring {c : Nat} (ring : c ≤ 64) (h : x < 0x20) : spotHif (0x2000 + (0x20 * c + x)) = spotRing c x := by
  have number : (0x20 * c + x) / 0x20 = c := by omega
  have offset : (0x2000 + (0x20 * c + x)) % 0x20 = x := by omega
  rw [spotHif, if_neg (by omega), if_pos (by omega), Nat.add_sub_cancel_left, number, if_pos (by omega), offset]

theorem spotHif_eventRing {e : Nat} (ring : e ≤ 16) (h : x < 0x20) : spotHif (0x3000 + (0x20 * e + x)) = spotRing (evRing e) x := by
  have number : (0x20 * e + x) / 0x20 = e := by omega
  have offset : (0x3000 + (0x20 * e + x)) % 0x20 = x := by omega
  rw [spotHif, if_neg (by omega), if_neg (by omega), if_pos (by omega), Nat.add_sub_cancel_left, number, if_pos (by omega), offset]

theorem spotHif_qResume {q : Nat} (queue : q ≤ 64) : spotHif (0xC000 + (0x10 * q + 8)) = at32 (.qResume q) := by
  have number : (0x10 * q + 8) / 0x10 = q := by omega
  have offset : (0xC000 + (0x10 * q + 8)) % 0x10 = 8 := by omega
  simp (disch := omega) only [spotHif, if_neg, if_pos, Nat.add_sub_cancel_left, number, offset]

theorem spotQueue_qCtrl {q : Nat} (queue : q ≤ 64) : spotQueue q 0x14 = at32 (.qCtrl q) := if_neg (Nat.not_le.mpr (Nat.lt_succ_of_le queue))

theorem spotGpio_cfg {k : Nat} (pin : k < 24) : spotGpio (0x100 + 4 * k) = at32 (.gpioCfg k) := by
  simp (disch := omega) only [spotGpio, if_neg, if_pos, Nat.add_sub_cancel_left, Nat.mul_div_cancel_left]

theorem spotGpio_fanDuty {k : Nat} (fan : k < 4) : spotGpio (0x800 + 4 * k) = at32 (.fanDuty k) := by
  simp (disch := omega) only [spotGpio, if_neg, if_pos, Nat.add_sub_cancel_left, Nat.mul_div_cancel_left]

theorem spotDbg_logEntry {k : Nat} (word : k < 8) : spotDbg (0x110 + 4 * k) = at32 (.dbgLogEntry k) := by
  simp (disch := omega) only [spotDbg, if_neg, if_pos, Nat.add_sub_cancel_left, Nat.mul_div_cancel_left]

end

theorem plainHit_queueCtrl {q : Nat} (queue : q ≤ 64) : plainHit (0x10014 + 0x40 * q) = .reg (.qCtrl q) false := by
  have offset : 0x10014 + 0x40 * q = 0x10000 + (0x40 * q + 0x14) := by omega
  refine plainHit_of_regAt (by omega) ?_
  rw [offset, regAt_hif (by omega), spotHif_queue queue (by omega), spotQueue_qCtrl queue]

theorem plainHit_queueResume {q : Nat} (queue : q ≤ 64) : plainHit (0x1C008 + 0x10 * q) = .reg (.qResume q) false := by
  have offset : 0x1C008 + 0x10 * q = 0x10000 + (0xC000 + (0x10 * q + 8)) := by omega
  refine plainHit_of_regAt (by omega) ?_
  rw [offset, regAt_hif (by omega), spotHif_qResume queue]

/-- A completion ring's block, at its place in the HIF block. -/
theorem plainHit_ring {c x : Nat} {r : Reg} (ring : c ≤ 64) (h : x < 0x20) (spot : spotRing c x = at32 r) :
    plainHit (0x12000 + 0x20 * c + x) = .reg r false := by
  have offset : 0x12000 + 0x20 * c + x = 0x10000 + (0x2000 + (0x20 * c + x)) := by omega
  refine plainHit_of_regAt (by omega) ?_
  rw [offset, regAt_hif (by omega), spotHif_ring ring h, spot]

/-- An event ring's block, at its place in the HIF block. -/
theorem plainHit_eventRing {e x : Nat} {r : Reg} (ring : e ≤ 16) (h : x < 0x20) (spot : spotRing (evRing e) x = at32 r) :
    plainHit (0x13000 + 0x20 * e + x) = .reg r false := by
  have offset : 0x13000 + 0x20 * e + x = 0x10000 + (0x3000 + (0x20 * e + x)) := by omega
  refine plainHit_of_regAt (by omega) ?_
  rw [offset, regAt_hif (by omega), spotHif_eventRing ring h, spot]

theorem plainHit_qabort {n : Nat} (islet : n < 16) : plainHit (0x100300 + 0x10000 * n) = .reg (.qabort n) false := by
  have offset : 0x100300 + 0x10000 * n = 0x100000 + (0x10000 * n + 0x300) := by omega
  refine plainHit_of_regAt (by omega) ?_
  rw [offset, regAt_isl islet (by omega)]
  rfl

theorem plainHit_strCtrl {p : Nat} (port : p < 10) : plainHit (0x200010 + 0x10000 * p) = .reg (.strCtrl p) false := by
  have offset : 0x200010 + 0x10000 * p = 0x200000 + (0x10000 * p + 0x10) := by omega
  refine plainHit_of_regAt (by omega) ?_
  rw [offset, regAt_str port (by omega)]
  rfl

theorem plainHit_gpio {x : Nat} {r : Reg} (h : x < 0x10000) (spot : spotGpio x = at32 r) : plainHit (0x50000 + x) = .reg r false :=
  plainHit_of_regAt (by omega) ((regAt_gpio h).trans spot)

theorem plainHit_dbg {x : Nat} {r : Reg} (h : x < 0x10000) (spot : spotDbg x = at32 r) : plainHit (0x500000 + x) = .reg r false :=
  plainHit_of_regAt (by omega) ((regAt_dbg h).trans spot)

theorem plainHit_fanDuty {k : Nat} (fan : k < 4) : plainHit (0x50800 + 4 * k) = .reg (.fanDuty k) false :=
  Nat.add_assoc 0x50000 0x800 _ ▸ plainHit_gpio (by omega) (spotGpio_fanDuty fan)

theorem plainHit_gpioCfg {k : Nat} (pin : k < 24) : plainHit (0x50100 + 4 * k) = .reg (.gpioCfg k) false :=
  Nat.add_assoc 0x50000 0x100 _ ▸ plainHit_gpio (by omega) (spotGpio_cfg pin)

theorem plainHit_dbgLogEntry {k : Nat} (word : k < 8) : plainHit (0x500110 + 4 * k) = .reg (.dbgLogEntry k) false :=
  Nat.add_assoc 0x500000 0x110 _ ▸ plainHit_dbg (by omega) (spotDbg_logEntry word)

/-- Settles O25, block by block of register space. -/
theorem rowRegisters : Obligations.RowRegisters :=
  ⟨rfl, fun _ queue => ⟨plainHit_queueCtrl queue, plainHit_queueResume queue⟩,
    fun _ ring => ⟨plainHit_ring ring (by decide) rfl, plainHit_ring ring (by decide) rfl⟩,
    fun _ ring => ⟨plainHit_eventRing ring (by decide) rfl, plainHit_eventRing ring (by decide) rfl⟩,
    fun _ islet => plainHit_qabort islet, rfl, fun _ port => plainHit_strCtrl port, fun _ fan => plainHit_fanDuty fan, rfl, rfl, rfl, rfl,
    fun _ pin => plainHit_gpioCfg pin, rfl, fun _ word => plainHit_dbgLogEntry word⟩

/-! ### A head beyond the ring (R222) -/

theorem writeHead_beyond {s : State} {c : Nat} {head : Word} (beyond : 2 ^ (s.ring c).sizeLog2.toNat < ((s.ring c).tail - head).toNat)
    (a : Acc) : s.writeHead a c head = s.logAccess causeState a true :=
  if_pos beyond

/-- Settles O28: both rows write a head register, and `State.writeHead` logs a head that is beyond the ring. -/
theorem headBeyondRing : Obligations.HeadBeyondRing := by
  refine fun fn c head s => ⟨fun hc hfn h beyond => ?_, fun hc hfn h beyond => ?_⟩
  · exact (put_ringHead (event := false) hc hfn h head).trans (congrArg _ (writeHead_beyond beyond _))
  · exact (put_ringHead (event := true) (by omega) hfn h head).trans (congrArg _ (writeHead_beyond beyond _))

end Sys2Proof.Machine
end

section
/-! PROOF. The writes of HIF_KICK and HIF_QCTRL, and the statement about them (O26). -/

namespace Sys2Proof.Machine

open Sys2Proof.Claims

section
variable {s : State} {fn q : Nat}

/-! ### HIF_KICK (R211) -/

/-- A write of HIF_KICK through the PF, or through the VF of the queue's partition, is `State.kick`. -/
theorem exec_hifKick_of_reaches (inside : q ≤ 64) (h : Reaches s .hif fn 0x14000 true .kick)
    (may : fn = 0 ∨ s.queueOwner q = some (fn - 1)) : exec (.hifKick fn q) s = .next (s.kick (accOf .hif fn 0x14000) q) := by
  have off := accOf_off_hif .hif fn (o := 0x14000) (by omega)
  have named : q % 128 = q := Nat.mod_eq_of_lt (by omega)
  have allowed : ¬ ((accOf .hif fn 0x14000).fn ≠ 0 ∧ s.queueOwner q ≠ some ((accOf .hif fn 0x14000).fn - 1)) :=
    fun ⟨vf, foreign⟩ => may.elim vf foreign
  refine (put_of_reaches h (by omega) (v := q) (by omega)).trans (congrArg Host.Outcome.next ?_)
  change s.writeKick (accOf .hif fn 0x14000) q = _
  rw [State.writeKick, named, if_neg (by omega), if_neg allowed]

theorem kick_disabled (off : (s.queue q).enable = false) (a : Acc) : s.kick a q = s.logAccess causeState a true := by
  simp [State.kick, off]

theorem kick_halted (on : (s.queue q).enable = true) (halted : (s.queue q).halted = true) (a : Acc) :
    s.kick a q = s.setQueue q { s.queue q with kickHeld := true } := by
  simp [State.kick, on, halted]

theorem kick_polls (on : (s.queue q).enable = true) (runs : (s.queue q).halted = false) (a : Acc) :
    let k := s.queue q
    s.kick a q = (s.setQueue q (if k.st = .idle then { k with pollDue := true, unchanged := 0, st := .active }
      else { k with pollDue := true })).tellLead q := by
  by_cases idle : (s.queue q).st = .idle <;> simp [State.kick, on, runs, idle]

/-! ### HIF_QCTRL (R210) -/

/-- The value of HIF_QCTRL with these two fields. -/
theorem qctrl_fields (enable park : Bool) :
    b2n enable + 2 * b2n park < 2 ^ 32 ∧ bit (b2n enable + 2 * b2n park) 0 = enable ∧ bit (b2n enable + 2 * b2n park) 1 = park := by
  revert enable park
  decide

/-- A write of HIF_QCTRL through a function that may set the queue is `State.writeQctrl`. -/
theorem put_qCtrl (inside : q ≤ 64) (h : Reaches s .hif fn (qctrlOff q) true (.qCtrl q)) (may : MaySet s fn q) (enable park : Bool) :
    s.put .hif fn (qctrlOff q) (b2n enable + 2 * b2n park) = .next (s.writeQctrl (accOf .hif fn (qctrlOff q)) q enable park) := by
  obtain ⟨fits, enable_, park_⟩ := qctrl_fields enable park
  have place : qctrlOff q = 0x10014 + 0x40 * q := rfl
  have off := accOf_off_hif .hif fn (o := qctrlOff q) (by omega)
  have writes : s.put .hif fn (qctrlOff q) (b2n enable + 2 * b2n park) =
      .next (s.writeQctrl (accOf .hif fn (qctrlOff q)) q (bit (b2n enable + 2 * b2n park) 0) (bit (b2n enable + 2 * b2n park) 1)) :=
    (put_of_reaches h (by omega) fits).trans (congrArg Host.Outcome.next (if_pos (setsQueue_of_maySet may _)))
  rw [writes, enable_, park_]

/-- The queue that a write of ENABLE has started (R210). -/
def Queue.started (k : Queue) (park : Bool) : Queue :=
  { k with enable := true, park := park, st := .active, cons := 0, written := 0, prod := 0, fetched := 0, unchanged := 0, interval := 1,
           pollDue := true }

/-- The completion ring of a queue hangs on its CQ field and its owner alone. -/
theorem queueRing_setQueue {v : Queue} (sel : v.cqSel = (s.queue q).cqSel) : (s.setQueue q v).queueRing q = s.queueRing q := by
  have owner : (s.setQueue q v).queueOwner q = s.queueOwner q := rfl
  simp only [State.queueRing, owner, State.queue_setQueue_same, sel]

/-- What ENABLE does to a disabled queue: the first set-up rule that fails halts it (R210, R213). -/
theorem writeQctrl_enable (off : (s.queue q).enable = false) (a : Acc) (park : Bool) :
    let t := s.setQueue q ((s.queue q).started park)
    s.writeQctrl a q true park =
      if (s.queue q).base.toNat % 4096 ≠ 0 then t.ringFaultAt q 1
      else if (s.queue q).db.toNat % 64 ≠ 0 then t.ringFaultAt q 2
      else if (s.ring (s.queueRing q)).enable = false then t.ringFaultAt q 3
      else t.tellLead q := by
  have ring : (s.setQueue q ((s.queue q).started park)).queueRing q = s.queueRing q := queueRing_setQueue rfl
  unfold Queue.started at *
  simp only [State.writeQctrl, State.enableQueue, off, ring, State.setQueue_ring, Bool.not_false, if_true, Bool.not_eq_true']

theorem writeQctrl_disabled (off : (s.queue q).enable = false) (a : Acc) (park : Bool) :
    s.writeQctrl a q false park = s.setQueue q { s.queue q with park := park } := by
  simp [State.writeQctrl, off]

/-- The queue once PARK has been written (R211). -/
def Queue.parkedAs (k : Queue) (park : Bool) : Queue :=
  if park && !k.park then { k with park := true, st := .parked }
  else if !park && k.park then { k with park := false, st := .active, pollDue := true }
  else k

theorem Queue.parkedAs_true (k : Queue) : k.parkedAs true = if k.park then k else { k with park := true, st := .parked } := by
  cases h : k.park <;> simp [Queue.parkedAs, h]

theorem Queue.parkedAs_false (k : Queue) :
    k.parkedAs false = if k.park then { k with park := false, st := .active, pollDue := true } else k := by
  cases h : k.park <;> simp [Queue.parkedAs, h]

theorem Queue.parkedAs_park (k : Queue) : k.parkedAs k.park = k := by
  cases h : k.park <;> simp [Queue.parkedAs, h]

theorem writeQctrl_enabled (on : (s.queue q).enable = true) (a : Acc) (park : Bool) :
    s.writeQctrl a q true park = (s.setQueue q ((s.queue q).parkedAs park)).tellLead q := by
  have enabled : ¬ (!(s.queue q).enable) = true := by simp [on]
  exact (if_neg enabled).trans (if_pos rfl)

theorem mayDisable_iff :
    s.mayDisable q = true ↔ (s.queue q).cons = (s.queue q).prod ∧ (s.queue q).run = [] ∧ s.ledgerHeld q = false := by
  simp [State.mayDisable, and_assoc]

/-- An idle queue is disabled; its indexes stay (R210). -/
theorem writeQctrl_disable (on : (s.queue q).enable = true) (idle : s.mayDisable q = true) (a : Acc) (park : Bool) :
    s.writeQctrl a q false park = (s.setQueue q
      { s.queue q with enable := false, park := park, st := .disabled, halted := false, ringFault := 0, entries := [], headOk := false,
                       passed := false, pollOut := false, pollDue := false, kickHeld := false, fetchOut := 0, discarding := false,
                       discardTo := none, unchanged := 0 }).tellLead q := by
  simp [State.writeQctrl, on, idle]

theorem writeQctrl_busy (on : (s.queue q).enable = true) (busy : s.mayDisable q = false) (a : Acc) (park : Bool) :
    s.writeQctrl a q false park = ((s.setQueue q ((s.queue q).parkedAs park)).tellLead q).logAccess causeState a true := by
  have enabled : ¬ (!(s.queue q).enable) = true := by simp [on]
  exact (if_neg enabled).trans ((if_neg Bool.false_ne_true).trans (if_neg (ne_true_of_eq_false busy)))

/-! ### The rows that write it -/

variable (inside : q ≤ 64) (h : Reaches s .hif fn (qctrlOff q) true (.qCtrl q)) (may : MaySet s fn q)
include inside h may

theorem exec_queueEnable_of_reaches (park : Bool) :
    exec (.queueEnable fn q park) s = .next (s.writeQctrl (accOf .hif fn (qctrlOff q)) q true park) :=
  put_qCtrl inside h may true park

theorem exec_queueDisable_of_reaches :
    exec (.queueDisable fn q) s = .next (s.writeQctrl (accOf .hif fn (qctrlOff q)) q false (s.queue q).park) := by
  rw [← put_qCtrl inside h may, Nat.add_comm]
  rfl

theorem exec_queuePark_of_reaches {on : Bool} (enable : (s.queue q).enable = on) :
    exec (.queuePark fn q) s = .next (s.writeQctrl (accOf .hif fn (qctrlOff q)) q on true) :=
  enable ▸ put_qCtrl inside h may (s.queue q).enable true

theorem exec_queueUnpark_of_reaches {on : Bool} (enable : (s.queue q).enable = on) :
    exec (.queueUnpark fn q) s = .next (s.writeQctrl (accOf .hif fn (qctrlOff q)) q on false) :=
  enable ▸ put_qCtrl inside h may (s.queue q).enable false

end

/-- Settles O26: each row is one write of its register, and each case of the write one lemma above. -/
theorem queueControl : Obligations.QueueControl := by
  intro fn q s inside k started
  refine ⟨fun h may => ?_, fun h may => ?_⟩
  · rw [exec_hifKick_of_reaches inside h may]
    exact ⟨fun off => by rw [kick_disabled off], fun on halted => by rw [kick_halted on halted], fun on runs => by rw [kick_polls on runs]⟩
  · have enable := exec_queueEnable_of_reaches inside h may
    have disable := exec_queueDisable_of_reaches inside h may
    have park {on : Bool} := exec_queuePark_of_reaches inside h may (on := on)
    have unpark {on : Bool} := exec_queueUnpark_of_reaches inside h may (on := on)
    refine ⟨fun p off base db ring => ?_, fun p off base => ?_, fun p off base db => ?_, fun p off base db ring => ?_,
      fun on empty still free => ?_, fun on busy => ?_, fun on => ?_, fun on => ?_, fun off => ⟨?_, ?_⟩⟩
    · rw [enable, writeQctrl_enable off, if_neg (not_not.mpr base), if_neg (not_not.mpr db), if_neg (by simp [ring])]
      rfl
    · rw [enable, writeQctrl_enable off, if_pos base]
      rfl
    · rw [enable, writeQctrl_enable off, if_neg (not_not.mpr base), if_pos db]
      rfl
    · rw [enable, writeQctrl_enable off, if_neg (not_not.mpr base), if_neg (not_not.mpr db), if_pos ring]
      rfl
    · rw [disable, writeQctrl_disable on (mayDisable_iff.mpr ⟨empty, still, free⟩)]
    · have busy : s.mayDisable q = false := by
        rw [← Bool.not_eq_true, mayDisable_iff]
        rintro ⟨empty, still, free⟩
        rcases busy with behind | runs | held
        · exact behind empty
        · exact runs still
        · exact Bool.false_ne_true (free.symm.trans held)
      rw [disable, writeQctrl_busy on busy, Queue.parkedAs_park]
    · rw [park on, writeQctrl_enabled on, Queue.parkedAs_true]
    · rw [unpark on, writeQctrl_enabled on, Queue.parkedAs_false]
    · rw [park off, writeQctrl_disabled off]
    · rw [unpark off, writeQctrl_disabled off]

end Sys2Proof.Machine
end

section
/-! PROOF. Polls, fetches and host reads, and the statement about them (O30). -/

namespace Sys2Proof.Machine

section
variable {s : State} {q : Nat}

/-! ### A poll is asked (R210, R211) -/

section
variable (on : (s.queue q).enable = true) (idle : (s.queue q).pollOut = false) (host : s.hostOpen q = true)
  (undisturbed : (s.queue q).discarding = false) (runs : (s.queue q).halted = false)
include on idle host undisturbed runs

theorem exec_doorbellPoll_due (due : (s.queue q).pollDue = true ∨ (s.queue q).st = .active) :
    exec (.doorbellPoll q) s = .next ((s.fetchMore q).issuePoll q) := by
  change execDoorbellPoll q s = _
  simp [execDoorbellPoll, on, idle, host, undisturbed, runs, due]

theorem exec_doorbellPoll_idle (early : (s.queue q).pollDue = false) (st : (s.queue q).st = .idle) :
    exec (.doorbellPoll q) s = .next ((s.advanceTo ((s.queue q).polledAt + (s.queue q).interval * 100)).issuePoll q) := by
  change execDoorbellPoll q s = _
  simp [execDoorbellPoll, on, idle, host, undisturbed, runs, early, st]

end

/-! ### What a poll has read (R207, R210, R213, R227) -/

section
variable {k : Queue} {prod : Word}

theorem Queue.same_eq (k : Queue) :
    k.same = { k with unchanged := k.unchanged + 1, st := if k.park then .parked else k.st,
                      interval := if k.st = .idle then Nat.min 64 (2 * k.interval) else k.interval } := by
  simp [Queue.same]

theorem Queue.newProd_eq (k : Queue) (prod : Word) :
    k.newProd prod = { k with prod := prod, unchanged := 0, st := if k.park then .parked else if k.st = .idle then .active else k.st } := by
  simp [Queue.newProd]

theorem prodFault_backward (back : 2 ^ 31 ≤ (prod - k.prod).toNat) : k.prodFault prod = some 5 := if_pos back

theorem prodFault_beyond (forth : (prod - k.prod).toNat < 2 ^ 31) (beyond : 2 ^ k.sizeLog2.toNat < (prod - k.cons).toNat) :
    k.prodFault prod = some 6 :=
  (if_neg (Nat.not_le.mpr forth)).trans (if_pos beyond)

theorem prodFault_none (forth : (prod - k.prod).toNat < 2 ^ 31) (fits : (prod - k.cons).toNat ≤ 2 ^ k.sizeLog2.toNat) :
    k.prodFault prod = none :=
  (if_neg (Nat.not_le.mpr forth)).trans (if_neg (Nat.not_lt.mpr fits))

end

/-- The queue whose poll has come back at time `t`. -/
def Queue.pollBack (k : Queue) (t : Nat) : Queue := { k with pollOut := false, polledAt := t }

/-- The state in which the poll of queue `q` has come back. -/
def State.pollBack (s : State) (q : Nat) : State := s.setQueue q ((s.queue q).pollBack s.time)

theorem pollBack_queue (s : State) (q : Nat) : (s.pollBack q).queue q = (s.queue q).pollBack s.time := State.queue_setQueue_same _ _ _

theorem pollBack_setQueue (on : (s.queue q).enable = true) (v : Queue) : (s.pollBack q).setQueue q v = s.setQueue q v := by
  refine setQueue_setQueue fun reset => absurd ((congrArg Queue.enable reset).symm.trans on) ?_
  exact Bool.false_ne_true

theorem exec_pollReadComplete (out : (s.queue q).pollOut = true) (prod gen : Word) :
    exec (.pollReadComplete q prod gen) s =
      .next (if q < 128 then (s.pollBack q).polled q prod gen else (s.pollBack q).leadPolled q prod gen) := by
  change execPollReadComplete q prod gen s = _
  rw [execPollReadComplete, out]
  rfl

/-- Queue `q` takes what a poll has read. -/
structure Listens (s : State) (q : Nat) : Prop where
  undisturbed : (s.queue q).discarding = false
  runs : (s.queue q).halted = false
  on : (s.queue q).enable = true

section
variable (h : Listens s q) {prod gen : Word}
include h

theorem listens_pollBack : Listens (s.pollBack q) q := by
  obtain ⟨undisturbed, runs, on⟩ := h
  constructor <;> rw [pollBack_queue] <;> assumption

theorem polled_mismatch (differs : gen ≠ (s.queue q).gen) : s.polled q prod gen = s.setQueue q (s.queue q).mismatch.same := by
  simp [State.polled, h.undisturbed, h.runs, h.on, differs]

theorem polled_same (agrees : gen = (s.queue q).gen) (nothing : prod = (s.queue q).prod) :
    s.polled q prod gen = (s.setQueue q (s.queue q).same).fetchMore q := by
  simp [State.polled, h.undisturbed, h.runs, h.on, agrees, nothing]

theorem polled_fault (agrees : gen = (s.queue q).gen) (moved : prod ≠ (s.queue q).prod) {c : Nat}
    (fault : (s.queue q).prodFault prod = some c) : s.polled q prod gen = s.ringFaultAt q c := by
  simp [State.polled, h.undisturbed, h.runs, h.on, agrees, moved, fault]

theorem polled_new (agrees : gen = (s.queue q).gen) (moved : prod ≠ (s.queue q).prod) (sound : (s.queue q).prodFault prod = none) :
    s.polled q prod gen = (s.setQueue q ((s.queue q).newProd prod)).fetchMore q := by
  simp [State.polled, h.undisturbed, h.runs, h.on, agrees, moved, sound]

theorem leadPolled_mismatch (differs : gen ≠ (s.queue q).gen) :
    s.leadPolled q prod gen =
      (s.forward (q / 128) .polled [q % 128, prod.toNat, gen.toNat, 0]).setQueue q (s.queue q).same := by
  simp [State.leadPolled, h.undisturbed, h.runs, h.on, differs]

theorem leadPolled_same (agrees : gen = (s.queue q).gen) (nothing : prod = (s.queue q).prod) :
    s.leadPolled q prod gen = (s.setQueue q (s.queue q).same).fetchMore q := by
  simp [State.leadPolled, h.undisturbed, h.runs, h.on, agrees, nothing]

theorem leadPolled_new (agrees : gen = (s.queue q).gen) (moved : prod ≠ (s.queue q).prod) (sound : (s.queue q).prodFault prod = none) :
    s.leadPolled q prod gen =
      ((s.forward (q / 128) .polled [q % 128, prod.toNat, gen.toNat, 0]).setQueue q ((s.queue q).newProd prod)).fetchMore q := by
  simp [State.leadPolled, h.undisturbed, h.runs, h.on, agrees, moved, sound]

end

/-! ### QUEUE_IDLE (R210, R221, R227) -/

/-- The queue that has become IDLE polls once in each interval. -/
def Queue.idled (k : Queue) : Queue := { k with st := .idle, interval := 1 }

/-- 128 polls have found nothing new, and the queue has nothing fetched, running or being fetched. -/
structure Rests (k : Queue) : Prop where
  on : k.enable = true
  st : k.st = .active
  unchanged : 128 ≤ k.unchanged
  entries : k.entries = []
  run : k.run = []
  fetch : k.fetchOut = 0

theorem exec_queueIdle_held (here : q < 128) (held : s.ringHeld q = true) : exec (.queueIdle q) s = .next s := by
  change execQueueIdle q s = _
  simp [execQueueIdle, here, held, stutter]

section
variable (h : Rests (s.queue q))
include h

theorem exec_queueIdle_here (here : q < 128) (free : s.ringHeld q = false) :
    exec (.queueIdle q) s = .next (s.setQueue q (s.queue q).idled) := by
  change execQueueIdle q s = _
  simp [execQueueIdle, h.on, h.st, h.unchanged, h.entries, h.run, h.fetch, here, free, Queue.idled]

theorem exec_queueIdle_elsewhere (there : 128 ≤ q) (consumed : (s.queue q).fetched = (s.queue q).cons) :
    exec (.queueIdle q) s = .next ((s.setQueue q (s.queue q).idled).forward (q / 128) .polled
      [q % 128, (s.queue q).prod.toNat, (s.queue q).gen.toNat, 1]) := by
  change execQueueIdle q s = _
  simp [execQueueIdle, h.on, h.st, h.unchanged, h.entries, h.run, h.fetch, Nat.not_lt.mpr there, consumed, Queue.idled]

end

/-! ### Fetched entries (R212, R227) -/

/-- The entries of a fetch. -/
def Queue.fetchedEntries (k : Queue) (bytes : List Byte) : List (List Byte) :=
  (List.range k.fetchOut).map (fun j => slice bytes (64 * j) 64)

/-- The queue whose fetch has come back. -/
def Queue.fetchBack (k : Queue) : Queue := { k with fetchOut := 0, fetched := k.fetched + BitVec.ofNat 32 k.fetchOut }

section
variable (asked : (s.queue q).fetchOut ≠ 0) (host : s.hostOpen q = true)
include asked host

theorem exec_entryFetchComplete_here (here : q < 128) (undisturbed : (s.queue q).discarding = false) (runs : (s.queue q).halted = false)
    (bytes : List Byte) :
    exec (.entryFetchComplete q bytes) s =
      .next (((s.setQueue q { (s.queue q).fetchBack with
        entries := (s.queue q).entries ++ (s.queue q).fetchedEntries bytes }).headArrive q).fetchMore q) := by
  change execEntryFetchComplete q bytes s = _
  simp [execEntryFetchComplete, asked, host, Nat.not_le.mpr here, undisturbed, runs, Queue.fetchBack, Queue.fetchedEntries]

theorem exec_entryFetchComplete_elsewhere (there : 128 ≤ q) (bytes : List Byte) :
    exec (.entryFetchComplete q bytes) s =
      .next ((((((s.queue q).fetchedEntries bytes).zipIdx.foldl (fun (u : State) e =>
        u.forward (q / 128) .entry (q % 128 :: ((s.queue q).fetched + BitVec.ofNat 32 e.2).toNat :: e.1.map BitVec.toNat)) s).setQueue q
          (s.queue q).fetchBack)).fetchMore q) := by
  have served : ¬ ((s.queue q).fetchOut = 0 ∨ (!s.hostOpen q) = true) := by simp [asked, host]
  exact (if_neg served).trans (if_pos there)

end

/-! ### Bytes of the host for a command (R526) -/

/-- A run of bytes listed from an address upward reads back byte by byte. -/
theorem Table.get_foldl_set_zipIdx (t : Table (Option Byte)) (addr : Nat) (bytes : List Byte) (a : Nat) :
    Table.get none (bytes.zipIdx.foldl (fun t b => Table.set none t (addr + b.2) (some b.1)) t) a =
      if addr ≤ a ∧ a < addr + bytes.length then bytes[a - addr]? else Table.get none t a := by
  induction bytes using List.reverseRecOn with
  | nil =>
    have empty : ¬ (addr ≤ a ∧ a < addr + 0) := by omega
    exact (if_neg empty).symm
  | append_singleton bytes b ih =>
    simp only [List.zipIdx_append, List.foldl_append, List.zipIdx_cons, List.zipIdx_nil, List.foldl_cons, List.foldl_nil, Nat.zero_add,
      Table.get_set, ih, List.length_append, List.length_singleton]
    by_cases last : a = addr + bytes.length
    · have within : addr ≤ a ∧ a < addr + (bytes.length + 1) := by omega
      have place : a - addr = bytes.length := by omega
      rw [if_pos last, if_pos within, place, List.getElem?_concat_length]
    · rw [if_neg last]
      by_cases within : addr ≤ a ∧ a < addr + bytes.length
      · rw [if_pos within, if_pos (by omega), List.getElem?_append_left (by omega)]
      · rw [if_neg within, if_neg (by omega)]

theorem exec_hostReadReturn_here {i addr : Nat} {r : Run} (here : q < 128) (host : s.hostOpen q = true ∨ s.feederOpen q = true)
    (reads : s.readsHost q i addr = some r) (bytes : List Byte) :
    exec (.hostReadReturn q i addr bytes) s = .next (s.setRun q i
      { r with hostBuf := bytes.zipIdx.foldl (fun t b => Table.set none t (addr + b.2) (some b.1)) r.hostBuf }) := by
  change execHostReadReturn q i addr bytes s = _
  have open_ : (s.hostOpen q || s.feederOpen q) = true := by simpa using host
  simp [execHostReadReturn, open_, here, State.hostBytes, reads]

theorem exec_hostReadReturn_elsewhere (there : 128 ≤ q) (host : s.hostOpen q = true) (i addr : Nat) (bytes : List Byte) :
    exec (.hostReadReturn q i addr bytes) s =
      .next (s.forward (q / 128) .data (q % 128 :: i :: addr :: bytes.map BitVec.toNat)) := by
  change execHostReadReturn q i addr bytes s = _
  simp [execHostReadReturn, host, Nat.not_lt.mpr there]

/-! ### Reads that fail (R213, R218, R526) -/

theorem hostReadFails_poll (h : Listens s q) (out : (s.queue q).pollOut = true) (here : q < 128) (kind : Nat) :
    s.hostReadFails (.poll q) kind = (s.pollBack q).ringFaultAt q 4 := by
  obtain ⟨undisturbed, runs, on⟩ := listens_pollBack h
  have failed : (s.pollBack q).pollFailed q = (s.pollBack q).ringFaultAt q 4 := by
    simp [State.pollFailed, undisturbed, runs, on]
  simp only [State.hostReadFails, out, here, Bool.not_true, Bool.false_eq_true, if_false, if_true]
  exact failed

theorem hostReadFails_fetch (asked : (s.queue q).fetchOut ≠ 0) (runs : (s.queue q).halted = false) (on : (s.queue q).enable = true)
    (here : q < 128) (kind : Nat) :
    s.hostReadFails (.fetch q) kind =
      (s.setQueue q { s.queue q with fetchOut := 0, discarding := false, discardTo := none }).ringFaultAt q 4 := by
  simp [State.hostReadFails, State.fetchFailed, asked, here, runs, on]

theorem hostReadFails_command {i addr : Nat} {r : Run} (here : q < 128) (free : s.mgmtBusy q 0x8B = none)
    (reads : s.readsHost q i addr = some r) (kind : Nat) :
    s.hostReadFails (.command q i addr) kind = s.setRun q i { r with hostErr := some (addr, kind) } := by
  simp [State.hostReadFails, State.commandFailed, here, free, reads]

end

/-- Settles O30: each case of a row is one lemma above, on the state in which the poll or the fetch has come back. -/
theorem pollsAndReads : Obligations.PollsAndReads := by
  refine ⟨fun q s => ?_, fun q s => ?_⟩
  · intro k asked k1 back still news
    refine ⟨fun on idle host undisturbed runs => ⟨fun due => ?_, fun early st => ?_⟩, fun out undisturbed runs on prod gen => ?_,
      fun on st unchanged entries run fetch => ?_⟩
    · exact exec_doorbellPoll_due on idle host undisturbed runs due
    · exact exec_doorbellPoll_idle on idle host undisturbed runs early st
    · have h : Listens (s.pollBack q) q := listens_pollBack ⟨undisturbed, runs, on⟩
      have polled := exec_pollReadComplete out prod gen
      have queue : (s.pollBack q).queue q = k1 := pollBack_queue s q
      refine ⟨fun here => ?_, fun there => ?_⟩
      · rw [polled, if_pos here]
        refine ⟨fun differs => ?_, fun agrees nothing => ?_, fun agrees moved back => ?_, fun agrees moved forth beyond => ?_,
          fun agrees moved forth fits => ?_⟩
        · rw [polled_mismatch h (queue ▸ differs), queue, pollBack_setQueue on, Queue.same_eq]
          rfl
        · rw [polled_same h (queue ▸ agrees) (queue ▸ nothing), queue, pollBack_setQueue on, Queue.same_eq]
        · exact congrArg _ (polled_fault h (queue ▸ agrees) (queue ▸ moved) (queue ▸ prodFault_backward back))
        · exact congrArg _ (polled_fault h (queue ▸ agrees) (queue ▸ moved) (queue ▸ prodFault_beyond forth beyond))
        · rw [polled_new h (queue ▸ agrees) (queue ▸ moved) (queue ▸ prodFault_none forth fits), queue, pollBack_setQueue on,
            Queue.newProd_eq]
      · rw [polled, if_neg (Nat.not_lt.mpr there)]
        intro told
        refine ⟨fun differs => ?_, fun agrees nothing => ?_, fun agrees moved forth fits => ?_⟩
        · rw [leadPolled_mismatch h (queue ▸ differs), queue, Queue.same_eq]
          rfl
        · rw [leadPolled_same h (queue ▸ agrees) (queue ▸ nothing), queue, pollBack_setQueue on, Queue.same_eq]
        · rw [leadPolled_new h (queue ▸ agrees) (queue ▸ moved) (queue ▸ prodFault_none forth fits), queue, Queue.newProd_eq]
          rfl
    · have rests : Rests k := ⟨on, st, unchanged, entries, run, fetch⟩
      exact ⟨exec_queueIdle_here rests, exec_queueIdle_held, exec_queueIdle_elsewhere rests⟩
  · intro k
    refine ⟨fun bytes asked host => ?_, fun i addr bytes r here host reads => ?_, fun i addr bytes there host => ?_,
      fun out undisturbed runs on here => ?_, fun asked runs on here => ?_, fun i addr r here free reads => ?_⟩
    · exact ⟨fun here undisturbed runs => exec_entryFetchComplete_here asked host here undisturbed runs bytes,
        fun there => exec_entryFetchComplete_elsewhere asked host there bytes⟩
    · exact ⟨_, exec_hostReadReturn_here here host reads bytes, Table.get_foldl_set_zipIdx _ addr bytes⟩
    · exact exec_hostReadReturn_elsewhere there host i addr bytes
    · have fails := hostReadFails_poll ⟨undisturbed, runs, on⟩ out here
      exact ⟨congrArg _ (fails 3), fun _ => congrArg _ (fails _)⟩
    · have fails := hostReadFails_fetch asked runs on here
      exact ⟨congrArg _ (fails 3), fun _ => congrArg _ (fails _)⟩
    · have fails := hostReadFails_command here free reads
      exact ⟨congrArg _ (fails 3), congrArg _ (fails 1), congrArg _ (fails 2)⟩

end Sys2Proof.Machine
end

section
/-! PROOF. How a completion is written to its ring, and the statement about it (O15). -/

namespace Sys2Proof.Machine

/-! ### What decides where a completion goes and whether it waits (R203, R395, R430) -/

section
variable {s t : State} (h : Kept s t)
include h

theorem Kept.isletOwner (n : Nat) : t.isletOwner n = s.isletOwner n := by
  have islets (p : Nat) : (t.part p).islets = (s.part p).islets := by
    obtain ⟨_, _, h⟩ := h.part p
    rw [h]
  simp only [State.isletOwner, islets]

theorem Kept.queueOwner (q : Nat) : t.queueOwner q = s.queueOwner q := by
  simp only [State.queueOwner, h.isletOwner]

theorem Kept.ideWaits (o : Option Nat) : t.ideWaits o = s.ideWaits o := by
  cases o with
  | none => rfl
  | some p =>
    obtain ⟨_, _, h⟩ := h.part p
    simp only [State.ideWaits, h]

end

/-- The state in which a completion has been counted for the partition of its queue (R397). -/
def State.completionCounted (s : State) (q : Nat) : State :=
  match s.queueOwner q with
  | some p => s.perfAdd p 0 1
  | none => s

section
variable (s : State) (q : Nat)

theorem kept_completionCounted : Kept s (s.completionCounted q) := by
  unfold State.completionCounted
  split
  · exact kept_perfAdd _ _ _ _
  · exact .refl s

theorem completionCounted_queue (j : Nat) : (s.completionCounted q).queue j = s.queue j := by
  unfold State.completionCounted
  split <;> rfl

theorem completionCounted_ring (c : Nat) : (s.completionCounted q).ring c = s.ring c := by
  unfold State.completionCounted
  split <;> rfl

theorem completionCounted_follower : (s.completionCounted q).follower = s.follower := by
  unfold State.completionCounted
  split <;> rfl

theorem completionCounted_queueRing (j : Nat) : (s.completionCounted q).queueRing j = s.queueRing j := by
  simp only [State.queueRing, (kept_completionCounted s q).queueOwner, completionCounted_queue]

theorem completionCounted_hostHeld (c : Nat) : (s.completionCounted q).hostHeld c = s.hostHeld c := by
  have fn (f : Nat) : (s.completionCounted q).fnHeld f = s.fnHeld f := by
    unfold State.completionCounted
    split <;> rfl
  simp only [State.hostHeld, fn, (kept_completionCounted s q).ideWaits]

end

/-! ### Writing an entry on a die that writes to its host itself (R217, R226, R228) -/

theorem writeEntry_ring (s : State) (c : Nat) (bytes : List Byte) (msix : Bool) :
    (s.writeEntry c bytes msix).ring c = { s.ring c with tail := (s.ring c).tail + 1, written := (s.ring c).written + 1 } :=
  State.ring_setRing_same _ _ _

section
variable {s : State} (lead : s.follower = false)
include lead

theorem toHost_of_not_follower (q : Nat) (o : Out) : s.toHost q o = s.emit o := if_pos (by simp [lead])

theorem message_of_not_follower (fn v : Nat) :
    (∀ q, (s.message fn v).queue q = s.queue q) ∧ s.out ⊆ (s.message fn v).out := by
  have by_itself : ¬ s.follower = true := by simp [lead]
  rw [State.message, if_neg by_itself]
  split_ifs
  · exact ⟨fun _ => rfl, List.Subset.refl _⟩
  · exact ⟨fun _ => rfl, List.subset_cons_self _ _⟩
  · exact ⟨fun _ => rfl, List.Subset.refl _⟩

/-- The entry stands in the ring at its index, and the queues are as they were. -/
theorem writeEntry_of_not_follower (c : Nat) (bytes : List Byte) (msix : Bool) :
    (∀ q, (s.writeEntry c bytes msix).queue q = s.queue q) ∧
      Out.hostWrite (ringFn c) ((s.ring c).base.toNat + (s.ring c).tail.toNat % (s.ring c).size * bytes.length) bytes ∈
        (s.writeEntry c bytes msix).out := by
  simp only [State.writeEntry, toHost_of_not_follower lead]
  cases msix with
  | false => exact ⟨fun _ => rfl, List.mem_cons_self⟩
  | true =>
    obtain ⟨queue, more⟩ := message_of_not_follower (s := s.emit _) lead (ringFn c) ((s.emit _).ringVector c).toNat
    exact ⟨queue, more List.mem_cons_self⟩

end

/-! ### The queue goes on (R197, R209) -/

/-- `t` has sent at least what `s` has; its rings, and the indexes of what its queues have consumed and been given, are those of `s`. -/
structure Served (s t : State) : Prop where
  out : s.out ⊆ t.out
  ring : ∀ c, t.ring c = s.ring c
  cons : ∀ q, (t.queue q).cons = (s.queue q).cons
  written : ∀ q, (t.queue q).written = (s.queue q).written

theorem Served.refl (s : State) : Served s s := ⟨List.Subset.refl _, fun _ => rfl, fun _ => rfl, fun _ => rfl⟩

theorem Served.ite {c : Prop} [Decidable c] {s t u : State} (h : Served s t) (k : Served s u) : Served s (if c then t else u) := by
  split
  · exact h
  · exact k

theorem served_emit (s : State) (o : Out) : Served s (s.emit o) :=
  ⟨List.subset_cons_self _ _, fun _ => rfl, fun _ => rfl, fun _ => rfl⟩

/-- A change of a queue that leaves its indexes is none. -/
theorem Served.after_setQueue {s t : State} {q : Nat} {v : Queue} (h : Served (s.setQueue q v) t) (cons : v.cons = (s.queue q).cons)
    (written : v.written = (s.queue q).written) : Served s t where
  out := h.out
  ring := h.ring
  cons j := by
    rw [h.cons, State.queue_setQueue]
    split
    · next at_ => rw [at_, cons]
    · rfl
  written j := by
    rw [h.written, State.queue_setQueue]
    split
    · next at_ => rw [at_, written]
    · rfl

theorem Evt.follower {s t : State} (h : Evt s t) : t.follower = s.follower := by
  obtain ⟨_, _, _, _, _, _, _, _, _, _, _, _, rfl⟩ := h
  rfl

section
variable {s : State} (lead : s.follower = false) (q : Nat)
include lead

theorem served_fetchMore : Served s (s.fetchMore q) := by
  have by_itself : ¬ s.follower = true := by simp [lead]
  simp only [State.fetchMore, if_neg by_itself]
  exact .ite (.refl s) ((served_emit _ _).after_setQueue rfl rfl)

theorem served_discardEnd : Served s (s.discardEnd q) :=
  .ite ((served_fetchMore (s := s.setQueue q (s.queue q).unhalted) lead q).after_setQueue rfl rfl) (.refl s)

theorem served_consume :
    Served (s.setQueue q { s.queue q with cons := (s.queue q).cons + 1, written := (s.queue q).written + 1 }) (s.consume q) := by
  let passed := s.setQueue q { s.queue q with cons := (s.queue q).cons + 1, written := (s.queue q).written + 1 }
  have served : Served passed (passed.discardEnd q) := served_discardEnd (s := passed) lead q
  have still : (passed.discardEnd q).follower = false := (evt_discardEnd passed q).follower.trans lead
  change Served passed ((passed.discardEnd q).tellLead q)
  rwa [tellLead_of_not_follower still]

end

/-! ### A completion is written (R209, R214, R216, R220) -/

theorem completionBytes_length (k : Completion) (phase : Nat) : (completionBytes k phase).length = 16 := rfl

theorem Ring.phase_eq (r : Ring) : r.phase = if r.tail.toNat / 2 ^ r.sizeLog2.toNat % 2 = 0 then 1 else 0 := by
  unfold Ring.phase
  split <;> omega

theorem Ring.full_eq_false {r : Ring} (room : r.used ≠ 2 ^ r.sizeLog2.toNat) : r.full = false := decide_eq_false room

/-- In `t` the completion `k`, the oldest that waited for ring `c` in `s`, stands in the ring, `rest` still waits, and the queue's consumer
index has passed its entry. -/
structure Posted (s t : State) (c : Nat) (k : Completion) (rest : List Completion) : Prop where
  entry : Out.hostWrite (ringFn c) ((s.ring c).base.toNat + (s.ring c).tail.toNat % (s.ring c).size * 16)
    (completionBytes k (s.ring c).phase) ∈ t.out
  ring : t.ring c = { s.ring c with waiting := rest, tail := (s.ring c).tail + 1, written := (s.ring c).written + 1 }
  cons : (t.queue k.queue).cons = (s.queue k.queue).cons + 1
  written : (t.queue k.queue).written = (s.queue k.queue).written + 1

theorem postWaitingRaw_posts {s : State} {c : Nat} {k : Completion} {rest : List Completion} (waits : (s.ring c).waiting = k :: rest)
    (on : (s.ring c).enable = true) (room : (s.ring c).full = false) (host : s.hostHeld c = false) (lead : s.follower = false) :
    Posted s (s.postWaitingRaw c) c k rest := by
  let u := s.setRing c { s.ring c with waiting := rest }
  let w := u.writeEntry c (completionBytes k (s.ring c).phase) k.irq
  have writes : s.postWaitingRaw c = w.consume k.queue := by
    have goes : ¬ (!(s.ring c).enable || (s.ring c).full || s.hostHeld c) = true := by simp [on, room, host]
    simp only [State.postWaitingRaw, waits, if_neg goes]
    rfl
  have lead_u : u.follower = false := lead
  have ring_u : u.ring c = { s.ring c with waiting := rest } := State.ring_setRing_same _ _ _
  have ring_w := writeEntry_ring u c (completionBytes k (s.ring c).phase) k.irq
  obtain ⟨queue, sent⟩ := writeEntry_of_not_follower lead_u c (completionBytes k (s.ring c).phase) k.irq
  rw [ring_u] at ring_w sent
  have served := served_consume ((evt_writeEntry u c _ _).follower.trans lead_u : w.follower = false) k.queue
  rw [writes]
  exact {
    entry := served.out sent
    ring := (served.ring c).trans ring_w
    cons := (served.cons _).trans (by rw [State.queue_setQueue_same, queue]; rfl)
    written := (served.written _).trans (by rw [State.queue_setQueue_same, queue]; rfl) }

/-! ### What nothing waits for needs no report, and no check finds a breach (R221, R467) -/

section
variable {s : State} {c : Nat} (none_waits : (s.ring c).waiting = [])
include none_waits

theorem reportFullRaw_idle : s.reportFullRaw c = s := by
  simp [State.reportFullRaw, none_waits]

theorem reportFull_idle : s.reportFull c = s := by
  rw [State.reportFull, reportFullRaw_idle none_waits]
  exact if_pos rfl

end

theorem judgeRings_clean {s : State} {q c : Nat} (queue : (s.queue q).cons = (s.queue q).written)
    (ring : (s.ring c).generated = (s.ring c).tail + BitVec.ofNat 32 (s.ring c).waiting.length) : s.judgeRings q c = s := by
  have no_breach : s.checkQueue q = none := if_pos queue
  have no_breach_either : s.checkRing c = none := if_pos ring
  simp only [State.judgeRings, no_breach, State.judge, no_breach_either]

theorem postRaw_eq (s : State) (k : Completion) :
    let u := s.completionCounted k.queue
    let c := u.queueRing k.queue
    let r := u.ring c
    let v := u.setRing c { r with waiting := r.waiting ++ [k], generated := r.generated + 1 }
    s.postRaw k = (if r.waiting.isEmpty then v.postWaitingRaw c else v).reportFullRaw c := rfl

/-- A completion that finds none waiting for its ring is the only one there. -/
theorem postRaw_alone {s : State} {k : Completion} (none_waits : (s.ring (s.queueRing k.queue)).waiting = []) :
    let c := s.queueRing k.queue
    s.postRaw k = (((s.completionCounted k.queue).setRing c
      { s.ring c with waiting := [k], generated := (s.ring c).generated + 1 }).postWaitingRaw c).reportFullRaw c := by
  simp only [postRaw_eq, completionCounted_queueRing, completionCounted_ring, none_waits]
  rfl

/-- The only completion that waits for an enabled ring with room is posted by COMPLETION_POST. -/
theorem exec_completionPost_posts {s : State} {c : Nat} {k : Completion} (waits : (s.ring c).waiting = [k])
    (on : (s.ring c).enable = true) (room : (s.ring c).full = false) (host : s.hostHeld c = false) (lead : s.follower = false)
    (queue : (s.queue k.queue).cons = (s.queue k.queue).written) (ring : (s.ring c).generated = (s.ring c).tail + 1) :
    ∃ t, exec (.completionPost c) s = .next t ∧ Posted s t c k [] := by
  have posted := postWaitingRaw_posts waits on room host lead
  have clean : (s.postWaitingRaw c).judgeRings k.queue c = s.postWaitingRaw c := by
    refine judgeRings_clean ?_ ?_
    · rw [posted.cons, posted.written, queue]
    · rw [posted.ring]
      exact ring.trans (BitVec.add_zero _).symm
  have none_waits : ((s.postWaitingRaw c).ring c).waiting = [] := by rw [posted.ring]
  refine ⟨s.postWaitingRaw c, ?_, posted⟩
  change Host.Outcome.next ((s.postWaiting c).reportFull c) = _
  simp only [State.postWaiting, waits, clean, ite_self, reportFull_idle none_waits]

/-- Settles O15: both ways a completion is the only one that waits for its ring, and `postWaitingRaw_posts` says how it is written. -/
theorem completionsWritten : Obligations.CompletionsWritten := by
  refine ⟨fun s k => ?_, fun c s k _ => ?_⟩
  · intro c r on room none_waits host lead t size phase
    let v := (s.completionCounted k.queue).setRing c { r with waiting := [k], generated := r.generated + 1 }
    have ring : v.ring c = { r with waiting := [k], generated := r.generated + 1 } := State.ring_setRing_same _ _ _
    have posted : Posted v (v.postWaitingRaw c) c k [] :=
      postWaitingRaw_posts (by rw [ring]) (by rw [ring]; exact on) (by rw [ring]; exact Ring.full_eq_false room)
        ((completionCounted_hostHeld s k.queue c).trans host) ((completionCounted_follower s k.queue).trans lead)
    obtain ⟨entry, posted_ring, cons, -⟩ := posted
    rw [ring] at posted_ring entry
    have alone : t = v.postWaitingRaw c := (postRaw_alone none_waits).trans (reportFullRaw_idle (by rw [posted_ring]))
    rw [alone, posted_ring, cons]
    refine ⟨?_, rfl, rfl, congrArg (Queue.cons · + 1) (completionCounted_queue s k.queue k.queue)⟩
    rw [Ring.phase_eq] at entry
    exact entry
  · intro r waits on room host lead queue ring
    obtain ⟨t, runs, posted⟩ := exec_completionPost_posts waits on (Ring.full_eq_false room) host lead queue ring
    obtain ⟨entry, posted_ring, cons, -⟩ := posted
    rw [Ring.phase_eq] at entry
    exact ⟨t, runs, by rw [posted_ring], by rw [posted_ring], cons, entry⟩

end Sys2Proof.Machine
end

section
/-! PROOF. What HBM reads as, byte by byte, while the coherence protocol serves a write at the slices, and the statements about a byte of
memory and about a store to HBM (O8, O24). -/

namespace Sys2Proof.Machine

open Sys2Proof.Claims

/-! ### Tables and memories -/

/-- Settles O8: `Memory.byte_write` says what a byte reads as after a run of bytes is stored. -/
theorem memoryReadAfterWrite : Obligations.MemoryReadAfterWrite := Memory.byte_write

section
variable {α : Type} {t : Table α} {k j : Nat} {v : α}

theorem Table.mem_keys_of_drop (h : j ∈ Table.keys (Table.drop t k)) : j ∈ Table.keys t := by
  induction t with
  | nil => exact h
  | cons e t ih =>
    by_cases at_ : k = e.1
    · exact List.mem_cons_of_mem _ (ih (by simpa [Table.drop, at_] using h))
    · have split : j = e.1 ∨ j ∈ Table.keys (Table.drop t k) := by simpa [Table.drop, Table.keys, at_] using h
      exact List.mem_cons.mpr (split.imp_right ih)

theorem Table.mem_keys_of_put (h : j ∈ Table.keys (Table.put t k v)) : j = k ∨ j ∈ Table.keys t := by
  induction t with
  | nil => exact .inl (by simpa [Table.put, Table.keys] using h)
  | cons e t ih =>
    rcases Nat.lt_trichotomy k e.1 with below | at_ | above
    · simpa [Table.put, Table.keys, below] using h
    · have split : j = k ∨ j ∈ Table.keys t := by simpa [Table.put, Table.keys, at_] using h
      exact split.imp_right (List.mem_cons_of_mem _)
    · have split : j = e.1 ∨ j ∈ Table.keys (Table.put t k v) := by
        simpa [Table.put, Table.keys, Nat.lt_asymm above, Nat.ne_of_gt above] using h
      rcases split with first | later
      · exact .inr (List.mem_cons.mpr (.inl first))
      · exact (ih later).imp_right (List.mem_cons_of_mem _)

/-- A write lists no other key. -/
theorem Table.mem_keys_of_set [DecidableEq α] {d : α} (h : j ∈ Table.keys (Table.set d t k v)) : j = k ∨ j ∈ Table.keys t := by
  unfold Table.set at h
  split at h
  · exact .inr (Table.mem_keys_of_drop h)
  · exact Table.mem_keys_of_put h

end

@[simp] theorem Memory.length_bytes (m : Memory) (a n : Nat) : (Memory.bytes m a n).length = n := by
  induction n generalizing a with
  | zero => rfl
  | succ n ih => simp [Memory.bytes, ih]

theorem Memory.getD_bytes (m : Memory) (a : Nat) {n k : Nat} (h : k < n) : (Memory.bytes m a n).getD k 0 = Memory.byte m (a + k) := by
  induction n generalizing a k with
  | zero => exact absurd h (Nat.not_lt_zero k)
  | succ n ih =>
    cases k with
    | zero => rfl
    | succ k => simpa [Memory.bytes, Nat.add_assoc, Nat.add_comm 1] using ih (a + 1) (Nat.lt_of_succ_lt_succ h)

/-! ### Lines -/

theorem cacheKey_inj {a b l m : Nat} (hl : l < 2 ^ 40) (hm : m < 2 ^ 40) : cacheKey a l = cacheKey b m ↔ a = b ∧ l = m := by
  unfold cacheKey
  omega

/-- `cached` after `setCached`, for lines of HBM. -/
theorem State.cached_setCached (s : State) (a b : Nat) {l m : Nat} (v : CacheLine) (hl : l < 2 ^ 40) (hm : m < 2 ^ 40) :
    (s.setCached a l v).cached b m = if b = a ∧ m = l then v else s.cached b m := by
  refine (Table.get_set _ _ _ _ _).trans ?_
  simp only [cacheKey_inj hm hl]
  rfl

/-- What a change of a line's directory entry leaves, it leaves of every line. -/
theorem State.lag_setLag_congr {β : Type} (f : LagLine → β) {s : State} {l : Nat} {v : LagLine} (same : f v = f (s.lag l)) (j : Nat) :
    f ((s.setLag l v).lag j) = f (s.lag j) := by
  rw [State.lag_setLag]
  split
  · next here => rw [here, same]
  · rfl

@[simp] theorem State.cached_setCached_same (s : State) (a l : Nat) (v : CacheLine) : (s.setCached a l v).cached a l = v :=
  Table.get_set_same _ _ _ _

theorem line_lt {b : Nat} (h : b < hbmEnd) : b / 128 < 2 ^ 40 := by
  unfold hbmEnd at h
  omega

section
variable {s t : State} {b : Nat}

/-- A line that no agent owns reads as HBM holds it. -/
theorem hbmSeen_unowned (unowned : (s.lag (b / 128)).owner = none) : hbmSeen s b = Memory.byte s.hbm b := by
  simp only [hbmSeen, unowned]

theorem hbmSeen_owned {o : Nat} (owned : (s.lag (b / 128)).owner = some o) :
    hbmSeen s b = if (s.cached o (b / 128)).st = .modified then Memory.byte (s.cached o (b / 128)).data (b % 128)
      else Memory.byte s.hbm b := by
  simp only [hbmSeen, owned]

/-- What a byte reads as depends on its line's owner, the owner's copy and the byte itself. -/
theorem hbmSeen_congr (owner : (t.lag (b / 128)).owner = (s.lag (b / 128)).owner)
    (copy : ∀ o, (s.lag (b / 128)).owner = some o → t.cached o (b / 128) = s.cached o (b / 128))
    (byte : Memory.byte t.hbm b = Memory.byte s.hbm b) : hbmSeen t b = hbmSeen s b := by
  cases h : (s.lag (b / 128)).owner with
  | none => rw [hbmSeen_unowned h, hbmSeen_unowned (owner.trans h), byte]
  | some o => rw [hbmSeen_owned h, hbmSeen_owned (owner.trans h), copy o h, byte]

end

/-! ### Steps that HBM reads the same after -/

/-- No transaction is under way, the Lagoon lists lines of HBM only, and no line has an owner that an invalidation waits for. -/
structure Settled (s : State) : Prop where
  idle : ∀ l, (s.lag l).txn = none
  listed : ∀ l ∈ Table.keys s.lagoon, l < 2 ^ 40
  pending : ∀ a, ∀ l ∈ s.invs a, l < 2 ^ 40 ∧ (s.lag l).owner = none

theorem Settled.of_coherent {s : State} (h : Coherent s) : Settled s := by
  obtain ⟨idle, none_pending, listed⟩ := h
  exact ⟨idle, listed, fun a l hl => by simp [none_pending a] at hl⟩

/-- A step from `s` to `t` keeps that, gives no line an owner that had none, and every byte of HBM reads the same after it. -/
structure Steady (s t : State) : Prop where
  settled : Settled s → Settled t
  seen : Settled s → ∀ b, b < hbmEnd → hbmSeen t b = hbmSeen s b
  unowned : Settled s → ∀ l, (s.lag l).owner = none → (t.lag l).owner = none

namespace Steady

variable {s t u : State} {a l : Nat}

theorem refl (s : State) : Steady s s := ⟨id, fun _ _ _ => rfl, fun _ _ => id⟩

/-- What the step relies on may be concluded from the invariant. -/
theorem of_settled (h : Settled s → Steady s t) : Steady s t :=
  ⟨fun hs => (h hs).settled hs, fun hs => (h hs).seen hs, fun hs => (h hs).unowned hs⟩

theorem trans (h : Steady s t) (k : Steady t u) : Steady s u where
  settled hs := k.settled (h.settled hs)
  seen hs b hb := (k.seen (h.settled hs) b hb).trans (h.seen hs b hb)
  unowned hs l hl := k.unowned (h.settled hs) l (h.unowned hs l hl)

/-- A fold, each of whose steps may rely on what the steps before it have kept. -/
theorem foldl {α : Type} {f : State → α → State} (l : List α) (h : ∀ u x, x ∈ l → Steady s u → Steady u (f u x)) :
    Steady s (l.foldl f s) :=
  List.foldlRecOn (motive := fun t : State => Steady s t) l f (refl s) fun u k x hx => k.trans (h u x hx k)

theorem ite {c : Prop} [Decidable c] (h : Steady s t) (k : Steady s u) : Steady s (if c then t else u) := by
  split
  · exact h
  · exact k

/-- HBM, the caches, the pending invalidations and the Lagoon are all that matters. -/
theorem of_eq (hbm : t.hbm = s.hbm) (caches : t.caches = s.caches) (invQueue : t.invQueue = s.invQueue) (lagoon : t.lagoon = s.lagoon) :
    Steady s t := by
  have lag (l : Nat) : t.lag l = s.lag l := by simp only [State.lag, lagoon]
  have invs (a : Nat) : t.invs a = s.invs a := by simp only [State.invs, invQueue]
  refine ⟨fun ⟨idle, listed, pending⟩ => ⟨?_, by rwa [lagoon], ?_⟩, fun _ b _ => ?_, fun _ l h => by rwa [lag]⟩
  · simpa only [lag] using idle
  · simpa only [lag, invs] using pending
  · exact hbmSeen_congr (by rw [lag]) (fun o _ => by simp only [State.cached, caches]) (by rw [hbm])

/-- A change of a line's directory entry that leaves its owner and its transaction. -/
theorem setLag {v : LagLine} (line : l < 2 ^ 40) (txn : v.txn = (s.lag l).txn) (owner : v.owner = (s.lag l).owner) :
    Steady s (s.setLag l v) := by
  have same_txn := State.lag_setLag_congr LagLine.txn txn
  have same_owner := State.lag_setLag_congr LagLine.owner owner
  refine ⟨fun ⟨idle, listed, pending⟩ => ⟨fun j => (same_txn j).trans (idle j), fun j hj => ?_, fun a j hj => ?_⟩,
    fun _ b _ => hbmSeen_congr (same_owner _) (fun _ _ => rfl) rfl, fun _ j h => (same_owner j).trans h⟩
  · rcases Table.mem_keys_of_set hj with rfl | old
    · exact line
    · exact listed j old
  · rw [same_owner]
    exact pending a j hj

/-- A change of an agent's copy of a line that no agent owns. -/
theorem setCached {v : CacheLine} (line : l < 2 ^ 40) (unowned : (s.lag l).owner = none) : Steady s (s.setCached a l v) := by
  refine ⟨fun ⟨idle, listed, pending⟩ => ⟨idle, listed, pending⟩, fun _ b hb => hbmSeen_congr rfl (fun o owned => ?_) rfl,
    fun _ _ => id⟩
  rw [State.cached_setCached s a o v line (line_lt hb), if_neg]
  rintro ⟨-, rfl⟩
  rw [unowned] at owned
  cases owned

/-- A change of an agent's pending invalidations by lines that no agent owns. -/
theorem setInvs {ls : List Nat} (more : ∀ l ∈ ls, l ∈ s.invs a ∨ l < 2 ^ 40 ∧ (s.lag l).owner = none) :
    Steady s (s.setInvs a ls) := by
  refine ⟨fun ⟨idle, listed, pending⟩ => ⟨idle, listed, fun c l hl => ?_⟩, fun _ _ _ => rfl, fun _ _ => id⟩
  rw [State.invs_setInvs] at hl
  split at hl
  · exact (more l hl).elim (pending a l) id
  · exact pending c l hl

end Steady

/-! ### Recalls (R257) -/

section
variable (s : State) (o l : Nat)

theorem takeData_lag (j : Nat) : ∃ d, (s.takeData o l).lag j = { s.lag j with dirty := d } := by
  unfold State.takeData
  dsimp only
  split
  · rw [State.lag_setLag]
    split
    · next h => exact ⟨true, by rw [h]; rfl⟩
    · exact ⟨(s.lag j).dirty, rfl⟩
  · exact ⟨(s.lag j).dirty, rfl⟩

theorem takeData_cached (a j : Nat) : (s.takeData o l).cached a j = s.cached a j := by
  unfold State.takeData
  dsimp only
  split <;> rfl

theorem takeData_invs (a : Nat) : (s.takeData o l).invs a = s.invs a := by
  unfold State.takeData
  dsimp only
  split <;> rfl

theorem takeData_keys {j : Nat} (h : j ∈ Table.keys (s.takeData o l).lagoon) : j = l ∨ j ∈ Table.keys s.lagoon := by
  unfold State.takeData at h
  dsimp only at h
  split at h
  · exact Table.mem_keys_of_set h
  · exact .inr h

/-- The Lagoon takes the bytes of the copy where that is Modified, and no byte of another line changes. -/
theorem takeData_byte (b : Nat) : Memory.byte (s.takeData o l).hbm b =
    if b / 128 = l ∧ (s.cached o l).st = .modified then Memory.byte (s.cached o l).data (b % 128) else Memory.byte s.hbm b := by
  unfold State.takeData
  by_cases modified : (s.cached o l).st = .modified
  · simp only [modified, beq_self_eq_true, if_true, and_true, State.setLag_hbm, Memory.byte_write, Memory.length_bytes]
    by_cases here : b / 128 = l
    · have at_ : b - l * 128 = b % 128 := by omega
      rw [if_pos (by omega), if_pos here, at_, Memory.getD_bytes _ _ (Nat.mod_lt _ (by decide)), Nat.zero_add]
    · rw [if_neg (by omega), if_neg here]
  · simp [modified]

end

section
variable (s : State) {o l : Nat}

theorem recallOwned_eq (owned : (s.lag l).owner = some o) : s.recallOwned l =
    ((s.takeData o l).setCached o l {}).setLag l { (s.takeData o l).lag l with owner := none } := by
  simp only [State.recallOwned, owned]
  rfl

/-- After a recall for ownership the line has no owner, and the directory of every other line is as it was but for dirt. -/
theorem recallOwned_lag (j : Nat) : ∃ d, (s.recallOwned l).lag j =
    { s.lag j with dirty := d, owner := if j = l then none else (s.lag j).owner } := by
  cases owned : (s.lag l).owner with
  | none =>
    refine ⟨(s.lag j).dirty, ?_⟩
    simp only [State.recallOwned, owned]
    split
    · next h => rw [h, ← owned]
    · rfl
  | some o =>
    obtain ⟨d, taken⟩ := takeData_lag s o l j
    refine ⟨d, ?_⟩
    rw [recallOwned_eq s owned, State.lag_setLag]
    split
    · next h =>
      subst h
      rw [taken]
    · exact taken

theorem recallOwned_unowned : ((s.recallOwned l).lag l).owner = none := by
  obtain ⟨d, h⟩ := recallOwned_lag s (l := l) l
  simp [h]

theorem recallOwned_invs (a : Nat) : (s.recallOwned l).invs a = s.invs a := by
  cases owned : (s.lag l).owner with
  | none => simp only [State.recallOwned, owned]
  | some o =>
    rw [recallOwned_eq s owned, State.setLag_invs, State.setCached_invs, takeData_invs]

theorem recallOwned_keys {j : Nat} (h : j ∈ Table.keys (s.recallOwned l).lagoon) : j = l ∨ j ∈ Table.keys s.lagoon := by
  cases owned : (s.lag l).owner with
  | none => exact .inr (by simpa only [State.recallOwned, owned] using h)
  | some o =>
    rw [recallOwned_eq s owned] at h
    exact (Table.mem_keys_of_set h).elim .inl (takeData_keys s o l)

/-- What the owner of a line holds Modified reads as before once the Lagoon has taken it. -/
theorem recallOwned_seen (line : l < 2 ^ 40) {b : Nat} (hb : b < hbmEnd) : hbmSeen (s.recallOwned l) b = hbmSeen s b := by
  cases owned : (s.lag l).owner with
  | none => simp only [State.recallOwned, owned]
  | some o =>
    have byte : Memory.byte (s.recallOwned l).hbm b = Memory.byte (s.takeData o l).hbm b := by rw [recallOwned_eq s owned]; rfl
    by_cases here : b / 128 = l
    · subst here
      rw [hbmSeen_unowned (recallOwned_unowned s), hbmSeen_owned owned, byte, takeData_byte]
      simp only [true_and]
    · obtain ⟨d, lag⟩ := recallOwned_lag s (l := l) (b / 128)
      refine hbmSeen_congr (by simp [lag, here]) (fun c _ => ?_) (by rw [byte, takeData_byte, if_neg (fun h => here h.1)])
      rw [recallOwned_eq s owned, State.setLag_cached, State.cached_setCached _ _ _ _ line (line_lt hb), if_neg (fun h => here h.2),
        takeData_cached]

theorem steady_recallOwned (line : l < 2 ^ 40) : Steady s (s.recallOwned l) where
  settled := by
    intro ⟨idle, listed, pending⟩
    refine ⟨fun j => ?_, fun j hj => ?_, fun a j hj => ?_⟩
    · obtain ⟨d, lag⟩ := recallOwned_lag s (l := l) j
      rw [lag]
      exact idle j
    · exact (recallOwned_keys s hj).elim (fun h => h ▸ line) (listed j)
    · rw [recallOwned_invs] at hj
      obtain ⟨d, lag⟩ := recallOwned_lag s (l := l) j
      obtain ⟨here, unowned⟩ := pending a j hj
      exact ⟨here, by simp [lag, unowned]⟩
  seen _ b hb := recallOwned_seen s line hb
  unowned _ j h := by
    obtain ⟨d, lag⟩ := recallOwned_lag s (l := l) j
    simp [lag, h]

end

/-! ### Invalidations (R258) -/

section
variable {s : State} {a l : Nat}

theorem steady_applyInv (line : l < 2 ^ 40) (unowned : (s.lag l).owner = none) : Steady s (s.applyInv a l) := by
  have applied : Steady s ((s.setCached a l {}).setInvs a ((s.invs a).erase l)) :=
    (Steady.setCached line unowned).trans (.setInvs fun _ h => .inl (List.mem_of_mem_erase h))
  exact .ite applied (.refl s)

/-- Accepting an invalidation may apply the oldest pending one, whose line has no owner either. -/
theorem steady_acceptInv (line : l < 2 ^ 40) (unowned : (s.lag l).owner = none) : Steady s (s.acceptInv a l) := by
  refine .of_settled fun settled => .ite (.setCached line unowned) ?_
  have room : Steady s (match s.invs a with
      | [] => s
      | o :: _ => if 32 ≤ (s.invs a).length then s.applyInv a o else s) := by
    split
    · exact .refl s
    · next o _ pending =>
      obtain ⟨here, free⟩ := settled.pending a o (by simp [pending])
      exact .ite (steady_applyInv here free) (.refl s)
  refine room.trans (.setInvs fun j hj => ?_)
  rcases List.mem_append.mp hj with old | new
  · exact .inl old
  · rw [List.mem_singleton.mp new]
    exact .inr ⟨line, room.unowned settled l unowned⟩

theorem steady_invalidateSharers (line : l < 2 ^ 40) (unowned : (s.lag l).owner = none) (x : Option Nat) :
    Steady s (s.invalidateSharers l x) :=
  .of_settled fun settled =>
    (Steady.foldl _ fun _ _ _ k => steady_acceptInv line (k.unowned settled l unowned)).trans (.setLag line rfl rfl)

end

/-! ### Marks and the Lagoon (R269 to R273, R279, R280) -/

section
variable (s : State) {l : Nat}

theorem steady_marks (p : Table Bool) (e : Table Nat) (k : Upkeep) : Steady s { s with hbmPoison := p, hbmErr := e, up := k } :=
  .of_eq rfl rfl rfl rfl

/-- A read of a block changes its marks and what upkeep counts. -/
theorem steady_eccBlock (b : Nat) : Steady s (s.eccBlock b) := by
  have read (u : State) : Steady u (if Table.get 0 s.hbmErr b = 1 then u.hbmCorrected else u) :=
    .ite (steady_marks u _ _ _) (.refl u)
  have marked (u : State) : Steady u (if Table.get false s.hbmPoison b then u else
      ({ u with hbmPoison := Table.set false u.hbmPoison b true } : State).logPoison (b * 32) 0 false true) :=
    .ite (.refl u) (steady_marks u _ _ _)
  have rebuild (u : State) : Steady u ((u.hbmUncorrectable b).needsRebuild b) :=
    (steady_marks u _ _ _).trans (.ite (steady_marks _ _ _ _) (.refl _))
  have cleared : Steady s (if Table.get 0 s.hbmErr b = 0 then s else { s with hbmErr := Table.set 0 s.hbmErr b 0 }) :=
    .ite (.refl s) (steady_marks s _ _ _)
  have scrubbed := cleared.trans (read _)
  exact .ite scrubbed (scrubbed.trans ((marked _).trans (rebuild _)))

theorem steady_touchWay (a w : Nat) : Steady s (s.touchWay a w) := .of_eq rfl rfl rfl rfl

theorem steady_perfAdd (p k n : Nat) : Steady s (s.perfAdd p k n) := .of_eq rfl rfl rfl rfl

/-- A line that leaves the Lagoon is recalled first, and then nothing reads its copies. -/
theorem steady_evictLag (line : l < 2 ^ 40) : Steady s (s.evictLag l) := by
  refine .of_settled fun settled => ?_
  have recalled := steady_recallOwned s line
  have settled := recalled.settled settled
  have unowned := recallOwned_unowned s (l := l)
  refine recalled.trans ?_
  unfold State.evictLag
  dsimp only
  generalize s.recallOwned l = u at settled unowned
  have left : Steady u _ := .trans
    (.foldl (List.range 17) fun v a _ k =>
      .ite (c := (u.lag l).sharers.getLsbD a) (.setCached (a := a) (v := {}) line (k.unowned settled l unowned)) (.refl v))
    (.ite (c := (u.lag l).dirty) (.foldl (List.range 4) fun v b _ _ => steady_marks v
      (Table.set false v.hbmPoison (4 * l + b) ((u.lag l).poison.getLsbD b)) (Table.set 0 v.hbmErr (4 * l + b) 0) v.up) (.refl _))
  refine left.trans (.setLag line ?_ ?_)
  · exact (settled.idle l).trans ((left.settled settled).idle l).symm
  · exact (left.unowned settled l unowned).symm

theorem mem_setLines {a : Nat} {e : Nat × Nat} (h : e ∈ s.setLines a) : e.1 ∈ Table.keys s.lagoon := by
  obtain ⟨x, listed, here⟩ := List.mem_filterMap.mp h
  split at here
  · cases here
    exact List.mem_map_of_mem listed
  · cases here

theorem steady_allocate (line : l < 2 ^ 40) (fetch : Bool) : Steady s (s.allocate l fetch) := by
  refine .of_settled fun settled => ?_
  unfold State.allocate
  refine .ite (steady_touchWay _ _ _) (.trans ?_ (steady_touchWay _ _ _))
  refine .trans ?_ (.setLag line rfl rfl)
  refine .trans (.trans ?_ (.ite (.foldl _ fun u b _ _ => steady_eccBlock u _) (.refl _))) (.ite (steady_perfAdd _ _ _ _) (.refl _))
  split
  · next e found => exact steady_evictLag s (settled.listed _ (mem_setLines s (List.mem_of_find?_eq_some found)))
  · exact .refl s

end

/-! ### Writes of HBM (R257, R281) -/

theorem settleLine_idle {s : State} {l : Nat} (idle : (s.lag l).txn = none) : s.settleLine l = s := by
  simp only [State.settleLine, State.settleGo, idle]

/-- A line as a non-caching write finds it: its owner recalled, its sharers told, and allocated. -/
def State.claimLine (s : State) (line : Nat) (fetch : Bool) : State :=
  (((s.settleLine line).recallOwned line).invalidateSharers line none).allocate line fetch

/-- The first `n` bytes are stored in their line, whose blocks they cover lose their poison. -/
def State.storeInLine (s : State) (a n : Nat) (bytes : List Byte) : State :=
  let s := { s with hbm := Memory.write s.hbm a (bytes.take n) }
  let s := s.setLag (lineOf a) { s.lag (lineOf a) with dirty := true }
  (List.range 4).foldl (fun s k =>
    if a ≤ lineOf a * 128 + 32 * k ∧ lineOf a * 128 + 32 * k + 32 ≤ a + n then s.clearBlock (4 * lineOf a + k) else s) s

/-- How many of the bytes, stored from `a` on, lie in the line of `a`. -/
def chunkOf (a : Nat) (bytes : List Byte) : Nat := Nat.min bytes.length (128 - a % 128)

/-- A write of these bytes has written its first line. -/
def State.writeFirst (s : State) (a : Nat) (bytes : List Byte) : State :=
  (s.claimLine (lineOf a) (decide (chunkOf a bytes < 128))).storeInLine a (chunkOf a bytes) bytes

section
variable {s : State} {a l b : Nat} {bytes : List Byte}

/-- A write that no poison stops writes its first line and goes on with the next. -/
theorem hbmWriteGo_clean {fuel : Nat} (some_ : bytes ≠ []) (clean : (hbmWriteGo (fuel + 1) s a bytes).bad = none) :
    hbmWriteGo (fuel + 1) s a bytes =
      hbmWriteGo fuel (s.writeFirst a bytes) (a + chunkOf a bytes) (bytes.drop (chunkOf a bytes)) := by
  rw [hbmWriteGo, if_neg (by simpa using some_)] at clean ⊢
  dsimp only at clean ⊢
  split
  · next poisoned =>
    rw [poisoned] at clean
    cases clean
  · rfl

theorem steady_claimLine (line : l < 2 ^ 40) (fetch : Bool) : Steady s (s.claimLine l fetch) := by
  refine .of_settled fun settled => ?_
  unfold State.claimLine
  rw [settleLine_idle (settled.idle l)]
  have alone := (steady_recallOwned s line).trans (steady_invalidateSharers line (recallOwned_unowned s) none)
  exact alone.trans (steady_allocate _ line fetch)

theorem claimLine_unowned (settled : Settled s) (line : l < 2 ^ 40) (fetch : Bool) : ((s.claimLine l fetch).lag l).owner = none := by
  have settled_recalled := (steady_recallOwned s line).settled settled
  have rest := (steady_invalidateSharers line (recallOwned_unowned s) none).trans (steady_allocate _ line fetch)
  unfold State.claimLine
  rw [settleLine_idle (settled.idle l)]
  exact rest.unowned settled_recalled l (recallOwned_unowned s)

theorem steady_clearBlock (line : b / 4 < 2 ^ 40) : Steady s (s.clearBlock b) := .setLag line rfl rfl

/-- Once the bytes stand in HBM, only the directory's dirt and poison of the line change. -/
theorem steady_storeInLine (line : lineOf a < 2 ^ 40) (n : Nat) :
    Steady { s with hbm := Memory.write s.hbm a (bytes.take n) } (s.storeInLine a n bytes) := by
  unfold State.storeInLine
  refine .trans ?_ (.foldl _ fun u k hk _ => .ite (steady_clearBlock ?_) (.refl u))
  · exact .setLag line rfl rfl
  have below : k < 4 := List.mem_range.mp hk
  have here : (4 * lineOf a + k) / 4 = lineOf a := by omega
  rwa [here]

theorem settled_storeInLine (settled : Settled s) (line : lineOf a < 2 ^ 40) (n : Nat) : Settled (s.storeInLine a n bytes) :=
  (steady_storeInLine line n).settled ⟨settled.idle, settled.listed, settled.pending⟩

theorem chunkOf_eq : chunkOf a bytes = min bytes.length (128 - a % 128) := rfl

theorem length_take_chunkOf : (bytes.take (chunkOf a bytes)).length = chunkOf a bytes :=
  List.length_take_of_le (Nat.min_le_left _ _)

/-- The bytes stored in a line that has no owner read back, and every other byte reads as before. -/
theorem storeInLine_seen (settled : Settled s) (line : lineOf a < 2 ^ 40) (unowned : (s.lag (lineOf a)).owner = none)
    (hb : b < hbmEnd) : hbmSeen (s.storeInLine a (chunkOf a bytes) bytes) b =
      if a ≤ b ∧ b < a + chunkOf a bytes then bytes.getD (b - a) 0 else hbmSeen s b := by
  have stored : Settled { s with hbm := Memory.write s.hbm a (bytes.take (chunkOf a bytes)) } :=
    ⟨settled.idle, settled.listed, settled.pending⟩
  rw [(steady_storeInLine line _).seen stored b hb]
  by_cases inside : a ≤ b ∧ b < a + chunkOf a bytes
  · have here : b / 128 = lineOf a := by
      have ends : chunkOf a bytes ≤ 128 - a % 128 := Nat.min_le_right _ _
      unfold lineOf
      omega
    rw [if_pos inside, hbmSeen_unowned (by rw [here]; exact unowned), Memory.byte_write, length_take_chunkOf, if_pos inside]
    simp only [List.getD_eq_getElem?_getD, List.getElem?_take_of_lt (Nat.sub_lt_left_of_lt_add inside.1 inside.2)]
  · rw [if_neg inside]
    exact hbmSeen_congr rfl (fun _ _ => rfl) (by rw [Memory.byte_write, length_take_chunkOf, if_neg inside])

theorem settled_writeFirst (settled : Settled s) (line : lineOf a < 2 ^ 40) : Settled (s.writeFirst a bytes) :=
  settled_storeInLine ((steady_claimLine line _).settled settled) line _

theorem writeFirst_seen (settled : Settled s) (line : lineOf a < 2 ^ 40) (hb : b < hbmEnd) : hbmSeen (s.writeFirst a bytes) b =
    if a ≤ b ∧ b < a + chunkOf a bytes then bytes.getD (b - a) 0 else hbmSeen s b := by
  have claimed := steady_claimLine (s := s) line (decide (chunkOf a bytes < 128))
  rw [← claimed.seen settled b hb]
  exact storeInLine_seen (claimed.settled settled) line (claimLine_unowned settled line _) hb

end

theorem hbmWriteGo_nil (fuel : Nat) (s : State) (a : Nat) : hbmWriteGo fuel s a [] = ⟨s, none⟩ := by
  cases fuel <;> rfl

/-- A write that no poison stops stores all its bytes: its first line takes its part, and the rest follows. The fuel is enough for every
line that the bytes touch. -/
theorem hbmWriteGo_seen {fuel : Nat} {s : State} {a : Nat} {bytes : List Byte} (settled : Settled s) (ends : a + bytes.length ≤ hbmEnd)
    (enough : bytes.length + a % 128 ≤ 128 * fuel ∨ bytes = []) (clean : (hbmWriteGo fuel s a bytes).bad = none) {b : Nat}
    (hb : b < hbmEnd) : hbmSeen (hbmWriteGo fuel s a bytes).s b =
      if a ≤ b ∧ b < a + bytes.length then bytes.getD (b - a) 0 else hbmSeen s b := by
  induction fuel generalizing s a bytes with
  | zero =>
    have none_left : bytes = [] := enough.elim (fun h => List.eq_nil_of_length_eq_zero (by omega)) id
    rw [none_left, hbmWriteGo_nil, if_neg (by simp)]
  | succ fuel ih =>
    by_cases none_left : bytes = []
    · rw [none_left, hbmWriteGo_nil, if_neg (by simp)]
    have enough := enough.resolve_right none_left
    have some_ : 0 < bytes.length := List.length_pos_iff.mpr none_left
    have line : lineOf a < 2 ^ 40 := line_lt (by omega)
    have next := hbmWriteGo_clean none_left clean
    have chunk := chunkOf_eq (a := a) (bytes := bytes)
    have rest := ih (settled_writeFirst settled line) (by rw [List.length_drop]; omega)
      (by rw [List.length_drop, List.drop_eq_nil_iff]; omega) (next ▸ clean)
    rw [next, rest, writeFirst_seen settled line hb, List.length_drop]
    rcases Nat.lt_or_ge b (a + chunkOf a bytes) with first | later
    · have inside : b < a + bytes.length := by omega
      rw [if_neg (by omega)]
      simp only [first, inside, and_true]
    · have at_ : b - a = chunkOf a bytes + (b - (a + chunkOf a bytes)) := by omega
      have same : a + chunkOf a bytes ≤ b ∧ b < a + chunkOf a bytes + (bytes.length - chunkOf a bytes) ↔
          a ≤ b ∧ b < a + bytes.length := by omega
      rw [if_neg (c := a ≤ b ∧ b < a + chunkOf a bytes) (by omega)]
      simp only [same, at_, List.getD_eq_getElem?_getD, List.getElem?_drop]

/-- Settles O24: a write claims each of its lines, and a line without an owner reads as HBM holds it. -/
theorem hbmStore : Obligations.HbmStore := by
  intro s a bytes coherent ends w clean b hb
  exact ⟨hbmWriteGo_seen (.of_coherent coherent) ends (.inl (by omega)) clean hb, (hbmOnly_writeHbm s a bytes).scratch⟩

end Sys2Proof.Machine
end

section
/-! PROOF. The rows of the coherence protocol, and the statement about them (O57). -/

namespace Sys2Proof.Machine

section
variable {s : State} {a line : Nat}

/-! ### Requests (R256, R257, R259) -/

/-- The directory recalls the owner, if that is another agent. -/
theorem beginTxn_eq (own : Bool) : s.beginTxn line a own = s.setLag line
    { s.lag line with txn := some (a, own), recalling := ((s.lag line).owner.filter (fun o => o != a)).map (fun o => (o, own)),
                      waitInv := if own then setBit (s.lag line).sharers a false else 0 } := by
  unfold State.beginTxn
  cases owner : (s.lag line).owner with
  | none => simp [owner]
  | some o =>
    by_cases self : o = a
    · simp [owner, Option.filter, self]
    · simp [owner, Option.filter, self]

theorem request_idle {own : Bool} (idle : (s.lag line).txn = none) :
    s.request a line own = (s.beginTxn line a own).advanceLine line := by
  simp only [State.request, idle]

theorem request_waits {own o : Bool} {b : Nat} (busy : (s.lag line).txn = some (b, o)) (other : b ≠ a)
    (new : ∀ w ∈ (s.lag line).waiters, w.1 ≠ a) :
    s.request a line own = s.setLag line { s.lag line with waiters := (s.lag line).waiters ++ [(a, own)] } := by
  simp only [State.request, busy]
  have unknown : (s.lag line).waiters.any (fun w => w.1 == a) = false := List.any_eq_false.mpr fun w hw => by simpa using new w hw
  exact if_neg (by simp [other, unknown])

theorem request_again {own o : Bool} {b : Nat} (busy : (s.lag line).txn = some (b, o))
    (known : b = a ∨ ∃ w, w ∈ (s.lag line).waiters ∧ w.1 = a) : s.request a line own = s := by
  simp only [State.request, busy]
  exact if_pos (known.imp_right fun ⟨w, hw, here⟩ => List.any_eq_true.mpr ⟨w, hw, by simpa using here⟩)

theorem exec_readShared (reached : s.cacheable a line = true) (invalid : (s.cached a line).st = .invalid) :
    exec (.readShared a line) s = .next (s.request a line false) :=
  congrArg _ (if_pos (by simp [reached, invalid]))

theorem exec_readOwn_miss (reached : s.cacheable a line = true) (writes : s.writes a line = true)
    (invalid : (s.cached a line).st = .invalid) : exec (.readOwn a line) s = .next (s.request a line true) :=
  congrArg _ ((if_pos (by simp [reached, writes, invalid])).trans (if_pos (by simp [invalid])))

theorem exec_readOwn_hit (reached : s.cacheable a line = true) (writes : s.writes a line = true)
    (owned : (s.cached a line).st = .exclusive ∨ (s.cached a line).st = .modified) :
    exec (.readOwn a line) s = .next (s.grantLine line a true) := by
  refine congrArg _ ((if_pos ?_).trans (if_neg ?_))
  · rcases owned with h | h <;> simp [reached, writes, h]
  · rcases owned with h | h <;> simp [h]

theorem exec_upgrade (reached : s.cacheable a line = true) (writes : s.writes a line = true)
    (shared : (s.cached a line).st = .shared) : exec (.upgrade a line) s = .next (s.request a line true) :=
  congrArg _ (if_pos (by simp [reached, writes, shared]))

/-! ### Evictions and answers (R244, R257, R258, R260) -/

theorem recalls_of {own : Bool} (recalled : (s.lag line).recalling = some (a, own)) : (s.lag line).recalls a = true := by
  simp [LagLine.recalls, recalled]

theorem exec_writeback (reached : s.cacheable a line = true) (modified : (s.cached a line).st = .modified) :
    exec (.writeback a line) s =
      .next (if (s.lag line).recalls a then (s.dropLine a line).recallDone line else s.dropLine a line) :=
  congrArg _ (if_pos (by simp [reached, modified]))

theorem exec_evictClean (reached : s.cacheable a line = true)
    (clean : (s.cached a line).st = .exclusive ∨ (s.cached a line).st = .shared) :
    exec (.evictClean a line) s = .next (s.dropLine a line) :=
  congrArg _ (if_pos (by rcases clean with h | h <;> simp [reached, h]))

theorem exec_invalidate (agent : a < 17) (awaited : (s.lag line).waitInv.getLsbD a = true) :
    let t := s.acceptInv a line
    let g := t.lag line
    exec (.invalidate a line) s = .next ((t.setLag line
      { g with waitInv := setBit g.waitInv a false, sharers := setBit g.sharers a false }).advanceLine line) :=
  congrArg _ (if_pos (by simp [agent, awaited]))

theorem exec_recallShare (held : (s.cached a line).st ≠ .invalid) (recalled : (s.lag line).recalling = some (a, false)) :
    exec (.recallShare a line) s = .next ((s.recallShared line).recallDone line) :=
  congrArg _ (if_pos (by simp [held, recalled]))

theorem exec_recallOwn (held : (s.cached a line).st ≠ .invalid) (recalled : (s.lag line).recalling = some (a, true)) :
    exec (.recallOwn a line) s = .next ((s.recallOwned line).recallDone line) :=
  congrArg _ (if_pos (by simp [held, recalled]))

theorem exec_recallAck {own : Bool} (given_up : (s.cached a line).st = .invalid)
    (recalled : (s.lag line).recalling = some (a, own)) : exec (.recallAck a line) s = .next (s.recallDone line) :=
  congrArg _ (if_pos (by simp [given_up, recalls_of recalled]))

theorem exec_invalidationApply (pending : line ∈ s.invs a) :
    exec (.invalidationApply a line) s = .next ((s.setCached a line {}).setInvs a ((s.invs a).erase line)) := by
  have applied : s.applyInv a line = (s.setCached a line {}).setInvs a ((s.invs a).erase line) := if_pos (by simpa using pending)
  exact congrArg _ ((if_pos (by simpa using pending)).trans applied)

/-! ### A line given up -/

theorem dropLine_cached : (s.dropLine a line).cached a line = {} := State.cached_setCached_same _ _ _ _

theorem dropLine_lag : (s.dropLine a line).lag line =
    { (s.takeData a line).lag line with
      owner := if ((s.takeData a line).lag line).owner = some a then none else ((s.takeData a line).lag line).owner,
      sharers := setBit ((s.takeData a line).lag line).sharers a false } := State.lag_setLag_same _ _ _

theorem dropLine_owner : ((s.dropLine a line).lag line).owner ≠ some a := by
  rw [dropLine_lag]
  dsimp only
  split
  · exact (Option.some_ne_none a).symm
  · assumption

theorem dropLine_sharers : ((s.dropLine a line).lag line).sharers.getLsbD a = false := by
  rw [dropLine_lag]
  exact getLsbD_setBit_false _ _

/-! ### Non-caching accesses (R257, R272) -/

theorem exec_nonCachingRead {addr len : Nat} (ready : s.rangeReady addr len = true) :
    exec (.nonCachingAccess addr len none) s = .next (s.readHbm .lagoon addr len).s := congrArg _ (if_pos ready)

theorem exec_nonCachingWrite {addr len : Nat} {bytes : List Byte} (ready : s.rangeReady addr bytes.length = true)
    (thawed : ∀ k, k < (addr + bytes.length + 127) / 128 - addr / 128 → s.isFrozen ((addr / 128 + k) * 128) = false) :
    exec (.nonCachingAccess addr len (some bytes)) s = .next (s.writeHbm addr bytes).s :=
  congrArg _ (if_pos (by simpa [ready] using thawed))

end

/-- Settles O57, a lemma per row: a request's three cases are `State.request`'s, and what a row waits for has come. -/
theorem coherence : Obligations.Coherence := by
  refine ⟨fun a line s reached => ?_, fun a line s => ?_⟩
  · intro g began queued asks
    have requested {c : Instr} {own : Bool} (runs : exec c s = .next (s.request a line own)) : asks c own :=
      ⟨fun idle => by rw [runs, request_idle idle, beginTxn_eq], fun b o busy other new => by rw [runs, request_waits busy other new],
        fun b o busy known => by rw [runs, request_again busy known]⟩
    refine ⟨fun invalid => ⟨requested (exec_readShared reached invalid),
        fun writes => requested (exec_readOwn_miss reached writes invalid)⟩,
      fun shared writes => requested (exec_upgrade reached writes shared), fun owned writes => exec_readOwn_hit reached writes owned,
      fun goose => ?_⟩
    simp [State.writes, goose, gooseAgent]
  · intro g st answered
    refine ⟨fun reached modified => ⟨fun met => ?_, fun unmet => ?_⟩, exec_evictClean,
      ⟨dropLine_cached, dropLine_owner, fun _ => dropLine_sharers⟩, exec_invalidate,
      fun held => ⟨exec_recallShare held, exec_recallOwn held⟩, fun own => exec_recallAck, exec_invalidationApply,
      fun addr len => exec_nonCachingRead, fun addr len bytes => exec_nonCachingWrite⟩
    · rw [exec_writeback reached modified, if_pos met]
      rfl
    · rw [exec_writeback reached modified, if_neg (by simpa using unmet)]

end Sys2Proof.Machine
end

section
/-! PROOF. The memories of the state after reset, and the statement about them (O5). -/

namespace Sys2Proof.Machine

open Sys2Proof.Claims

/-- Settles O5: HBM, the scratchpads and the boot flash each list no byte after reset, and such a memory is canonical (DESIGN CHOICE, log
entry 2). -/
theorem memoryCanonicalAtReset : Obligations.MemoryCanonicalAtReset :=
  have hbm : State.reset.hbm = [] := rfl
  have scratch : State.reset.scratch = [] := rfl
  have flash : State.reset.flash = [] := rfl
  ⟨hbm ▸ Memory.wf_nil, scratch ▸ Memory.wf_nil, flash ▸ Memory.wf_nil⟩

end Sys2Proof.Machine
end

section
/-! PROOF. The bytes of a flit: slices, little-endian and big-endian numbers, the key stream of AES-GCM and the CRC, and the statement that a
flit's wire bytes open to the same flit (O50). -/

namespace Sys2Proof.Machine

/-! ### Slices -/

section
variable {l a b : List Byte} {i n : Nat}

@[simp] theorem length_slice (l : List Byte) (i n : Nat) : (slice l i n).length = n := by
  simp [slice]

/-- A slice that ends before the list does lies in it whole. -/
theorem slice_eq_take (h : i + n ≤ l.length) : slice l i n = (l.drop i).take n := by
  have full : n - ((l.drop i).take n).length = 0 := by
    rw [List.length_take, List.length_drop]
    omega
  rw [slice, full, List.replicate_zero, List.append_nil]

theorem slice_all (h : l.length = n) : slice l 0 n = l := by
  rw [slice_eq_take (by omega), List.drop_zero, List.take_of_length_le (by omega)]

theorem slice_append_left (h : i + n ≤ a.length) : slice (a ++ b) i n = slice a i n := by
  rw [slice_eq_take (by rw [List.length_append]; omega), slice_eq_take h, List.drop_append_of_le_length (by omega),
    List.take_append_of_le_length (by rw [List.length_drop]; omega)]

/-- A slice past `a`. -/
theorem slice_append_add (a b : List Byte) (i n : Nat) : slice (a ++ b) (a.length + i) n = slice b i n := by
  rw [slice, List.drop_length_add_append, slice]

/-- The part that follows `a`, whole. -/
theorem slice_append_right (start : a.length = i) (size : b.length = n) : slice (a ++ b) i n = b := by
  rw [← start]
  exact (slice_append_add a b 0 n).trans (slice_all size)

end

/-! ### Little-endian and big-endian numbers (R6) -/

@[simp] theorem length_leBytes (n v : Nat) : (leBytes n v).length = n := by
  induction n generalizing v with
  | zero => rfl
  | succ n ih => rw [leBytes, List.length_cons, ih]

@[simp] theorem length_beBytes (n v : Nat) : (beBytes n v).length = n := by
  rw [beBytes, List.length_reverse, length_leBytes]

theorem leNat_leBytes (n v : Nat) : leNat (leBytes n v) = v % 256 ^ n := by
  induction n generalizing v with
  | zero => rw [leBytes, leNat, pow_zero, Nat.mod_one]
  | succ n ih =>
    rw [leBytes, leNat, ih, BitVec.toNat_ofNat, pow_succ' 256 n]
    exact Nat.mod_mul.symm

theorem beNat_reverse (l : List Byte) : beNat l.reverse = leNat l := by
  unfold beNat
  induction l with
  | nil => rfl
  | cons b l ih =>
    rw [List.reverse_cons, List.foldl_append, ih, List.foldl_cons, List.foldl_nil, leNat]
    omega

/-- Two lists of bytes, byte by byte exclusive-ored, to the length of the shorter. -/
def xorBytes (l k : List Byte) : List Byte := List.zipWith (· ^^^ ·) l k

theorem length_xorBytes {l k : List Byte} (h : l.length ≤ k.length) : (xorBytes l k).length = l.length := by
  rw [xorBytes, List.length_zipWith, Nat.min_eq_left h]

theorem xorBytes_self_inverse {l k : List Byte} (h : l.length ≤ k.length) : xorBytes (xorBytes l k) k = l := by
  refine List.ext_getElem (by simpa [xorBytes] using h) fun j _ hj => ?_
  simp only [xorBytes, List.getElem_zipWith]
  rw [BitVec.xor_assoc, BitVec.xor_self, BitVec.xor_zero]

/-- An exclusive-or with the first bytes of `k` and then with the rest. -/
theorem xorBytes_append (l a b : List Byte) : xorBytes l (a ++ b) = xorBytes (l.take a.length) a ++ xorBytes (l.drop a.length) b := by
  induction a generalizing l with
  | nil => simp [xorBytes]
  | cons x a ih =>
    cases l with
    | nil => rfl
    | cons y l => exact congrArg (List.cons (y ^^^ x)) (ih l)

theorem leBytes_xor (l : List Byte) (k : Nat) : leBytes l.length (leNat l ^^^ k) = xorBytes l (leBytes l.length k) := by
  induction l generalizing k with
  | nil => rfl
  | cons b l ih =>
    have low : BitVec.ofNat 8 ((b.toNat + 256 * leNat l) ^^^ k) = b ^^^ BitVec.ofNat 8 k := by
      rw [BitVec.ofNat_xor]
      congr 1
      refine BitVec.eq_of_toNat_eq ?_
      rw [BitVec.toNat_ofNat]
      have := b.isLt
      omega
    have high : ((b.toNat + 256 * leNat l) ^^^ k) / 256 = leNat l ^^^ k / 256 := by
      have shift : (b.toNat + 256 * leNat l) / 2 ^ 8 = leNat l := by
        have := b.isLt
        omega
      exact Nat.xor_div_two_pow.trans (congrArg (· ^^^ k / 2 ^ 8) shift)
    rw [List.length_cons, leNat, leBytes, low, high, ih]
    rfl

theorem beBytes_xor {l : List Byte} {n : Nat} (size : l.length = n) (k : Nat) :
    beBytes n (beNat l ^^^ k) = xorBytes l (beBytes n k) := by
  subst size
  have mirrored : beNat l = leNat l.reverse := by rw [← beNat_reverse, List.reverse_reverse]
  have bytes := leBytes_xor l.reverse k
  rw [List.length_reverse] at bytes
  rw [beBytes, beBytes, mirrored, bytes, xorBytes, List.reverse_zipWith (by simp), List.reverse_reverse]
  rfl

/-! ### The stream of AES-GCM (R293) -/

/-- The key stream: the 16 bytes of each number from `j` upward. -/
def keyStream (e : Nat → Nat) : Nat → Nat → List Byte
  | _, 0 => []
  | j, n + 1 => beBytes 16 (e j) ++ keyStream e (j + 1) n

theorem length_keyStream (e : Nat → Nat) (j n : Nat) : (keyStream e j n).length = 16 * n := by
  induction n generalizing j with
  | zero => rfl
  | succ n ih =>
    rw [keyStream, List.length_append, ih, length_beBytes]
    omega

/-- One piece under one number of the key stream: what fills the piece up to a block is cut off again. -/
theorem block_eq_xorBytes {c : List Byte} (short : c.length ≤ 16) (e : Nat) :
    (beBytes 16 (beNat (slice c 0 16) ^^^ e)).take c.length = xorBytes c (beBytes 16 e) := by
  have padded : slice c 0 16 = c ++ List.replicate (16 - c.length) 0 := by
    rw [slice, List.drop_zero, List.take_of_length_le short]
  have cut : (slice c 0 16).take c.length = c := by rw [padded, List.take_left]
  rw [beBytes_xor (length_slice c 0 16), xorBytes, List.take_zipWith, cut]
  refine List.ext_getElem (by simp [xorBytes]) fun j hj _ => ?_
  simp only [xorBytes, List.getElem_zipWith, List.getElem_take]

theorem chunksGo_stream (e : Nat → Nat) : ∀ (fuel : Nat) (l : List Byte) (j : Nat), l.length ≤ 16 * fuel →
    (((chunksGo 16 fuel l).zipIdx j).map (fun c => (beBytes 16 (beNat (slice c.1 0 16) ^^^ e c.2)).take c.1.length)).flatten =
      xorBytes l (keyStream e j fuel)
  | 0, l, j, h => by
    rw [List.eq_nil_of_length_eq_zero (by omega : l.length = 0)]
    rfl
  | fuel + 1, l, j, h => by
    unfold chunksGo
    split
    · next empty =>
      rw [List.isEmpty_iff.mp empty]
      rfl
    · have rest := chunksGo_stream e fuel (l.drop 16) (j + 1) (by rw [List.length_drop]; omega)
      have first := block_eq_xorBytes (List.length_take_le 16 l) (e j)
      rw [List.zipIdx_cons, List.map_cons, List.flatten_cons, rest, first, keyStream, xorBytes_append, length_beBytes]

/-- The counter of block `k` under the round keys. -/
def counterBlock (ks : List (List Nat)) (iv : List Byte) (k : Nat) : Nat :=
  aesBlock ks (beNat (slice iv 0 12) * 2 ^ 32 + (k + 2) % 2 ^ 32)

theorem gcmStream_eq (ks : List (List Nat)) (iv l : List Byte) :
    gcmStream ks iv l = xorBytes l (keyStream (counterBlock ks iv) 0 ((l.length + 16 - 1) / 16)) :=
  chunksGo_stream (counterBlock ks iv) _ l 0 (by omega)

theorem length_gcmStream (ks : List (List Nat)) (iv l : List Byte) : (gcmStream ks iv l).length = l.length := by
  rw [gcmStream_eq, length_xorBytes (by rw [length_keyStream]; omega)]

theorem gcmStream_self_inverse (ks : List (List Nat)) (iv l : List Byte) : gcmStream ks iv (gcmStream ks iv l) = l := by
  rw [gcmStream_eq, length_gcmStream, gcmStream_eq, xorBytes_self_inverse (by rw [length_keyStream]; omega)]

theorem length_gcmSeal_fst (key iv aad plain : List Byte) : (gcmSeal key iv aad plain).1.length = plain.length :=
  length_gcmStream _ _ _

theorem length_gcmSeal_snd (key iv aad plain : List Byte) : (gcmSeal key iv aad plain).2.length = 16 := length_beBytes _ _

theorem gcmOpen_gcmSeal (key iv aad plain : List Byte) :
    gcmOpen key iv aad (gcmSeal key iv aad plain).1 (gcmSeal key iv aad plain).2 = some plain := by
  simp only [gcmOpen, gcmSeal, beq_self_eq_true, if_true, gcmStream_self_inverse]

/-! ### The CRC (R292) -/

theorem strict_eq {α : Type} (n : Nat) (f : Nat → α) : strict n f = f n := by
  cases n <;> rfl

theorem crcByte_lt {c : Nat} (i : Nat) (h : c < 2 ^ 64) : crcByte i c < 2 ^ 64 := by
  induction i generalizing c with
  | zero => exact h
  | succ i ih =>
    rw [crcByte, strict_eq]
    refine ih ?_
    split
    · exact Nat.xor_lt_two_pow (Nat.mod_lt _ (by decide)) (by decide)
    · omega

theorem crcGo_lt {l : List Byte} {c : Nat} (h : c < 2 ^ 64) : crcGo l c < 2 ^ 64 := by
  induction l generalizing c with
  | nil => exact h
  | cons b l ih =>
    rw [crcGo, strict_eq]
    exact ih (crcByte_lt 8 (Nat.xor_lt_two_pow h (Nat.shiftLeft_lt b.isLt)))

theorem crc64_lt (l : List Byte) : crc64 l < 2 ^ 64 := crcGo_lt (by decide)

theorem length_withCrc (l : List Byte) : (withCrc l).length = l.length + 8 := by
  rw [withCrc, List.length_append, length_leBytes]

theorem slice_withCrc {l : List Byte} {i n : Nat} (h : i + n ≤ l.length) : slice (withCrc l) i n = slice l i n := slice_append_left h

theorem crcOk_withCrc {l : List Byte} (size : l.length = 248) : crcOk (withCrc l) = true := by
  have sum : leAt (withCrc l) 248 8 = crc64 l := by
    rw [leAt, withCrc, slice_append_right size (length_leBytes 8 _), leNat_leBytes]
    exact Nat.mod_eq_of_lt (crc64_lt l)
  have body : slice (withCrc l) 0 248 = l := by rw [slice_withCrc (by omega), slice_all size]
  simp [crcOk, length_withCrc, size, sum, body]

/-! ### The header (R290) -/

variable (f : Flit) (key iv : List Byte)

/-- The second byte of the header. -/
def Flit.flags : Nat := f.vc.toNat + 4 * b2n f.frozen + 8 * b2n f.keyed + 16 * f.qos.toNat

theorem b2n_le (b : Bool) : b2n b ≤ 1 := by cases b <;> decide

theorem bit_eq_iff (v i : Nat) (b : Bool) (h : v / 2 ^ i % 2 = b2n b) : bit v i = b := by
  rw [bit, h]
  cases b <;> rfl

theorem Flit.vc_flags : BitVec.ofNat 2 f.flags = f.vc := by
  refine BitVec.eq_of_toNat_eq ?_
  rw [BitVec.toNat_ofNat, Flit.flags]
  have := f.vc.isLt
  omega

theorem Flit.frozen_flags : bit f.flags 2 = f.frozen := by
  refine bit_eq_iff _ _ _ ?_
  have := f.vc.isLt
  have := b2n_le f.frozen
  rw [Flit.flags]
  omega

theorem Flit.keyed_flags : bit f.flags 3 = f.keyed := by
  refine bit_eq_iff _ _ _ ?_
  have := f.vc.isLt
  have := b2n_le f.frozen
  have := b2n_le f.keyed
  rw [Flit.flags]
  omega

theorem Flit.qos_flags : BitVec.ofNat 4 (f.flags / 16) = f.qos := by
  refine BitVec.eq_of_toNat_eq ?_
  rw [BitVec.toNat_ofNat, Flit.flags]
  have := f.vc.isLt
  have := f.qos.isLt
  have := b2n_le f.frozen
  have := b2n_le f.keyed
  omega

theorem Flit.flags_lt : f.flags < 256 := by
  have := f.vc.isLt
  have := f.qos.isLt
  have := b2n_le f.frozen
  have := b2n_le f.keyed
  rw [Flit.flags]
  omega

theorem Flit.length_header : f.header.length = 16 := rfl

/-- A number of the header that its bytes hold is read from them. -/
theorem leAt_of_slice {l : List Byte} {i n v : Nat} (at_ : slice l i n = leBytes n v) (fits : v < 256 ^ n) : leAt l i n = v := by
  rw [leAt, at_, leNat_leBytes, Nat.mod_eq_of_lt fits]

theorem toNat_lt_pow_256 {w : Nat} (x : BitVec w) (n : Nat) (h : w ≤ 8 * n) : x.toNat < 256 ^ n :=
  lt_of_lt_of_le x.isLt (by
    rw [show 256 = 2 ^ 8 from rfl, ← pow_mul]
    exact Nat.pow_le_pow_right (by decide) h)

/-- Bytes that begin with the header of `f` are read as `f`, with what they carry after it as the body. -/
theorem readFlit_of_header {raw : List Byte} (h : ∀ i n, i + n ≤ 16 → slice raw i n = slice f.header i n) :
    readFlit raw = { f with body := slice raw 16 232 } := by
  have typ : leAt raw 0 1 = f.typ.toNat := leAt_of_slice (h 0 1 (by omega)) (toNat_lt_pow_256 _ 1 (by omega))
  have flags : leAt raw 1 1 = f.flags := leAt_of_slice (h 1 1 (by omega)) f.flags_lt
  have dst : leAt raw 2 1 = f.dst.toNat := leAt_of_slice (h 2 1 (by omega)) (toNat_lt_pow_256 _ 1 (by omega))
  have src : leAt raw 3 1 = f.src.toNat := leAt_of_slice (h 3 1 (by omega)) (toNat_lt_pow_256 _ 1 (by omega))
  have crVc : leAt raw 4 1 = f.crVc.toNat := leAt_of_slice (h 4 1 (by omega)) (toNat_lt_pow_256 _ 1 (by omega))
  have crCount : leAt raw 5 1 = f.crCount.toNat := leAt_of_slice (h 5 1 (by omega)) (toNat_lt_pow_256 _ 1 (by omega))
  have seq : leAt raw 8 4 = f.seq.toNat := leAt_of_slice (h 8 4 (by omega)) (toNat_lt_pow_256 _ 4 (by omega))
  have ack : leAt raw 12 4 = f.ack.toNat := leAt_of_slice (h 12 4 (by omega)) (toNat_lt_pow_256 _ 4 (by omega))
  simp only [readFlit, typ, flags, dst, src, crVc, crCount, seq, ack, f.vc_flags, f.frozen_flags, f.keyed_flags, f.qos_flags,
    BitVec.ofNat_toNat, BitVec.setWidth_eq]

/-! ### The 256 bytes (R290, R292, R293) -/

/-- The 232 payload bytes on the wire: a keyed flit's are its ciphertext, its tag and 16 zero bytes. -/
def Flit.payload : List Byte :=
  if f.keyed then
    let x := gcmSeal key iv f.header (slice f.body 0 200)
    x.1 ++ (x.2 ++ List.replicate 16 0)
  else slice f.body 0 232

theorem Flit.wire_eq : f.wire key iv = withCrc (f.header ++ f.payload key iv) := by
  unfold Flit.wire Flit.payload
  split
  · simp only [List.append_assoc]
  · rfl

theorem Flit.length_payload : (f.payload key iv).length = 232 := by
  unfold Flit.payload
  split
  · simp only [List.length_append, length_gcmSeal_fst, length_gcmSeal_snd, length_slice, List.length_replicate]
  · rw [length_slice]

theorem Flit.length_clear : (f.header ++ f.payload key iv).length = 248 := by
  rw [List.length_append, f.length_header, f.length_payload]

theorem Flit.slice_wire_header {i n : Nat} (h : i + n ≤ 16) : slice (f.wire key iv) i n = slice f.header i n := by
  rw [f.wire_eq, slice_withCrc (by rw [f.length_clear]; omega), slice_append_left (by rw [f.length_header]; omega)]

theorem Flit.slice_wire_payload {i n : Nat} (h : i + n ≤ 232) :
    slice (f.wire key iv) (16 + i) n = slice (f.payload key iv) i n := by
  rw [f.wire_eq, slice_withCrc (by rw [f.length_clear]; omega)]
  exact slice_append_add f.header (f.payload key iv) i n

theorem Flit.readFlit_wire : readFlit (f.wire key iv) = { f with body := f.payload key iv } := by
  rw [readFlit_of_header f fun i n h => f.slice_wire_header key iv h, f.slice_wire_payload key iv (i := 0) (Nat.le_refl _),
    slice_all (f.length_payload key iv)]

/-- The three parts of a keyed flit's payload. -/
theorem Flit.payload_parts (keyed : f.keyed = true) :
    let x := gcmSeal key iv f.header (slice f.body 0 200)
    slice (f.wire key iv) 16 200 = x.1 ∧ slice (f.wire key iv) 216 16 = x.2 ∧ slice (f.wire key iv) 232 16 = List.replicate 16 0 := by
  intro x
  have parts : f.payload key iv = x.1 ++ (x.2 ++ List.replicate 16 0) := if_pos keyed
  have text : x.1.length = 200 := (length_gcmSeal_fst ..).trans (length_slice ..)
  have tag : x.2.length = 16 := length_gcmSeal_snd ..
  refine ⟨(f.slice_wire_payload key iv (i := 0) (by omega)).trans ?_, (f.slice_wire_payload key iv (i := 200) (by omega)).trans ?_,
    (f.slice_wire_payload key iv (i := 216) (by omega)).trans ?_⟩
  · rw [parts, slice_append_left (by omega), slice_all text]
  · rw [parts, ← List.append_assoc, slice_append_left (by rw [List.length_append]; omega), slice_append_right text tag]
  · rw [parts, ← List.append_assoc, slice_append_right (by rw [List.length_append, text, tag]) (by rw [List.length_replicate])]

theorem Flit.openFlit_keyed (keyed : f.keyed = true) :
    openFlit (f.wire key iv) key iv = some { f with body := slice f.body 0 200 } := by
  obtain ⟨text, tag, -⟩ := f.payload_parts key iv keyed
  have header : slice (f.wire key iv) 0 16 = f.header := (f.slice_wire_header key iv (Nat.le_refl _)).trans (slice_all f.length_header)
  simp only [openFlit, f.readFlit_wire, keyed, if_true, header, text, tag, gcmOpen_gcmSeal, Option.map_some]

theorem Flit.openFlit_unkeyed (clear : f.keyed = false) :
    openFlit (f.wire key iv) key iv = some { f with body := slice f.body 0 232 } := by
  have payload : f.payload key iv = slice f.body 0 232 := if_neg (by simp [clear])
  simp [openFlit, f.readFlit_wire, clear, payload]

/-- Settles O50: the header's numbers are read back from their bytes, AES-GCM's stream undoes itself, and the CRC is that of the bytes before
it. -/
theorem flitEncoding : Obligations.FlitEncoding := by
  intro f key iv raw
  refine ⟨?_, ?_, ?_, f.slice_wire_header key iv (by omega), fun keyed => ?_, f.openFlit_unkeyed key iv⟩
  · exact (congrArg List.length (f.wire_eq key iv)).trans ((length_withCrc _).trans (congrArg (· + 8) (f.length_clear key iv)))
  · exact (congrArg crcOk (f.wire_eq key iv)).trans (crcOk_withCrc (f.length_clear key iv))
  · exact leAt_of_slice (f.slice_wire_header key iv (by omega)) (toNat_lt_pow_256 _ 1 (by omega))
  · exact ⟨(f.payload_parts key iv keyed).2.2, f.openFlit_keyed key iv keyed⟩

end Sys2Proof.Machine
end

section
/-! PROOF. The writes of ISL_QABORT, LDG_RELEASE, KEY_RETRY and DBG_RELEASE, and the statement about them (O33). -/

namespace Sys2Proof.Machine

open Sys2Proof.Claims

section
variable {s : State} {m : Master} {fn : Nat}

/-! ### Where the accesses lie (R333, R524) -/

/-- What a function sees of register space ends below DBG_RELEASE. -/
theorem vfOffset_lt (o : Nat) : vfOffset o < 0x100000 := by
  unfold vfOffset
  split_ifs <;> omega

theorem accOf_off_ne_dbgRelease (m : Master) (fn : Nat) {o : Nat} (ne : o ≠ 0x500020) : (accOf m fn o).off ≠ 0x500020 := by
  by_cases pf : fn = 0
  · simpa [accOf, accAt, pf] using ne
  · have vf : (accOf m fn o).off = vfOffset o := by simp [accOf, accAt, pf]
    have := vfOffset_lt o
    omega

/-- No function but the PF has DBG_RELEASE in its space. -/
theorem off_of_reaches_dbgRelease (h : Reaches s m fn 0x500020 true .dbgRelease) : (accOf m fn 0x500020).off = 0x500020 := by
  obtain ⟨-, -, -, -, hit, -⟩ := h
  by_cases pf : fn = 0
  · simp [accOf, accAt, pf]
  · have off : (accOf m fn 0x500020).off = 0xFFFF8 := by simp [accOf, accAt, pf, vfOffset]
    have mirror : vfMirror 0xFFFF8 = none := rfl
    have plain : plainHit 0xFFFF8 = .undefined 15 := rfl
    have open_ : sealedPort (portOf 0xFFFF8) = false := rfl
    simp only [State.hit, off] at hit
    split at hit
    · cases hit
    · split at hit
      · simp [State.vfHit, mirror] at hit
      · simp [State.pfHit, regSpace, open_, plain] at hit

/-! ### What the registers take (R305, R333, R471, R477) -/

theorem writeOutReg_qabort (a : Acc) (n v : Nat) :
    s.writeOutReg a (.qabort n) v = s.ruled a (ofOwner a (s.isletOwner n)) (fun s => s.qabort a n (BitVec.ofNat 3 v)) := by
  change (if a.master = .goose then s else s).ruled a (ofOwner a ((if a.master = .goose then s else s).isletOwner n))
    (fun s => s.writeIsl a (.qabort n) v) = _
  rw [ite_self]
  rfl

theorem writeOutReg_ldgRelease (a : Acc) (v : Nat) :
    s.writeOutReg a .ldgRelease v = s.ledgerRelease a (bit v 0) (BitVec.ofNat 10 (v / 2 ^ 16)) := by
  change (if a.master = .goose then s else s).ledgerRelease a _ _ = _
  rw [ite_self]

theorem writeOutReg_strCtrl (a : Acc) (p v : Nat) :
    s.writeOutReg a (.strCtrl p) v =
      if bit v 1 then (s.setPort p { s.port p with wakeSend := bit v 0 }).keyAgain p
      else s.setPort p { s.port p with wakeSend := bit v 0 } := by
  change (if a.master = .goose then s else s).writeLink a (.strCtrl p) v = _
  rw [ite_self]
  rfl

theorem writeOutReg_dbgRelease (a : Acc) (v : Nat) : s.writeOutReg a .dbgRelease v = s := by
  change (if a.master = .goose then s else s) = s
  rw [ite_self]

/-! ### ISL_QABORT (R477) -/

/-- The engine queues of Islet `n` that a write of ISL_QABORT names. -/
def namedEngines (n : Nat) (bits : BitVec 3) : List Nat := ((List.range 3).filter (fun k => bits.getLsbD k)).map (fun k => 3 * n + k)

theorem exec_islQabort_of_reaches {n p : Nat} (bits : BitVec 3) (islet : n < 16) (owner : s.isletOwner n = some p) (vf : fn = p + 1)
    (h : Reaches s .hif fn (0x100300 + 0x10000 * n) true (.qabort n)) :
    exec (.islQabort fn n bits) s = .next (s.qabort (accOf .hif fn (0x100300 + 0x10000 * n)) n bits) := by
  have fits : bits.toNat < 2 ^ 32 := lt_trans bits.isLt (by decide)
  have own : ofOwner (accOf .hif fn (0x100300 + 0x10000 * n)) (some p) = true := by simp [ofOwner, fromHost, accOf, accAt, vf]
  change s.put .hif fn (0x100300 + 0x10000 * n) bits.toNat = _
  rw [put_of_reaches h (accOf_off_ne_dbgRelease .hif fn (by omega)) fits, writeOutReg_qabort, owner, State.ruled, if_pos own,
    BitVec.ofNat_toNat, BitVec.setWidth_eq]

theorem qabort_of_waiting {n : Nat} {bits : BitVec 3} (waiting : ∀ q ∈ namedEngines n bits, (s.tagWaitOf q).isSome = true) (a : Acc) :
    s.qabort a n bits = (namedEngines n bits).foldl State.abortWaiting s :=
  if_neg (by
    rw [Bool.not_eq_true]
    exact List.any_eq_false.mpr fun q mem => by simpa using Option.isSome_iff_ne_none.mp (waiting q mem))

theorem qabort_of_idle {n : Nat} {bits : BitVec 3} (idle : ∃ q ∈ namedEngines n bits, s.tagWaitOf q = none) (a : Acc) :
    s.qabort a n bits = ((namedEngines n bits).foldl State.abortWaiting s).logAccess causeState a true :=
  if_pos (List.any_eq_true.mpr (idle.imp fun _ ⟨mem, none_⟩ => ⟨mem, by rw [none_]; rfl⟩))

/-! ### LDG_RELEASE (R471) -/

theorem exec_ldgReleaseSnapshot_of_reaches (h : Reaches s .hif fn 0x80020 true .ldgRelease) :
    exec (.ldgReleaseSnapshot fn) s = .next (s.ledgerRelease (accOf .hif fn 0x80020) true 0) := by
  change s.put .hif fn 0x80020 1 = _
  rw [put_of_reaches h (accOf_off_ne_dbgRelease .hif fn (by decide)) (by decide), writeOutReg_ldgRelease]
  rfl

theorem exec_ldgReleasePort_of_reaches (ports : BitVec 10) (h : Reaches s .hif fn 0x80020 true .ldgRelease) :
    exec (.ldgReleasePort fn ports) s = .next (s.ledgerRelease (accOf .hif fn 0x80020) false ports) := by
  have fits : ports.toNat * 2 ^ 16 < 2 ^ 32 := by
    have := ports.isLt
    omega
  have low : bit (ports.toNat * 2 ^ 16) 0 = false := by
    simp only [bit, decide_eq_false_iff_not]
    omega
  have high : ports.toNat * 2 ^ 16 / 2 ^ 16 = ports.toNat := Nat.mul_div_cancel _ (by decide)
  change s.put .hif fn 0x80020 (ports.toNat * 2 ^ 16) = _
  rw [put_of_reaches h (accOf_off_ne_dbgRelease .hif fn (by decide)) fits, writeOutReg_ldgRelease, low, high, BitVec.ofNat_toNat,
    BitVec.setWidth_eq]

/-- A write that names no port releases none. -/
theorem releasePorts_none (s : State) :
    (List.range 10).foldl (fun (s : State) p => if (0 : BitVec 10).getLsbD p then s.releasePort p else s) s = s := by
  simp

theorem ledgerRelease_ownerless (a : Acc) (ownerless : s.up.breachPart = 0xFF) :
    s.ledgerRelease a true 0 = { s with up := { s.up with frozen := false } } := by
  simp [State.ledgerRelease, ownerless]

theorem ledgerRelease_owned (a : Acc) (frozen : s.up.frozen = true) (owned : s.up.breachPart ≠ 0xFF) :
    s.ledgerRelease a true 0 = s.logAccess causeState a true := by
  have owned' : (s.up.breachPart.toNat != 0xFF) = true := by simpa using fun e => owned (BitVec.eq_of_toNat_eq e)
  simp [State.ledgerRelease, frozen, owned']

/-- What a release makes of a port whose domain is ON or not. -/
def Port.released (t : Port) (on : Bool) : Port :=
  if t.held then { t with held := false, forceLost := true, st := if on then .training else t.st } else t

theorem releasePort_port (s : State) (p j : Nat) :
    (s.releasePort p).port j = if j = p then (s.port p).released (s.on (22 + p)) else s.port j := by
  unfold State.releasePort Port.released
  dsimp only
  split
  · exact State.port_setPort _ _ _ _
  · split
    · next here => rw [here]
    · rfl

theorem releasePort_ports (s : State) (p : Nat) : ∃ k, s.releasePort p = { s with ports := k } := by
  unfold State.releasePort
  dsimp only
  split
  exacts [⟨_, rfl⟩, ⟨_, rfl⟩]

theorem on_ports (s : State) (k : Table Port) (d : Nat) : ({ s with ports := k } : State).on d = s.on d := rfl

/-- Ports named in a list without repetition are each released once. -/
theorem releasePorts_facts (named : Nat → Bool) : ∀ (l : List Nat) (s : State), l.Nodup →
    let t := l.foldl (fun s p => if named p then s.releasePort p else s) s
    (∀ p, t.port p = if p ∈ l ∧ named p = true then (s.port p).released (s.on (22 + p)) else s.port p) ∧
    ∃ k, t = { s with ports := k }
  | [], s, _ => ⟨fun p => by simp, _, rfl⟩
  | q :: l, s, nodup => by
    obtain ⟨fresh, nodup⟩ := List.nodup_cons.mp nodup
    obtain ⟨ports, k, rest⟩ := releasePorts_facts named l (if named q then s.releasePort q else s) nodup
    obtain ⟨j, first⟩ : ∃ j, (if named q then s.releasePort q else s) = { s with ports := j } := by
      split
      exacts [releasePort_ports s q, ⟨_, rfl⟩]
    refine ⟨fun p => (ports p).trans ?_, k, rest.trans (by rw [first])⟩
    have on : (if named q then s.releasePort q else s).on (22 + p) = s.on (22 + p) := by rw [first, on_ports]
    have port : (if named q then s.releasePort q else s).port p =
        if p = q ∧ named q = true then (s.port p).released (s.on (22 + p)) else s.port p := by
      cases named q with
      | false => simp
      | true =>
        by_cases here : p = q
        · simp [releasePort_port, here]
        · simp [releasePort_port, here]
    rw [on, port]
    by_cases here : p = q
    · subst here
      simp [fresh]
    · simp [here]

/-! ### KEY_RETRY (R305) -/

theorem exec_keyRetry_of_reaches {p : Nat} (port : p < 10) (h : Reaches s .hif fn (0x200010 + 0x10000 * p) true (.strCtrl p)) :
    exec (.keyRetry fn p) s = .next ((s.setPort p (s.port p)).keyAgain p) := by
  have fits : 2 + b2n (s.port p).wakeSend < 2 ^ 32 := by cases (s.port p).wakeSend <;> decide
  have again : bit (2 + b2n (s.port p).wakeSend) 1 = true := by cases (s.port p).wakeSend <;> rfl
  have wake : bit (2 + b2n (s.port p).wakeSend) 0 = (s.port p).wakeSend := by cases (s.port p).wakeSend <;> rfl
  change s.put .hif fn (0x200010 + 0x10000 * p) (2 + b2n (s.port p).wakeSend) = _
  rw [put_of_reaches h (accOf_off_ne_dbgRelease .hif fn (by omega)) fits, writeOutReg_strCtrl, if_pos again, wake]

theorem keyAgain_quiet {p : Nat} (st : (s.port p).st = .quiet) (enabled : (s.port p).enabled = true) :
    s.keyAgain p = s.enterKeying p :=
  if_pos (by simp [st, enabled])

theorem keyAgain_idle {p : Nat} (h : (s.port p).st ≠ .quiet ∨ (s.port p).enabled = false) : s.keyAgain p = s :=
  if_neg (by rcases h with h | h <;> simp [h])

/-! ### DBG_RELEASE (R333) -/

/-- A word write that reaches DBG_RELEASE names the masters of its low five bits. -/
theorem releaseBits_of_reaches (h : Reaches s m fn 0x500020 true .dbgRelease) (goose : m ≠ .goose) (masters : BitVec 5) :
    s.releaseBits (accOf m fn 0x500020) (BitVec.ofNat 64 masters.toNat) = masters.toNat := by
  have off := off_of_reaches_dbgRelease h
  obtain ⟨aligned, taken, path, rights, -, -⟩ := h
  have word := accOf_wholeWord aligned
  have half : (accOf m fn 0x500020).half = 0 := by rw [Acc.half, off]
  have enables0 : halfEn (enables (accOf m fn 0x500020)) 0 = 15 := half ▸ word.halfEn
  have master : ((accOf m fn 0x500020).master != .goose) = true := by simpa [accOf] using goose
  simpa [State.releaseBits, off, enables0, master, taken, path, rights, word.shapeFault, word.narrowWrite] using masters.isLt

theorem exec_dbgRelease_of_reaches (h : Reaches s m fn 0x500020 true .dbgRelease) (goose : m ≠ .goose) (masters : BitVec 5) :
    exec (.dbgRelease m fn masters) s = .next (s.releaseMasters masters.toNat) := by
  have bits := releaseBits_of_reaches h goose masters
  obtain ⟨aligned, taken, path, rights, hit, narrow⟩ := h
  have fits : masters.toNat < 2 ^ 32 := lt_trans masters.isLt (by decide)
  refine congrArg Host.Outcome.next ?_
  rw [State.writeAccess, bits, busWrite_word (accOf_wholeWord aligned) fits taken path rights hit narrow, writeOutReg_dbgRelease]

end

/-- Settles O33: each row is one write of its register, and each case of the write one lemma above. -/
theorem releaseRows : Obligations.ReleaseRows := by
  intro fn s
  refine ⟨fun n bits islet ⟨p, owner, vf⟩ h => ?_, fun h => ⟨fun _ ownerless => ?_, fun frozen owned => ?_, fun ports => ?_⟩,
    fun p port h => ?_, fun m masters goose h => exec_dbgRelease_of_reaches h goose masters⟩
  · have row := exec_islQabort_of_reaches bits islet owner vf h
    exact ⟨fun waiting => row.trans (congrArg _ (qabort_of_waiting waiting _)), fun idle => row.trans (congrArg _ (qabort_of_idle idle _))⟩
  · rw [exec_ldgReleaseSnapshot_of_reaches h, ledgerRelease_ownerless _ ownerless]
  · rw [exec_ldgReleaseSnapshot_of_reaches h, ledgerRelease_owned _ frozen owned]
  · obtain ⟨released, k, whole⟩ := releasePorts_facts (fun p => ports.getLsbD p) (List.range 10) s List.nodup_range
    refine ⟨_, exec_ldgReleasePort_of_reaches ports h, fun p port => (released p).trans ?_, ?_⟩
    · simp only [List.mem_range, port, true_and, Port.released]
      by_cases named : ports.getLsbD p = true <;> by_cases held : (s.port p).held = true <;> simp [named, held]
    · exact whole.trans (congrArg (fun k => ({ s with ports := k } : State)) (congrArg State.ports whole).symm)
  · have row := exec_keyRetry_of_reaches port h
    have same : (s.setPort p (s.port p)).port p = s.port p := State.port_setPort_same _ _ _
    exact ⟨fun st enabled => row.trans (congrArg _ (keyAgain_quiet (by rwa [same]) (by rwa [same]))),
      fun idle => row.trans (congrArg _ (keyAgain_idle (by rwa [same])))⟩

end Sys2Proof.Machine
end

section
/-! PROOF. What a flit slot sends and what link control does where it arrives, and the statement about them (O51). -/

namespace Sys2Proof.Machine

open Sys2Proof.Claims

/-! ### What a flit slot sends (R296, R298, R299, R301, R305) -/

section
variable {s : State} {p : Nat} {f : Flit} {rest : List Flit}

theorem exec_flitSlot_up (st : (s.port p).st = .up) : exec (.flitSlot p) s = .next ((s.upSlot p).trySleep p) := by
  change execFlitSlot p s = _
  simp only [execFlitSlot, st]

theorem exec_flitSlot_keying (st : (s.port p).st = .keying) : exec (.flitSlot p) s = .next (s.keyingSlot p) := by
  change execFlitSlot p s = _
  simp only [execFlitSlot, st]

theorem exec_flitSlot_quiet (st : (s.port p).st = .quiet) (none_ : (s.port p).keying.txq = []) :
    exec (.flitSlot p) s = .next (s.emit (.hold p)) := by
  change execFlitSlot p s = _
  simp [execFlitSlot, st, none_]

theorem exec_flitSlot_training (st : (s.port p).st = .training) (off : (s.port p).enabled = false) :
    exec (.flitSlot p) s = .next (s.emit (.hold p)) := by
  change execFlitSlot p s = _
  simp [execFlitSlot, st, off]

theorem upSlot_ctl (ctl : (s.port p).ctl = f :: rest) :
    s.upSlot p = (s.setPort p { s.port p with ctl := rest }).stampSend p f := by
  simp only [State.upSlot, ctl]

theorem upSlot_resend {w : Waiting} {rest : List Waiting} (ctl : (s.port p).ctl = []) (resend : (s.port p).resend = w :: rest) :
    s.upSlot p = (s.setPort p { s.port p with resend := rest }).stampSend p w.flit := by
  simp only [State.upSlot, ctl, resend]

theorem upSlot_pick {x : Waiting} {i : Nat} (ctl : (s.port p).ctl = []) (resend : (s.port p).resend = [])
    (pick : (s.port p).pick = some (x, i)) : s.upSlot p = s.sendPicked p x i := by
  simp only [State.upSlot, ctl, resend, pick]

theorem upSlot_idle (ctl : (s.port p).ctl = []) (resend : (s.port p).resend = []) (pick : (s.port p).pick = none) :
    s.upSlot p = s.stampSend p (s.ctlFlit 0) := by
  simp only [State.upSlot, ctl, resend, pick]
  rfl

theorem keyingSlot_ctl (ctl : (s.port p).ctl = f :: rest) :
    s.keyingSlot p = (s.setPort p { s.port p with ctl := rest }).stampSend p f := by
  simp only [State.keyingSlot, ctl]

theorem keyingSlot_resend (ctl : (s.port p).ctl = []) (resend : (s.port p).keying.resend = f :: rest) :
    s.keyingSlot p = (s.setPort p { s.port p with keying := { (s.port p).keying with resend := rest } }).stampSend p f := by
  simp only [State.keyingSlot, ctl, resend]

/-- With nothing else to send, the exchange goes on. -/
theorem keyingSlot_exchange (ctl : (s.port p).ctl = []) (resend : (s.port p).keying.resend = []) :
    let k := (s.port p).keying
    s.keyingSlot p =
      if k.txq ≠ [] ∧ 0 < k.credit.held then s.sendKeyFlit p
      else if k.syncDue = true ∧ k.txq = [] ∧ k.replay = [] then s.sendSync p
      else s.stampSend p (s.ctlFlit 0) := by
  simp only [State.keyingSlot, ctl, resend]
  simp [typIdle, and_assoc]

/-! ### What a sent flit carries (R290, R296) -/

theorem stampSend_out (s : State) (p : Nat) (f : Flit) :
    (s.stampSend p f).out = .flit p (((s.port p).stamp f).2.wire ((s.port p).stamp f).1) :: s.out := rfl

theorem stamp_keeps (t : Port) (f : Flit) :
    (t.stamp f).1.typ = f.typ ∧ (t.stamp f).1.seq = f.seq ∧ (t.stamp f).1.body = f.body := by
  unfold Port.stamp
  split
  · split <;> exact ⟨rfl, rfl, rfl⟩
  · exact ⟨rfl, rfl, rfl⟩

@[simp] theorem credit_setCredit_same (t : Port) (v : Nat) (c : Credit) : (t.setCredit v c).credit v = c := Table.get_set_same _ _ _ _

/-- In UP a flit acknowledges what has come, and the credits it returns are no longer owed. -/
theorem stamp_up {t : Port} (st : t.st = .up) (f : Flit) :
    let x := t.stamp f
    x.1.ack = seqOf t.rxSeq ∧ (t.credit x.1.crVc.toNat).back = (x.2.credit x.1.crVc.toNat).back + x.1.crCount.toNat := by
  have live : (t.st == .up || t.keying.syncSent) = true := by simp [st]
  unfold Port.stamp
  rw [if_pos live]
  cases owed : t.toReturn with
  | none => exact ⟨rfl, rfl⟩
  | some v =>
    have channel : (BitVec.ofNat 2 v).toNat = v := by
      have := List.mem_range.mp (List.mem_of_find?_eq_some owed)
      rw [BitVec.toNat_ofNat]
      omega
    have low := Nat.min_le_left 255 (t.credit v).back
    have high := Nat.min_le_right 255 (t.credit v).back
    have count : (BitVec.ofNat 8 (Nat.min 255 (t.credit v).back)).toNat = Nat.min 255 (t.credit v).back := by
      rw [BitVec.toNat_ofNat]
      exact Nat.mod_eq_of_lt (Nat.lt_succ_of_le low)
    refine ⟨rfl, ?_⟩
    dsimp only
    rw [channel, count, credit_setCredit_same]
    exact (Nat.sub_add_cancel high).symm

end

/-! ### The flit that a slot takes (R296, R298, R312, R328) -/

theorem eligible_iff (t : Port) (x : Waiting) :
    t.eligible x = true ↔ t.st = .up ∧ (x.sleep = true ∨ (t.sleepTo = none ∧ t.draining = none)) ∧
      0 < (t.credit x.flit.vc.toNat).held ∧ t.replay.length < 256 := by
  simp only [Port.eligible, Port.starts, Bool.and_eq_true, Bool.or_eq_true, beq_iff_eq, Option.isNone_iff_eq_none, decide_eq_true_eq]
  tauto

/-- `y` is the earliest of the flits of the highest effective QoS in `l`. -/
structure Best (l : List (Waiting × Nat)) (y : Waiting × Nat) : Prop where
  mem : y ∈ l
  highest : ∀ z ∈ l, z.1.qos ≤ y.1.qos
  first : ∀ z ∈ l, z.1.qos = y.1.qos → y.2 ≤ z.2

theorem bestWaiting_eq_none_iff (l : List (Waiting × Nat)) : bestWaiting l = none ↔ l = [] := by
  cases l with
  | nil => simp [bestWaiting]
  | cons x rest =>
    unfold bestWaiting
    split
    · simp
    · split <;> simp

/-- `bestWaiting` finds it in a list in the order of its positions. -/
theorem best_of_bestWaiting {l : List (Waiting × Nat)} (sorted : l.Pairwise (fun a b => a.2 < b.2)) {y : Waiting × Nat}
    (h : bestWaiting l = some y) : Best l y := by
  induction l generalizing y with
  | nil => cases h
  | cons x rest ih =>
    obtain ⟨later, sorted⟩ := List.pairwise_cons.mp sorted
    unfold bestWaiting at h
    cases best : bestWaiting rest with
    | none =>
      rw [best] at h
      cases h
      rw [(bestWaiting_eq_none_iff rest).mp best]
      exact ⟨by simp, by simp, by simp⟩
    | some z =>
      obtain ⟨mem, highest, first⟩ := ih sorted best
      rw [best] at h
      dsimp only at h
      split at h
      · next le =>
        cases h
        exact ⟨by simp, List.forall_mem_cons.mpr ⟨le_rfl, fun w hw => (highest w hw).trans le⟩,
          List.forall_mem_cons.mpr ⟨fun _ => le_rfl, fun w hw _ => (later w hw).le⟩⟩
      · next gt =>
        cases h
        exact ⟨List.mem_cons_of_mem x mem, List.forall_mem_cons.mpr ⟨(Nat.lt_of_not_le gt).le, highest⟩,
          List.forall_mem_cons.mpr ⟨fun same => absurd same.ge gt, first⟩⟩

section
variable (t : Port)

/-- The eligible flits with their positions in the queue. -/
def Port.candidates : List (Waiting × Nat) := t.txq.zipIdx.filter (fun x => t.eligible x.1)

theorem mem_candidates {x : Waiting} {i : Nat} : (x, i) ∈ t.candidates ↔ t.txq[i]? = some x ∧ t.eligible x = true := by
  rw [Port.candidates, List.mem_filter, List.mk_mem_zipIdx_iff_getElem?]

theorem candidates_sorted : t.candidates.Pairwise (fun a b => a.2 < b.2) := by
  refine List.Pairwise.filter _ (List.pairwise_map.mp ?_)
  rw [List.zipIdx_map_snd]
  exact List.pairwise_lt_range'

theorem pick_eq_some_iff_best (y : Waiting × Nat) : t.pick = some y ↔ Best t.candidates y := by
  refine ⟨best_of_bestWaiting (candidates_sorted t), fun best => ?_⟩
  cases h : t.pick with
  | none =>
    have empty : t.candidates = [] := (bestWaiting_eq_none_iff _).mp h
    have mem := best.mem
    rw [empty] at mem
    cases mem
  | some z =>
    have found : Best t.candidates z := best_of_bestWaiting (candidates_sorted t) h
    have same : z.2 = y.2 :=
      have qos := le_antisymm (best.highest z found.mem) (found.highest y best.mem)
      le_antisymm (found.first y best.mem qos.symm) (best.first z found.mem qos)
    have here := ((mem_candidates t).mp found.mem).1
    rw [same, ((mem_candidates t).mp best.mem).1] at here
    exact congrArg some (Prod.ext (Option.some.inj here).symm same)

theorem pick_eq_some_iff (x : Waiting) (i : Nat) :
    t.pick = some (x, i) ↔ t.txq[i]? = some x ∧ t.eligible x = true ∧
      ∀ (j : Nat) (y : Waiting), t.txq[j]? = some y → t.eligible y = true → y.qos ≤ x.qos ∧ (y.qos = x.qos → i ≤ j) := by
  rw [pick_eq_some_iff_best]
  constructor
  · rintro ⟨mem, highest, first⟩
    obtain ⟨here, eligible⟩ := (mem_candidates t).mp mem
    exact ⟨here, eligible, fun j y there ok =>
      have mem := (mem_candidates t).mpr ⟨there, ok⟩
      ⟨highest _ mem, first _ mem⟩⟩
  · rintro ⟨here, eligible, best⟩
    have best' (z : Waiting × Nat) (mem : z ∈ t.candidates) := (mem_candidates t (x := z.1) (i := z.2)).mp mem
    exact ⟨(mem_candidates t).mpr ⟨here, eligible⟩, fun z mem => (best _ _ (best' z mem).1 (best' z mem).2).1,
      fun z mem => (best _ _ (best' z mem).1 (best' z mem).2).2⟩

theorem pick_eq_none_iff : t.pick = none ↔ ∀ y, y ∈ t.txq → t.eligible y = false := by
  refine (bestWaiting_eq_none_iff t.candidates).trans ?_
  rw [Port.candidates, List.filter_eq_nil_iff]
  constructor
  · intro h y mem
    obtain ⟨i, here⟩ := List.mem_iff_getElem?.mp mem
    exact Bool.eq_false_iff.mpr (h (y, i) (List.mk_mem_zipIdx_iff_getElem?.mpr here))
  · intro h x mem
    exact Bool.eq_false_iff.mp (h x.1 (List.mem_of_getElem? (List.mk_mem_zipIdx_iff_getElem?.mp mem)))

end

/-! ### What arrives (R291, R298, R299, R302) -/

section
variable {s : State} {p typ : Nat} {raw : List Byte}

/-- A link-control flit is received by its row. -/
theorem carries_controlReceive {c : Instr} (h : Carries p raw typ c) (control : ¬ 8 < typ) :
    ∃ k, exec c s = s.controlReceive p typ raw k := by
  cases h with
  | idle => exact ⟨_, execIdleReceive.eq_def p raw s⟩
  | probe => exact ⟨_, execProbeReceive.eq_def p raw s⟩
  | echo ns => exact ⟨_, execProbeEchoReceive.eq_def p raw ns s⟩
  | nak => exact ⟨_, execNakReceive.eq_def p raw s⟩
  | sync m => exact ⟨_, execCreditSync.eq_def p raw m s⟩
  | _ => omega

theorem controlReceive_of_alive (arrives : s.arrives p typ raw = true) (enabled : (s.port p).enabled = true)
    (alive : (s.port p).alive = true) (k : Flit → State → State) :
    s.controlReceive p typ raw k = .next (k (readFlit raw) (s.takeHeader p (readFlit raw))) := by
  rw [controlReceive_next, arrives, enabled, alive]
  rfl

theorem controlReceive_of_disabled (arrives : s.arrives p typ raw = true) (off : (s.port p).enabled = false)
    (k : Flit → State → State) : s.controlReceive p typ raw k = .next (s.rxDiscard p) := by
  rw [controlReceive_next, arrives, off]
  rfl

theorem linkReceive_of_disabled (arrives : s.arrives p typ raw = true) (off : (s.port p).enabled = false)
    (k : Flit → State → State) : s.linkReceive p typ raw k = .next (s.rxDiscard p) := by
  rw [linkReceive_arrives _ _ _ _ _ arrives, State.receive, off]
  rfl

theorem keyReceive_of_disabled (arrives : s.arrives p 8 raw = true) (off : (s.port p).enabled = false) (k : State → State) :
    s.keyReceive p [raw] k = .next (s.rxDiscard p) := by
  have come : s.arrives p typKey raw = true := arrives
  simp [State.keyReceive, come, off]

theorem admitted_of_disabled (off : (s.port p).enabled = false) : s.admitted p raw = none := by
  simp [State.admitted, off]

/-- Whatever arrives before the port is enabled is discarded and counted (R302). -/
theorem carries_of_disabled {c : Instr} (h : Carries p raw typ c) (arrives : s.arrives p typ raw = true)
    (off : (s.port p).enabled = false) : exec c s = .next (s.rxDiscard p) := by
  by_cases channel : 8 < typ
  · obtain ⟨k, run⟩ := carries_linkReceive (s := s) h channel
    rw [run (by simp [admitted_of_disabled off]), linkReceive_of_disabled arrives off]
  · obtain ⟨k, run⟩ := carries_controlReceive (s := s) h channel
    rw [run, controlReceive_of_disabled arrives off]

theorem keys_of_disabled (arrives : s.arrives p 8 raw = true) (off : (s.port p).enabled = false) (m : KeyMsg) :
    ∀ c ∈ [Instr.helloI p [raw] m, .helloR p [raw] m, .finishI p [raw] m, .finishR p [raw] m, .keyRefused p [raw]],
      exec c s = .next (s.rxDiscard p) := by
  have hello : exec (.helloI p [raw] m) s = .next (s.rxDiscard p) := by
    change execHelloI p [raw] m s = _
    simp only [execHelloI, off, Bool.false_and, Bool.false_eq_true, if_false]
    exact keyReceive_of_disabled arrives off _
  have row (c : Instr) (k : State → State) (h : exec c s = s.keyReceive p [raw] k) : exec c s = .next (s.rxDiscard p) :=
    h.trans (keyReceive_of_disabled arrives off k)
  simp only [List.forall_mem_cons, List.not_mem_nil, false_implies, implies_true, and_true]
  exact ⟨hello, row (.helloR p [raw] m) _ (execHelloR.eq_def p [raw] m s), row (.finishI p [raw] m) _ (execFinishI.eq_def p [raw] m s),
    row (.finishR p [raw] m) _ (execFinishR.eq_def p [raw] m s),
    row (.keyRefused p [raw]) _ (execKeyRefused.eq_def p [raw] s)⟩

theorem exec_idleReceive (arrives : s.arrives p 0 raw = true) (enabled : (s.port p).enabled = true)
    (alive : (s.port p).alive = true) : exec (.idleReceive p raw) s = .next (s.takeHeader p (readFlit raw)) := by
  change s.controlReceive p 0 raw (fun _ t => t) = _
  rw [controlReceive_of_alive arrives enabled alive]

theorem exec_probeReceive (arrives : s.arrives p 1 raw = true) (enabled : (s.port p).enabled = true)
    (alive : (s.port p).alive = true) :
    exec (.probeReceive p raw) s = .next ((s.takeHeader p (readFlit raw)).sendCtl p 2) := by
  change s.controlReceive p 1 raw (fun _ t => t.sendCtl p 2) = _
  rw [controlReceive_of_alive arrives enabled alive]

theorem exec_probeEchoReceive (arrives : s.arrives p 2 raw = true) (enabled : (s.port p).enabled = true)
    (alive : (s.port p).alive = true) (ns : Nat) :
    let t := s.takeHeader p (readFlit raw)
    exec (.probeEchoReceive p raw ns) s = .next (if (t.port p).probeAt = none then t
      else t.setPort p { t.port p with probeAt := none, rtt := BitVec.ofNat 16 (Nat.min 0xFFFF ns) }) := by
  intro t
  change execProbeEchoReceive p raw ns s = _
  have row := controlReceive_of_alive arrives enabled alive (fun _ s =>
    if (s.port p).probeAt.isSome then
      s.setPort p { s.port p with probeAt := none, rtt := BitVec.ofNat 16 (Nat.min 0xFFFF ns) } else s)
  refine row.trans (congrArg Host.Outcome.next ?_)
  dsimp only
  cases ((s.takeHeader p (readFlit raw)).port p).probeAt with
  | none => rfl
  | some x => rfl

/-- Which NAK for this SEQ an arriving one is. -/
def Port.naks (u : Port) (f : Flit) : Nat := if u.nakCount ≠ 0 ∧ u.nakSeq = f.ack then u.nakCount + 1 else 1

/-- What a NAK does once its header is taken (R298). -/
theorem exec_nakReceive (arrives : s.arrives p 3 raw = true) (enabled : (s.port p).enabled = true) (alive : (s.port p).alive = true) :
    let t := s.takeHeader p (readFlit raw)
    let u := t.port p
    let n := u.naks (readFlit raw)
    exec (.nakReceive p raw) s = .next (
      if !u.alive then t
      else if 8 ≤ n then (t.setPort p { u with nakCount := 0 }).retrain p causeNakLimit
      else if u.st == .up then t.setPort p { u with nakSeq := (readFlit raw).ack, nakCount := n, resend := u.replay }
      else t.setPort p { u with nakSeq := (readFlit raw).ack, nakCount := n,
                                keying := { u.keying with resend := u.keying.replay } }) := by
  change execNakReceive p raw s = _
  rw [execNakReceive]
  exact controlReceive_of_alive arrives enabled alive _

theorem hears_of_alive (alive : (s.port p).alive = true) : (s.port p).hears = true := by
  rw [Port.hears, alive, Bool.true_or]

theorem exec_flitCrcFailure_corrupt (enabled : (s.port p).enabled = true) (alive : (s.port p).alive = true)
    (corrupt : crcOk raw = false) : exec (.flitCrcFailure p raw) s = .next (s.sendCtl p 3) := by
  change execFlitCrcFailure p raw s = _
  simp [execFlitCrcFailure, hears_of_alive alive, corrupt, enabled, alive, typNak]

theorem exec_flitCrcFailure_reserved (enabled : (s.port p).enabled = true) (alive : (s.port p).alive = true)
    (whole : crcOk raw = true) (reserved : rawType raw ∉ flitTypes) : exec (.flitCrcFailure p raw) s = .next (s.rxDiscard p) := by
  change execFlitCrcFailure p raw s = _
  simp [execFlitCrcFailure, hears_of_alive alive, whole, reserved, enabled, alive]

theorem exec_flitCrcFailure_disabled (off : (s.port p).enabled = false) (hears : (s.port p).hears = true)
    (fails : crcOk raw = false ∨ rawType raw ∉ flitTypes) : exec (.flitCrcFailure p raw) s = .next (s.rxDiscard p) := by
  change execFlitCrcFailure p raw s = _
  rcases fails with h | h <;> simp [execFlitCrcFailure, hears, h, off]

theorem exec_probeSend (alive : (s.port p).alive = true) (idle : (s.port p).probeAt = none) :
    let v := s.advanceTo ((s.port p).lastProbe + 6400)
    exec (.probeSend p) s = .next ((v.setPort p { s.port p with probeAt := some v.time, lastProbe := v.time }).sendCtl p 1) :=
  if_neg (by simp [alive, idle])

/-! ### Acknowledgement and credits (R296, R298) -/

theorem trySleep_port (s : State) (p : Nat) : ∃ a q, (s.trySleep p).port p = { s.port p with acking := a, txq := q } := by
  unfold State.trySleep
  dsimp only
  split
  · exact ⟨_, _, rfl⟩
  · split
    · exact ⟨_, _, by rw [State.sleepNote, State.port_setPort_same, State.port_setPort_same]⟩
    · exact ⟨_, _, rfl⟩

theorem takeCredits_port {f : Flit} (h : f.crCount.toNat = 0 ∨
    ((s.port p).credit f.crVc.toNat).held + f.crCount.toNat ≤ ((s.port p).credit f.crVc.toNat).granted) :
    ∃ c, (s.takeCredits p f).port p = { s.port p with credits := c } ∧
      (((s.takeCredits p f).port p).credit f.crVc.toNat).held = ((s.port p).credit f.crVc.toNat).held + f.crCount.toNat := by
  unfold State.takeCredits
  dsimp only
  split
  · next none_ => exact ⟨_, rfl, by rw [none_, Nat.add_zero]⟩
  · next some_ =>
    rw [if_neg (Nat.not_lt.mpr (h.resolve_left some_)), State.port_setPort_same]
    exact ⟨_, rfl, by rw [credit_setCredit_same]⟩

theorem takeHeader_up {f : Flit} (st : (s.port p).st = .up) (h : f.crCount.toNat = 0 ∨
    ((s.port p).credit f.crVc.toNat).held + f.crCount.toNat ≤ ((s.port p).credit f.crVc.toNat).granted) :
    let u := (s.takeHeader p f).port p
    u.replay = (s.port p).replay.filter (fun w => seqAfter w.flit.seq f.ack) ∧
    (u.credit f.crVc.toNat).held = ((s.port p).credit f.crVc.toNat).held + f.crCount.toNat := by
  let v := s.setPort p { (s.port p).ackTo f.ack with heard := s.time, holdSeen := false }
  have port : v.port p = { (s.port p).ackTo f.ack with heard := s.time, holdSeen := false } := State.port_setPort_same _ _ _
  have credit : (v.port p).credit f.crVc.toNat = (s.port p).credit f.crVc.toNat := by
    rw [port]
    rfl
  have taken : s.takeHeader p f = (v.takeCredits p f).trySleep p := if_pos (by rw [st]; rfl)
  obtain ⟨c, credits, held⟩ := takeCredits_port (s := v) (p := p) (f := f) (by rwa [credit])
  obtain ⟨a, q, slept⟩ := trySleep_port (v.takeCredits p f) p
  intro u
  have final : u = { (v.takeCredits p f).port p with acking := a, txq := q } := (congrArg (State.port · p) taken).trans slept
  constructor
  · rw [final, credits, port]
    rfl
  · rw [final, ← credit]
    exact held

end

/-- Settles O51: a slot by its port's state, the pick as the earliest best of the eligible flits, and each arrival by its row. -/
theorem linkControl : Obligations.LinkControl := by
  refine ⟨⟨fun p s => ⟨fun st => ?_, fun st => ?_, exec_flitSlot_quiet, exec_flitSlot_training, fun f => ?_⟩, fun t => ?_⟩, ?_, ?_⟩
  · rw [exec_flitSlot_up st]
    exact ⟨fun f rest ctl => by rw [upSlot_ctl ctl], fun w rest ctl resend => by rw [upSlot_resend ctl resend],
      fun x i ctl resend pick => by rw [upSlot_pick ctl resend pick], fun ctl resend pick => by rw [upSlot_idle ctl resend pick]⟩
  · rw [exec_flitSlot_keying st]
    refine ⟨fun f rest ctl => by rw [keyingSlot_ctl ctl], fun f rest ctl resend => by rw [keyingSlot_resend ctl resend],
      fun ctl resend => ?_⟩
    rw [keyingSlot_exchange ctl resend]
    refine ⟨fun more credit => by rw [if_pos ⟨more, credit⟩], fun sent due acked => ?_, fun none_ idle => ?_⟩
    · rw [if_neg (fun h => h.1 sent), if_pos ⟨due, sent, acked⟩]
    · rw [if_neg (fun h => none_.elim h.1 h.2.ne'), if_neg (fun h => idle ⟨h.2.1, h.1, h.2.2⟩)]
  · obtain ⟨typ, seq, body⟩ := stamp_keeps (s.port p) f
    exact ⟨stampSend_out s p f, typ, seq, body, fun st => stamp_up st f⟩
  · exact ⟨eligible_iff t, pick_eq_some_iff t, pick_eq_none_iff t⟩
  · intro p raw s enabled alive f t u
    refine ⟨fun arrives => exec_idleReceive arrives enabled alive, fun arrives => exec_probeReceive arrives enabled alive,
      fun ns arrives => exec_probeEchoReceive arrives enabled alive ns, fun arrives => ?_, exec_flitCrcFailure_corrupt enabled alive,
      exec_flitCrcFailure_reserved enabled alive, fun st => takeHeader_up (f := f) st, exec_probeSend alive⟩
    have row := exec_nakReceive arrives enabled alive
    have notDead (live : u.alive = true) : ¬ (!u.alive) = true := by simp [live]
    refine ⟨fun dead => ?_, fun alive many => ?_, fun st few => ?_, fun st few => ?_⟩
    · exact row.trans (congrArg _ (if_pos (by rw [dead]; rfl)))
    · exact row.trans (congrArg _ ((if_neg (notDead alive)).trans (if_pos many)))
    · have live : u.alive = true := by simp [Port.alive, st]
      exact row.trans (congrArg _ ((if_neg (notDead live)).trans ((if_neg (Nat.not_le.mpr few)).trans (if_pos (by rw [st]; rfl)))))
    · have live : u.alive = true := by simp [Port.alive, st]
      exact row.trans (congrArg _ ((if_neg (notDead live)).trans ((if_neg (Nat.not_le.mpr few)).trans (if_neg (by rw [st]; decide)))))
  · intro p raw s off hears d
    exact ⟨fun typ c h arrives => carries_of_disabled h arrives off, exec_flitCrcFailure_disabled off hears,
      fun arrives m => keys_of_disabled arrives off m⟩

end Sys2Proof.Machine
end

section
/-! PROOF. The opening and closing of windows and the grants of their sources, and the statement about them (O55). -/

namespace Sys2Proof.Machine

open Sys2Proof.Claims

/-! ### The fields of WINDOW_OPEN (R314, R315) -/

/-- The fields of a WINDOW_OPEN on ring `q` are in order. -/
structure OpenFields (s : State) (q : Nat) (e : List Byte) : Prop where
  window : leAt e 24 1 < 16
  isNew : (s.win (q - 48) (leAt e 24 1)).isOpen = false
  kind : leAt e 25 1 < 4
  bound : bit (leAt e 25 1) 0 = true → bit (leAt e 25 1) 1 = true ∧ (s.part (q - 48)).loaded = true
  die : leAt e 26 1 < 64
  member : bit (leAt e 25 1) 0 = false → leAt e 26 1 ≠ s.die →
    s.mgt.machineMode = true ∧ s.mgt.machineMask.getLsbD (leAt e 26 1) = true
  part : leAt e 27 1 < 16
  rest28 : (reservedBad e 28 32).2 = false
  aligned : leAt e 32 6 % 8 = 0
  apart : ∀ j, j < 16 → j ≠ leAt e 24 1 → (s.win (q - 48) j).isOpen = true →
    (s.win (q - 48) j).base.toNat + (s.win (q - 48) j).size.toNat ≤ leAt e 32 6 ∨
      leAt e 32 6 + leAt e 40 6 ≤ (s.win (q - 48) j).base.toNat
  rest38 : (reservedBad e 38 40).2 = false
  some_ : leAt e 40 6 ≠ 0
  units : leAt e 40 6 % 8 = 0
  rest46 : (reservedBad e 46 48).2 = false
  limited : leAt e 48 6 ≠ 0
  rest54 : (reservedBad e 54 64).2 = false

/-- An open window of the partition shares an address with the one that the entry asks for. -/
def State.windowOverlaps (s : State) (q : Nat) (e : List Byte) : Bool :=
  (List.range 16).any (fun k =>
    let y := s.win (q - 48) k
    k != leAt e 24 1 % 16 && y.isOpen && decide (leAt e 32 6 < y.base.toNat + y.size.toNat)
      && decide (y.base.toNat < leAt e 32 6 + leAt e 40 6))

/-- The field checks of WINDOW_OPEN. -/
def State.windowChecks (s : State) (q : Nat) (e : List Byte) : List (Nat × Bool) :=
  let binding := bit (leAt e 25 1) 0
  [ (24, decide (leAt e 24 1 / 16 ≠ 0) || (s.win (q - 48) (leAt e 24 1 % 16)).isOpen),
    (25, decide (leAt e 25 1 / 4 ≠ 0) || (binding && (!bit (leAt e 25 1) 1 || !(s.part (q - 48)).loaded))),
    (26, decide (leAt e 26 1 / 64 ≠ 0)
          || (!binding && leAt e 26 1 % 64 != s.die && (!s.mgt.machineMode || !s.mgt.machineMask.getLsbD (leAt e 26 1 % 64)))),
    (27, decide (leAt e 27 1 / 16 ≠ 0)), reservedBad e 28 32,
    (32, decide (leAt e 32 6 % 8 ≠ 0) || s.windowOverlaps q e), reservedBad e 38 40,
    (40, leAt e 40 6 == 0 || decide (leAt e 40 6 % 8 ≠ 0)), reservedBad e 46 48,
    (48, leAt e 48 6 == 0), reservedBad e 54 64 ]

section
variable {s : State} {q : Nat} {e : List Byte}

theorem OpenFields.not_overlaps (h : OpenFields s q e) : s.windowOverlaps q e = false := by
  refine List.any_eq_false.mpr fun j mem hits => ?_
  have j16 := List.mem_range.mp mem
  simp only [Bool.and_eq_true, bne_iff_ne, decide_eq_true_eq, Nat.mod_eq_of_lt h.window] at hits
  obtain ⟨⟨⟨other, isOpen⟩, below⟩, above⟩ := hits
  rcases h.apart j j16 other isOpen with far | far <;> omega

theorem OpenFields.clean (h : OpenFields s q e) : Clean (s.windowChecks q e) := by
  have w := Nat.mod_eq_of_lt h.window
  have d := Nat.mod_eq_of_lt h.die
  simp only [State.windowChecks, clean_cons, clean_nil, and_true, w, d, h.not_overlaps]
  refine ⟨?_, ?_, ?_, ?_, h.rest28, ?_, h.rest38, ?_, h.rest46, ?_, h.rest54⟩
  · simpa [h.isNew] using h.window
  · have kind := h.kind
    cases binding : bit (leAt e 25 1) 0 with
    | false => simpa using kind
    | true => simpa [h.bound binding] using kind
  · have die := h.die
    cases binding : bit (leAt e 25 1) 0 with
    | true => simpa using die
    | false =>
      by_cases here : leAt e 26 1 = s.die
      · simpa [here] using here ▸ die
      · simpa [h.member binding here] using die
  · simpa using h.part
  · simp [h.aligned]
  · simp [h.some_, h.units]
  · simp [h.limited]

end

/-! ### Where a window may lie (R314, R315) -/

/-- A scratchpad window passes the end of its scratchpad. -/
def windowPast (e : List Byte) : Bool :=
  match placeOf (leAt e 32 6) with
  | .scratch _ o => bit (leAt e 25 1) 1 && decide (spSize < o + leAt e 40 6)
  | _ => false

/-- A scratchpad window covers a square that is not free-running. -/
def State.windowHeld (s : State) (e : List Byte) : Bool :=
  match placeOf (leAt e 32 6) with
  | .scratch k o => bit (leAt e 25 1) 1 && (rangeSquares o (leAt e 40 6)).any (fun x => !(s.islet k).free.getLsbD x)
  | _ => false

/-- The partition owns the memory of the window. -/
def State.windowRights (s : State) (q : Nat) (e : List Byte) : Bool :=
  match placeOf (leAt e 32 6) with
  | .scratch k _ => bit (leAt e 25 1) 1 && decide (s.isletOwner k = some (q - 48))
  | .hbm a => !bit (leAt e 25 1) 1 && s.ownsHbm (q - 48) a (leAt e 40 6) && !s.touchesFrozen a (leAt e 40 6)
  | _ => false

section
variable {s : State} {q : Nat} {e : List Byte}

theorem windowPast_iff :
    windowPast e = true ↔ bit (leAt e 25 1) 1 = true ∧ ∃ n o, placeOf (leAt e 32 6) = .scratch n o ∧ spSize < o + leAt e 40 6 := by
  unfold windowPast
  cases placeOf (leAt e 32 6) <;> simp

theorem windowHeld_iff :
    s.windowHeld e = true ↔ bit (leAt e 25 1) 1 = true ∧ ∃ n o, placeOf (leAt e 32 6) = .scratch n o ∧
      ∃ x, x ∈ rangeSquares o (leAt e 40 6) ∧ (s.islet n).free.getLsbD x = false := by
  unfold State.windowHeld
  cases placeOf (leAt e 32 6) <;> simp

theorem windowRights_iff :
    s.windowRights q e = true ↔
      (bit (leAt e 25 1) 1 = true ∧ ∃ n o, placeOf (leAt e 32 6) = .scratch n o ∧ s.isletOwner n = some (q - 48)) ∨
      (bit (leAt e 25 1) 1 = false ∧ ∃ a, placeOf (leAt e 32 6) = .hbm a ∧ s.ownsHbm (q - 48) a (leAt e 40 6) = true ∧
        s.touchesFrozen a (leAt e 40 6) = false) := by
  unfold State.windowRights
  cases placeOf (leAt e 32 6) <;> simp [and_assoc]

/-! ### WINDOW_OPEN (R314 to R316) -/

/-- The window that the entry asks for. -/
def askedWindow (e : List Byte) : Window :=
  { isOpen := true, binding := bit (leAt e 25 1) 0, scratch := bit (leAt e 25 1) 1, srcDie := BitVec.ofNat 6 (leAt e 26 1),
    srcPart := BitVec.ofNat 4 (leAt e 27 1), base := BitVec.ofNat 48 (leAt e 32 6), size := BitVec.ofNat 48 (leAt e 40 6),
    limit := BitVec.ofNat 48 (leAt e 48 6) }

/-- The grant that its source takes. -/
def askedGrant (e : List Byte) : Grant :=
  { present := true, srcPart := leAt e 27 1, scratch := bit (leAt e 25 1) 1, base := leAt e 32 6, size := leAt e 40 6,
    limit := leAt e 48 6 }

/-- What a WINDOW_OPEN that may be done does: the window opens, at once with its grant where this die is the source, or after the source
die has the grant. -/
def State.openAsked (s : State) (q : Nat) (e : List Byte) : State :=
  let p := q - 48
  let w := leAt e 24 1
  let d := leAt e 26 1
  let g := askedGrant e
  if bit (leAt e 25 1) 0 then (s.setWin p w (askedWindow e)).mgmtDone q 0
  else if d = s.die then
    ({ s.setWin p w (askedWindow e) with grants := Table.set {} s.grants (grantKey d p w) g } : State).mgmtDone q 0
  else (s.sendNote d .grant [s.die, p, w, g.srcPart, b2n g.scratch, g.base, g.size, g.limit]).mgmtWait q [w, d]

variable {r : Run}

/-- With its fields in order, a WINDOW_OPEN goes by where its window lies. -/
theorem exec_windowOpen (h : s.mgmtRun q 0x8C = some r) (fields : OpenFields s q r.entry) :
    exec (.windowOpen q) s = .next (
      if windowPast r.entry then s.mgmtMal q subExtent 32
      else if s.windowHeld r.entry then s.mgmtMal q subTag 32
      else if !s.windowRights q r.entry then s.mgmtRefuse q 0x07
      else s.openAsked q r.entry) := by
  have w := Nat.mod_eq_of_lt fields.window
  have d := Nat.mod_eq_of_lt fields.die
  have part := Nat.mod_eq_of_lt fields.part
  refine (mgmt_run q 0x8C s _ r h).trans (congrArg Host.Outcome.next ((mgmtDesc_clean fields.clean _).trans ?_))
  simp only [w, d, part, ringPart]
  rfl

theorem openAsked_binding (h : s.runAt q 0 = some r) (binding : bit (leAt e 25 1) 0 = true) :
    s.openAsked q e = ended (s.setWin (q - 48) (leAt e 24 1) (askedWindow e)) q r stDone 0 :=
  (if_pos binding).trans (mgmtDone_eq_ended (by exact h) 0)

theorem openAsked_here (h : s.runAt q 0 = some r) (die : bit (leAt e 25 1) 0 = false) (here : leAt e 26 1 = s.die) :
    s.openAsked q e = ended { s.setWin (q - 48) (leAt e 24 1) (askedWindow e) with
      grants := Table.set {} s.grants (grantKey (leAt e 26 1) (q - 48) (leAt e 24 1)) (askedGrant e) } q r stDone 0 :=
  (if_neg (by simp [die])).trans ((if_pos here).trans (mgmtDone_eq_ended (by exact h) 0))

theorem openAsked_elsewhere (h : s.runAt q 0 = some r) (die : bit (leAt e 25 1) 0 = false) (other : leAt e 26 1 ≠ s.die) :
    s.openAsked q e = waits (s.sendNote (leAt e 26 1) .grant [s.die, q - 48, leAt e 24 1, leAt e 27 1, b2n (bit (leAt e 25 1) 1), leAt e 32 6,
      leAt e 40 6, leAt e 48 6]) q r [leAt e 24 1, leAt e 26 1] :=
  (if_neg (by simp [die])).trans ((if_neg other).trans (mgmtWait_eq_waits (by exact h) _))

/-! ### WINDOW_CLOSE (R320) -/

/-- What a WINDOW_CLOSE that may be done does: the window closes, and its grant is stopped first where it has one. -/
def State.closeAsked (s : State) (q : Nat) (r : Run) (w : Nat) : State :=
  let p := q - 48
  let x := s.win p w
  let k := grantKey s.die p w
  let t := waits (s.setWin p w { x with closing := true }) q r [w]
  if x.binding then t.tryClose p w
  else if x.srcDie.toNat = s.die then
    ({ t with grants := Table.set {} s.grants k { Table.get {} s.grants k with revoking := true } } : State).settleRevokes
  else t.sendNote x.srcDie.toNat .revoke [p, w]

/-- The field checks of WINDOW_CLOSE. -/
def State.closeChecks (s : State) (q : Nat) (e : List Byte) : List (Nat × Bool) :=
  let x := s.win (q - 48) (leAt e 24 1 % 16)
  [(24, decide (leAt e 24 1 / 16 ≠ 0) || !x.isOpen || x.closing), reservedBad e 25 64]

theorem exec_windowClose (h : s.mgmtRun q 0x8D = some r) (rest : (reservedBad r.entry 25 64).2 = false)
    (window : leAt r.entry 24 1 < 16) (isOpen : (s.win (q - 48) (leAt r.entry 24 1)).isOpen = true)
    (stays : (s.win (q - 48) (leAt r.entry 24 1)).closing = false) :
    exec (.windowClose q) s = .next (s.closeAsked q r (leAt r.entry 24 1)) := by
  have w := Nat.mod_eq_of_lt window
  have clean : Clean (s.closeChecks q r.entry) := by
    simp only [State.closeChecks, clean_cons, clean_nil, and_true]
    exact ⟨by simpa [w, isOpen, stays] using window, rest⟩
  refine (mgmt_run q 0x8D s _ r h).trans (congrArg Host.Outcome.next ((mgmtDesc_clean clean _).trans ?_))
  have run := runAt_of_mgmtRun h
  simp only [w, ringPart]
  rw [mgmtWait_eq_waits (s := s.setWin (q - 48) (leAt r.entry 24 1) _) (r := r) run]
  rfl

/-- A window that is not there, or not to be closed, is a fault of the window number (log entry 13). -/
theorem exec_windowClose_bad (h : s.mgmtRun q 0x8D = some r) (rest : (reservedBad r.entry 25 64).2 = false)
    (bad : 16 ≤ leAt r.entry 24 1 ∨ (s.win (q - 48) (leAt r.entry 24 1)).isOpen = false ∨
      (s.win (q - 48) (leAt r.entry 24 1)).closing = true) :
    exec (.windowClose q) s = .next (malformed s q r subDesc 24) := by
  have fails : (decide (leAt r.entry 24 1 / 16 ≠ 0) || !(s.win (q - 48) (leAt r.entry 24 1 % 16)).isOpen ||
      (s.win (q - 48) (leAt r.entry 24 1 % 16)).closing) = true := by
    by_cases window : 16 ≤ leAt r.entry 24 1
    · have : leAt r.entry 24 1 / 16 ≠ 0 := by omega
      simp [this]
    · rw [Nat.mod_eq_of_lt (by omega)]
      rcases bad.resolve_left window with closed | closing
      · simp [closed]
      · simp [closing]
  have first : firstBad (s.closeChecks q r.entry) = some 24 := by
    rw [State.closeChecks, fails]
    simp [firstBad, rest]
  exact (mgmt_run q 0x8D s _ r h).trans (congrArg Host.Outcome.next
    ((mgmtDesc_fail s _ q 24 _ first).trans (mgmtMal_eq_malformed (runAt_of_mgmtRun h) subDesc 24)))

/-- A closing window whose sources are done ends with what they sent. -/
theorem tryClose_ends {p w : Nat} (busy : s.mgmtBusy (48 + p) 0x8D = some r) (aux : r.aux = [w]) (closing : (s.win p w).closing = true)
    (settled : (s.win p w).revoked = true ∨ (s.win p w).binding = true) (free : s.pinned p w = false) (told : s.verdictDue p w = false)
    (same : (s.win p w).sent = (s.win p w).count.toNat) :
    s.tryClose p w =
      (ended (s.setWin p w { s.win p w with isOpen := false, closing := false }) (48 + p) r stDone (s.win p w).sent).settleWindowWaits p w := by
  have run : s.runAt (48 + p) 0 = some r := ((mgmtBusy_iff s (48 + p) 0x8D r).mp busy).1
  have done : ((s.win p w).revoked || (s.win p w).binding) = true := by simpa using settled
  have go : ¬ (r.aux ≠ [w] ∨ (!(s.win p w).closing) = true ∨ (!((s.win p w).revoked || (s.win p w).binding)) = true ∨ s.pinned p w = true ∨
      s.verdictDue p w = true) := by
    rw [closing, done, free, told]
    simp [aux]
  unfold State.tryClose
  simp only [busy]
  rw [if_neg go, if_pos same, ← same,
    mgmtDone_eq_ended (s := s.setWin p w { s.win p w with isOpen := false, closing := false }) (r := r) run]

end

/-! ### GRANT, REVOKE and REVOKE_ACK (R316, R320) -/

section
variable {s : State} {p : Nat} {raw : List Byte} {f : Flit}

theorem accepted_die (h : Accepts s p 0x09 raw f) : (accepted s p f).die = s.die := by
  obtain ⟨⟨-, -, st, -, -, credits, -⟩, -⟩ := h
  obtain ⟨k, e⟩ := takeHeader_ports st credits
  rw [accepted, e]
  rfl

/-- The grant of a message. -/
def grantOf (g : GrantMsg) : Grant :=
  { present := true, srcPart := g.srcPart, scratch := g.scratch, base := g.base, size := g.size, limit := g.limit }

theorem exec_grant_source (h : Accepts s p 0x09 raw f) {g : GrantMsg} (other : g.die ≠ s.die) :
    exec (.grant p raw g) s = .next (delivered s p f (fun t =>
      ({ t with grants := Table.set {} t.grants (grantKey g.die g.part g.window) (grantOf g) } : State).sendNote g.die .granted
        [g.part, g.window])) :=
  linkReceive_acts h (if_neg ((accepted_die h).symm ▸ other))

theorem exec_grant_window (h : Accepts s p 0x09 raw f) {g : GrantMsg} {r : Run} {d : Nat} (here : g.die = s.die)
    (busy : (accepted s p f).mgmtBusy (48 + g.part) 0x8C = some r) (aux : r.aux = [g.window, d]) :
    exec (.grant p raw g) s = .next (delivered s p f (fun t =>
      ended (t.setWin g.part g.window (openedWindow r.entry)) (48 + g.part) r stDone 0)) := by
  have run : (accepted s p f).runAt (48 + g.part) 0 = some r := ((mgmtBusy_iff _ _ _ _).mp busy).1
  refine linkReceive_acts h ((if_pos ((accepted_die h).symm ▸ here)).trans ?_)
  simp only [busy]
  rw [if_pos (by rw [aux]; rfl)]
  exact mgmtDone_eq_ended (s := (accepted s p f).setWin g.part g.window (openedWindow r.entry)) run 0

variable {die part window : Nat}

theorem exec_revoke_present (h : Accepts s p 0x09 raw f) (present :
      (Table.get {} (accepted s p f).grants (grantKey die part window)).present = true) :
    let t := accepted s p f
    let k := grantKey die part window
    let g := { Table.get {} t.grants k with revoking := true }
    exec (.revoke p raw die part window) s =
      .next ((({ t with grants := Table.set {} t.grants k g } : State).settleRevokes).freeSlot p f.vc.toNat) :=
  linkReceive_acts h (if_pos present)

theorem exec_revoke_absent (h : Accepts s p 0x09 raw f) (absent :
      (Table.get {} (accepted s p f).grants (grantKey die part window)).present = false) :
    exec (.revoke p raw die part window) s =
      .next (((accepted s p f).sendNote die .revokeAck [part, window, 0]).freeSlot p f.vc.toNat) :=
  linkReceive_acts h (if_neg (by simp [absent]))

theorem exec_revokeAck_closing (h : Accepts s p 0x09 raw f) (sent : Nat)
    (die : ((accepted s p f).win part window).binding = false) (closing : ((accepted s p f).win part window).closing = true)
    (due : ((accepted s p f).win part window).revoked = false) :
    let t := accepted s p f
    let x := t.win part window
    exec (.revokeAck p raw part window sent) s =
      .next ((((t.setWin part window { x with revoked := true, sent := x.sent + sent }).tryClose part window).settleRevokes).freeSlot
        p f.vc.toNat) :=
  linkReceive_acts h ((if_neg (by simp [die])).trans (if_pos (by simp [closing, due])))

theorem exec_revokeAck_open (h : Accepts s p 0x09 raw f) (sent : Nat)
    (die : ((accepted s p f).win part window).binding = false) (isOpen : ((accepted s p f).win part window).isOpen = true)
    (stays : ((accepted s p f).win part window).closing = false) :
    exec (.revokeAck p raw part window sent) s = .next (((accepted s p f).auditSent part window sent).freeSlot p f.vc.toNat) :=
  linkReceive_acts h ((if_neg (by simp [die])).trans ((if_neg (by simp [stays])).trans (if_pos (by simp [isOpen, stays]))))

end

/-- Settles O55: WINDOW_OPEN by where its window lies and who its source is, and each message of a grant by its row. -/
theorem windows : Obligations.Windows := by
  refine ⟨fun q s r h => ?_, fun p raw f g s h => ⟨exec_grant_source h, fun r d => exec_grant_window h⟩, fun q s r h rest => ?_,
    fun s p w r busy aux => tryClose_ends busy aux, fun p die part window raw f s h => ?_⟩
  · intro e p w k d base size limit past held rights x g window isNew kind bound die member part rest28 aligned apart rest38 some_ units
      rest46 limited rest54
    have row := exec_windowOpen h ⟨window, isNew, kind, bound, die, member, part, rest28, aligned, apart, rest38, some_, units, rest46,
      limited, rest54⟩
    have run := runAt_of_mgmtRun h
    have pastIff : windowPast e = true ↔ past := windowPast_iff
    have heldIff : s.windowHeld e = true ↔ held := windowHeld_iff
    have rightsIff : s.windowRights q e = true ↔ rights := windowRights_iff
    refine ⟨fun yes => ?_, fun fits yes => ?_, fun fits free no => ?_, fun fits free yes => ?_⟩
    · exact row.trans (congrArg _ ((if_pos (pastIff.mpr yes)).trans (mgmtMal_eq_malformed run subExtent 32)))
    · exact row.trans (congrArg _ ((if_neg (mt pastIff.mp fits)).trans ((if_pos (heldIff.mpr yes)).trans
        (mgmtMal_eq_malformed run subTag 32))))
    · have none_ : s.windowRights q e = false := Bool.eq_false_iff.mpr (mt rightsIff.mp no)
      exact row.trans (congrArg _ ((if_neg (mt pastIff.mp fits)).trans ((if_neg (mt heldIff.mp free)).trans
        (if_pos (by rw [none_]; rfl)))))
    · have all : s.windowRights q e = true := rightsIff.mpr yes
      have opens : exec (.windowOpen q) s = .next (s.openAsked q e) :=
        row.trans (congrArg _ ((if_neg (mt pastIff.mp fits)).trans ((if_neg (mt heldIff.mp free)).trans
          (if_neg (by rw [all]; decide)))))
      exact ⟨fun binding => opens.trans (congrArg _ (openAsked_binding run binding)),
        fun source here => opens.trans (congrArg _ (openAsked_here run source here)),
        fun source other => opens.trans (congrArg _ (openAsked_elsewhere run source other))⟩
  · intro p w x t k
    refine ⟨fun beyond => exec_windowClose_bad h rest (.inl beyond), fun _ shut => exec_windowClose_bad h rest (.inr shut),
      fun window isOpen stays => ?_⟩
    have row := exec_windowClose h rest window isOpen stays
    refine ⟨fun binding => row.trans (congrArg _ (if_pos binding)), fun source here => ?_, fun source other => ?_⟩
    · exact row.trans (congrArg _ ((if_neg (ne_true_of_eq_false source)).trans (if_pos here)))
    · exact row.trans (congrArg _ ((if_neg (ne_true_of_eq_false source)).trans (if_neg other)))
  · exact ⟨exec_revoke_present h, exec_revoke_absent h, fun sent => exec_revokeAck_closing h sent, fun sent => exec_revokeAck_open h sent⟩

end Sys2Proof.Machine
end

section
/-! PROOF. How a link leaves UP or KEYING, trains, sleeps and wakes, and the statement about it (O53). -/

namespace Sys2Proof.Machine

open Sys2Proof.Claims

section
variable {s : State} {p : Nat}

/-! ### Leaving UP or KEYING (R299, R307, R321) -/

/-- A link of which `t` was the port goes down for `cause` and trains. -/
def State.linkLost (s : State) (p : Nat) (t : Port) (cause : Nat) : State :=
  (s.setPort p { (if cause = 4 then t.dropKeys else t).unlinked s.time with
    st := .training, retrained := true, retrCount := satInc t.retrCount }).linkDown p cause

theorem retrain_alive (alive : (s.port p).alive = true) (cause : Nat) : s.retrain p cause = s.linkLost p (s.port p) cause :=
  if_neg (by simp [alive])

/-- Time that passes leaves the ports alone. -/
theorem port_advanceTo (s : State) (x p : Nat) : (s.advanceTo x).port p = s.port p := by
  unfold State.advanceTo
  split <;> rfl

theorem retrain_later (alive : (s.port p).alive = true) (x cause : Nat) :
    (s.advanceTo x).retrain p cause = (s.advanceTo x).linkLost p (s.port p) cause := by
  rw [retrain_alive (by rwa [port_advanceTo]), port_advanceTo]

theorem exec_fecLockLoss (alive : (s.port p).alive = true) : exec (.fecLockLoss p) s = .next (s.linkLost p (s.port p) 7) :=
  congrArg Host.Outcome.next (retrain_alive alive causeFecLoss)

theorem exec_silenceTimeout (alive : (s.port p).alive = true) (awake : (s.port p).asleep = false) (heard : (s.port p).holdSeen = false) :
    exec (.silenceTimeout p) s = .next ((s.advanceTo ((s.port p).heard + 400)).linkLost p (s.port p) 1) := by
  have silent : ((s.port p).checked && !(s.port p).holdSeen) = true := by simp [Port.checked, alive, awake, heard]
  exact (if_pos silent).trans (congrArg Host.Outcome.next (retrain_later alive _ causeSilence))

theorem exec_probeTimeout (alive : (s.port p).alive = true) (awake : (s.port p).asleep = false) (heard : (s.port p).holdSeen = false)
    {x : Nat} (sent : (s.port p).probeAt = some x) :
    exec (.probeTimeout p) s = .next ((s.advanceTo (x + 400)).linkLost p (s.port p) 2) := by
  have checked : (s.port p).checked = true := by simp [Port.checked, alive, awake, heard]
  change execProbeTimeout p s = _
  simp only [execProbeTimeout, sent, checked, if_true, retrain_later alive]
  rfl

theorem exec_creditDeadline {vc : Nat} (alive : (s.port p).alive = true) (owed : 0 < ((s.port p).credit vc).back) :
    let t := s.port p
    exec (.creditDeadline p vc) s =
      .next (((s.advanceTo ((t.credit vc).freedAt + 200)).setPort p { t with creditLate := true, lateCount := satInc t.lateCount }).raiseEvent
        16 0x0303 noQueue 0 [BitVec.ofNat 8 p, BitVec.ofNat 8 vc]) :=
  if_pos (by simp [alive, owed])

/-! ### Training and enabling (R300 to R302) -/

theorem exec_holdReceive (alive : (s.port p).alive = true) :
    exec (.holdReceive p) s = .next (s.setPort p { s.port p with holdSeen := true, heard := s.time }) :=
  if_pos alive

/-- The port once its partner trains: a sleep in OFF has left nothing to resume. -/
def Port.trains (t : Port) (now : Nat) : Port :=
  { (if t.asleepOff then t.afresh else t) with
    st := .training, asleep := false, asleepOff := false, wakeAt := none, leftUp := if t.asleep then now else t.leftUp }

theorem exec_partnerTraining (on : s.on (22 + p) = true) (free : (s.port p).held = false)
    (may : (s.port p).st = .down ∨ ((s.port p).st = .quiet ∧ (s.port p).enabled = false) ∨
      ((s.port p).st = .training ∧ (s.port p).asleep = true)) :
    let u := s.setPort p ((s.port p).trains s.time)
    exec (.partnerTraining p) s = .next (if (s.port p).enabled then u else u.emit (.hold p)) := by
  have go : (s.on (22 + p) && !(s.port p).held && ((s.port p).st == .down || ((s.port p).st == .quiet && !(s.port p).enabled) ||
      ((s.port p).st == .training && (s.port p).asleep))) = true := by
    rcases may with st | ⟨st, off⟩ | ⟨st, asleep⟩
    · simp [on, free, st]
    · simp [on, free, st, off]
    · simp [on, free, st, asleep]
  exact if_neg (by rw [go]; decide)

section
variable (st : (s.port p).st = .training)
include st

theorem exec_trainingDone_failed :
    exec (.trainingDone p false) s = .next (if (s.port p).asleep then s.setPort p { s.port p with st := .down } else s) :=
  (if_neg (by simp [st])).trans (if_pos rfl)

theorem exec_trainingDone_trained :
    let t := s.port p
    let w : Port := { t with asleep := false, asleepOff := false }
    exec (.trainingDone p true) s =
      if !t.enabled then .next ((s.setPort p { w with st := .quiet }).emit (.hold p))
      else if t.refused then .next (s.setPort p { w with st := .quiet })
      else .next ((s.setPort p w).enterKeying p) :=
  (if_neg (by simp [st])).trans (if_neg (by decide))

end

/-- The lowest wired port that waits in QUIET is enabled (R302). -/
theorem exec_portEnable (may : s.mayKey = true) (port : p < 10)
    (lowest : ∀ k, k ≤ p → ((s.port k).st = .quiet ∧ (s.port k).enabled = false ∧ s.mgt.portWired.getLsbD k = true ↔ k = p)) :
    exec (.portEnable p) s = .next ((s.setPort p { s.port p with enabled := true, keying := {} }).enterKeying p) := by
  obtain ⟨st, off, wired⟩ := (lowest p le_rfl).mpr rfl
  have none_below : (List.range p).any
      (fun k => (s.port k).st == .quiet && !(s.port k).enabled && s.mgt.portWired.getLsbD k) = false := by
    refine List.any_eq_false.mpr fun k mem waits => ?_
    have below := List.mem_range.mp mem
    have here := (lowest k below.le).mp (by simpa [and_assoc] using waits)
    omega
  change execPortEnable p s = _
  simp only [execPortEnable, none_below]
  simp [may, port, st, off, wired]

/-! ### Sleep and wake (R312, R313) -/

theorem exec_wakePatternSend (st : (s.port p).st = .down) (asleep : (s.port p).asleep = true) (may : (s.port p).wakeSend = true)
    (waiting : (s.port p).txq ≠ []) (free : (s.port p).held = false) :
    let t := s.port p
    let v := match t.wakeAt with
      | some x => s.advanceTo (x + 100000)
      | none => s
    exec (.wakePatternSend p) s =
      .next ((v.setPort p { (if t.asleepOff then t.afresh else t) with st := .training, wakeAt := some v.time, leftUp := v.time }).emit
        (.wakePattern p)) :=
  if_pos (by simp [st, asleep, may, waiting, free])

theorem exec_wakePatternDetect (st : (s.port p).st = .sleep ∨ (s.port p).st = .off) (armed : s.power.wakePorts.getLsbD p = true)
    (wired : s.mgt.portWired.getLsbD p = true) : exec (.wakePatternDetect p) s = .next (s.fireWake p 1) :=
  if_pos (by rcases st with h | h <;> simp [h, armed, wired])

theorem exec_wakeTimeout {x : Nat} (sent : (s.port p).wakeAt = some x) (st : (s.port p).st = .training)
    (asleep : (s.port p).asleep = true) :
    exec (.wakeTimeout p) s = .next (((s.advanceTo (x + (if (s.port p).asleepOff then 66800 else 4300))).setPort p
      { s.port p with st := .down }).linkDown p 8) := by
  have trains : ((s.port p).st == .training && (s.port p).asleep) = true := by simp [st, asleep]
  have allowed : x + 800 + (if (s.port p).asleepOff then 65000 else 2500) + 1000 =
      x + (if (s.port p).asleepOff then 66800 else 4300) := by
    split <;> omega
  change execWakeTimeout p s = _
  simp only [execWakeTimeout, sent, trains, if_true, allowed]
  rfl

theorem trySleep_answers {off : Bool} (asked : (s.port p).draining = some off) (drained : (s.port p).drained = true)
    (new : (s.port p).acking = false) :
    s.trySleep p = (s.setPort p { s.port p with acking := true }).sleepNote p .sleepAck off := by
  simp only [State.trySleep, asked, drained, new, Bool.not_false, Bool.and_self, if_true]

end

/-- Settles O53, a lemma per row. -/
theorem linkStates : Obligations.LinkStates := by
  refine ⟨fun p s => ?_, fun p raw f s h => ⟨fun off => linkReceive_of_accepts h _, linkReceive_of_accepts h _⟩,
    fun p s off => trySleep_answers⟩
  intro t down
  refine ⟨exec_fecLockLoss, fun alive awake heard => ⟨exec_silenceTimeout alive awake heard, fun x => exec_probeTimeout alive awake heard⟩,
    fun vc => exec_creditDeadline, exec_holdReceive, fun on free may => ?_, fun st => ?_, exec_portEnable, exec_wakePatternSend,
    exec_wakePatternDetect, fun x => exec_wakeTimeout⟩
  · have row := exec_partnerTraining on free may
    exact ⟨fun enabled => row.trans (congrArg _ (if_pos enabled)),
      fun off => row.trans (congrArg _ (if_neg (ne_true_of_eq_false off)))⟩
  · have failed := exec_trainingDone_failed st
    have trained := exec_trainingDone_trained st
    refine ⟨fun asleep => failed.trans (congrArg _ (if_pos asleep)), fun awake => failed.trans (congrArg _ (if_neg (ne_true_of_eq_false awake))),
      fun off => trained.trans (if_pos (by rw [off]; rfl)), fun enabled refused => ?_, fun enabled open_ => ?_⟩
    · exact trained.trans ((if_neg (by rw [enabled]; decide)).trans (if_pos refused))
    · exact trained.trans ((if_neg (by rw [enabled]; decide)).trans (if_neg (ne_true_of_eq_false open_)))

end Sys2Proof.Machine
end

section
/-!
PROOF. What every function of the model leaves alone: the fuses, and the canonical form of HBM, the scratchpads and the boot flash. One
lemma per function, in the order of the model's files, each by the lemmas of the functions it calls; the writers of a memory rest on
`Memory.wf_write` and `Memory.wf_zero`.
-/

namespace Sys2Proof.Machine

open Sys2Proof.Claims

/-! ### The relation -/

/-- `t` has the fuses of `s` and the seed in them, and its memories are in their canonical form where those of `s` are. -/
structure Intact (s t : State) : Prop where
  fuses : t.fuses = s.fuses
  canonical : MemoryCanonical s → MemoryCanonical t

/-- An outcome that is a next state, intact. -/
def Answers (s : State) (o : Outcome) : Prop := ∃ t, o = .next t ∧ Intact s t

variable {s t u : State}

theorem Intact.refl (s : State) : Intact s s := ⟨rfl, id⟩

theorem Intact.trans (h : Intact s t) (k : Intact t u) : Intact s u := ⟨k.fuses.trans h.fuses, k.canonical ∘ h.canonical⟩

theorem Intact.next (h : Intact s t) : Answers s (.next t) := ⟨t, rfl, h⟩

theorem Intact.evt (h : Intact s t) (k : Evt t u) : Intact s u := by
  obtain ⟨_, _, _, _, _, _, _, _, _, _, _, _, rfl⟩ := k
  exact ⟨h.fuses, h.canonical⟩

/-- Every field but the fuses and the three memories may change. -/
theorem Intact.fields (h : Intact s t) {a b c d e f g i j k l m n o p q r v w x y z a' b' c' d' e' f' g' i' j' k' l' m' n' o' p' q' r' v'
    w' x' y' z' a''} :
    Intact s { t with
      pending := a, out := b, freeCtr := c, time := d, secDone := e, mgt := f, boot := g, power := i, domains := j, up := k, bus := l,
      gpio := m, queues := n, hostFifo := o, rings := p, islets := q, nums := r, parts := v, owners := w, frozen := x, keys := y,
      store := z, romKey := a', hbmPoison := b', spPoison := c', hbmErr := d', spErr := e', switches := f', ports := g', grants := i',
      xfers := j', nextXfer := k', remotes := l', caches := m', invQueue := n', lagoon := o', plru := p', msixWord := q', msixOpen := r',
      msixPend := v', pcie := w', sessions := x', ideOn := y', ideKeys := z', lastRing := a'' } :=
  ⟨h.fuses, h.canonical⟩

/-- HBM with the marks on its blocks takes a memory that is canonical where the old one is. -/
theorem Intact.hbm (h : Intact s t) {m : Memory} (w : Memory.wf t.hbm = true → Memory.wf m = true) {p : Table Bool} {e : Table Nat} :
    Intact s { t with hbm := m, hbmPoison := p, hbmErr := e } :=
  ⟨h.fuses, fun c => ⟨w (h.canonical c).1, (h.canonical c).2⟩⟩

/-- So do the scratchpads with the marks on their words. -/
theorem Intact.scratch (h :
    Intact s t) {m : Memory} (w : Memory.wf t.scratch = true → Memory.wf m = true) {p : Table Bool} {e : Table Nat} :
    Intact s { t with scratch := m, spPoison := p, spErr := e } :=
  ⟨h.fuses, fun c => ⟨(h.canonical c).1, w (h.canonical c).2.1, (h.canonical c).2.2⟩⟩

/-- So does the boot flash with the management registers. -/
theorem Intact.flash (h : Intact s t) {m : Memory} (w : Memory.wf t.flash = true → Memory.wf m = true) {g : Mgt} :
    Intact s { t with flash := m, mgt := g } :=
  ⟨h.fuses, fun c => ⟨(h.canonical c).1, (h.canonical c).2.1, w (h.canonical c).2.2⟩⟩

theorem Intact.ite {c : Prop} [Decidable c] (h : Intact s t) (k : Intact s u) : Intact s (if c then t else u) := by
  split
  · exact h
  · exact k

theorem Answers.ite {c : Prop} [Decidable c] {a b : Outcome} (h : Answers s a) (k : Answers s b) : Answers s (if c then a else b) := by
  split
  · exact h
  · exact k

theorem Intact.foldl {α : Type} {f : State → α → State} {l : List α} (h : Intact s t) (k : ∀ u x, Intact s u → Intact s (f u x)) :
    Intact s (l.foldl f t) := by
  induction l generalizing t with
  | nil => exact h
  | cons x l ih => exact ih (k _ _ h)

/-! ### Ops -/

theorem Intact.setQueue (h : Intact s t) {q : Nat} {v : Queue} : Intact s (t.setQueue q v) := h.evt (evt_setQueue ..)

theorem Intact.setRing (h : Intact s t) {c : Nat} {v : Ring} : Intact s (t.setRing c v) := h.evt (evt_setRing ..)

theorem Intact.setIslet (h : Intact s t) {n : Nat} {v : Islet} : Intact s (t.setIslet n v) := h.evt (evt_setIslet ..)

theorem Intact.setNum (h : Intact s t) {q : Nat} {v : Num} : Intact s (t.setNum q v) := h.fields

theorem Intact.setPart (h : Intact s t) {p : Nat} {v : Part} : Intact s (t.setPart p v) := h.evt (evt_setPart ..)

theorem Intact.setPort (h : Intact s t) {p : Nat} {v : Port} : Intact s (t.setPort p v) := h.evt (evt_setPort ..)

theorem Intact.setDomain (h : Intact s t) {d : Nat} {v : Domain} : Intact s (t.setDomain d v) := h.fields

theorem Intact.setWin (h : Intact s t) {p w : Nat} {v : Window} : Intact s (t.setWin p w v) := h.setPart

theorem Intact.setXfer (h : Intact s t) {x : Nat} {v : Xfer} : Intact s (t.setXfer x v) := h.evt (evt_setXfer ..)

theorem Intact.setPin (h : Intact s t) {k : Nat} {v : Pin} : Intact s (t.setPin k v) := h.fields

theorem Intact.setOwner (h : Intact s t) {g v : Nat} : Intact s (t.setOwner g v) := h.fields

theorem Intact.setSwitch (h : Intact s t) {p : Nat} {v : Option Switch} : Intact s (t.setSwitch p v) := h.fields

theorem Intact.setSession (h : Intact s t) {f : Nat} {v : Session} : Intact s (t.setSession f v) := h.fields

theorem Intact.emit (h : Intact s t) {o : Out} : Intact s (t.emit o) := h.evt (evt_emit ..)

theorem Intact.advanceTo (h : Intact s t) {t' : Nat} : Intact s (t.advanceTo t') := by
  unfold State.advanceTo
  exact Intact.ite h.fields h

theorem Intact.atSecond (h : Intact s t) {k : Nat} : Intact s (t.atSecond k) := h.advanceTo.fields

theorem Intact.freeTaken (h : Intact s t) : Intact s (t.freeTaken) := h.fields

theorem Intact.sendFlit (h : Intact s t) {f : Flit} {seg : Nat} : Intact s (t.sendFlit f seg) := h.evt (evt_sendFlit ..)

theorem Intact.sendNote (h : Intact s t) {dst : Nat} {w : Note} {args : List Nat} : Intact s (t.sendNote dst w args) :=
  h.evt (evt_sendNote ..)

theorem Intact.forward (h : Intact s t) {dst : Nat} {w : Fwd} {args : List Nat} : Intact s (t.forward dst w args) := h.evt (evt_forward ..)

theorem Intact.toHost (h : Intact s t) {q : Nat} {o : Out} : Intact s (t.toHost q o) := h.evt (evt_toHost ..)

theorem Intact.perfAdd (h : Intact s t) {p k n : Nat} : Intact s (t.perfAdd p k n) := h.evt (evt_perfAdd ..)

theorem Intact.message (h : Intact s t) {fn v : Nat} : Intact s (t.message fn v) := h.evt (evt_message ..)

theorem Intact.deliverEvent (h : Intact s t) {ev : Event} : Intact s (t.deliverEvent ev) := h.evt (evt_deliverEvent ..)

theorem Intact.markerDue (h : Intact s t) {e : Nat} : Intact s (t.markerDue e) := h.evt (evt_markerDue ..)

theorem Intact.tellLead (h : Intact s t) {q : Nat} : Intact s (t.tellLead q) := h.evt (evt_tellLead ..)

theorem Intact.fetchMore (h : Intact s t) {q : Nat} : Intact s (t.fetchMore q) := h.evt (evt_fetchMore ..)

theorem Intact.haltEnds (h : Intact s t) {q : Nat} : Intact s (t.haltEnds q) := h.evt (evt_haltEnds ..)

theorem Intact.discardEnd (h : Intact s t) {q : Nat} : Intact s (t.discardEnd q) := h.evt (evt_discardEnd ..)

theorem Intact.sealedEntry (h : Intact s t) {l : LogEntry} : Intact s (t.sealedEntry l) := h.fields

theorem Intact.tally (h : Intact s t) {o : Option Nat} : Intact s (t.tally o) := by
  unfold State.tally
  dsimp only
  split
  · exact h.setPart
  · exact h.fields

theorem Intact.refuse (h : Intact s t) {m : Nat} {o : Option Nat} {queue reason : Nat} {seq : Word} {addr : Nat} :
    Intact s (t.refuse m o queue reason seq addr) := h.sealedEntry.tally

theorem Intact.logAccess (h : Intact s t) {cause : Nat} {a : Acc} {write : Bool} : Intact s (t.logAccess cause a write) := by
  unfold State.logAccess
  exact Intact.ite h.emit (Intact.ite h.freeTaken.sealedEntry h.fields)

theorem Intact.logPoison (h : Intact s t) {addr islet : Nat} {scratch demand : Bool} : Intact s (t.logPoison addr islet scratch demand) :=
  h.evt (evt_logPoison ..)

theorem Intact.reevaluate (h : Intact s t) : Intact s (t.reevaluate) := h.evt (evt_reevaluate ..)

theorem Intact.signal (h : Intact s t) {q : Nat} {e : List Byte} : Intact s (t.signal q e) := h.evt (evt_signal ..)

theorem Intact.setRun (h : Intact s t) {q i : Nat} {r : Run} : Intact s (t.setRun q i r) := h.evt (evt_setRun ..)

theorem Intact.grantSent (h : Intact s t) {key : Option Nat} {more less : Nat} : Intact s (t.grantSent key more less) :=
  h.evt (evt_grantSent ..)

theorem Intact.ledgerHaltQueue (h : Intact s t) {q : Nat} : Intact s (t.ledgerHaltQueue q) := h.evt (evt_ledgerHaltQueue ..)

theorem Intact.ledgerHalt (h : Intact s t) {p : Nat} : Intact s (t.ledgerHalt p) := h.evt (evt_ledgerHalt ..)

theorem Intact.haltElsewhere (h : Intact s t) {p : Nat} : Intact s (t.haltElsewhere p) := h.evt (evt_haltElsewhere ..)

theorem Intact.breach (h : Intact s t) {kind obj sub : Nat} {part : Option Nat} {snap : List Word} {diff : ℤ} :
    Intact s (t.breach kind obj sub part snap diff) := h.evt (evt_breach ..)

theorem Intact.judge (h : Intact s t) {f : Option Found} : Intact s (t.judge f) := h.evt (evt_judge ..)

theorem Intact.raiseEvent (h : Intact s t) {e code queue : Nat} {seq : Word} {data : List Byte} :
    Intact s (t.raiseEvent e code queue seq data) := h.evt (evt_raiseEvent ..)

theorem Intact.reportFull (h : Intact s t) {c : Nat} : Intact s (t.reportFull c) := h.evt (evt_reportFull ..)

theorem Intact.postWaiting (h : Intact s t) {c : Nat} : Intact s (t.postWaiting c) := h.evt (evt_postWaiting ..)

theorem Intact.postCompletion (h : Intact s t) {k : Completion} : Intact s (t.postCompletion k) := h.evt (evt_postCompletion ..)

theorem Intact.ringFaultAt (h : Intact s t) {q cause : Nat} : Intact s (t.ringFaultAt q cause) := h.evt (evt_ringFaultAt ..)

theorem Intact.observeBy (h : Intact s t) {p q : Nat} {seq : Word} : Intact s (t.observeBy p q seq) := h.evt (evt_observeBy ..)

theorem Intact.observe (h : Intact s t) {p : Nat} : Intact s (t.observe p) := h.evt (evt_observe ..)

protected theorem Intact.stutter (h : Intact s t) : Answers s (stutter t) := h.next

protected theorem Intact.whenB {b : Bool} {f : State → State} (h : Intact s t) (hf : ∀ u, Intact s u → Intact s (f u)) :
    Answers s (whenB b t f) := by
  unfold whenB
  exact (Intact.ite (hf _ h) h).next

/-! ### Flags -/

theorem Intact.numComplete (h : Intact s t) {q : Nat} {r : Run} : Intact s (t.numComplete q r) := by
  unfold State.numComplete
  exact Intact.ite h h.setNum

/-! ### Memory -/

theorem Intact.setLag (h : Intact s t) {l : Nat} {v : LagLine} : Intact s (t.setLag l v) := h.fields

theorem Intact.setCached (h : Intact s t) {agent line : Nat} {v : CacheLine} : Intact s (t.setCached agent line v) := h.fields

theorem Intact.setInvs (h : Intact s t) {agent : Nat} {l : List Nat} : Intact s (t.setInvs agent l) := h.fields

theorem Intact.takeData (h : Intact s t) {agent line : Nat} : Intact s (t.takeData agent line) := by
  unfold State.takeData
  exact Intact.ite (h.hbm (Memory.wf_write _ _ _)).setLag h

theorem Intact.demote (h : Intact s t) {agent line : Nat} {dest : Mesi} : Intact s (t.demote agent line dest) := by
  unfold State.demote
  exact Intact.ite h.takeData.setCached h.takeData.setCached

theorem Intact.recallShared (h : Intact s t) {line : Nat} : Intact s (t.recallShared line) := by
  unfold State.recallShared
  split
  · exact h
  · exact h.demote.setLag

theorem Intact.recallDirty (h : Intact s t) {line : Nat} : Intact s (t.recallDirty line) := by
  unfold State.recallDirty
  split
  · exact h
  · exact Intact.ite h.recallShared h

theorem Intact.recallOwned (h : Intact s t) {line : Nat} : Intact s (t.recallOwned line) := by
  unfold State.recallOwned
  split
  · exact h
  · exact h.demote.setLag

theorem Intact.applyInv (h : Intact s t) {agent line : Nat} : Intact s (t.applyInv agent line) := by
  unfold State.applyInv
  exact Intact.ite h.setCached.setInvs h

theorem Intact.acceptInv (h : Intact s t) {agent line : Nat} : Intact s (t.acceptInv agent line) := by
  unfold State.acceptInv
  exact Intact.ite h.setCached (Intact.setInvs (by split; exacts [h, (Intact.ite h.applyInv h)]))

theorem Intact.invalidateSharers (h : Intact s t) {line : Nat} {except : Option Nat} : Intact s (t.invalidateSharers line except) := by
  unfold State.invalidateSharers
  exact (Intact.foldl h fun _ _ h => h.acceptInv).setLag

theorem Intact.applyAllInvs (h : Intact s t) {agent : Nat} : Intact s (t.applyAllInvs agent) := by
  unfold State.applyAllInvs
  exact Intact.foldl h fun _ _ h => h.applyInv

theorem Intact.hbmCorrected (h : Intact s t) : Intact s (t.hbmCorrected) := h.fields

theorem Intact.hbmUncorrectable (h : Intact s t) {block : Nat} : Intact s (t.hbmUncorrectable block) := h.fields

theorem Intact.needsRebuild (h : Intact s t) {block : Nat} : Intact s (t.needsRebuild block) := by
  unfold State.needsRebuild
  exact Intact.ite h.fields h

theorem Intact.eccBlock (h : Intact s t) {block : Nat} : Intact s (t.eccBlock block) := by
  unfold State.eccBlock
  extract_lets _ _ s1 s2 s3
  have h1 : Intact s s1 := Intact.ite h h.fields
  have h2 : Intact s s2 := Intact.ite h1.hbmCorrected h1
  have h3 : Intact s s3 := Intact.ite h2 h2.fields.logPoison
  exact Intact.ite h2 h3.hbmUncorrectable.needsRebuild

theorem Intact.evictLag (h : Intact s t) {line : Nat} : Intact s (t.evictLag line) := by
  unfold State.evictLag
  extract_lets _ _ s1 s2
  have h1 : Intact s s1 := Intact.foldl h.recallOwned fun _ _ h => (Intact.ite h.setCached h)
  have h2 : Intact s s2 := Intact.ite (Intact.foldl h1 fun _ _ h => h.fields) h1
  exact h2.setLag

theorem Intact.touchWay (h : Intact s t) {a w : Nat} : Intact s (t.touchWay a w) := h.fields

theorem Intact.allocate (h : Intact s t) {line : Nat} {fetch : Bool} : Intact s (t.allocate line fetch) := by
  unfold State.allocate
  extract_lets _ _ _ _ _ _ s1 s2 _ s3
  have h1 : Intact s s1 := by
    unfold s1
    split
    · exact h.evictLag
    · exact h
  have h2 : Intact s s2 := Intact.ite (Intact.foldl h1 fun _ _ h => h.eccBlock) h1
  have h3 : Intact s s3 := Intact.ite h2.perfAdd h2
  exact Intact.ite h.touchWay h3.setLag.touchWay

theorem Intact.meetsPoison (h : Intact s t) {fetched : Bool} {block : Nat} : Intact s (t.meetsPoison fetched block) := by
  unfold State.meetsPoison
  exact Intact.ite h h.hbmUncorrectable

theorem Intact.clearBlock (h : Intact s t) {block : Nat} : Intact s (t.clearBlock block) := h.setLag

theorem Intact.dropLine (h : Intact s t) {agent line : Nat} : Intact s (t.dropLine agent line) := h.takeData.setLag.setCached

theorem Intact.makeRoom (h : Intact s t) {agent line : Nat} : Intact s (t.makeRoom agent line) := by
  unfold State.makeRoom
  exact Intact.ite h (Intact.ite h (by split; exacts [h, h.dropLine]))

theorem Intact.shareLine (h : Intact s t) {agent line : Nat} : Intact s (t.shareLine agent line) := by
  unfold State.shareLine
  extract_lets _ _ s1
  have h1 : Intact s s1 := h.applyInv.recallShared.makeRoom.allocate
  exact Intact.ite h.applyInv (Intact.ite h1.setLag.setCached h1.setLag.setCached)

theorem Intact.ownLine (h : Intact s t) {agent line : Nat} : Intact s (t.ownLine agent line) := by
  unfold State.ownLine
  exact Intact.ite h.applyInv h.applyInv.recallOwned.invalidateSharers.makeRoom.allocate.setLag.setCached

theorem Intact.writeOwned (h : Intact s t) {agent line off : Nat} {bytes : List Byte} : Intact s (t.writeOwned agent line off bytes) :=
  h.setCached

theorem Intact.drainOwned (h : Intact s t) {n line : Nat} : Intact s (t.drainOwned n line) := by
  unfold State.drainOwned
  exact (Intact.foldl (Intact.foldl h fun _ _ h => h.writeOwned) fun _ _ h => (Intact.ite h.clearBlock h)).setIslet

theorem Intact.grantLine (h : Intact s t) {line agent : Nat} {own : Bool} : Intact s (t.grantLine line agent own) := by
  unfold State.grantLine
  exact Intact.ite h.shareLine (Intact.ite h.ownLine.freeTaken.writeOwned (Intact.ite h.ownLine.drainOwned h.ownLine))

theorem Intact.finishTxn (h : Intact s t) {line agent : Nat} {own : Bool} : Intact s (t.finishTxn line agent own) := by
  unfold State.finishTxn
  extract_lets _ s1 _ _ _ s2
  have h1 : Intact s s1 := Intact.foldl h fun _ _ h => (Intact.ite h.acceptInv h)
  have h2 : Intact s s2 := Intact.ite h1.setLag.recallOwned h1.setLag.recallShared
  exact h2.grantLine

theorem Intact.settleGo (h : Intact s t) {line fuel : Nat} : Intact s (t.settleGo line fuel) := by
  induction fuel generalizing t with
  | zero => exact h
  | succ fuel ih =>
    unfold State.settleGo
    split
    · exact h
    · dsimp only
      split
      · exact h.finishTxn
      · exact ih h.finishTxn.setLag

theorem Intact.settleLine (h : Intact s t) {line : Nat} : Intact s (t.settleLine line) := h.settleGo

theorem Intact.acquireShared (h : Intact s t) {agent line : Nat} : Intact s (t.acquireShared agent line) := h.settleLine.shareLine

theorem Intact.acquireOwn (h : Intact s t) {agent line : Nat} : Intact s (t.acquireOwn agent line) := h.settleLine.ownLine

theorem Intact.drainLine (h : Intact s t) {n line : Nat} : Intact s (t.drainLine n line) := by
  unfold State.drainLine
  exact Intact.ite h h.acquireOwn.drainOwned

theorem Intact.drainStores (h : Intact s t) {n : Nat} : Intact s (t.drainStores n) := by
  unfold State.drainStores
  exact Intact.foldl h fun _ _ h => h.drainLine

theorem Intact.reach (h : Intact s t) {p : HbmPath} {line : Nat} : Intact s (t.reach p line) := by
  unfold State.reach
  refine Intact.ite ?_ ?_
  · exact Intact.foldl h fun _ _ h => h.eccBlock
  · split
    · exact h.settleLine.recallDirty.allocate
    · exact h.settleLine.applyInv.recallDirty.allocate
    · exact Intact.ite h.acquireShared h

protected theorem Intact.hbmReadGo (h : Intact s t) {p : HbmPath} {fuel a len : Nat} : Intact s (hbmReadGo p fuel t a len).s := by
  induction fuel generalizing t a len with
  | zero => exact h
  | succ fuel ih =>
    unfold hbmReadGo
    split
    · exact h
    · dsimp only
      split
      · exact h.reach.meetsPoison
      · exact ih h.reach

theorem Intact.readHbm (h : Intact s t) {p : HbmPath} {a len : Nat} : Intact s (t.readHbm p a len).s := h.hbmReadGo

protected theorem Intact.hbmWriteGo (h : Intact s t) {fuel a : Nat} {l : List Byte} : Intact s (hbmWriteGo fuel t a l).s := by
  induction fuel generalizing t a l with
  | zero => exact h
  | succ fuel ih =>
    unfold hbmWriteGo
    split
    · exact h
    · extract_lets n line s1 s2
      have h1 : Intact s s2 := h.settleLine.recallOwned.invalidateSharers.allocate
      split
      · exact Intact.ite (h1.meetsPoison.hbm (Memory.wf_write _ _ _)).setLag (h1.meetsPoison.hbm (Memory.wf_write _ _ _))
      · refine ih (Intact.foldl ?_ fun _ _ h => Intact.ite h.clearBlock h)
        exact (h1.hbm (Memory.wf_write _ _ _)).setLag

theorem Intact.writeHbm (h : Intact s t) {a : Nat} {bytes : List Byte} : Intact s (t.writeHbm a bytes).s := h.hbmWriteGo

protected theorem Intact.storeGo (h : Intact s t) {n fuel a : Nat} {l : List Byte} : Intact s (storeGo n fuel t a l).s := by
  induction fuel generalizing t a l with
  | zero => exact h
  | succ fuel ih =>
    unfold storeGo
    split
    · exact h
    · dsimp only
      split
      · exact h.allocate.meetsPoison.setIslet
      · exact ih h.allocate.setIslet

theorem Intact.storeHbm (h : Intact s t) {n a : Nat} {bytes : List Byte} : Intact s (t.storeHbm n a bytes).s := h.storeGo

theorem Intact.discard (h : Intact s t) {a len : Nat} : Intact s (t.discard a len) := by
  unfold State.discard
  exact Intact.foldl h fun _ _ h => (Intact.foldl h fun _ _ h => h.setCached.setInvs).setLag

theorem Intact.writeRaw (h : Intact s t) {a len : Nat} {bytes : List Byte} : Intact s (t.writeRaw a len bytes) := by
  refine (h.discard (a := a) (len := len)).hbm fun w => ?_
  split
  · exact Memory.wf_zero _ _ _ w
  · exact Memory.wf_write _ _ _ w

theorem Intact.spRead (h : Intact s t) {n w : Nat} : Intact s (t.spRead n w) := by
  unfold State.spRead
  dsimp only
  split
  · exact h
  · exact h.fields.setIslet
  · exact Intact.ite h.fields h.fields.fields.logPoison

theorem Intact.spConsumed (h : Intact s t) {n : Nat} : Intact s (t.spConsumed n) := h.setIslet

theorem Intact.readSp (h : Intact s t) {n off len : Nat} : Intact s (t.readSp n off len).s := by
  unfold State.readSp
  extract_lets s1
  have h1 : Intact s s1 := Intact.foldl h fun _ _ h => h.spRead
  split
  · exact h1
  · exact h1.spConsumed

theorem Intact.writeSp (h : Intact s t) {n off : Nat} {bytes : List Byte} : Intact s (t.writeSp n off bytes).s := by
  unfold State.writeSp
  extract_lets _ _ _ _ s1 bad _ _ _ s2
  have h1 : Intact s s1 := Intact.foldl h fun _ _ h => h.spRead
  have h2 : Intact s s2 := h1.scratch (Memory.wf_write _ _ _)
  clear_value s2 bad
  split
  · exact h
  · cases bad with
    | none => exact h2
    | some w => exact h2.spConsumed

theorem Intact.flushCache (h : Intact s t) {n : Nat} : Intact s (t.flushCache n) := by
  unfold State.flushCache
  exact Intact.foldl h.drainStores.applyAllInvs fun _ _ h => h.dropLine

theorem Intact.clearSp (h : Intact s t) {n : Nat} : Intact s (t.clearSp n) :=
  (h.scratch (Memory.wf_zero _ _ _)).setIslet

/-! ### Life -/

theorem Intact.judgeTag (h : Intact s t) {before : Islet} {n : Nat} : Intact s (t.judgeTag before n) := h.evt (evt_judgeTag ..)

theorem Intact.settleIslet (h : Intact s t) {n : Nat} : Intact s (t.settleIslet n) := h.evt (evt_settleIslet ..)

theorem Intact.headArrive (h : Intact s t) {q : Nat} : Intact s (t.headArrive q) := h.evt (evt_headArrive ..)

theorem Intact.endWork (h : Intact s t) {q i : Nat} {r : Run} {busy : Bool} : Intact s (t.endWork q i r busy) := h.evt (evt_endWork ..)

theorem Intact.finish (h : Intact s t) {q i : Nat} {status : BitVec 8} {info : Nat} : Intact s (t.finish q i status info) :=
  h.evt (evt_finish ..)

theorem Intact.popHead (h : Intact s t) {q : Nat} {r : Run} : Intact s (t.popHead q r) := h.evt (evt_popHead ..)

theorem Intact.reserve (h : Intact s t) {q : Nat} {tds : Table TDesc} {e : List Byte} : Intact s (t.reserve q tds e) := by
  unfold State.reserve
  extract_lets _ _ _ s1 s2
  have h1 : Intact s s1 := by
    unfold s1
    split
    · exact h
    · exact Intact.ite h.setWin h.fields
  have h2 : Intact s s2 := Intact.ite (Intact.foldl h1 fun _ _ h => h.setIslet) h1
  exact Intact.ite h2 (Intact.foldl h2 fun _ _ h => h.toHost)

theorem Intact.askReads (h : Intact s t) {q : Nat} : Intact s (t.askReads q) := by
  unfold State.askReads
  exact Intact.foldl h fun _ _ h => (by split; exacts [h, (Intact.ite (Intact.foldl h.setRun fun _ _ h => h.toHost) h)])

theorem Intact.startEngine (h : Intact s t) {q : Nat} {e : List Byte} : Intact s (t.startEngine q e) := by
  unfold State.startEngine
  extract_lets _ _ _ s1
  have h1 : Intact s s1 := Intact.ite h.applyAllInvs h
  split
  · exact h1.setIslet.popHead
  · split
    · exact h1.setIslet.refuse.popHead
    · exact h1.setIslet.reserve.popHead

theorem Intact.askMoves (h : Intact s t) {q : Nat} : Intact s (t.askMoves q) := by
  unfold State.askMoves
  exact Intact.ite h.askReads h

protected theorem Intact.execCommandStart (h : Intact s t) {q : Nat} : Answers s (execCommandStart q t) := by
  unfold execCommandStart
  refine Answers.ite ?_ ?_
  · exact h.stutter
  · split
    · exact h.stutter
    · refine Answers.ite ?_ ?_
      · exact h.startEngine.headArrive.askMoves.next
      · refine Answers.ite ?_ ?_
        · refine Intact.next ?_
          exact (Intact.ite h.popHead.finish (Intact.ite (by split; exacts [h.popHead.finish, h.popHead]) h.popHead)).fields
        · exact h.stutter

theorem Intact.passWait (h : Intact s t) {q i : Nat} : Intact s (t.passWait q i) := by
  unfold State.passWait
  extract_lets _ s1
  have h1 : Intact s s1 := Intact.ite h.applyAllInvs h
  split
  · exact h
  · split
    · exact h
    · exact Intact.ite h (Intact.ite h1.setIslet.setRun h1.setIslet.setRun)

protected theorem Intact.execTagWaitPoint (h : Intact s t) {q i : Nat} : Answers s (execTagWaitPoint q i t) := by
  unfold execTagWaitPoint
  exact (Intact.ite h.passWait.askMoves h).next

theorem Intact.settleEffects (h : Intact s t) {q i : Nat} : Intact s (t.settleEffects q i) := by
  unfold State.settleEffects
  extract_lets s1
  have h1 : Intact s s1 := Intact.ite h.drainStores h
  split
  · exact h
  · exact Intact.ite h (Intact.ite h1.numComplete.setRun.signal h1.numComplete.setRun)

theorem Intact.postFront (h : Intact s t) {q : Nat} : Intact s (t.postFront q) := h.evt (evt_postFront ..)

theorem Intact.complete (h : Intact s t) {q i : Nat} : Intact s (t.complete q i) := by
  unfold State.complete
  dsimp only
  split
  · exact h
  · exact Intact.ite (Intact.ite h.settleEffects.postFront h.settleEffects) h

protected theorem Intact.execCompletionPost (h : Intact s t) {c : Nat} : Answers s (execCompletionPost c t) := h.postWaiting.reportFull.next

protected theorem Intact.execWaitTimeout (h : Intact s t) {q : Nat} : Answers s (execWaitTimeout q t) := by
  unfold execWaitTimeout
  dsimp only
  split
  · exact h.stutter
  · exact Answers.ite h.stutter (Answers.ite h.advanceTo.setQueue.next h.advanceTo.popHead.complete.next)

theorem Intact.settleWindowWait (h : Intact s t) {p w q : Nat} : Intact s (t.settleWindowWait p w q) := by
  unfold State.settleWindowWait
  dsimp only
  split
  · exact h
  · exact Intact.ite h (Intact.ite h.setQueue h.popHead.complete)

theorem Intact.settleWindowWaits (h : Intact s t) {p w : Nat} : Intact s (t.settleWindowWaits p w) := by
  unfold State.settleWindowWaits
  exact Intact.foldl h fun _ _ h => h.settleWindowWait

protected theorem Intact.execSquareStall (h : Intact s t) {n : Nat} : Answers s (execSquareStall n t) := by
  unfold execSquareStall
  exact Answers.ite h.stutter h.advanceTo.setIslet.raiseEvent.next

theorem Intact.abortWaiting (h : Intact s t) {q : Nat} : Intact s (t.abortWaiting q) := by
  unfold State.abortWaiting
  dsimp only
  split
  · exact h
  · split
    · exact h
    · exact h.endWork.complete
  · split
    · exact h
    · exact h.popHead.complete

protected theorem Intact.execNop (h : Intact s t) {q : Nat} : Answers s (execNop q t) := by
  unfold execNop
  exact (Intact.ite h.finish h).next

protected theorem Intact.execSignal (h : Intact s t) {q : Nat} : Answers s (execSignal q t) := by
  unfold execSignal
  exact (Intact.ite h.finish h).next

protected theorem Intact.execWait (h : Intact s t) {q : Nat} : Answers s (execWait q t) := by
  unfold execWait
  exact (Intact.ite h.finish h).next

protected theorem Intact.execFence (h : Intact s t) {q : Nat} : Answers s (execFence q t) := by
  unfold execFence
  dsimp only
  split
  · exact h.stutter
  · exact Answers.ite h.stutter (Intact.ite (Intact.ite h.drainStores h).applyAllInvs (Intact.ite h.drainStores h)).finish.next

protected theorem Intact.execTagSet (h : Intact s t) {q : Nat} : Answers s (execTagSet q t) := by
  unfold execTagSet
  dsimp only
  split
  · exact h.stutter
  · exact (Intact.ite h.setIslet.setRun.judgeTag.finish h.setIslet.setRun.judgeTag).reevaluate.next

protected theorem Intact.execTagCheck (h : Intact s t) {q : Nat} : Answers s (execTagCheck q t) := by
  unfold execTagCheck
  dsimp only
  split
  · exact h.stutter
  · exact h.finish.next

/-! ### Engine -/

theorem Intact.poisonEvent (h : Intact s t) {p q : Nat} {seq : Word} {info requester : Nat} :
    Intact s (t.poisonEvent p q seq info requester) := h.raiseEvent

theorem Intact.readSpLate (h : Intact s t) {n : Nat} {r : Run} {l : List (Nat × Nat)} : Intact s (t.readSpLate n r l).s := by
  induction l generalizing t with
  | nil => exact h
  | cons x l ih =>
    unfold State.readSpLate
    split
    · exact ih h
    · dsimp only
      split
      · exact h.readSp
      · exact ih h.readSp

theorem Intact.readSpFor (h : Intact s t) {n : Nat} {r : Run} {a len : Nat} : Intact s (t.readSpFor n r a len).s := by
  unfold State.readSpFor
  split
  · exact h.readSp
  · exact h.readSpLate

theorem Intact.loadRun (h : Intact s t) {p n : Nat} {vx : Bool} {r : Run} {mem : Bool} {a len : Nat} :
    Intact s (t.loadRun p n vx r mem a len).s := by
  unfold State.loadRun
  dsimp only
  split
  · exact h.readSpFor
  · split
    · exact (by split; exacts [h, h.readHbm.perfAdd])
    · exact (by split; exacts [h, h.readHbm.perfAdd])
    · exact h
    · exact h

protected theorem Intact.loadRuns (h : Intact s t) {p n : Nat} {vx : Bool} {r : Run} {mem : Bool} {l : List (Nat × Nat)} :
    Intact s (loadRuns p n vx r mem l t).s := by
  induction l generalizing t with
  | nil => exact h
  | cons x l ih =>
    unfold loadRuns
    dsimp only
    split
    · exact h.loadRun
    · exact ih h.loadRun

theorem Intact.loadRef (h : Intact s t) {p n : Nat} {r : Run} {x : Ref} : Intact s (t.loadRef p n r x).s := h.loadRuns

theorem Intact.writeAlias (h : Intact s t) {n a : Nat} {bytes : List Byte} : Intact s (t.writeAlias n a bytes).s := by
  unfold State.writeAlias
  exact Intact.foldl (Intact.foldl h fun _ _ h => h.drainLine).writeHbm fun _ _ h => h.applyInv

theorem Intact.storeRun (h : Intact s t) {p n : Nat} {vx mem : Bool} {a : Nat} {bytes : List Byte} :
    Intact s (t.storeRun p n vx mem a bytes).s := by
  unfold State.storeRun
  dsimp only
  split
  · exact h.writeSp
  · split
    · split
      · exact h
      · exact Intact.perfAdd (by cases vx; exacts [h.writeHbm, h.storeHbm])
    · split
      · exact h
      · exact Intact.perfAdd (by cases vx; exacts [h.writeHbm, h.writeAlias])
    · split
      · exact h
      · dsimp only
        exact h.toHost
    · exact h

protected theorem Intact.storeRuns (h : Intact s t) {p n : Nat} {vx mem : Bool} {l : List (Nat × List Byte)} :
    Intact s (storeRuns p n vx mem l t).s := by
  induction l generalizing t with
  | nil => exact h
  | cons x l ih =>
    unfold storeRuns
    dsimp only
    split
    · exact h.storeRun
    · exact ih h.storeRun

theorem Intact.endStopped (h : Intact s t) (h1 : Intact s u) {q i : Nat} {r : Run} {st : Stop} : Intact s (t.endStopped u q i r st) := by
  unfold State.endStopped
  split
  · exact h
  · exact h1.poisonEvent.endWork
  · exact h1.poisonEvent.endWork
  · exact h1.endWork

theorem Intact.unseal (h : Intact s t) {n : Nat} {runs : List (Nat × Nat)} {fromSealed : Bool} : Intact s (t.unseal n runs fromSealed) := by
  unfold State.unseal
  exact Intact.ite h h.setIslet

protected theorem Intact.storeAll (h : Intact s t) {p n : Nat} {l : List (Bool × List (Nat × List Byte))} :
    Intact s (storeAll p n l t).1 := by
  induction l generalizing t with
  | nil => exact h
  | cons x l ih =>
    unfold storeAll
    dsimp only
    split
    · exact h.storeRuns
    · exact ih h.storeRuns

theorem Intact.endOutputs (h : Intact s t) {q : Nat} {r : Run} {all : List (Nat × Nat)} {trap : Option (Nat × Nat)} {sealedRead : Bool} :
    Intact s (t.endOutputs q r all trap sealedRead) := h.unseal.endWork

theorem Intact.writePending (h : Intact s t) (h1 : Intact s u) {q : Nat} {r : Run} {p : Pending} : Intact s (t.writePending u q r p) := by
  unfold State.writePending
  dsimp only
  split
  · exact h.endStopped h1.storeAll
  · exact Intact.ite h1.storeAll.endOutputs h1.storeAll.setIslet.setRun.judgeTag.settleIslet.reevaluate

theorem Intact.writeOutputs (h : Intact s t) (h1 : Intact s u) {q : Nat} {r : Run} {outs : List (Ref × List (Nat × List Byte))}
    {flags : FpFlags} {trap : Option (Nat × Nat)} {sealedRead : Bool} :
    Intact s (t.writeOutputs u q r outs flags trap sealedRead) := by
  unfold State.writeOutputs
  split
  · dsimp only
    split
    · exact h.endStopped h1.storeAll
    · exact h1.storeAll.endOutputs
  · exact h.writePending h1

theorem Intact.writeResult (h : Intact s t) (h1 : Intact s u) {q : Nat} {r : Run} {z : Ref} {x : Result} {sealedRead : Bool} :
    Intact s (t.writeResult u q r z x sealedRead) := by
  unfold State.writeResult
  exact h.writeOutputs h1

protected theorem Intact.readPieces (h : Intact s t) {n : Nat} {l : List (Nat × Nat)} {m : Memory} : Intact s (readPieces n l t m).1 := by
  induction l generalizing t m with
  | nil => exact h
  | cons x l ih =>
    unfold readPieces
    dsimp only
    split
    · exact h.readSp
    · exact ih h.readSp

theorem Intact.engineAhead (h : Intact s t) {q op : Nat} : Intact s (t.engineAhead q op) := by
  unfold State.engineAhead
  dsimp only
  split
  · exact h
  · refine Intact.ite ?_ ?_
    · exact h
    · split
      · exact h.writePending h
      · refine Intact.ite ?_ ?_
        · exact h
        · split
          · exact h.endStopped h.readPieces
          · exact h.readPieces.setRun.settleIslet.reevaluate

/-! ### Manage -/

theorem Intact.mgmtWait (h : Intact s t) {q : Nat} {aux : List Nat} : Intact s (t.mgmtWait q aux) := by
  unfold State.mgmtWait
  split
  · exact h
  · exact h.setRun

theorem Intact.mgmtEnd (h : Intact s t) {q : Nat} {status : BitVec 8} {info : Nat} : Intact s (t.mgmtEnd q status info) := by
  unfold State.mgmtEnd
  split
  · exact h
  · exact h.setRun

theorem Intact.mgmtDone (h : Intact s t) {q info : Nat} : Intact s (t.mgmtDone q info) := h.mgmtEnd

theorem Intact.mgmtMal (h : Intact s t) {q sub detail : Nat} : Intact s (t.mgmtMal q sub detail) := h.mgmtEnd

theorem Intact.mgmtRefuse (h : Intact s t) {q reason : Nat} : Intact s (t.mgmtRefuse q reason) := by
  unfold State.mgmtRefuse
  split
  · exact h
  · exact h.refuse.setRun

protected theorem Intact.mgmt {q op : Nat} {f : Run → State} (h : Intact s t) (hf : ∀ x, Intact s (f x)) : Answers s (mgmt q op t f) := by
  unfold mgmt
  split
  · exact h.stutter
  · exact (hf _).next

theorem Intact.mgmtDesc (h : Intact s t) (h1 : Intact s u) {q : Nat} {checks : List (Nat × Bool)} : Intact s (t.mgmtDesc q checks u) := by
  unfold State.mgmtDesc
  split
  · exact h.mgmtMal
  · exact h1

theorem Intact.deriveKeys (h : Intact s t) : Intact s (t.deriveKeys) := h.fields

/-! ### Gpio -/

theorem Intact.edgeCause (h : Intact s t) {k : Nat} : Intact s (t.edgeCause k).2 := by
  unfold State.edgeCause
  dsimp only
  split
  · exact h
  · exact h
  · split
    · exact h.freeTaken
    · exact h
  · exact h

theorem Intact.edgeRaise (h1 : Intact s t) {before : State} {k : Nat} : Intact s (before.edgeRaise t k) := by
  unfold State.edgeRaise
  exact Intact.ite h1 (Intact.ite h1.edgeCause.raiseEvent.setPin h1.edgeCause.raiseEvent)

theorem Intact.acceptLevel (h : Intact s t) {k : Nat} {level : Bool} : Intact s (t.acceptLevel k level) := by
  unfold State.acceptLevel
  exact Intact.ite h h.fields.setPin.edgeRaise

protected theorem Intact.execGpioLevelAccept (h : Intact s t) {k : Nat} {level : Bool} : Answers s (execGpioLevelAccept k level t) := by
  unfold execGpioLevelAccept
  exact Answers.ite h.acceptLevel.next h.stutter

theorem Intact.resetPin (h : Intact s t) {k : Nat} : Intact s (t.resetPin k) := h.fields.setPin

theorem Intact.resetPartPins (h : Intact s t) {p : Nat} : Intact s (t.resetPartPins p) := by
  unfold State.resetPartPins
  exact Intact.foldl h fun _ _ h => (Intact.ite h.resetPin h)

theorem Intact.returnPins (h : Intact s t) {p : Nat} : Intact s (t.returnPins p) := by
  unfold State.returnPins
  exact Intact.foldl h fun _ _ h => (Intact.ite h.setPin h)

protected theorem Intact.execGpioOwn (h : Intact s t) : Answers s (execGpioOwn t) := by
  unfold execGpioOwn
  exact h.mgmt (fun _ => h.mgmtDesc (by split; exacts [h.mgmtMal, (by split; exacts [h.mgmtMal,
    (Intact.foldl h fun _ _ h => h.resetPin.setPin).mgmtDone])]))

theorem Intact.deny (h : Intact s t) {denied : BitVec 24} : Intact s (t.deny denied) := by
  unfold State.deny
  exact Intact.ite h h.fields

theorem Intact.changeOut (h : Intact s t) {w : Writer} {want : BitVec 24} : Intact s (t.changeOut w want) := h.fields.deny

theorem Intact.clearEdges (h : Intact s t) {w : Writer} {fall : Bool} {ones : BitVec 24} : Intact s (t.clearEdges w fall ones) :=
  h.fields.deny

theorem Intact.configurePin (h : Intact s t) {k v : Nat} : Intact s (t.configurePin k v) := h.setPin.edgeRaise

protected theorem Intact.execCaptureEdge (h : Intact s t) {f : Nat} : Answers s (execCaptureEdge f t) := by
  unfold execCaptureEdge
  exact Answers.ite h.freeTaken.fields.next h.stutter

protected theorem Intact.execTachRisingEdge (h : Intact s t) {k : Nat} : Answers s (execTachRisingEdge k t) := h.fields.next

protected theorem Intact.execTachSecond (h : Intact s t) : Answers s (execTachSecond t) := by
  unfold execTachSecond
  exact Answers.ite h.stutter (Answers.ite h.atSecond.next h.atSecond.fields.next)

protected theorem Intact.execSyncOutPulse (h : Intact s t) : Answers s (execSyncOutPulse t) := by
  unfold execSyncOutPulse
  exact Answers.ite h.stutter h.atSecond.fields.next

protected theorem Intact.execPwmPeriodStart (h : Intact s t) {k : Nat} : Answers s (execPwmPeriodStart k t) := by
  unfold execPwmPeriodStart
  exact Answers.ite h.fields.next h.stutter

theorem Intact.mainIoSleep (h : Intact s t) : Intact s (t.mainIoSleep) := by
  unfold State.mainIoSleep
  exact (Intact.foldl h fun _ _ h => (Intact.ite h.setPin h)).freeTaken

theorem Intact.mainIoLost (h : Intact s t) : Intact s (t.mainIoLost) := by
  unfold State.mainIoLost
  exact Intact.foldl h.fields fun _ _ h => (Intact.ite h.setPin h)

theorem Intact.mainIoWake (h : Intact s t) : Intact s (t.mainIoWake) := h.fields.freeTaken

theorem Intact.driveFan (h : Intact s t) {k : Nat} : Intact s (t.driveFan k) := h.freeTaken.fields

theorem Intact.writeFanDuty (h : Intact s t) {k : Nat} {duty : BitVec 8} : Intact s (t.writeFanDuty k duty) := by
  unfold State.writeFanDuty
  exact Intact.ite h (Intact.ite h.fields.driveFan h.fields)

protected theorem Intact.execFanTachUpdate (h : Intact s t) {k : Nat} : Answers s (execFanTachUpdate k t) := by
  unfold execFanTachUpdate
  exact Answers.ite h.fields.next h.stutter

theorem Intact.thermEvent (h : Intact s t) {cause extra : Nat} : Intact s (t.thermEvent cause extra) := h.raiseEvent

protected theorem Intact.execFanStall (h : Intact s t) {k : Nat} : Answers s (execFanStall k t) := by
  unfold execFanStall
  exact Answers.ite h.advanceTo.fields.thermEvent.next h.stutter

/-! ### Links -/

theorem Intact.linkEvent (h : Intact s t) {code : Nat} {data : List Byte} : Intact s (t.linkEvent code data) := h.evt (evt_linkEvent ..)

theorem Intact.linkDown (h : Intact s t) {p cause : Nat} : Intact s (t.linkDown p cause) := h.setPort.linkEvent

theorem Intact.linkUp (h : Intact s t) {p path : Nat} : Intact s (t.linkUp p path) := h.linkEvent

theorem Intact.retrain (h : Intact s t) {p cause : Nat} : Intact s (t.retrain p cause) := by
  unfold State.retrain
  exact Intact.ite h h.setPort.linkDown

theorem Intact.rxDiscard (h : Intact s t) {p : Nat} : Intact s (t.rxDiscard p) := h.setPort

theorem Intact.creditBreach (h : Intact s t) {p v : Nat} {diff : ℤ} : Intact s (t.creditBreach p v diff) := by
  unfold State.creditBreach
  exact Intact.foldl h.freeTaken.breach.setPort.linkDown fun _ _ h => h.haltElsewhere.ledgerHalt

theorem Intact.takeCredits (h : Intact s t) {p : Nat} {f : Flit} : Intact s (t.takeCredits p f) := by
  unfold State.takeCredits
  exact Intact.ite h (Intact.ite h.creditBreach h.setPort)

theorem Intact.freeSlot (h : Intact s t) {p v : Nat} : Intact s (t.freeSlot p v) := h.setPort

theorem Intact.sleepNote (h : Intact s t) {p : Nat} {w : Note} {off : Bool} : Intact s (t.sleepNote p w off) := h.setPort

theorem Intact.trySleep (h : Intact s t) {p : Nat} : Intact s (t.trySleep p) := by
  unfold State.trySleep
  dsimp only
  split
  · exact h
  · exact Intact.ite h.setPort.sleepNote h

theorem Intact.takeHeader (h : Intact s t) {p : Nat} {f : Flit} : Intact s (t.takeHeader p f) := by
  unfold State.takeHeader
  exact Intact.ite h.setPort.takeCredits.trySleep h.setPort

theorem Intact.sendCtl (h : Intact s t) {p typ : Nat} : Intact s (t.sendCtl p typ) := h.setPort

theorem Intact.accept {p : Nat} {f : Flit} {k : Flit → State → State} (h : Intact s t) (hk : ∀ x u, Intact s u → Intact s (k x u)) :
    Intact s (t.accept p f k) := by
  unfold State.accept
  exact Intact.ite h.creditBreach (Intact.ite (hk _ _ h.setPort).freeSlot h.setPort.setPort)

theorem Intact.receive {p : Nat} {raw : List Byte} {k : Flit → State → State} (h : Intact s t) (hk : ∀ x u, Intact s u → Intact s (k x u)) :
    Intact s (t.receive p raw k) := by
  unfold State.receive
  dsimp only
  refine Intact.ite ?_ ?_
  · exact h.rxDiscard
  · refine Intact.ite ?_ ?_
    · exact h
    · refine Intact.ite ?_ ?_
      · exact h.rxDiscard
      · split
        · exact h.retrain
        · refine Intact.ite ?_ ?_
          · exact h.takeHeader
          · exact Intact.ite (h.takeHeader.accept (fun _ _ h => (hk _ _ h))) (Intact.ite h.takeHeader.sendCtl h.takeHeader)

theorem Intact.linkReceive {p typ : Nat} {raw : List Byte} {k : Flit → State → State} (h :
    Intact s t) (hk : ∀ x u, Intact s u → Intact s (k x u)) :
    Answers s (t.linkReceive p typ raw k) := by
  unfold State.linkReceive
  exact Answers.ite (h.receive (fun _ _ h => (hk _ _ h))).next h.stutter

theorem Intact.controlReceive {p typ : Nat} {raw : List Byte} {k : Flit → State → State} (h :
    Intact s t) (hk : ∀ x u, Intact s u → Intact s (k x u)) :
    Answers s (t.controlReceive p typ raw k) := by
  unfold State.controlReceive
  exact Answers.ite h.stutter (Answers.ite h.rxDiscard.next (Answers.ite h.next (hk _ _ h.takeHeader).next))

/-! ### Power -/

theorem Intact.reachedEvent (h : Intact s t) {d : Nat} {st : DomState} {cause q : Nat} {seq : Word} :
    Intact s (t.reachedEvent d st cause q seq) := h.raiseEvent

theorem Intact.isletLost (h : Intact s t) {n : Nat} : Intact s (t.isletLost n) := h.clearSp.setIslet.setNum.setNum.setNum

theorem Intact.sliceLost (h : Intact s t) {k : Nat} : Intact s (t.sliceLost k) := by
  unfold State.sliceLost
  exact Intact.foldl h fun _ _ h => h.evictLag.setLag

theorem Intact.stackLost (h : Intact s t) {k : Nat} : Intact s (t.stackLost k) := h.hbm (Memory.wf_zero _ _ _)

theorem Intact.stackFill (h : Intact s t) {k : Nat} : Intact s (t.stackFill k) := h.fields

theorem Intact.portReset (h : Intact s t) {p : Nat} : Intact s (t.portReset p) := h.setPort

theorem Intact.portLower (h : Intact s t) {p : Nat} {dest : DomState} : Intact s (t.portLower p dest) := by
  unfold State.portLower
  exact Intact.ite h.portReset h.setPort

theorem Intact.enterState (h : Intact s t) {d : Nat} {dest : DomState} : Intact s (t.enterState d dest) := by
  unfold State.enterState
  extract_lets _ _ _ s1 _ s2 _ s3
  have h1 : Intact s s1 := Intact.ite h.setDomain.flushCache h.setDomain
  have h2 : Intact s s2 := Intact.ite h.setDomain.portReset h.setDomain
  have h3 : Intact s s3 := Intact.ite h.setDomain.mainIoLost h.setDomain
  refine Intact.ite ?_ ?_
  · exact Intact.ite h1.isletLost h1.setIslet
  · refine Intact.ite ?_ ?_
    · exact Intact.ite h.setDomain.sliceLost h.setDomain
    · refine Intact.ite ?_ ?_
      · exact Intact.ite h.setDomain.stackLost (Intact.ite h.setDomain.stackFill h.setDomain)
      · refine Intact.ite ?_ ?_
        · exact Intact.ite h2.setPort h2
        · refine Intact.ite ?_ ?_
          · exact Intact.ite h3.mainIoLost (Intact.ite h3.mainIoSleep h3.mainIoWake)
          · exact Intact.ite h.setDomain.fields h.setDomain

theorem Intact.domainSetDone (h : Intact s t) : Intact s (t.domainSetDone) := by
  unfold State.domainSetDone
  split
  · exact h
  · exact Intact.ite h.mgmtDone h

theorem Intact.keepRaised (h : Intact s t) {d : Nat} : Intact s (t.keepRaised d) := h.fields

theorem Intact.beginMove (h : Intact s t) {d : Nat} {dest : DomState} {told : Bool} {cause : Nat} :
    Intact s (t.beginMove d dest told cause) := by
  unfold State.beginMove
  exact Intact.ite h.keepRaised (Intact.ite h.keepRaised.setDomain.portLower h.keepRaised.setDomain)

theorem Intact.wakeDomain (h : Intact s t) {d cause : Nat} : Intact s (t.wakeDomain d cause) := by
  unfold State.wakeDomain
  exact Intact.ite h (by split; exacts [(Intact.ite h.keepRaised h.beginMove), (Intact.ite h.keepRaised
    (Intact.ite h.setDomain h.setDomain))])

protected theorem Intact.execDomainTransitionDone (h : Intact s t) {d : Nat} : Answers s (execDomainTransitionDone d t) := by
  unfold execDomainTransitionDone
  dsimp only
  split
  · exact h.stutter
  · refine Answers.ite ?_ ?_
    · exact h.stutter
    · refine Intact.next ?_
      exact (Intact.ite (Intact.emit (by split; exacts [(Intact.foldl
        (Intact.ite h.advanceTo.enterState.setDomain h.advanceTo.enterState.setDomain.reachedEvent) fun _ _ h =>
          (Intact.ite h.setDomain h)).wakeDomain, (Intact.foldl
            (Intact.ite h.advanceTo.enterState.setDomain h.advanceTo.enterState.setDomain.reachedEvent) fun _ _ h =>
              (Intact.ite h.setDomain h))])) (by split; exacts [(Intact.foldl
                (Intact.ite h.advanceTo.enterState.setDomain h.advanceTo.enterState.setDomain.reachedEvent) fun _ _ h =>
                  (Intact.ite h.setDomain h)).wakeDomain, (Intact.foldl
                    (Intact.ite h.advanceTo.enterState.setDomain h.advanceTo.enterState.setDomain.reachedEvent) fun _ _ h =>
                      (Intact.ite h.setDomain h))])).domainSetDone.reevaluate

theorem Intact.startTransitions (h : Intact s t) {e : List Byte} : Intact s (t.startTransitions e) := by
  unfold State.startTransitions
  exact (Intact.foldl h fun _ _ h => (by split; exacts [h, (Intact.ite h.linkDown h).beginMove])).mgmtWait.domainSetDone

theorem Intact.tryQuiesced (h : Intact s t) : Intact s (t.tryQuiesced) := by
  unfold State.tryQuiesced
  split
  · exact h
  · exact Intact.ite h.startTransitions h

theorem Intact.quiesceFailed (h : Intact s t) {e : List Byte} : Intact s (t.quiesceFailed e) := by
  unfold State.quiesceFailed
  exact Intact.foldl h.mgmtEnd fun _ _ h => (Intact.ite h (Intact.ite h.setIslet (Intact.ite h.setPort h)))

protected theorem Intact.execDomainSet (h : Intact s t) : Answers s (execDomainSet t) := by
  unfold execDomainSet
  refine Answers.ite h.stutter (h.mgmt fun _ => h.mgmtDesc ?_)
  split
  · exact h.mgmtMal
  · split
    · exact h.mgmtMal
    · split
      · exact h.mgmtMal
      · refine Intact.mgmtWait (Intact.foldl h fun _ _ h => ?_)
        dsimp only
        split
        · exact h
        · exact Intact.ite h (Intact.ite h.setIslet (Intact.ite h.setPort.sleepNote h))

theorem Intact.setArm (h : Intact s t) {src : Nat} {arm : Bool} {targets : List Nat} : Intact s (t.setArm src arm targets) := h.fields

protected theorem Intact.execWakeArm (h : Intact s t) : Answers s (execWakeArm t) := by
  unfold execWakeArm
  exact h.mgmt (fun _ => h.mgmtDesc (by split; exacts [h.mgmtMal, (Intact.ite h.setArm.setPin h.setArm).mgmtDone]))

theorem Intact.wakeDie (h : Intact s t) {cause : Nat} : Intact s (t.wakeDie cause) := by
  unfold State.wakeDie
  exact h.fields.wakeDomain.wakeDomain

theorem Intact.fireWake (h : Intact s t) {src cause : Nat} : Intact s (t.fireWake src cause) := by
  unfold State.fireWake
  exact Intact.foldl h.setArm.fields.raiseEvent.wakeDie fun _ _ h => h.wakeDomain

protected theorem Intact.execPinWake (h : Intact s t) {k : Nat} : Answers s (execPinWake k t) := by
  unfold execPinWake
  exact Answers.ite h.setPin.fireWake.next h.stutter

protected theorem Intact.execAonLp (h : Intact s t) : Answers s (execAonLp t) := by
  unfold execAonLp
  exact h.mgmt (fun _ => h.mgmtDesc (by split; exacts [h.mgmtMal, (Intact.ite h.mgmtMal h.fields.mgmtDone)]))

protected theorem Intact.execPfD3hot (h : Intact s t) : Answers s (execPfD3hot t) := by
  unfold execPfD3hot
  exact Answers.ite h.stutter (Answers.ite h.fields.setDomain.setDomain.fields.next h.fields.next)

protected theorem Intact.execAonLpExitTlp (h : Intact s t) : Answers s (execAonLpExitTlp t) := by
  unfold execAonLpExitTlp
  exact Answers.ite h.wakeDie.next h.stutter

theorem Intact.releaseEvents (h : Intact s t) : Intact s (t.releaseEvents) := by
  unfold State.releaseEvents
  exact Intact.foldl (Intact.foldl h.fields fun _ _ h => h.deliverEvent) fun _ _ h => h.judge

theorem Intact.releaseRing (h : Intact s t) {fuel c : Nat} : Intact s (State.releaseRing fuel c t) := by
  induction fuel generalizing t with
  | zero => exact h
  | succ fuel ih => exact ih h.postWaiting

theorem Intact.releaseHeld (h : Intact s t) : Intact s (t.releaseHeld) := by
  unfold State.releaseHeld
  exact Intact.foldl (Intact.foldl h fun _ _ h => h.markerDue).releaseEvents fun _ _ h => h.releaseRing.reportFull

protected theorem Intact.execPfD0Return (h : Intact s t) : Answers s (execPfD0Return t) := by
  unfold execPfD0Return
  exact Answers.ite h.stutter h.fields.releaseHeld.next

protected theorem Intact.execPaceSet (h : Intact s t) : Answers s (execPaceSet t) := by
  unfold execPaceSet
  exact h.mgmt (fun _ => h.mgmtDesc (Intact.ite h.mgmtEnd h.fields.mgmtDone))

protected theorem Intact.execVoltSet (h : Intact s t) : Answers s (execVoltSet t) := by
  unfold execVoltSet
  exact h.mgmt (fun _ => h.mgmtDesc (Intact.ite h.mgmtEnd (Intact.ite h.freeTaken.mgmtMal h.fields.emit.mgmtWait)))

theorem Intact.voltFailed (h : Intact s t) {status : BitVec 16} : Intact s (t.voltFailed status) := h.fields.emit.mgmtMal

protected theorem Intact.execVoutPoll (h : Intact s t) {mv : Nat} {status : BitVec 16} : Answers s (execVoutPoll mv status t) := by
  unfold execVoutPoll
  dsimp only
  split
  · refine Answers.ite ?_ ?_
    · exact h.stutter
    · refine Answers.ite ?_ ?_
      · exact h.advanceTo.voltFailed.next
      · exact Answers.ite (Answers.ite h.advanceTo.fields.mgmtDone.next h.advanceTo.fields.next) h.advanceTo.fields.next
  · exact h.stutter

protected theorem Intact.execVoltSetTimeout (h : Intact s t) : Answers s (execVoltSetTimeout t) := by
  unfold execVoltSetTimeout
  split
  · exact h.advanceTo.voltFailed.next
  · exact h.stutter

protected theorem Intact.execPmbusTelemetryRead (h : Intact s t) {mv ma : Nat} {tempC : ℤ} :
    Answers s (execPmbusTelemetryRead mv ma tempC t) := by
  unfold execPmbusTelemetryRead
  exact Answers.ite h.fields.next h.stutter

protected theorem Intact.execPmbusAlert (h : Intact s t) {status : BitVec 16} : Answers s (execPmbusAlert status t) := by
  unfold execPmbusAlert
  exact Answers.ite h.stutter h.fields.thermEvent.emit.next

protected theorem Intact.execPaceShortfall (h : Intact s t) : Answers s (execPaceShortfall t) := by
  unfold execPaceShortfall
  exact Answers.ite h.stutter (Intact.ite h.fields h.fields.thermEvent).next

protected theorem Intact.execPowerLimitCheck (h : Intact s t) {avgW : Nat} : Answers s (execPowerLimitCheck avgW t) := by
  unfold execPowerLimitCheck
  exact Answers.ite h.stutter (Intact.ite h.fields.thermEvent h.fields).next

protected theorem Intact.execThermalAlert (h : Intact s t) {avgC : ℤ} : Answers s (execThermalAlert avgC t) := by
  unfold execThermalAlert
  exact Answers.ite h.stutter (Answers.ite (Answers.ite h.stutter h.fields.thermEvent.next) (Answers.ite h.fields.next h.stutter))

protected theorem Intact.execTelemetryUpdate (h : Intact s t) {avgW : Nat} {avgC : ℤ} : Answers s (execTelemetryUpdate avgW avgC t) := by
  unfold execTelemetryUpdate
  exact Answers.ite h.fields.next h.stutter

/-! ### Partition -/

theorem Intact.clearIslet (h : Intact s t) {n : Nat} {cause : Option (Nat × Word)} : Intact s (t.clearIslet n cause) := by
  unfold State.clearIslet
  dsimp only
  split
  · exact h.isletLost
  · split
    · exact h.enterState.setDomain.reachedEvent
    · exact h.enterState.setDomain
  · exact h.isletLost

theorem Intact.queueFill (h : Intact s t) {gs : List Nat} {purpose part key : Nat} : Intact s (t.queueFill gs purpose part key) := by
  unfold State.queueFill
  exact (Intact.foldl h fun _ _ h => h.beginMove).fields

theorem Intact.newAtRest (h : Intact s t) {p : Nat} : Intact s (t.newAtRest p) := h.freeTaken.fields

theorem Intact.tellPart (h : Intact s t) {p code : Nat} : Intact s (t.tellPart p code) := by
  unfold State.tellPart
  exact Intact.foldl h fun _ _ h => h.forward

theorem Intact.actElsewhere (h : Intact s t) {op p : Nat} {ide : Bool} : Intact s (t.actElsewhere op p ide) := by
  unfold State.actElsewhere
  exact Intact.foldl h fun _ _ h => h.forward

theorem Intact.nowCreated (h : Intact s t) {p q : Nat} {seq : Word} : Intact s (t.nowCreated p q seq) := by
  unfold State.nowCreated
  exact Intact.ite h.setPart.tellPart.observeBy h.setPart.tellPart

theorem Intact.endCreate (h : Intact s t) {p start : Nat} : Intact s (t.endCreate p start) := h.nowCreated.setPart.mgmtDone

protected theorem Intact.execPartCreate (h : Intact s t) : Answers s (execPartCreate t) := by
  unfold execPartCreate
  refine Answers.ite h.stutter (h.mgmt fun _ => ?_)
  refine h.mgmtDesc (Intact.ite h.mgmtMal (Intact.ite h.mgmtMal (Intact.ite h.mgmtMal (Intact.ite h.mgmtMal ?_))))
  dsimp only
  split
  · exact h.mgmtMal
  · exact Intact.ite h (Intact.ite
      (Intact.foldl (Intact.foldl h.setPart.newAtRest fun _ _ h => h.setOwner) fun _ _ h => h.clearIslet).mgmtWait.tellPart.endCreate
      (Intact.foldl (Intact.foldl h.setPart.newAtRest fun _ _ h => h.setOwner) fun _ _ h => h.clearIslet).mgmtWait.tellPart.queueFill)

theorem Intact.beginTenant (h : Intact s t) {p : Nat} {ideRequired : Bool} : Intact s (t.beginTenant p ideRequired) := h.setPart.tellPart

protected theorem Intact.execTenantBegin (h : Intact s t) : Answers s (execTenantBegin t) := by
  unfold execTenantBegin
  exact h.mgmt (fun _ => h.mgmtDesc (Intact.ite h.mgmtMal (Intact.ite h.mgmtMal
    (Intact.ite h.beginTenant.actElsewhere.mgmtWait h.beginTenant.mgmtDone))))

theorem Intact.stopQueue (h : Intact s t) {q : Nat} {keep : Bool} : Intact s (t.stopQueue q keep) := h.setQueue

theorem Intact.dropWaiting (h : Intact s t) {p : Nat} : Intact s (t.dropWaiting p) := by
  unfold State.dropWaiting
  exact Intact.foldl h fun _ _ h => h.setRing

theorem Intact.stopTests (h : Intact s t) {p : Nat} : Intact s (t.stopTests p) := by
  refine Intact.foldl h fun _ _ h => ?_
  dsimp only
  split
  · exact Intact.ite h.setQueue h
  · exact h

theorem Intact.stopTransfers (h : Intact s t) {p : Nat} : Intact s (t.stopTransfers p) := by
  unfold State.stopTransfers
  exact (Intact.foldl (Intact.foldl h fun _ _ h => h.setPort) fun _ _ h => h.setIslet).fields

theorem Intact.dropWindows (h : Intact s t) {p : Nat} : Intact s (t.dropWindows p) := by
  unfold State.dropWindows
  exact (Intact.foldl h fun _ _ h => (Intact.ite h.sendNote h)).fields

theorem Intact.endKeys (h : Intact s t) {p : Nat} {destroy : Bool} : Intact s (t.endKeys p destroy) := by
  unfold State.endKeys
  exact Intact.ite h.fields h.fields.newAtRest

theorem Intact.ideInsecure (h : Intact s t) {k : Nat} : Intact s (t.ideInsecure k) := h.fields.setPart

theorem Intact.startSwitch (h : Intact s t) {p : Nat} {issuer : Option Nat} {destroy : Bool} {start : Nat} :
    Intact s (t.startSwitch p issuer destroy start) := by
  unfold State.startSwitch
  extract_lets _ _ _ _ s1 _ _ s2 _ s3 s4 s5 s6 _ _ _ _ s7
  have h1 : Intact s s1 := Intact.ite h.setPart.tellPart h.setPart.tellPart.actElsewhere
  have h2 : Intact s s2 := Intact.foldl h1.setSwitch.stopTests.dropWaiting fun _ _ h => h.stopQueue
  have h3 : Intact s s3 := h2.resetPartPins.stopTransfers.dropWindows
  have h4 : Intact s s4 := Intact.foldl h3 fun _ _ h => h.setInvs.fields
  have h5 : Intact s s5 := Intact.foldl h4 fun _ _ h => h.discard
  have h6 : Intact s s6 := Intact.foldl h5 fun _ _ h => h.clearIslet
  have h7 : Intact s s7 := h6.fields.setSession.ideInsecure.endKeys.setPart
  exact h7.queueFill

theorem Intact.resetPartRings (h : Intact s t) {p : Nat} : Intact s (t.resetPartRings p) := by
  unfold State.resetPartRings
  exact (Intact.foldl (Intact.foldl h fun _ _ h => h.setQueue.tellLead) fun _ _ h => h.setRing).fields

theorem Intact.releasePart (h : Intact s t) {p : Nat} : Intact s (t.releasePart p) := by
  unfold State.releasePart
  exact (Intact.foldl h.returnPins fun _ _ h => h.setOwner).setPart

theorem Intact.endSwitch (h : Intact s t) {p : Nat} : Intact s (t.endSwitch p) := by
  unfold State.endSwitch
  dsimp only
  split
  · exact h
  · split
    · exact h
    · refine Intact.ite ?_ ?_
      · exact h
      · exact (Intact.ite (Intact.resetPartRings (by split; exacts [h.setSwitch.mgmtDone.complete, h.setSwitch])).releasePart.tellPart
        (Intact.resetPartRings (by split; exacts [h.setSwitch.mgmtDone.complete, h.setSwitch])).nowCreated).raiseEvent

theorem Intact.switchFilled (h : Intact s t) {p : Nat} : Intact s (t.switchFilled p) := by
  unfold State.switchFilled
  split
  · exact h
  · exact h.setSwitch.setPart.endSwitch

protected theorem Intact.execTenantEnd (h : Intact s t) {q : Nat} : Answers s (execTenantEnd q t) := by
  unfold execTenantEnd
  exact h.mgmt (fun _ => h.mgmtDesc (Intact.ite h.mgmtMal (Intact.ite h.mgmtMal h.mgmtWait.startSwitch)))

protected theorem Intact.execPartDestroy (h : Intact s t) : Answers s (execPartDestroy t) := by
  unfold execPartDestroy
  exact h.mgmt (fun _ => h.mgmtDesc (Intact.ite h.mgmtMal (Intact.ite h.mgmtMal h.mgmtWait.startSwitch)))

theorem Intact.othersDone (h : Intact s t) {p : Nat} : Intact s (t.othersDone p) := by
  unfold State.othersDone
  exact (Intact.endSwitch (by split; exacts [(Intact.ite h.mgmtDone h), h]))

theorem Intact.partIs (h : Intact s t) {d p code : Nat} : Intact s (t.partIs d p code) := by
  unfold State.partIs
  exact Intact.ite h.setPart (Intact.othersDone (by split; exacts [(Intact.ite h.setPart.forward h.setPart), h.setPart]))

theorem Intact.actHere (h : Intact s t) {op p : Nat} {ide : Bool} : Intact s (t.actHere op p ide) := by
  unfold State.actHere
  exact Intact.ite h (by split; exacts [(Intact.ite h.beginTenant h), (Intact.ite h.startSwitch h), (Intact.ite h.startSwitch h)])

theorem Intact.resetConfig (h : Intact s t) {fn : Nat} : Intact s (t.resetConfig fn) := h.fields

protected theorem Intact.execVfFlr (h : Intact s t) {fn : Nat} : Answers s (execVfFlr fn t) := by
  unfold execVfFlr
  exact Answers.ite h.stutter
    (Intact.ite h.resetConfig.setSession.fields.ideInsecure.startSwitch h.resetConfig.setSession.fields.ideInsecure).next

protected theorem Intact.execPfFlr (h : Intact s t) : Answers s (execPfFlr t) := by
  unfold execPfFlr
  exact Answers.ite h.resetConfig.next h.resetConfig.setQueue.setRing.setRing.setSession.fields.releaseHeld.next

/-! ### Goose -/

theorem Intact.needHost {q : Nat} {r : Run} {i a n off : Nat} {f : List Byte → State} (h : Intact s t) (hf : ∀ x, Intact s (f x)) :
    Intact s (t.needHost q r i a n off f) := by
  unfold State.needHost
  split
  · exact (hf _)
  · exact Intact.ite h.mgmtMal (Intact.ite h.toHost.setRun h)

theorem Intact.report (h : Intact s t) {p : Option Nat} {nonce : List Byte} {others : Sections} : Intact s (t.report p nonce others).2 := by
  unfold State.report
  exact (Intact.freeTaken (by split; exacts [h.setPart, h.fields]))

protected theorem Intact.execAttest (h : Intact s t) {q : Nat} {others : Sections} : Answers s (execAttest q others t) := by
  refine h.mgmt fun r => Intact.ite h ?_
  have h1 := h.report (p := reportPart q) (nonce := slice r.entry 32 32) (others := others)
  exact h1.toHost.mgmtDone

/-- An answer of the responder, where there is one, keeps the state intact. -/
theorem Intact.endSession (h : Intact s t) {fn : Nat} : Intact s (t.endSession fn) := Intact.ite h.setSession h.setSession.ideInsecure

theorem Intact.answerTo (h : Intact s t) {fn code : Nat} {request : List Byte} {ok : Bool} {others : Sections} :
    ∀ x ∈ t.answerTo fn code request ok others, Intact s x.2 := by
  unfold State.answerTo
  dsimp only
  intro x hx
  split at hx
  · split at hx
    · cases hx
    · cases hx
      exact h.report (nonce := slice request 4 32) (others := others)
  · split at hx
    · split at hx <;> cases hx
      exact h
    · split at hx
      · split at hx
        · cases hx
          exact h
        · split at hx <;> cases hx
          exact h.freeTaken.setSession
      · split at hx
        · cases hx
          exact Intact.ite h.setSession h
        · split at hx
          · cases hx
            exact h.endSession
          · split at hx <;> cases hx
            · exact h.setSession
            · exact h

theorem Intact.respond (h : Intact s t) {fn code : Nat} {request : List Byte} {ok : Bool} {others : Sections} {x : List Byte × State}
    (hx : t.respond fn code request ok others = some x) : Intact s x.2 := by
  obtain ⟨y, hy, rfl⟩ := Option.map_eq_some_iff.mp hx
  exact (h.answerTo y hy).setSession

protected theorem Intact.execSessionExchange (h : Intact s t) {q : Nat} {request : List Byte} {ok : Bool} {others : Sections} :
    Answers s (execSessionExchange q request ok others t) := by
  refine h.mgmt fun _ => h.mgmtDesc (h.needHost fun _ => ?_)
  split
  · exact h
  · next hx => exact Intact.ite h.mgmtMal (h.respond hx).toHost.mgmtDone

protected theorem Intact.doe (h : Intact s t) {fn code : Nat} {request : List Byte} {ok : Bool} {others : Sections} :
    Answers s (doe fn code request ok others t) := by
  refine Answers.ite h.stutter ?_
  split
  · exact h.stutter
  · next hx => exact (h.respond hx).emit.next

protected theorem Intact.execGetVersion (h : Intact s t) {fn : Nat} {request : List Byte} : Answers s (execGetVersion fn request t) := h.doe

protected theorem Intact.execGetCapabilities (h : Intact s t) {fn : Nat} {request : List Byte} :
    Answers s (execGetCapabilities fn request t) := h.doe

protected theorem Intact.execNegotiateAlgorithms (h : Intact s t) {fn : Nat} {request : List Byte} :
    Answers s (execNegotiateAlgorithms fn request t) := h.doe

protected theorem Intact.execGetDigests (h : Intact s t) {fn : Nat} {request : List Byte} : Answers s (execGetDigests fn request t) := h.doe

protected theorem Intact.execGetCertificate (h : Intact s t) {fn : Nat} {request : List Byte} :
    Answers s (execGetCertificate fn request t) := h.doe

protected theorem Intact.execChallenge (h : Intact s t) {fn : Nat} {request : List Byte} : Answers s (execChallenge fn request t) := h.doe

protected theorem Intact.execGetMeasurements (h : Intact s t) {fn : Nat} {request : List Byte} {others : Sections} :
    Answers s (execGetMeasurements fn request others t) := h.doe

protected theorem Intact.execKeyExchange (h : Intact s t) {fn : Nat} {request : List Byte} : Answers s (execKeyExchange fn request t) :=
  h.doe

protected theorem Intact.execFinish (h : Intact s t) {fn : Nat} {request : List Byte} {ok : Bool} :
    Answers s (execFinish fn request ok t) := h.doe

protected theorem Intact.execEndSession (h : Intact s t) {fn : Nat} {request : List Byte} : Answers s (execEndSession fn request t) := h.doe

protected theorem Intact.execIdeStreamEnable (h : Intact s t) {k : Nat} : Answers s (execIdeStreamEnable k t) := by
  unfold execIdeStreamEnable
  exact Answers.ite h.stutter (Answers.ite h.fields.fields.setPart.releaseHeld.next h.fields.next)

protected theorem Intact.execIdeIntegrityFail (h : Intact s t) {k : Nat} : Answers s (execIdeIntegrityFail k t) := by
  unfold execIdeIntegrityFail
  exact Answers.ite h.stutter h.ideInsecure.next

theorem Intact.authorised (h : Intact s t) {e : List Byte} : Intact s (t.authorised e) := h.sealedEntry.freeTaken

theorem Intact.newNonce (h : Intact s t) : Intact s (t.newNonce) := h.freeTaken.fields

theorem Intact.signed {r : Run} {read : Nat} {newKey : List Byte} {act : State → State} (h :
    Intact s t) (hact : ∀ u, Intact s u → Intact s (act u)) :
    Intact s (t.signed r read newKey act) := by
  unfold State.signed
  exact Intact.ite h (h.needHost (fun _ => (Intact.ite (hact _ h.newNonce.authorised) h.newNonce.mgmtRefuse)))

protected theorem Intact.execDebugOpen (h : Intact s t) : Answers s (execDebugOpen t) := by
  unfold execDebugOpen
  exact h.mgmt (fun _ => h.mgmtDesc (h.signed (fun _ h => (Intact.foldl h.fields fun _ _ h => (Intact.ite h.observeBy h)).mgmtDone)))

protected theorem Intact.execOperatorKeyFuse (h : Intact s t) : Answers s (execOperatorKeyFuse t) := by
  refine h.mgmt fun _ => h.mgmtDesc (Intact.ite h.mgmtMal (Intact.ite h.mgmtMal (Intact.ite ?_ ?_)))
  · exact h.needHost fun _ => Intact.ite h.mgmtWait (h.signed fun _ h => h.mgmtWait)
  · exact h.signed fun _ h => h.mgmtWait

theorem Intact.writeRecord (h : Intact s t) {active : Bool} {staged : BitVec 2} : Intact s (t.writeRecord active staged) :=
  h.flash (Memory.wf_write _ _ _)

protected theorem Intact.execFwStage (h : Intact s t) : Answers s (execFwStage t) := by
  unfold execFwStage
  exact h.mgmt (fun _ => h.mgmtDesc (h.needHost (fun _ => (Intact.ite h.mgmtMal (Intact.ite h.mgmtMal (h.needHost
    (fun _ => h.mgmtWait)))))))

theorem Intact.refuseStage (h : Intact s t) {r : Run} : Intact s (t.refuseStage r) := h.writeRecord.setRun.mgmtRefuse

theorem Intact.commitNext (h : Intact s t) {r : Run} : Intact s (t.commitNext r) := by
  unfold State.commitNext
  exact Intact.ite h.mgmtWait h.mgmtDone

protected theorem Intact.execFwCommit (h : Intact s t) : Answers s (execFwCommit t) :=
  h.mgmt fun _ => h.mgmtDesc (Intact.ite h.mgmtMal
    (Intact.ite (Intact.ite h.mgmtWait h.commitNext) (h.signed fun _ h => Intact.ite h.mgmtWait h.commitNext)))

protected theorem Intact.execFlashProgramDone (h : Intact s t) : Answers s (execFlashProgramDone t) := by
  unfold execFlashProgramDone
  dsimp only
  split
  · split
    · split
      · exact h.stutter
      · exact (h.flash (Memory.wf_write _ _ _)).mgmtWait.next
    · exact Answers.ite h.writeRecord.mgmtDone.next h.writeRecord.refuseStage.next
  · split
    · exact h.writeRecord.mgmtDone.next
    · exact h.stutter
  · exact h.stutter

protected theorem Intact.execRandGet (h : Intact s t) {q : Nat} : Answers s (execRandGet q t) := by
  unfold execRandGet
  exact h.mgmt (fun _ => h.mgmtDesc (Intact.ite h.mgmtEnd h.toHost.freeTaken.mgmtDone))

theorem Intact.joined (h : Intact s t) {mask : BitVec 64} {dies : List RemoteDie} : Intact s (t.joined mask dies) := by
  unfold State.joined
  exact Intact.foldl (Intact.foldl h.fields fun _ _ h => h.tellLead) fun _ _ h => h.tellPart

protected theorem Intact.execMachineJoin (h : Intact s t) {dies : List RemoteDie} : Answers s (execMachineJoin dies t) := by
  unfold execMachineJoin
  exact h.mgmt (fun _ => h.mgmtDesc (by split; exacts [h.mgmtMal, (Intact.foldl h fun _ _ h => h.forward).joined.mgmtDone]))

protected theorem Intact.execExportSeal (h : Intact s t) {q : Nat} : Answers s (execExportSeal q t) := by
  refine h.mgmt fun _ => h.mgmtDesc (h.needHost fun _ => ?_)
  dsimp only
  split
  · exact h.mgmtMal
  · refine Intact.ite h.mgmtRefuse (Intact.ite h ?_)
    split
    · exact h.readHbm.poisonEvent.mgmtEnd
    · exact h.readHbm.toHost.freeTaken.mgmtDone

theorem Intact.askChunk (h : Intact s t) {q : Nat} {e : List Byte} {wraps body c : Nat} : Intact s (t.askChunk q e wraps body c) := h.toHost

theorem Intact.setContent (h : Intact s t) {p : Nat} {k : List Byte} : Intact s (t.setContent p k) := h.fields

protected theorem Intact.execWeightLoad (h : Intact s t) {q : Nat} : Answers s (execWeightLoad q t) := by
  refine h.mgmt fun _ => h.mgmtDesc (h.needHost fun _ => ?_)
  dsimp only
  split
  · exact h.mgmtMal
  · refine h.needHost fun _ => Intact.ite h.mgmtMal (Intact.ite h.mgmtMal (Intact.ite h.mgmtMal (Intact.ite h.mgmtMal ?_)))
    split
    · exact Intact.ite h.setContent.mgmtWait.askChunk h.mgmtRefuse
    · exact h.mgmtRefuse

theorem Intact.loadFailed (h : Intact s t) {q : Nat} {r : Run} {sub detail : Nat} : Intact s (t.loadFailed q r sub detail) := by
  unfold State.loadFailed
  exact Intact.ite h.setContent.writeRaw.mgmtMal h.mgmtWait

theorem Intact.freeze (h : Intact s t) {frame : Nat} : Intact s (t.freeze frame) := by
  unfold State.freeze
  exact Intact.ite h (Intact.foldl (Intact.foldl h fun _ _ h => (Intact.ite h.drainStores h)) fun _ _ h => h.settleLine.evictLag).fields

theorem Intact.packageLoaded (h : Intact s t) {p dst body : Nat} {header ents : List Byte} :
    Intact s (t.packageLoaded p dst body header ents) := h.setPart.setContent

protected theorem Intact.execWeightLoadChunk (h : Intact s t) {q : Nat} : Answers s (execWeightLoadChunk q t) := by
  unfold execWeightLoadChunk
  dsimp only
  split
  · exact h.stutter
  · split
    · exact h.loadFailed.next
    · split
      · exact h.stutter
      · split
        · exact h.loadFailed.next
        · refine Answers.ite ?_ ?_
          · exact h.stutter
          · exact Answers.ite h.freeze.writeRaw.mgmtWait.askChunk.next h.freeze.writeRaw.mgmtWait.packageLoaded.mgmtDone.reevaluate.next

/-! ### Rings -/

theorem Intact.issuePoll (h : Intact s t) {q : Nat} : Intact s (t.issuePoll q) := h.setQueue.emit

protected theorem Intact.execDoorbellPoll (h : Intact s t) {q : Nat} : Answers s (execDoorbellPoll q t) := by
  unfold execDoorbellPoll
  dsimp only
  refine Answers.ite ?_ ?_
  · exact h.stutter
  · refine Answers.ite ?_ ?_
    · exact (Intact.ite h.issuePoll h.fetchMore).next
    · refine Answers.ite ?_ ?_
      · exact h.stutter
      · exact Answers.ite h.fetchMore.issuePoll.next (Answers.ite h.advanceTo.issuePoll.next h.fetchMore.next)

theorem Intact.discardUpTo (h : Intact s t) {q : Nat} {dest : Word} : Intact s (t.discardUpTo q dest) := h.setQueue.discardEnd.fetchMore

theorem Intact.discardRead (h : Intact s t) {q : Nat} {prod gen : Word} : Intact s (t.discardRead q prod gen) := by
  unfold State.discardRead
  exact Intact.ite h.setQueue.discardUpTo (Intact.ite h.discardUpTo h.discardUpTo)

theorem Intact.polled (h : Intact s t) {q : Nat} {prod gen : Word} : Intact s (t.polled q prod gen) := by
  unfold State.polled
  dsimp only
  refine Intact.ite ?_ ?_
  · exact Intact.ite h.discardRead h
  · refine Intact.ite ?_ ?_
    · exact h
    · refine Intact.ite ?_ ?_
      · exact h.setQueue
      · refine Intact.ite ?_ ?_
        · exact h.setQueue.fetchMore
        · split
          · exact h.ringFaultAt
          · exact h.setQueue.fetchMore

theorem Intact.leadPolled (h : Intact s t) {q : Nat} {prod gen : Word} : Intact s (t.leadPolled q prod gen) := by
  unfold State.leadPolled
  dsimp only
  refine Intact.ite ?_ ?_
  · exact Intact.ite h.forward h
  · refine Intact.ite ?_ ?_
    · exact h
    · exact Intact.ite h.forward.setQueue (Intact.ite h.setQueue.fetchMore (Intact.ite h.forward h.forward.setQueue.fetchMore))

protected theorem Intact.execPollReadComplete (h : Intact s t) {q : Nat} {prod gen : Word} :
    Answers s (execPollReadComplete q prod gen t) := by
  unfold execPollReadComplete
  exact Answers.ite h.stutter (Intact.ite h.setQueue.polled h.setQueue.leadPolled).next

protected theorem Intact.execQueueIdle (h : Intact s t) {q : Nat} : Answers s (execQueueIdle q t) := by
  unfold execQueueIdle
  exact Answers.ite h.stutter (Intact.ite h.setQueue h.setQueue.forward).next

theorem Intact.discardEntry (h : Intact s t) {q : Nat} {e : List Byte} : Intact s (t.discardEntry q e) := h.postCompletion

protected theorem Intact.execEntryFetchComplete (h : Intact s t) {q : Nat} {bytes : List Byte} :
    Answers s (execEntryFetchComplete q bytes t) := by
  unfold execEntryFetchComplete
  dsimp only
  refine Answers.ite ?_ ?_
  · exact h.stutter
  · refine Answers.ite ?_ ?_
    · exact (Intact.foldl h fun _ _ h => h.forward).setQueue.fetchMore.next
    · refine Answers.ite ?_ ?_
      · exact (Intact.foldl h.setQueue fun _ _ h => h.discardEntry).fetchMore.next
      · exact Answers.ite h.setQueue.next h.setQueue.headArrive.fetchMore.next

theorem Intact.hostBytes (h : Intact s t) {q i addr : Nat} {bytes : List Byte} : Intact s (t.hostBytes q i addr bytes) := by
  unfold State.hostBytes
  split
  · exact h
  · exact h.setRun

protected theorem Intact.execHostReadReturn (h : Intact s t) {q i addr : Nat} {bytes : List Byte} :
    Answers s (execHostReadReturn q i addr bytes t) := by
  unfold execHostReadReturn
  exact Answers.ite h.stutter (Intact.ite h.hostBytes h.forward).next

theorem Intact.pollFailed (h : Intact s t) {q : Nat} : Intact s (t.pollFailed q) := by
  unfold State.pollFailed
  exact Intact.ite (Intact.ite h.discardUpTo h) (Intact.ite h h.ringFaultAt)

theorem Intact.fetchFailed (h : Intact s t) {q : Nat} : Intact s (t.fetchFailed q) := by
  unfold State.fetchFailed
  exact Intact.ite h.setQueue h.setQueue.ringFaultAt

theorem Intact.commandFailed (h : Intact s t) {q i addr kind : Nat} : Intact s (t.commandFailed q i addr kind) := by
  unfold State.commandFailed
  split
  · exact h.loadFailed
  · split
    · exact h.setRun
    · exact h

theorem Intact.hostReadFails (h : Intact s t) {t' : ReadTarget} {kind : Nat} : Intact s (t.hostReadFails t' kind) := by
  unfold State.hostReadFails
  split
  · exact Intact.ite h (Intact.ite h.setQueue.pollFailed h.setQueue.forward)
  · exact Intact.ite h (Intact.ite h.fetchFailed h.setQueue.forward)
  · exact Intact.ite h.commandFailed h.forward

protected theorem Intact.execHostReadTimeout (h : Intact s t) {t' : ReadTarget} : Answers s (execHostReadTimeout t' t) :=
  h.hostReadFails.next

protected theorem Intact.execHostReadError (h : Intact s t) {t' : ReadTarget} {e : ReadError} : Answers s (execHostReadError t' e t) :=
  h.hostReadFails.next

theorem Intact.kick (h : Intact s t) {a : Acc} {q : Nat} : Intact s (t.kick a q) := by
  unfold State.kick
  exact Intact.ite h.logAccess (Intact.ite h.setQueue h.setQueue.tellLead)

theorem Intact.enableQueue (h : Intact s t) {q : Nat} {park : Bool} : Intact s (t.enableQueue q park) := by
  unfold State.enableQueue
  exact Intact.ite h.setQueue.ringFaultAt (Intact.ite h.setQueue.ringFaultAt (Intact.ite h.setQueue.ringFaultAt h.setQueue.tellLead))

theorem Intact.writeQctrl (h : Intact s t) {a : Acc} {q : Nat} {enable park : Bool} : Intact s (t.writeQctrl a q enable park) := by
  unfold State.writeQctrl
  exact Intact.ite (Intact.ite h.enableQueue h.setQueue) (Intact.ite h.setQueue.tellLead
    (Intact.ite h.setQueue.tellLead h.setQueue.tellLead.logAccess))

theorem Intact.resumeQueue (h : Intact s t) {q : Nat} : Intact s (t.resumeQueue q) := by
  unfold State.resumeQueue
  exact Intact.ite h.setQueue.ringFaultAt h.setQueue.haltEnds

theorem Intact.discardQueue (h : Intact s t) {q : Nat} : Intact s (t.discardQueue q) := by
  unfold State.discardQueue
  exact Intact.ite h.setQueue.issuePoll h.setQueue.tellLead

theorem Intact.writeResume (h : Intact s t) {a : Acc} {q : Nat} {resume discard : Bool} : Intact s (t.writeResume a q resume discard) := by
  unfold State.writeResume
  exact Intact.ite h (Intact.ite h.logAccess (Intact.ite h.discardQueue h.resumeQueue))

theorem Intact.ringRoom (h : Intact s t) {c : Nat} : Intact s (t.ringRoom c) := by
  unfold State.ringRoom
  split
  · exact h.markerDue
  · exact h.releaseRing.reportFull

theorem Intact.writeHead (h : Intact s t) {a : Acc} {c : Nat} {head : Word} : Intact s (t.writeHead a c head) := by
  unfold State.writeHead
  exact Intact.ite h.logAccess h.setRing.ringRoom

theorem Intact.bootPost (h : Intact s t) {c : Nat} : Intact s (t.bootPost c) := by
  unfold State.bootPost
  exact Intact.ite h (Intact.ite (Intact.ite h.fields.raiseEvent h.fields).thermEvent (Intact.ite h.fields.raiseEvent h.fields))

theorem Intact.enableRing (h : Intact s t) {c : Nat} : Intact s (t.enableRing c) := h.setRing.ringRoom.bootPost

theorem Intact.writeCqcfg (h : Intact s t) {a : Acc} {c v : Nat} : Intact s (t.writeCqcfg a c v) := by
  unfold State.writeCqcfg
  extract_lets _ _ _ _ _ _ _ _ _ s1
  have h1 : Intact s s1 := Intact.ite h.setRing.logAccess (Intact.ite h.setRing.logAccess h.setRing)
  exact Intact.ite h1 (Intact.ite h1.enableRing h1.setRing)

/-! ### Windows -/

theorem Intact.tryClose (h : Intact s t) {p w : Nat} : Intact s (t.tryClose p w) := by
  unfold State.tryClose
  dsimp only
  split
  · exact h
  · exact Intact.ite h (Intact.ite h.setWin.mgmtDone.settleWindowWaits h.breach.settleWindowWaits)

theorem Intact.tryCloses (h : Intact s t) : Intact s (t.tryCloses) := by
  unfold State.tryCloses
  exact Intact.foldl h fun _ _ h => (by split; exacts [h.tryClose, h])

theorem Intact.giveBack (h : Intact s t) {key : Nat} : Intact s (t.giveBack key) := by
  unfold State.giveBack
  exact Intact.ite h.fields.setWin h.fields.sendNote

theorem Intact.auditStep (h : Intact s t) {q code : Nat} {found : List Nat} {skip : Bool} : Intact s (t.auditStep q code found skip) := by
  unfold State.auditStep
  split
  · exact h
  · exact Intact.ite h h.mgmtWait

theorem Intact.auditWindows (h : Intact s t) {q : Nat} : Intact s (t.auditWindows q) := by
  unfold State.auditWindows
  split
  · exact h
  · exact Intact.foldl h fun _ _ h => (Intact.ite (by split; exacts [h, h.auditStep]) h)

theorem Intact.auditEnd (h : Intact s t) {q : Nat} : Intact s (t.auditEnd q) := by
  unfold State.auditEnd
  dsimp only
  split
  · exact h
  · refine Intact.ite ?_ ?_
    · exact h
    · exact Intact.foldl (Intact.foldl h.mgmtDone.complete.raiseEvent fun _ _ h => h.judge) fun _ _ h => (Intact.ite h.creditBreach
      (by split; exacts [h.judge, h]))

theorem Intact.tryAudits (h : Intact s t) : Intact s (t.tryAudits) := by
  unfold State.tryAudits
  exact Intact.foldl h fun _ _ h => h.auditWindows.auditEnd

theorem Intact.auditSent (h : Intact s t) {p w sent : Nat} : Intact s (t.auditSent p w sent) := by
  unfold State.auditSent
  exact (Intact.foldl h fun _ _ h => h.auditStep).tryAudits

theorem Intact.settleWindows (h : Intact s t) : Intact s (t.settleWindows) := h.tryCloses.tryAudits

theorem Intact.settleRevokes (h : Intact s t) : Intact s (t.settleRevokes) := by
  unfold State.settleRevokes
  exact (Intact.foldl h fun _ _ h => (Intact.ite h h.giveBack)).settleWindows

theorem Intact.endPush (h : Intact s t) {k : Nat} : Intact s (t.endPush k) := h.setIslet.fields.sendNote

theorem Intact.settleXfer (h : Intact s t) {k : Nat} : Intact s (t.settleXfer k) := by
  unfold State.settleXfer
  extract_lets _ s1
  have h1 : Intact s s1 := Intact.ite h.setXfer h.fields
  refine Intact.ite ?_ ?_
  · exact h
  · split
    · exact h.endPush
    · refine Intact.ite ?_ ?_
      · exact h
      · split
        · split
          · exact h1
          · exact h1.finish

theorem Intact.sealRange (h : Intact s t) {n off len : Nat} : Intact s (t.sealRange n off len) := by
  unfold State.sealRange
  exact Intact.ite h h.setIslet

theorem Intact.windowWrite (h : Intact s t) {p w who a : Nat} {bytes : List Byte} {frozen : Bool} :
    Intact s (t.windowWrite p w who a bytes frozen).s := by
  unfold State.windowWrite
  dsimp only
  split
  · exact h.writeHbm.setWin.reevaluate
  · exact (Intact.ite h.writeSp.sealRange h.writeSp).setWin.reevaluate
  · exact h

/-- A fold that carries a number beside the state. -/
theorem Intact.foldlPair {α β : Type} {f : State × β → α → State × β} {l : List α} {c : State × β} (h : Intact s c.1)
    (k : ∀ c x, Intact s c.1 → Intact s (f c x).1) : Intact s (l.foldl f c).1 := by
  induction l generalizing c with
  | nil => exact h
  | cons x l ih => exact ih (k _ _ h)

theorem Intact.queueFlit (h : Intact s t) {f : Flit} {seg : Nat} {key : Option Nat} : Intact s (t.queueFlit f seg key) := h.setPort

theorem Intact.sendRuns (h : Intact s t) {key d qos dstPart srcPart window x base : Nat} {frozen : Bool} {runs : List (Nat × List Byte)} :
    Intact s (t.sendRuns key d qos dstPart srcPart window x base frozen runs) :=
  Intact.foldlPair h fun _ _ h => Intact.foldl h fun _ _ h => h.queueFlit

theorem Intact.freshXfer (h : Intact s t) : Intact s (t.freshXfer).2 := h.fields

protected theorem Intact.execWindowOpen (h : Intact s t) {q : Nat} : Answers s (execWindowOpen q t) :=
  h.mgmt fun _ => h.mgmtDesc (Intact.ite h.mgmtMal (Intact.ite h.mgmtMal
    (Intact.ite h.mgmtRefuse (Intact.ite h.setWin.mgmtDone (Intact.ite h.setWin.fields.mgmtDone h.sendNote.mgmtWait)))))

protected theorem Intact.execGrant (h : Intact s t) {p : Nat} {raw : List Byte} {g : GrantMsg} : Answers s (execGrant p raw g t) := by
  refine h.linkReceive fun _ _ h => Intact.ite ?_ h.fields.sendNote
  dsimp only
  split
  · exact h
  · exact Intact.ite h.setWin.mgmtDone h

protected theorem Intact.execWindowClose (h : Intact s t) {q : Nat} : Answers s (execWindowClose q t) := by
  unfold execWindowClose
  exact h.mgmt (fun _ => h.mgmtDesc (Intact.ite h.setWin.mgmtWait.tryClose
    (Intact.ite h.setWin.mgmtWait.fields.settleRevokes h.setWin.mgmtWait.sendNote)))

protected theorem Intact.execRevoke (h : Intact s t) {p : Nat} {raw : List Byte} {die part window : Nat} :
    Answers s (execRevoke p raw die part window t) := by
  unfold execRevoke
  exact h.linkReceive (fun _ _ h => (Intact.ite h.fields.settleRevokes h.sendNote))

protected theorem Intact.execRevokeAck (h : Intact s t) {p : Nat} {raw : List Byte} {part window sent : Nat} :
    Answers s (execRevokeAck p raw part window sent t) := by
  unfold execRevokeAck
  exact h.linkReceive (fun _ _ h => (Intact.ite h (Intact.ite h.setWin.tryClose.settleRevokes (Intact.ite h.auditSent h))))

protected theorem Intact.execWinAck (h : Intact s t) {p : Nat} {raw : List Byte} {x bytes : Nat} :
    Answers s (execWinAck p raw x bytes t) := by
  unfold execWinAck
  exact h.linkReceive (fun _ _ h => (Intact.ite h h.setXfer.settleXfer.settleRevokes))

theorem Intact.loseBytes (h : Intact s t) {k bytes die port : Nat} : Intact s (t.loseBytes k bytes die port) := by
  unfold State.loseBytes
  exact Intact.ite h h.grantSent.setXfer.settleXfer

theorem Intact.dropOpens (h : Intact s t) {lost : Nat → Bool} {far port : Nat} : Intact s (t.dropOpens lost far port) := by
  unfold State.dropOpens
  exact Intact.foldl h fun _ _ h => (by split; exacts [(Intact.ite h.mgmtEnd h), h])

theorem Intact.fetchAgain (h : Intact s t) {d : Nat} : Intact s (t.fetchAgain d) := by
  unfold State.fetchAgain
  exact Intact.ite h (Intact.foldl h fun _ _ h => h.setQueue.fetchMore)

protected theorem Intact.execLostNotice (h : Intact s t) {p : Nat} {raw : List Byte} {x bytes die port : Nat} :
    Answers s (execLostNotice p raw x bytes die port t) := by
  unfold execLostNotice
  exact h.linkReceive (fun _ _ h => (Intact.ite h.dropOpens.fetchAgain h.loseBytes.settleRevokes))

protected theorem Intact.execXferVerdict (h :
    Intact s t) {p : Nat} {raw : List Byte} {x : Nat} {refused poisoned : Bool} {sent info : Nat} :
    Answers s (execXferVerdict p raw x refused poisoned sent info t) := by
  unfold execXferVerdict
  refine h.linkReceive fun _ _ h => ?_
  extract_lets _ _ s1
  have h1 : Intact s s1 := Intact.ite h.setWin h
  split
  · exact h
  · refine Intact.ite ?_ ?_
    · refine Intact.ite ?_ ?_
      · split
        · exact h1.fields.settleWindows
        · split
          · exact h1.fields.settleWindows
          · exact h1.fields.refuse.setRun.settleWindows
      · exact h1.setXfer.settleXfer.settleWindows
    · exact Intact.ite h.grantSent.setXfer.settleXfer.settleRevokes h

theorem Intact.winPoison (h : Intact s t) {p a : Nat} {y : WinWrite} : Intact s (t.winPoison p a y) := by
  unfold State.winPoison
  split
  · exact h
  · split
    · exact h.poisonEvent
    · exact h.poisonEvent
    · exact h

theorem Intact.deliverWinData (h : Intact s t) {f : Flit} : Intact s (t.deliverWinData f) := by
  unfold State.deliverWinData
  extract_lets _ _ _ _ _ _ _ _ _ _ _ _ _ s1
  have h1 : Intact s s1 := by
    unfold s1
    split
    · exact h.windowWrite.winPoison.sendNote.sendNote
    · exact h.windowWrite.winPoison.sendNote
  refine Intact.ite ?_ ?_
  · exact h
  · refine Intact.ite ?_ ?_
    · exact h.freeTaken.freeTaken.breach.settleRevokes
    · split
      · exact h.refuse.sendNote
      · exact Intact.ite h1.setXfer.settleXfer.settleWindows h1

theorem Intact.deliverGather (h : Intact s t) {f : Flit} : Intact s (t.deliverGather f) := by
  unfold State.deliverGather
  exact Intact.ite (Intact.ite h.fields h).setIslet h.sealedEntry.sendNote

protected theorem Intact.execGatherServiceStart (h : Intact s t) {n k : Nat} : Answers s (execGatherServiceStart n k t) := by
  unfold execGatherServiceStart
  dsimp only
  split
  · exact h.stutter
  · refine Answers.ite ?_ ?_
    · exact h.stutter
    · refine Intact.next ?_
      refine Intact.ite ?_ ?_
      · exact (Intact.ite (Intact.sendRuns (by split; exacts [h.readHbm.setIslet.poisonEvent, h.readHbm.setIslet])).grantSent
        (Intact.sendRuns (by split; exacts [h.readHbm.setIslet.poisonEvent, h.readHbm.setIslet]))).setXfer.endPush
      · exact (Intact.ite (Intact.sendRuns (by split; exacts [h.readHbm.setIslet.poisonEvent, h.readHbm.setIslet])).grantSent
        (Intact.sendRuns (by split; exacts [h.readHbm.setIslet.poisonEvent, h.readHbm.setIslet]))).setXfer

protected theorem Intact.execCommandComplete (h : Intact s t) {q i : Nat} : Answers s (execCommandComplete q i t) :=
  h.complete.settleRevokes.next

protected theorem Intact.execRefusalComplete (h : Intact s t) {q i : Nat} : Answers s (execRefusalComplete q i t) := by
  unfold execRefusalComplete
  split
  · exact h.stutter
  · exact Answers.ite h.advanceTo.setRun.complete.settleRevokes.next h.stutter

/-! ### Faults -/

protected theorem Intact.execScrubConfig (h : Intact s t) : Answers s (execScrubConfig t) := by
  unfold execScrubConfig
  exact h.mgmt (fun _ => h.mgmtDesc h.fields.mgmtDone)

theorem Intact.scrubTallied (h : Intact s t) {o : Option Nat} {own phys : Nat} : Intact s (t.scrubTallied o own phys) := by
  unfold State.scrubTallied
  dsimp only
  split
  · exact h.fields
  · exact h.fields.setPart

theorem Intact.scrubEvent (h : Intact s t) {o : Option Nat} {own phys action : Nat} : Intact s (t.scrubEvent o own phys action) := by
  unfold State.scrubEvent
  exact (Intact.raiseEvent (by split; exacts [h, h.raiseEvent]))

theorem Intact.scrubUncorrectable (h : Intact s t) : Intact s (t.scrubUncorrectable) := h.fields

theorem Intact.patrolBlock (h : Intact s t) {block : Nat} : Intact s (t.patrolBlock block) := by
  unfold State.patrolBlock
  extract_lets _ _ _ _ _ _ _ _ s1
  have h1 : Intact s s1 := h.recallDirty.scrubUncorrectable.fields.fields.logPoison
  split
  · exact h.recallDirty
  · exact h.recallDirty.fields.scrubTallied
  · refine Intact.ite ?_ ?_
    · exact h.recallDirty.fields
    · refine Intact.ite ?_ ?_
      · exact Intact.ite h1.setLag.scrubEvent h1.scrubEvent
      · refine Intact.ite ?_ ?_
        · exact h.recallDirty.scrubUncorrectable.needsRebuild.scrubEvent
        · exact h.recallDirty.scrubUncorrectable.fields.writeRaw.scrubEvent

theorem Intact.setPatrolPos (h : Intact s t) {k a : Nat} : Intact s (t.setPatrolPos k a) := h.fields

theorem Intact.patrolSkip (h : Intact s t) {fuel k : Nat} : Intact s (State.patrolSkip fuel k t) := by
  induction fuel generalizing t with
  | zero => exact h
  | succ fuel ih => exact Intact.ite (ih h.setPatrolPos) h

protected theorem Intact.execHbmPatrolRead (h : Intact s t) {stack : Nat} {upsets : List (Nat × Nat)} {late : Bool} :
    Answers s (execHbmPatrolRead stack upsets late t) := by
  unfold execHbmPatrolRead
  exact Answers.ite h.stutter (Intact.ite h.fields.patrolSkip.fields h.fields.patrolSkip).patrolBlock.setPatrolPos.next

theorem Intact.patrolWord (h : Intact s t) {n w : Nat} : Intact s (State.patrolWord n t w) := by
  have h1 : Intact s ({ t with spErr := Table.set 0 t.spErr (spWord n w) 0 } : State) := h.fields
  unfold State.patrolWord
  dsimp only
  split
  · exact h
  · exact h1.scrubTallied
  · refine Intact.ite h1 (Intact.ite ?_ ?_)
    · exact h1.scrubUncorrectable.fields.logPoison.scrubEvent
    · exact (h1.scrubUncorrectable.scratch (Memory.wf_zero _ _ _)).scrubEvent

protected theorem Intact.execSpPatrolRead (h : Intact s t) {n : Nat} {upsets : List (Nat × Nat)} :
    Answers s (execSpPatrolRead n upsets t) := by
  unfold execSpPatrolRead
  exact Answers.ite h.stutter (Intact.foldl h.fields fun _ _ h => h.patrolWord).setIslet.next

protected theorem Intact.execScrubTally (h : Intact s t) : Answers s (execScrubTally t) := by
  unfold execScrubTally
  extract_lets s1
  have h1 : Intact s s1 := Intact.foldl h.atSecond fun _ _ h => (Intact.ite h h.setPart.raiseEvent)
  exact Answers.ite h.stutter (Intact.ite h1 h1.fields.raiseEvent).next

protected theorem Intact.execRefusalTally (h : Intact s t) : Answers s (execRefusalTally t) := by
  unfold execRefusalTally
  extract_lets s1
  have h1 : Intact s s1 := Intact.foldl h.atSecond fun _ _ h => (Intact.ite h h.setPart.raiseEvent)
  exact Answers.ite h.stutter (Intact.ite h1 h1.fields.raiseEvent).next

protected theorem Intact.execFirmwareRebuild (h : Intact s t) {block : Nat} : Answers s (execFirmwareRebuild block t) := by
  refine Answers.ite h.stutter ?_
  dsimp only
  split
  · exact h.fields.writeRaw.next
  · exact (Intact.foldl h.fields.scrubEvent.fields fun _ _ h => h.ledgerHaltQueue).next

protected theorem Intact.execSelftest (h : Intact s t) {q : Nat} : Answers s (execSelftest q t) := by
  unfold execSelftest
  exact h.mgmt (fun _ => h.mgmtDesc (Intact.ite h.mgmtRefuse (Intact.ite h.mgmtEnd (Intact.ite h.mgmtMal h.setIslet.mgmtWait))))

theorem Intact.startTest (h : Intact s t) {q : Nat} {r : Run} : Intact s (t.startTest q r) := h.setIslet.mgmtWait

protected theorem Intact.execQuiesceDone (h : Intact s t) {q : Nat} : Answers s (execQuiesceDone q t) := by
  unfold execQuiesceDone
  split
  · exact Answers.ite h.startTest.next h.stutter
  · exact (Intact.ite h.tryQuiesced h).next

protected theorem Intact.execQuiesceTimeout (h : Intact s t) {q : Nat} : Answers s (execQuiesceTimeout q t) := by
  unfold execQuiesceTimeout
  split
  · exact Answers.ite h.stutter (Answers.ite h.advanceTo.startTest.next h.advanceTo.mgmtEnd.setIslet.reevaluate.next)
  · split
    · exact Answers.ite h.stutter (Intact.ite h.advanceTo.startTransitions h.advanceTo.quiesceFailed).next
    · exact h.stutter

protected theorem Intact.execSelftestEnd (h : Intact s t) {n : Nat} {passed : Bool} {failing : Nat} :
    Answers s (execSelftestEnd n passed failing t) := by
  unfold execSelftestEnd
  dsimp only
  split
  · exact Answers.ite h.clearSp.setIslet.fields.reevaluate.next h.stutter
  · split
    · exact h.stutter
    · refine Intact.next ?_
      exact
        (Intact.ite h.clearSp.mgmtDone.setIslet.fields.complete h.clearSp.mgmtDone.setIslet.fields.complete.raiseEvent).raiseEvent.reevaluate

protected theorem Intact.execCalibrate (h : Intact s t) : Answers s (execCalibrate t) := by
  unfold execCalibrate
  exact h.mgmt (fun _ => h.mgmtDesc (Intact.ite h.mgmtWait h.mgmtMal))

protected theorem Intact.execCalibrationEnd (h : Intact s t) : Answers s (execCalibrationEnd t) := by
  unfold execCalibrationEnd
  dsimp only
  split
  · exact h.stutter
  · exact h.mgmtDone.complete.raiseEvent.next

theorem Intact.askOthers (h : Intact s t) {e : List Byte} : Intact s (t.askOthers e) := by
  unfold State.askOthers
  exact Intact.foldl (Intact.foldl h fun _ _ h => h.setPort) fun _ _ h => (Intact.ite h h.sendNote)

protected theorem Intact.execLedgerAudit (h : Intact s t) {q : Nat} : Answers s (execLedgerAudit q t) := by
  unfold execLedgerAudit
  exact h.mgmt (fun _ => h.mgmtDesc h.askOthers.mgmtWait.tryAudits)

protected theorem Intact.execAuditCreditExchange (h : Intact s t) {p : Nat} {raw : List Byte} {returned : List Nat} :
    Answers s (execAuditCreditExchange p raw returned t) := by
  unfold execAuditCreditExchange
  exact h.linkReceive (fun _ _ h => h.auditStep.tryAudits)

protected theorem Intact.execAuditWaitTimeout (h : Intact s t) {q : Nat} : Answers s (execAuditWaitTimeout q t) := by
  unfold execAuditWaitTimeout
  split
  · exact h.stutter
  · exact (Intact.foldl h.advanceTo fun _ _ h => h.auditStep).tryAudits.next

theorem Intact.releasePort (h : Intact s t) {p : Nat} : Intact s (t.releasePort p) := by
  unfold State.releasePort
  exact Intact.ite h.setPort h

theorem Intact.ledgerRelease (h : Intact s t) {a : Acc} {snapshot : Bool} {ports : BitVec 10} :
    Intact s (t.ledgerRelease a snapshot ports) := by
  unfold State.ledgerRelease
  exact Intact.foldl (Intact.ite h (Intact.ite h.logAccess h.fields)) fun _ _ h => (Intact.ite h.releasePort h)

theorem Intact.qabort (h : Intact s t) {a : Acc} {n : Nat} {bits : BitVec 3} : Intact s (t.qabort a n bits) := by
  unfold State.qabort
  exact Intact.ite (Intact.foldl h fun _ _ h => h.abortWaiting).logAccess (Intact.foldl h fun _ _ h => h.abortWaiting)

/-! ### Strait -/

theorem Intact.stampSend (h : Intact s t) {p : Nat} {f : Flit} : Intact s (t.stampSend p f) := h.setPort.emit

theorem Intact.countSent (h : Intact s t) {f : Flit} : Intact s (t.countSent f) := by
  unfold State.countSent
  exact Intact.ite h.perfAdd h

theorem Intact.partnerSleeps (h : Intact s t) {p : Nat} {off : Bool} : Intact s (t.partnerSleeps p off) := h.setPort.linkDown

theorem Intact.sendPicked (h : Intact s t) {p : Nat} {x : Waiting} {i : Nat} : Intact s (t.sendPicked p x i) := by
  unfold State.sendPicked
  extract_lets _ _ _ _ _ _ _ _ _ s1
  have h1 : Intact s s1 := by
    unfold s1
    split
    · exact h.setPort.countSent.stampSend.freeSlot
    · exact h.setPort.countSent.stampSend
  split
  · exact h1.partnerSleeps
  · exact h1

theorem Intact.sendSync (h : Intact s t) {p : Nat} : Intact s (t.sendSync p) := h.setPort.emit

theorem Intact.sendKeyFlit (h : Intact s t) {p : Nat} : Intact s (t.sendKeyFlit p) := by
  unfold State.sendKeyFlit
  dsimp only
  split
  · exact h
  · exact h.setPort.stampSend

theorem Intact.keyingSlot (h : Intact s t) {p : Nat} : Intact s (t.keyingSlot p) := by
  unfold State.keyingSlot
  dsimp only
  split
  · exact h.setPort.stampSend
  · exact h.setPort.stampSend
  · exact Intact.ite h.sendKeyFlit (Intact.ite h.sendSync h.stampSend)

theorem Intact.upSlot (h : Intact s t) {p : Nat} : Intact s (t.upSlot p) := by
  unfold State.upSlot
  dsimp only
  split
  · exact h.setPort.stampSend
  · exact h.setPort.stampSend
  · split
    · exact h.sendPicked
    · exact h.stampSend

protected theorem Intact.execFlitSlot (h : Intact s t) {p : Nat} : Answers s (execFlitSlot p t) := by
  unfold execFlitSlot
  dsimp only
  split
  · exact h.upSlot.trySleep.next
  · exact h.keyingSlot.next
  · exact Answers.ite h.emit.next (Intact.ite h.sendKeyFlit.setPort h.sendKeyFlit).next
  · exact Answers.ite h.stutter h.emit.next
  · exact h.stutter

protected theorem Intact.execIdleReceive (h : Intact s t) {p : Nat} {raw : List Byte} : Answers s (execIdleReceive p raw t) := by
  unfold execIdleReceive
  exact h.controlReceive (fun _ _ h => h)

protected theorem Intact.execNakReceive (h : Intact s t) {p : Nat} {raw : List Byte} : Answers s (execNakReceive p raw t) := by
  unfold execNakReceive
  exact h.controlReceive (fun _ _ h => (Intact.ite h (Intact.ite h.setPort.retrain (Intact.ite h.setPort h.setPort))))

protected theorem Intact.execProbeSend (h : Intact s t) {p : Nat} : Answers s (execProbeSend p t) := by
  unfold execProbeSend
  exact Answers.ite h.stutter h.advanceTo.setPort.sendCtl.next

protected theorem Intact.execProbeReceive (h : Intact s t) {p : Nat} {raw : List Byte} : Answers s (execProbeReceive p raw t) := by
  unfold execProbeReceive
  exact h.controlReceive (fun _ _ h => h.sendCtl)

protected theorem Intact.execProbeEchoReceive (h : Intact s t) {p : Nat} {raw : List Byte} {ns : Nat} :
    Answers s (execProbeEchoReceive p raw ns t) := by
  unfold execProbeEchoReceive
  exact h.controlReceive (fun _ _ h => (Intact.ite h.setPort h))

protected theorem Intact.execSilenceTimeout (h : Intact s t) {p : Nat} : Answers s (execSilenceTimeout p t) := by
  unfold execSilenceTimeout
  exact Answers.ite h.advanceTo.retrain.next h.stutter

protected theorem Intact.execProbeTimeout (h : Intact s t) {p : Nat} : Answers s (execProbeTimeout p t) := by
  unfold execProbeTimeout
  dsimp only
  split
  · exact Answers.ite h.advanceTo.retrain.next h.stutter
  · exact h.stutter

protected theorem Intact.execCreditDeadline (h : Intact s t) {p vc : Nat} : Answers s (execCreditDeadline p vc t) := by
  unfold execCreditDeadline
  exact Answers.ite h.advanceTo.setPort.raiseEvent.next h.stutter

protected theorem Intact.execFlitCrcFailure (h : Intact s t) {p : Nat} {raw : List Byte} : Answers s (execFlitCrcFailure p raw t) := by
  unfold execFlitCrcFailure
  exact Answers.ite h.stutter (Answers.ite h.rxDiscard.next (Answers.ite h.stutter (Answers.ite h.rxDiscard.next h.sendCtl.next)))

protected theorem Intact.execFecLockLoss (h : Intact s t) {p : Nat} : Answers s (execFecLockLoss p t) := h.retrain.next

theorem Intact.dropTransfers (h : Intact s t) {d port : Nat} : Intact s (t.dropTransfers d port) := by
  unfold State.dropTransfers
  exact Intact.foldl h fun _ _ h => (Intact.ite h.loseBytes h)

theorem Intact.dropWindow (h : Intact s t) {p w : Nat} : Intact s (t.dropWindow p w) := by
  unfold State.dropWindow
  exact Intact.ite h (Intact.settleWindowWaits (by split; exacts [(Intact.ite h.setWin.mgmtDone h.setWin), h.setWin]))

theorem Intact.dropPushes (h : Intact s t) {d : Nat} : Intact s (t.dropPushes d) := by
  unfold State.dropPushes
  exact Intact.foldl h fun _ _ h => h.setIslet

theorem Intact.machineEnd (h : Intact s t) {d p : Nat} : Intact s (t.machineEnd d p) := by
  unfold State.machineEnd
  extract_lets _ _ _ _ s1 _ s2
  have h1 : Intact s s1 := Intact.foldl h.linkDown.fields fun _ _ h => h.setPart.othersDone
  have h2 : Intact s s2 := Intact.foldl h1.dropTransfers.dropPushes fun _ _ h => (Intact.foldl h fun _ _ h => h.dropWindow)
  exact h2.dropOpens.fields.settleRevokes

theorem Intact.partnerReset (h : Intact s t) {d p : Nat} : Intact s (t.partnerReset d p) := by
  unfold State.partnerReset
  exact (Intact.foldl h fun _ _ h => h.forward).machineEnd

protected theorem Intact.execPartnerTraining (h : Intact s t) {p : Nat} : Answers s (execPartnerTraining p t) := by
  unfold execPartnerTraining
  exact Answers.ite h.stutter (Intact.ite h.setPort h.setPort.emit).next

theorem Intact.ephemeral (h : Intact s t) : Intact s (t.ephemeral).2 := h.freeTaken

theorem Intact.sendKey (h : Intact s t) {p : Nat} {bytes : List Byte} : Intact s (t.sendKey p bytes) := h.setPort

theorem Intact.keyProof (h : Intact s t) {talk : List Byte} : Intact s (t.keyProof talk).2 := h.freeTaken

theorem Intact.sendHello (h : Intact s t) {p : Nat} : Intact s (t.sendHello p) := h.ephemeral.freeTaken.setPort.sendKey

theorem Intact.refuseKeying (h : Intact s t) {p : Nat} : Intact s (t.refuseKeying p) := h.sealedEntry.advanceTo.setPort.sendKey.linkDown

theorem Intact.miswired (h : Intact s t) {p : Nat} : Intact s (t.miswired p) := h.setPort.linkDown

theorem Intact.keyCheck {p : Nat} {m : KeyMsg} {verified : Bool} {k : State → State} (h :
    Intact s t) (hk : ∀ u, Intact s u → Intact s (k u)) :
    Intact s (t.keyCheck p m verified k) := by
  unfold State.keyCheck
  exact Intact.ite h.miswired (Intact.ite h.refuseKeying (hk _ h))

theorem Intact.partnerEpoch (h : Intact s t) {p : Nat} {m : KeyMsg} : Intact s (t.partnerEpoch p m) := by
  unfold State.partnerEpoch
  exact Intact.ite h.partnerReset h

theorem Intact.answerHello (h : Intact s t) {p : Nat} {m : KeyMsg} : Intact s (t.answerHello p m) :=
  h.keyCheck fun _ h => h.partnerEpoch.ephemeral.freeTaken.freeTaken.setPort.sendKey

theorem Intact.enterKeying (h : Intact s t) {p : Nat} : Intact s (t.enterKeying p) := by
  unfold State.enterKeying
  exact Intact.ite h.setPort (Intact.ite h.setPort (by split; exacts [h.setPort.answerHello, h.setPort.sendHello]))

protected theorem Intact.execTrainingDone (h : Intact s t) {p : Nat} {ok : Bool} : Answers s (execTrainingDone p ok t) := by
  unfold execTrainingDone
  dsimp only
  refine Answers.ite ?_ ?_
  · exact h.stutter
  · refine Answers.ite ?_ ?_
    · exact (Intact.ite h.setPort h).next
    · exact Answers.ite h.setPort.emit.next (Answers.ite h.setPort.next h.setPort.enterKeying.next)

protected theorem Intact.execHoldReceive (h : Intact s t) {p : Nat} : Answers s (execHoldReceive p t) := by
  unfold execHoldReceive
  exact Answers.ite h.setPort.next h.stutter

protected theorem Intact.execPortEnable (h : Intact s t) {p : Nat} : Answers s (execPortEnable p t) := by
  unfold execPortEnable
  exact Answers.ite h.setPort.enterKeying.next h.stutter

theorem Intact.keyAgain (h : Intact s t) {p : Nat} : Intact s (t.keyAgain p) := by
  unfold State.keyAgain
  exact Intact.ite h.enterKeying h

theorem Intact.takeKeyFlit {p : Nat} {c : Bool × State} {raw : List Byte} (h : Intact s c.2) : Intact s (State.takeKeyFlit p c raw).2 := by
  unfold State.takeKeyFlit
  dsimp only
  split
  · exact h.setPort.setPort
  · split
    · exact h.setPort.sendCtl
    · exact h.setPort

/-- A fold that carries a flag beside the state. -/
theorem Intact.foldlFlag {α β : Type} {f : β × State → α → β × State} {l : List α} {c : β × State} (h : Intact s c.2)
    (k : ∀ c x, Intact s c.2 → Intact s (f c x).2) : Intact s (l.foldl f c).2 := by
  induction l generalizing c with
  | nil => exact h
  | cons x l ih => exact ih (k _ _ h)

theorem Intact.keyReceive {p : Nat} {raws : List (List Byte)} {k : State → State} (h : Intact s t) (hk : ∀ u, Intact s u → Intact s (k u)) :
    Answers s (t.keyReceive p raws k) := by
  refine Answers.ite h.stutter (Answers.ite (Intact.foldl h fun _ _ h => h.rxDiscard).next (Answers.ite h.next (Intact.next ?_)))
  have h1 : Intact s (raws.foldl (State.takeKeyFlit p) (true, t)).2 := Intact.foldlFlag h fun _ _ h => h.takeKeyFlit
  exact Intact.ite (hk _ h1) h1

theorem Intact.keyGone (h : Intact s t) {p : Nat} : Intact s (t.keyGone p) := by
  unfold State.keyGone
  exact Intact.ite h h.setPort.linkDown

protected theorem Intact.execHelloI (h : Intact s t) {p : Nat} {raws : List (List Byte)} {m : KeyMsg} :
    Answers s (execHelloI p raws m t) := by
  unfold execHelloI
  exact (Intact.ite h.keyGone h).keyReceive (fun _ h => (Intact.ite h.setPort (Intact.ite h h.answerHello)))

protected theorem Intact.execHelloR (h : Intact s t) {p : Nat} {raws : List (List Byte)} {m : KeyMsg} : Answers s (execHelloR p raws m t) :=
  h.keyReceive fun _ h => Intact.ite h (h.keyCheck fun _ h => h.partnerEpoch.freeTaken.setPort.sendKey)

theorem Intact.keyed (h : Intact s t) {p : Nat} {initiator : Bool} : Intact s (t.keyed p initiator) := by
  unfold State.keyed
  dsimp only
  split
  · exact h
  · exact h.setPort

protected theorem Intact.execFinishI (h : Intact s t) {p : Nat} {raws : List (List Byte)} {m : KeyMsg} :
    Answers s (execFinishI p raws m t) := by
  unfold execFinishI
  exact h.keyReceive (fun _ h => (Intact.ite h (Intact.ite h.refuseKeying h.setPort.keyed.sendKey)))

protected theorem Intact.execFinishR (h : Intact s t) {p : Nat} {raws : List (List Byte)} {m : KeyMsg} :
    Answers s (execFinishR p raws m t) := by
  unfold execFinishR
  exact h.keyReceive (fun _ h => (Intact.ite h (Intact.ite h.refuseKeying h.keyed)))

protected theorem Intact.execKeyRefused (h : Intact s t) {p : Nat} {raws : List (List Byte)} : Answers s (execKeyRefused p raws t) := by
  unfold execKeyRefused
  exact h.keyReceive (fun _ h => (Intact.ite h h.sealedEntry.setPort.linkDown))

protected theorem Intact.execHelloResend (h : Intact s t) {p : Nat} : Answers s (execHelloResend p t) := by
  unfold execHelloResend
  exact Answers.ite h.stutter (Answers.ite h.enterKeying.next (Answers.ite h.advanceTo.setPort.next h.stutter))

theorem Intact.enterUp (h : Intact s t) {p path : Nat} : Intact s (t.enterUp p path) := h.setPort.linkUp

theorem Intact.resumeLink (h : Intact s t) {p : Nat} {m : SyncMsg} : Intact s (t.resumeLink p m) := by
  unfold State.resumeLink
  dsimp only
  split
  · exact h.creditBreach
  · exact h.setPort.fields.enterUp

theorem Intact.loseFlit (h : Intact s t) {p : Nat} {w : Waiting} : Intact s (t.loseFlit p w) := by
  unfold State.loseFlit
  dsimp only
  split
  · exact Intact.ite (Intact.ite h.sendFlit.fetchAgain h) (Intact.ite h.sendNote h)
  · exact Intact.ite h.sendNote h.loseBytes

theorem Intact.lostPath (h : Intact s t) {p : Nat} {m : SyncMsg} : Intact s (t.lostPath p m) := by
  unfold State.lostPath
  exact (Intact.foldl h.setPort fun _ _ h => h.setPort).enterKeying

theorem Intact.upReport (h : Intact s t) {p path : Nat} : Intact s (t.upReport p path) := by
  unfold State.upReport
  exact Intact.ite h.setPort.enterUp (Intact.foldl h.setPort.enterUp fun _ _ h => h.loseFlit).dropOpens.settleRevokes

theorem Intact.lostUp (h : Intact s t) {p : Nat} : Intact s (t.lostUp p) := h.fields.upReport

protected theorem Intact.execCreditSync (h : Intact s t) {p : Nat} {raw : List Byte} {m : SyncMsg} :
    Answers s (execCreditSync p raw m t) := by
  unfold execCreditSync
  refine h.controlReceive fun _ _ h => ?_
  extract_lets _ s1
  have h1 : Intact s s1 := Intact.ite h.setPort h
  exact Intact.ite h (Intact.ite h1.setPort.upReport (Intact.ite h1.lostUp (Intact.ite h1.resumeLink h1.lostPath)))

protected theorem Intact.execWinDataReceive (h : Intact s t) {p : Nat} {raw : List Byte} : Answers s (execWinDataReceive p raw t) := by
  unfold execWinDataReceive
  exact Answers.ite h.stutter (h.linkReceive (fun _ _ h => h.deliverWinData))

protected theorem Intact.execGatherReqReceive (h : Intact s t) {p : Nat} {raw : List Byte} : Answers s (execGatherReqReceive p raw t) := by
  unfold execGatherReqReceive
  exact h.linkReceive (fun _ _ h => h.deliverGather)

protected theorem Intact.execSleepReq (h : Intact s t) {p : Nat} {raw : List Byte} {off : Bool} : Answers s (execSleepReq p raw off t) := by
  unfold execSleepReq
  exact h.linkReceive (fun _ _ h => h.setPort.trySleep)

protected theorem Intact.execSleepAck (h : Intact s t) {p : Nat} {raw : List Byte} : Answers s (execSleepAck p raw t) := by
  unfold execSleepAck
  exact h.linkReceive (fun _ _ h => (Intact.ite h.setPort.tryQuiesced h))

protected theorem Intact.execWakePatternSend (h : Intact s t) {p : Nat} : Answers s (execWakePatternSend p t) := by
  unfold execWakePatternSend
  exact Answers.ite (Intact.setPort (by split; exacts [h.advanceTo, h])).emit.next h.stutter

protected theorem Intact.execWakePatternDetect (h : Intact s t) {p : Nat} : Answers s (execWakePatternDetect p t) := by
  unfold execWakePatternDetect
  exact Answers.ite h.fireWake.next h.stutter

protected theorem Intact.execWakeTimeout (h : Intact s t) {p : Nat} : Answers s (execWakeTimeout p t) := by
  unfold execWakeTimeout
  dsimp only
  split
  · exact Answers.ite h.advanceTo.setPort.linkDown.next h.stutter
  · exact h.stutter

/-! ### Writes -/

theorem Intact.logIf (h : Intact s t) {b : Bool} {cause : Nat} {a : Acc} : Intact s (t.logIf b cause a) := by
  unfold State.logIf
  exact Intact.ite h.logAccess h

theorem Intact.ruled {a : Acc} {ok : Bool} {f : State → State} (h : Intact s t) (hf : ∀ u, Intact s u → Intact s (f u)) :
    Intact s (t.ruled a ok f) := by
  unfold State.ruled
  exact Intact.ite (hf _ h) h.logAccess

theorem Intact.setUpQueue (h : Intact s t) {a : Acc} {q : Nat} {f : Queue → Queue} : Intact s (t.setUpQueue a q f) := by
  unfold State.setUpQueue
  exact h.ruled (fun _ h => h.setQueue)

theorem Intact.writeKick (h : Intact s t) {a : Acc} {v : Nat} : Intact s (t.writeKick a v) := by
  unfold State.writeKick
  exact Intact.ite h.logAccess (Intact.ite h.refuse h.kick)

theorem Intact.writeHif (h : Intact s t) {a : Acc} {r : Reg} {v : Nat} : Intact s (t.writeHif a r v) := by
  unfold State.writeHif
  dsimp only
  split
  · exact h.setUpQueue
  · exact h.setUpQueue
  · exact Intact.ite h.setQueue.logIf h.logAccess
  · exact h.ruled (fun _ h => h.writeQctrl)
  · exact h.ruled (fun _ h => h.setQueue.tellLead)
  · exact h.ruled (fun _ h => h.setQueue)
  · exact h.ruled (fun _ h => h.writeResume)
  · exact h.ruled (fun _ h => h.setRing)
  · exact h.ruled (fun _ h => h.writeCqcfg)
  · exact h.ruled (fun _ h => h.writeHead)
  · exact h.ruled (fun _ h => h.setRing)
  · exact h.writeKick
  · exact h.fields
  · exact h

theorem Intact.writePower (h : Intact s t) {a : Acc} {r : Reg} {v : Nat} : Intact s (t.writePower a r v) := by
  unfold State.writePower
  dsimp only
  split
  · exact h.fields
  · exact h.fields
  · exact h.fields
  · exact h.fields.logIf
  · exact h.fields
  · exact Intact.ite h.logAccess (Intact.ite h.logAccess h.fields)
  · exact h

theorem Intact.mainWrite {a : Acc} {f : State → State} (h : Intact s t) (hf : ∀ u, Intact s u → Intact s (f u)) :
    Intact s (t.mainWrite a f) := by
  unfold State.mainWrite
  exact h.ruled (fun _ h => (hf _ h))

theorem Intact.writeOut (h : Intact s t) {a : Acc} {v : Nat} {want : BitVec 24 → BitVec 24} : Intact s (t.writeOut a v want) :=
  h.changeOut.logIf

theorem Intact.unitWrite {a : Acc} {held : Bool} {f : State → State} (h : Intact s t) (hf : ∀ u, Intact s u → Intact s (f u)) :
    Intact s (t.unitWrite a held f) := by
  unfold State.unitWrite
  exact h.mainWrite (fun _ h => h.ruled (fun _ h => (Intact.ite h.deny (hf _ h))))

theorem Intact.writeCfg (h : Intact s t) {a : Acc} {k v : Nat} : Intact s (t.writeCfg a k v) := by
  unfold State.writeCfg
  exact h.ruled (fun _ h => (Intact.ite h.deny (h.ruled (fun _ h => h.configurePin.logIf))))

theorem Intact.writeGpio (h : Intact s t) {a : Acc} {r : Reg} {v : Nat} : Intact s (t.writeGpio a r v) := by
  unfold State.writeGpio
  dsimp only
  split
  · exact h.writeOut
  · exact h.writeOut
  · exact h.writeOut
  · exact h.writeOut
  · exact h.clearEdges.logIf
  · exact h.clearEdges.logIf
  · exact h.unitWrite (fun _ h => h.fields)
  · exact h.writeCfg
  · exact h.unitWrite (fun _ h => h.fields.logIf)
  · exact h.unitWrite (fun _ h => h.fields)
  · exact h.ruled (fun _ h => h.writeFanDuty)
  · exact h

theorem Intact.writeTport (h : Intact s t) {a : Acc} {n v : Nat} : Intact s (t.writeTport a n v) := by
  unfold State.writeTport
  exact Intact.ite h.fields.logAccess h.fields.fields.logIf

theorem Intact.writeMatrix (h : Intact s t) {a : Acc} {r : Reg} {v : Nat} : Intact s (t.writeMatrix a r v) := by
  unfold State.writeMatrix
  dsimp only
  split
  · exact h.writeTport
  · exact Intact.ite h.logAccess h.fields
  · exact h.fields
  · exact h.fields
  · exact h.ledgerRelease
  · exact h.setNum
  · exact h.setNum
  · exact h

theorem Intact.writeFreeMap (h : Intact s t) {a : Acc} {n k v : Nat} : Intact s (t.writeFreeMap a n k v) := h.setIslet.logIf

theorem Intact.setTdesc (h : Intact s t) {n t' : Nat} {f : TDesc → TDesc} : Intact s (t.setTdesc n t' f) := h.setIslet

theorem Intact.writeIsl (h : Intact s t) {a : Acc} {r : Reg} {v : Nat} : Intact s (t.writeIsl a r v) := by
  unfold State.writeIsl
  dsimp only
  split
  · exact Intact.ite h.logAccess h.setIslet
  · exact h.setIslet
  · exact h.writeFreeMap
  · exact h.qabort
  · exact h.setTdesc.logIf
  · exact h.setTdesc
  · exact h.setTdesc
  · exact h.setTdesc
  · exact h.setTdesc
  · exact h.setTdesc
  · exact h.setTdesc
  · exact h.setTdesc
  · exact h

theorem Intact.writeLink (h : Intact s t) {a : Acc} {r : Reg} {v : Nat} : Intact s (t.writeLink a r v) := by
  unfold State.writeLink
  dsimp only
  split
  · exact Intact.ite h.setPort.keyAgain h.setPort
  · exact Intact.ite h.logAccess h.setPort
  · exact h.setPort
  · exact h.fields
  · exact Intact.ite h.logAccess h.setPart
  · exact h

theorem Intact.writeGoose (h : Intact s t) {r : Reg} {v : Nat} : Intact s (t.writeGoose r v) := by
  unfold State.writeGoose
  dsimp only
  split
  · exact h.fields
  · exact h.fields
  · exact h.fields
  · exact h.fields
  · exact h.fields
  · exact h.fields
  · exact h.fields
  · exact h.fields
  · exact h.fields
  · exact h.fields
  · exact h.fields
  · exact h.fields
  · exact Intact.foldl h fun _ _ h => h.setPin
  · exact h.fields
  · exact h.fields
  · exact h.fields
  · exact h.setPort
  · exact h.fields
  · exact h.setPart
  · exact h.setPart
  · exact h.setPart
  · exact Intact.foldl h fun _ _ h => h.setOwner
  · exact h.setPart
  · exact h.setPart
  · exact h.setPart
  · exact h.fields
  · exact h

theorem Intact.writeReg (h : Intact s t) {a : Acc} {r : Reg} {v : Nat} : Intact s (t.writeReg a r v) := by
  unfold State.writeReg
  extract_lets s1
  have h1 : Intact s s1 := Intact.ite h.writeGoose h
  split
  · exact h1.writeHif
  · exact h1.writeHif
  · exact h1.writeHif
  · exact h1.writeHif
  · exact h1.writeHif
  · exact h1.writeHif
  · exact h1.writeHif
  · exact h1.writeHif
  · exact h1.writeHif
  · exact h1.writeHif
  · exact h1.writeHif
  · exact h1.writeHif
  · exact h1.writeHif
  · exact h1.writePower
  · exact h1.writePower
  · exact h1.writePower
  · exact h1.writePower
  · exact h1.writePower
  · exact h1.writePower
  · exact h1.writeGpio
  · exact h1.writeGpio
  · exact h1.writeGpio
  · exact h1.writeGpio
  · exact h1.writeGpio
  · exact h1.writeGpio
  · exact h1.writeGpio
  · exact h1.writeGpio
  · exact h1.writeGpio
  · exact h1.writeGpio
  · exact h1.writeGpio
  · exact h1.writeMatrix
  · exact h1.writeMatrix
  · exact h1.writeMatrix
  · exact h1.writeMatrix
  · exact h1.writeMatrix
  · exact h1.writeMatrix
  · exact h1.writeMatrix
  · exact h1.writeLink
  · exact h1.writeLink
  · exact h1.writeLink
  · exact h1.writeLink
  · exact h1.writeLink
  · split
    · exact h1.ruled (fun _ h => h.writeIsl)
    · exact h1

/-! ### Access -/

theorem Intact.counted (h : Intact s t) {x : Reg} : Intact s (t.counted x) := by
  unfold State.counted
  dsimp only
  split
  · exact Intact.ite h.perfAdd.freeTaken h
  · exact h.fields.freeTaken
  · exact h.freeTaken
  · exact h

theorem Intact.dbgLoad (h : Intact s t) : Intact s (t.dbgLoad).2 := by
  unfold State.dbgLoad
  dsimp only
  split
  · split
    · exact (by split; exacts [h.readHbm, h.readHbm.freeTaken])
    · exact h.freeTaken
  · split
    · exact (by split; exacts [h.readHbm, h.readHbm.freeTaken])
    · exact h.freeTaken
  · split
    · exact (by split; exacts [h.readSp, h.readSp.freeTaken])
    · exact h.freeTaken
  · split
    · exact h.counted
    · exact h.freeTaken
  · exact h.freeTaken

theorem Intact.writeHalf (h : Intact s t) {a : Acc} {r : Reg} {hi : Bool} {v : Nat} : Intact s (t.writeHalf a r hi v) := h.writeReg

theorem Intact.dbgStore (h : Intact s t) {a : Acc} {v : Word} : Intact s (t.dbgStore a v) := by
  unfold State.dbgStore
  dsimp only
  split
  · exact Intact.ite h.writeHbm h
  · exact Intact.ite h.writeHbm h
  · exact Intact.ite h.writeSp h
  · split
    · exact h.writeHalf
    · exact h
  · exact h

theorem Intact.logObserved (h : Intact s t) : Intact s (t.logObserved) := by
  unfold State.logObserved
  split
  · exact h
  · exact Intact.ite h.observe h

theorem Intact.readOut (h : Intact s t) {a : Acc} {r : Reg} {full : Bool} : Intact s (t.readOut a r full).2 := by
  unfold State.readOut
  split
  · split
    · exact h
    · dsimp only
      split
      · exact h.dbgLoad.fields.observe
      · exact h.dbgLoad.fields
  · exact Intact.ite h.logObserved h
  all_goals dsimp only
  · exact h.counted
  · exact h.counted
  · exact h.counted
  · exact h

theorem Intact.writeOutReg (h : Intact s t) {a : Acc} {r : Reg} {v : Nat} : Intact s (t.writeOutReg a r v) := by
  unfold State.writeOutReg
  dsimp only
  split
  · split
    · exact h.fields.dbgStore.observe
    · exact h.fields.dbgStore
  · exact h.fields
  · exact h.fields
  · exact h.writeReg

theorem Intact.sendPending (h : Intact s t) {v : Nat} : Intact s (t.sendPending v) := by
  unfold State.sendPending
  exact Intact.ite h.fields.emit h

theorem Intact.msixWrite (h : Intact s t) {v w : Nat} {x : Word} : Intact s (t.msixWrite v w x) := by
  unfold State.msixWrite
  exact Intact.ite h.fields h.fields.sendPending

theorem Intact.answer (h : Intact s t) {a : Acc} {data : Nat} : Intact s (t.answer a data) := by
  unfold State.answer
  exact Intact.ite h.forward h.emit

theorem Intact.refuseAccess (h : Intact s t) {a : Acc} {write : Bool} {reason : Nat} : Intact s (t.refuseAccess a write reason) := by
  unfold State.refuseAccess
  exact Intact.ite (Intact.ite h.refuse h.sealedEntry) (Intact.ite (Intact.ite h.refuse h.sealedEntry).answer
    (Intact.ite h.refuse h.sealedEntry).emit)

/-- How far an access has come, intact. -/
def WalkIntact (s : State) : Walk → Prop
  | .done t _ => Intact s t
  | .held t => Intact s t

theorem Intact.deviceWrite (h : Intact s t) {x v : Nat} : Intact s (t.deviceWrite x v) := by
  unfold State.deviceWrite
  split
  · exact Intact.ite h.writeHbm h
  · exact h.toHost
  · exact h

theorem Intact.deviceRead (h : Intact s t) {x : Nat} : Intact s (t.deviceRead x).2 := by
  unfold State.deviceRead
  split
  · dsimp only
    split
    · exact h.readHbm
    · exact h.freeTaken
  · dsimp only
    exact h.freeTaken.toHost
  · exact h

theorem Intact.respondHole (h : Intact s t) {a : Acc} {w : Bool} : Intact s (t.respondHole a w) := Intact.ite h.logAccess.emit h.logAccess

theorem Intact.holdAccess (h : Intact s t) {a : Acc} {w : Bool} {o port left : Nat} {data : BitVec 64} :
    Intact s (t.holdAccess a w o port left data) := by
  unfold State.holdAccess
  extract_lets b first b1 b2 b3 s1 s2
  have h2 : Intact s s2 := Intact.ite h.fields.logAccess h.fields
  clear_value s2
  split
  · exact h2
  · split
    · exact h2.observe
    · exact h2

theorem Intact.writeHalves (h : Intact s t) {a : Acc} {data : BitVec 64} {l : List Nat} {force : Bool} {left : Nat} :
    WalkIntact s (t.writeHalves a data l force left) := by
  induction l generalizing t force left with
  | nil => exact h
  | cons k l ih =>
    unfold State.writeHalves
    dsimp only
    split
    · exact ih h.writeOutReg
    · split
      · exact ih h.msixWrite
      · exact ih h.freeTaken.msixWrite
    · exact ih h
    · exact ih h.deviceWrite
    · split
      · exact h.holdAccess
      · exact ih h.respondHole
    · exact h

theorem Intact.writeOn (h : Intact s t) {a : Acc} {force : Bool} {left : Nat} {data : BitVec 64} :
    Intact s (t.writeOn a force left data) := by
  have hw := h.writeHalves (a := a) (data := data) (l := halves left) (force := force) (left := left)
  unfold State.writeOn
  split <;> rename_i e <;> rw [e] at hw <;> exact hw

theorem Intact.readHalves (h : Intact s t) {a : Acc} {l : List Nat} {force : Bool} {left data : Nat} :
    WalkIntact s (t.readHalves a l force left data) := by
  induction l generalizing t force left data with
  | nil => exact h
  | cons k l ih =>
    unfold State.readHalves
    dsimp only
    split
    · exact ih h.readOut
    · split
      · exact ih h
      · exact ih h.freeTaken
    · split
      · exact ih h
      · exact ih h.freeTaken
    · exact ih h.deviceRead
    · split
      · exact h.holdAccess
      · exact ih h.respondHole
    · exact h

theorem Intact.readOn (h : Intact s t) {a : Acc} {force : Bool} {left data : Nat} : Intact s (t.readOn a force left data) := by
  have hr := h.readHalves (a := a) (l := halves left) (force := force) (left := left) (data := data)
  unfold State.readOn
  split <;> rename_i e <;> rw [e] at hr
  · exact Intact.answer hr
  · exact hr

theorem Intact.busRead (h : Intact s t) {a : Acc} : Intact s (t.busRead a) := by
  unfold State.busRead
  refine Intact.ite ?_ ?_
  · exact h.emit
  · split
    · refine Intact.ite ?_ ?_
      · refine Intact.ite ?_ ?_
        · exact h
        · split
          · exact h.refuseAccess
          · exact h.freeTaken.answer
      · exact h.logAccess.answer
    · refine Intact.ite ?_ ?_
      · exact h
      · split
        · exact h.refuseAccess
        · split
          · exact h.readOut.answer
          · exact h.readOn

theorem Intact.msixOdd (h : Intact s t) {a : Acc} : Intact s (t.msixOdd a) := by
  unfold State.msixOdd
  exact Intact.foldl h fun _ _ h => (Intact.ite h (by split; exacts [h.freeTaken.msixWrite, h]))

theorem Intact.busWrite (h : Intact s t) {a : Acc} {data : BitVec 64} : Intact s (t.busWrite a data) := by
  unfold State.busWrite
  dsimp only
  refine Intact.ite ?_ ?_
  · exact h.emit
  · refine Intact.ite ?_ ?_
    · exact h.logAccess
    · refine Intact.ite ?_ ?_
      · exact Intact.ite h.logAccess h
      · refine Intact.ite ?_ ?_
        · split
          · exact h.refuseAccess
          · exact h.msixOdd
        · refine Intact.ite ?_ ?_
          · exact h.logAccess
          · split
            · exact h.refuseAccess
            · split
              · exact h.writeOutReg
              · exact h.writeOn

theorem Intact.releaseMaster (h : Intact s t) {m : Nat} : Intact s (t.releaseMaster m) := by
  refine Intact.ite h ?_
  dsimp only
  split
  · exact h.fields
  · exact Intact.ite h.fields.writeOn h.fields.readOn

theorem Intact.releaseMasters (h : Intact s t) {m : Nat} : Intact s (t.releaseMasters m) := by
  unfold State.releaseMasters
  extract_lets s1
  have h1 : Intact s s1 := Intact.foldl h fun _ _ h => (Intact.ite h.releaseMaster h)
  exact Intact.ite (Intact.foldl h1 fun _ _ h => h.fetchMore) h1

theorem Intact.writeAccess (h : Intact s t) {a : Acc} {data : BitVec 64} : Intact s (t.writeAccess a data) := h.busWrite.releaseMasters

theorem Intact.bar2 (h : Intact s t) {a : Acc} {write : Bool} {data : BitVec 64} : Intact s (t.bar2 a write data) := by
  unfold State.bar2
  dsimp only
  refine Intact.ite ?_ ?_
  · exact h.emit
  · refine Intact.ite ?_ ?_
    · exact Intact.ite h.logAccess h
    · exact Intact.ite (Intact.ite h.logAccess h.logAccess.answer) (Intact.ite (Intact.ite h.writeAccess h.busRead) h.forward)

protected theorem Intact.execRegisterRead (h : Intact s t) {a : Acc} : Answers s (execRegisterRead a t) := by
  unfold execRegisterRead
  exact (Intact.ite h.bar2 h.busRead).next

protected theorem Intact.execRegisterWrite (h : Intact s t) {a : Acc} {data : BitVec 64} : Answers s (execRegisterWrite a data t) := by
  unfold execRegisterWrite
  exact (Intact.ite h.bar2 h.writeAccess).next

theorem Intact.put (h : Intact s t) {m : Master} {fn o v : Nat} : Answers s (t.put m fn o v) := h.writeAccess.next

protected theorem Intact.execHifKick (h : Intact s t) {fn q : Nat} : Answers s (execHifKick fn q t) := h.put

protected theorem Intact.execQueueEnable (h : Intact s t) {fn q : Nat} {park : Bool} : Answers s (execQueueEnable fn q park t) := h.put

protected theorem Intact.execQueueDisable (h : Intact s t) {fn q : Nat} : Answers s (execQueueDisable fn q t) := h.put

protected theorem Intact.execQueuePark (h : Intact s t) {fn q : Nat} : Answers s (execQueuePark fn q t) := h.put

protected theorem Intact.execQueueUnpark (h : Intact s t) {fn q : Nat} : Answers s (execQueueUnpark fn q t) := h.put

protected theorem Intact.execResume (h : Intact s t) {fn q : Nat} : Answers s (execResume fn q t) := h.put

protected theorem Intact.execDiscard (h : Intact s t) {fn q : Nat} : Answers s (execDiscard fn q t) := h.put

protected theorem Intact.execCqEnable (h : Intact s t) {fn : Nat} {event : Bool} {c : Nat} {cfg : Word} :
    Answers s (execCqEnable fn event c cfg t) := h.put

protected theorem Intact.execCqDisable (h : Intact s t) {fn : Nat} {event : Bool} {c : Nat} {cfg : Word} :
    Answers s (execCqDisable fn event c cfg t) := h.put

protected theorem Intact.execCqHeadWrite (h : Intact s t) {fn c : Nat} {head : Word} : Answers s (execCqHeadWrite fn c head t) := h.put

protected theorem Intact.execEqHeadWrite (h : Intact s t) {fn e : Nat} {head : Word} : Answers s (execEqHeadWrite fn e head t) := h.put

protected theorem Intact.execIslQabort (h : Intact s t) {fn n : Nat} {bits : BitVec 3} : Answers s (execIslQabort fn n bits t) := h.put

protected theorem Intact.execLdgReleaseSnapshot (h : Intact s t) {fn : Nat} : Answers s (execLdgReleaseSnapshot fn t) := h.put

protected theorem Intact.execLdgReleasePort (h : Intact s t) {fn : Nat} {ports : BitVec 10} : Answers s (execLdgReleasePort fn ports t) :=
  h.put

protected theorem Intact.execKeyRetry (h : Intact s t) {fn p : Nat} : Answers s (execKeyRetry fn p t) := h.put

protected theorem Intact.execTrayFanDutyWrite (h : Intact s t) {fn k : Nat} {duty : BitVec 8} :
    Answers s (execTrayFanDutyWrite fn k duty t) := h.put

protected theorem Intact.execGpioOutWrite (h : Intact s t) {m : Master} {fn : Nat} {v : BitVec 24} :
    Answers s (execGpioOutWrite m fn v t) := h.put

protected theorem Intact.execGpioSetWrite (h : Intact s t) {m : Master} {fn : Nat} {v : BitVec 24} :
    Answers s (execGpioSetWrite m fn v t) := h.put

protected theorem Intact.execGpioClrWrite (h : Intact s t) {m : Master} {fn : Nat} {v : BitVec 24} :
    Answers s (execGpioClrWrite m fn v t) := h.put

protected theorem Intact.execGpioTglWrite (h : Intact s t) {m : Master} {fn : Nat} {v : BitVec 24} :
    Answers s (execGpioTglWrite m fn v t) := h.put

protected theorem Intact.execGpioCfgWrite (h : Intact s t) {m : Master} {fn k : Nat} {v : Word} : Answers s (execGpioCfgWrite m fn k v t) :=
  h.put

protected theorem Intact.execDbgRelease (h : Intact s t) {m : Master} {fn : Nat} {masters : BitVec 5} :
    Answers s (execDbgRelease m fn masters t) := h.put

protected theorem Intact.execDbgMemAccess (h : Intact s t) {m : Master} {fn : Nat} {write : Bool} {data : Word} :
    Answers s (execDbgMemAccess m fn write data t) := by
  unfold execDbgMemAccess
  exact (Intact.ite h.writeAccess h.busRead).next

protected theorem Intact.execDbgLogRead (h : Intact s t) {m : Master} {fn k : Nat} : Answers s (execDbgLogRead m fn k t) := h.busRead.next

protected theorem Intact.execDebugClose (h : Intact s t) : Answers s (execDebugClose t) := by
  unfold execDebugClose
  exact h.mgmt (fun _ => h.mgmtDesc (Intact.ite h.fields.releaseMasters.fields h.fields.releaseMasters).mgmtDone)

protected theorem Intact.execHeldRequestTimeout (h : Intact s t) {a : Acc} : Answers s (execHeldRequestTimeout a t) := by
  unfold execHeldRequestTimeout
  exact Answers.ite h.logAccess.answer.next h.stutter

protected theorem Intact.execBar2Forward (h : Intact s t) {fn : Nat} {write : Bool} {off : Nat} {data : Word} :
    Answers s (execBar2Forward fn write off data t) := h.bar2.next

theorem Intact.forwardedEntry (h : Intact s t) {q : Nat} {index : Word} {bytes : List Byte} :
    Intact s (t.forwardedEntry q index bytes) := by
  unfold State.forwardedEntry
  exact Intact.ite h (Intact.ite h.setQueue.discardEntry.tellLead (Intact.ite h h.setQueue.headArrive.tellLead))

theorem Intact.takeQueue (h : Intact s t) {d q : Nat} {i : QueueInfo} : Intact s (t.takeQueue d q i) := by
  unfold State.takeQueue
  exact Intact.ite h.setQueue h.setQueue.fetchMore

theorem Intact.passOn (h : Intact s t) {d fn addr : Nat} {bytes : List Byte} : Intact s (t.passOn d fn addr bytes) := h.emit.forward

theorem Intact.forwarded (h : Intact s t) {d : Nat} {m : FwdMsg} : Intact s (t.forwarded d m) := by
  unfold State.forwarded
  dsimp only
  split
  · exact h.forwardedEntry
  · exact Intact.ite (Intact.ite h.setQueue h) h.polled
  · exact h.pollFailed
  · exact h.hostBytes
  · exact h.commandFailed
  · exact Intact.ite h.takeQueue h
  · exact Intact.ite h.passOn h
  · exact Intact.ite h.emit h
  · exact Intact.ite h.message h
  · exact h.fields.reevaluate
  · exact h.writeAccess
  · exact h.busRead
  · exact h.emit
  · exact h.ledgerHalt
  · exact Intact.ite h.machineEnd h
  · exact Intact.ite h.joined h
  · exact Intact.ite h.partIs h
  · exact h.actHere

protected theorem Intact.execFwdReceive (h : Intact s t) {p : Nat} {raw : List Byte} {m : FwdMsg} :
    Answers s (execFwdReceive p raw m t) := by
  unfold execFwdReceive
  exact Answers.ite h.stutter (h.linkReceive (fun _ _ h => h.forwarded))

theorem Intact.configure (h : Intact s t) {fn : Nat} {c : ConfigAct} : Intact s (t.configure fn c) := by
  unfold State.configure
  dsimp only
  split
  · exact h
  · exact h.fields.releaseHeld
  · exact Intact.foldl h.fields fun _ _ h => h.sendPending
  · exact Intact.ite h h.fields.releaseHeld
  · exact h.fields

protected theorem Intact.execPcieConfigRequest (h : Intact s t) {fn : Nat} {c : ConfigAct} : Answers s (execPcieConfigRequest fn c t) := by
  unfold execPcieConfigRequest
  exact (Intact.ite h.emit (Intact.ite h.configure.emit h.emit)).next

protected theorem Intact.execEarlyMemoryRequest (h : Intact s t) {fn : Nat} : Answers s (execEarlyMemoryRequest fn t) := by
  unfold execEarlyMemoryRequest
  exact Answers.ite h.stutter h.emit.next

/-! ### Boot -/

theorem Intact.fillGranule (h : Intact s t) {key g : Nat} : Intact s (t.fillGranule key g) := h.writeRaw.fields

theorem Intact.lowerRaised (h : Intact s t) {d : Nat} : Intact s (t.lowerRaised d) := by
  unfold State.lowerRaised
  dsimp only
  split
  · exact h.fields
  · exact h.enterState

theorem Intact.bootEnds (h : Intact s t) : Intact s (t.bootEnds) := by
  unfold State.bootEnds
  exact (Intact.foldl h fun _ _ h => (Intact.ite h.enterState h)).fields

theorem Intact.keyForFill (h : Intact s t) {r : FillRun} : Intact s (t.keyForFill r) := by
  unfold State.keyForFill
  exact Intact.ite h.newAtRest h

protected theorem Intact.execFillRunDone (h : Intact s t) : Answers s (execFillRunDone t) := by
  unfold execFillRunDone
  split
  · exact h.stutter
  · refine Answers.ite ?_ ?_
    · exact h.stutter
    · refine Intact.next ?_
      exact (Intact.reevaluate (by split; exacts [(Intact.foldl
        (Intact.foldl h.keyForFill fun _ _ h => h.fillGranule).fields fun _ _ h => h.lowerRaised).endCreate, (Intact.foldl
          (Intact.foldl h.keyForFill fun _ _ h => h.fillGranule).fields fun _ _ h => h.lowerRaised).switchFilled, (Intact.foldl
            (Intact.foldl h.keyForFill fun _ _ h => h.fillGranule).fields fun _ _ h => h.lowerRaised).bootEnds, (Intact.foldl
              (Intact.foldl h.keyForFill fun _ _ h => h.fillGranule).fields fun _ _ h => h.lowerRaised)]))

theorem Intact.wiped (h : Intact s t) : Intact s t.wiped := ⟨h.fuses, fun c => ⟨rfl, rfl, (h.canonical c).2.2⟩⟩

theorem Intact.warmed (h : Intact s t) {x : Bool} : Intact s (t.warmed x) := h.wiped.fields

theorem Intact.enterRecovery (h : Intact s t) {cause : BitVec 2} : Intact s (t.enterRecovery cause) := h.fields

theorem Intact.bootLimit (h : Intact s t) {b : Board} : Intact s (t.bootLimit b) := by
  unfold State.bootLimit
  exact Intact.ite h.fields (Intact.ite h.fields h.freeTaken.fields)

theorem Intact.romStart (h : Intact s t) {kind : ResetKind} {failed : Bool} : Intact s (t.romStart kind failed) := by
  unfold State.romStart
  extract_lets _ _ _ _ _ _ _ _ s1
  have h1 : Intact s s1 := Intact.foldl h.fields.bootLimit.fields fun _ _ h => h.beginMove
  exact Intact.ite h1.freeTaken.enterRecovery h1

theorem Intact.coldStart (h : Intact s t) {kind : ResetKind} {slot tray : BitVec 3} {x failed : Bool} :
    Intact s (t.coldStart kind slot tray x failed) := h.fields.romStart

protected theorem Intact.execPowerOnReset (h : Intact s t) {slot tray : BitVec 3} {x : Bool} :
    Answers s (execPowerOnReset slot tray x t) := by
  unfold execPowerOnReset
  exact Answers.ite h.stutter h.fields.coldStart.next

protected theorem Intact.execPerstReset (h : Intact s t) {x : Bool} : Answers s (execPerstReset x t) := by
  unfold execPerstReset
  exact Answers.ite h.stutter (Answers.ite h.fields.warmed.romStart.next h.fields.fields.next)

protected theorem Intact.execPerstNRise (h : Intact s t) : Answers s (execPerstNRise t) := h.fields.next

protected theorem Intact.execBrownout (h : Intact s t) {slot tray : BitVec 3} {x : Bool} : Answers s (execBrownout slot tray x t) := by
  unfold execBrownout
  exact Answers.ite h.stutter (Answers.ite h.fields.next h.wiped.fields.coldStart.next)

protected theorem Intact.execThermalTrip (h : Intact s t) {sensorC : Int} : Answers s (execThermalTrip sensorC t) :=
  Answers.ite h.stutter (Intact.next ⟨h.fuses, fun c => ⟨rfl, rfl, (h.canonical c).2.2⟩⟩)

theorem Intact.startKeying (h : Intact s t) : Intact s (t.startKeying) := by
  unfold State.startKeying
  exact Intact.foldl h fun _ _ h => (Intact.ite h.enterKeying h)

theorem Intact.signedAgain (h : Intact s t) : Intact s (t.signedAgain) := by
  unfold State.signedAgain
  split
  · exact h
  · exact Intact.ite h.setRun h

protected theorem Intact.execTrngSample (h : Intact s t) : Answers s (execTrngSample t) := by
  unfold execTrngSample
  exact Answers.ite h.stutter (Answers.ite h.fields.next (Intact.ite h.fields.newNonce h.fields).fields.signedAgain.startKeying.next)

protected theorem Intact.execTrngTestFail (h : Intact s t) : Answers s (execTrngTestFail t) := by
  unfold execTrngTestFail
  exact Answers.ite h.stutter h.fields.next

theorem Intact.pmbusSetUp (h : Intact s t) : Intact s (t.pmbusSetUp) := h.freeTaken.emit.emit.fields

protected theorem Intact.execFirmwareVerified (h : Intact s t) : Answers s (execFirmwareVerified t) := by
  unfold execFirmwareVerified
  exact Answers.ite h.stutter (Answers.ite h.enterRecovery.next h.fields.deriveKeys.pmbusSetUp.next)

protected theorem Intact.execHbmTrainingDone (h : Intact s t) {stack : Nat} {ok : Bool} : Answers s (execHbmTrainingDone stack ok t) := by
  unfold execHbmTrainingDone
  exact Answers.ite h.stutter (Answers.ite h.fields.next h.setDomain.fields.next)

theorem Intact.trayPin (h : Intact s t) {k v : Nat} : Intact s (t.trayPin k v) := h.resetPin.setPin.configurePin

theorem Intact.trayPins (h : Intact s t) : Intact s (t.trayPins) := by
  unfold State.trayPins
  extract_lets _ s1
  have h1 : Intact s s1 := Intact.foldl h.trayPin fun _ _ h => h.trayPin.trayPin
  exact Intact.ite h (Intact.ite h.trayPin (Intact.foldl h1.trayPin.trayPin.fields fun _ _ h => h.driveFan))

theorem Intact.jtagEnds (h : Intact s t) : Intact s (t.jtagEnds) := by
  unfold State.jtagEnds
  exact Intact.ite h.fields h

protected theorem Intact.execGooseReady (h : Intact s t) : Answers s (execGooseReady t) := by
  unfold execGooseReady
  extract_lets _ _ _ _ _ _ s1 _ _ s2
  have h1 : Intact s s1 := Intact.ite h.freeTaken.fields h.freeTaken.fields.fillGranule.writeRaw
  have h2 : Intact s s2 := Intact.ite h1.trayPins.jtagEnds.newNonce h1.trayPins.jtagEnds
  exact Answers.ite h.stutter (Answers.ite h2.fields.bootEnds.next h2.fields.fields.next)

protected theorem Intact.execBootDeadline (h : Intact s t) : Answers s (execBootDeadline t) := by
  unfold execBootDeadline
  exact Answers.ite h.stutter h.advanceTo.enterRecovery.next

protected theorem Intact.execJtagInstruction (h : Intact s t) {code : BitVec 8} : Answers s (execJtagInstruction code t) := h.fields.next

/-! ### Coherence -/

theorem Intact.beginTxn (h : Intact s t) {line agent : Nat} {own : Bool} : Intact s (t.beginTxn line agent own) := h.setLag

theorem Intact.advanceGo (h : Intact s t) {line fuel : Nat} : Intact s (t.advanceGo line fuel) := by
  induction fuel generalizing t with
  | zero => exact h
  | succ fuel ih =>
    unfold State.advanceGo
    dsimp only
    split
    · exact h
    · split
      · exact h
      · split
        · exact h.setLag.grantLine
        · exact ih h.setLag.grantLine.setLag.beginTxn

theorem Intact.advanceLine (h : Intact s t) {line : Nat} : Intact s (t.advanceLine line) := h.advanceGo

theorem Intact.request (h : Intact s t) {agent line : Nat} {own : Bool} : Intact s (t.request agent line own) := by
  unfold State.request
  dsimp only
  split
  · exact h.beginTxn.advanceLine
  · exact Intact.ite h h.setLag

protected theorem Intact.execReadShared (h : Intact s t) {agent line : Nat} : Answers s (execReadShared agent line t) := by
  unfold execReadShared
  exact h.whenB (fun _ h => h.request)

protected theorem Intact.execReadOwn (h : Intact s t) {agent line : Nat} : Answers s (execReadOwn agent line t) := by
  unfold execReadOwn
  exact h.whenB (fun _ h => (Intact.ite h.request h.grantLine))

protected theorem Intact.execUpgrade (h : Intact s t) {agent line : Nat} : Answers s (execUpgrade agent line t) := by
  unfold execUpgrade
  exact h.whenB (fun _ h => h.request)

theorem Intact.recallDone (h : Intact s t) {line : Nat} : Intact s (t.recallDone line) := h.setLag.advanceLine

protected theorem Intact.execWriteback (h : Intact s t) {agent line : Nat} : Answers s (execWriteback agent line t) := by
  unfold execWriteback
  exact h.whenB (fun _ h => (Intact.ite h.dropLine.recallDone h.dropLine))

protected theorem Intact.execEvictClean (h : Intact s t) {agent line : Nat} : Answers s (execEvictClean agent line t) := by
  unfold execEvictClean
  exact h.whenB (fun _ h => h.dropLine)

protected theorem Intact.execInvalidate (h : Intact s t) {agent line : Nat} : Answers s (execInvalidate agent line t) := by
  unfold execInvalidate
  exact h.whenB (fun _ h => h.acceptInv.setLag.advanceLine)

protected theorem Intact.execRecallShare (h : Intact s t) {agent line : Nat} : Answers s (execRecallShare agent line t) := by
  unfold execRecallShare
  exact h.whenB (fun _ h => h.recallShared.recallDone)

protected theorem Intact.execRecallOwn (h : Intact s t) {agent line : Nat} : Answers s (execRecallOwn agent line t) := by
  unfold execRecallOwn
  exact h.whenB (fun _ h => h.recallOwned.recallDone)

protected theorem Intact.execRecallAck (h : Intact s t) {agent line : Nat} : Answers s (execRecallAck agent line t) := by
  unfold execRecallAck
  exact h.whenB (fun _ h => h.recallDone)

protected theorem Intact.execInvalidationApply (h : Intact s t) {agent line : Nat} : Answers s (execInvalidationApply agent line t) := by
  unfold execInvalidationApply
  exact h.whenB (fun _ h => h.applyInv)

protected theorem Intact.execNonCachingAccess (h : Intact s t) {addr len : Nat} {write : Option (List Byte)} :
    Answers s (execNonCachingAccess addr len write t) := by
  unfold execNonCachingAccess
  split
  · exact h.whenB (fun _ h => h.readHbm)
  · exact h.whenB (fun _ h => h.writeHbm)

protected theorem Intact.execHbmRefresh (h : Intact s t) {stack pc : Nat} {mult : BitVec 2} :
    Answers s (execHbmRefresh stack pc mult t) := by
  unfold execHbmRefresh
  exact h.whenB (fun _ h => h.fields)

protected theorem Intact.execHbmPhyCalibration (h : Intact s t) {stack : Nat} : Answers s (execHbmPhyCalibration stack t) := by
  unfold execHbmPhyCalibration
  exact h.whenB (fun _ h => h.advanceTo.fields)

/-! ### Matrix -/

protected theorem Intact.execMxMatmul (h : Intact s t) {n : Nat} : Answers s (execMxMatmul n t) := by
  unfold execMxMatmul
  dsimp only
  split
  · exact h.engineAhead.next
  · split
    · exact (h.endStopped h.loadRef).next
    · split
      · exact (h.endStopped h.loadRef.loadRef).next
      · exact (h.writeResult h.loadRef.loadRef).next

/-! ### Move -/

protected theorem Intact.windowRuns (h : Intact s t) {p w who : Nat} {frozen : Bool} {l : List (Nat × List Byte)} :
    Intact s (windowRuns p w who frozen l t).s := by
  induction l generalizing t with
  | nil => exact h
  | cons x l ih =>
    unfold windowRuns
    dsimp only
    split
    · exact h.windowWrite
    · exact ih h.windowWrite

theorem Intact.unsealPlain (h : Intact s t) {runs : List (Nat × Nat)} {fromSealed : Bool} : Intact s (t.unsealPlain runs fromSealed) := by
  unfold State.unsealPlain
  exact Intact.foldl h fun _ _ h => h.unseal

theorem Intact.moveOut (h : Intact s t) {p n : Nat} {r : Run} {k : Nat} {bytes : List Byte} {sealedRead : Bool} :
    Intact s (t.moveOut p n r k bytes sealedRead).s := by
  unfold State.moveOut
  dsimp only
  split
  · exact h.storeRuns.unseal
  · split
    · split
      · exact h.windowRuns.grantSent.unsealPlain
      · dsimp only
        exact h.sendRuns.grantSent
    · exact h.storeRuns

theorem Intact.moveBytes (h : Intact s t) (h1 :
    Intact s u) {n i : Nat} {r : Run} {bytes : List Byte} {stop : Option Stop} {sealedRead : Bool} :
    Intact s (t.moveBytes u n i r bytes stop sealedRead) := by
  unfold State.moveBytes
  extract_lets q p remote
  have h2 : Intact s (if remote then u.freshXfer else (0, u)).2 := by
    split
    · exact h1.freshXfer
    · exact h1
  generalize (if remote then u.freshXfer else (0, u)) = c at h2 ⊢
  obtain ⟨k, v⟩ := c
  dsimp only at h2 ⊢
  have h3 := (h2.moveOut (p := p) (n := n) (r := r) (k := k) (bytes := bytes) (sealedRead := sealedRead)).perfAdd
    (p := p) (k := 3) (n := (v.moveOut p n r k bytes sealedRead).sent)
  split
  · exact h
  · split
    · split
      · refine Intact.endWork (Intact.setXfer ?_)
        split
        · exact h3.poisonEvent
        · exact h3
      · refine Intact.reevaluate (Intact.settleIslet (Intact.setRun (Intact.setIslet (Intact.setXfer ?_))))
        split
        · exact h3.poisonEvent
        · exact h3
    · split
      · exact h.endStopped h3
      · exact h3.endWork

protected theorem Intact.execMvCopy (h : Intact s t) {n i : Nat} : Answers s (execMvCopy n i t) := by
  unfold execMvCopy
  dsimp only
  split
  · exact h.stutter
  · exact Answers.ite h.stutter (Answers.ite h.stutter (h.moveBytes h.loadRuns).askReads.next)

protected theorem Intact.execMvFill (h : Intact s t) {n i : Nat} : Answers s (execMvFill n i t) := by
  unfold execMvFill
  dsimp only
  split
  · exact h.stutter
  · exact Answers.ite h.stutter (h.moveBytes h).next

protected theorem Intact.execMvTdescLoad (h : Intact s t) {n i : Nat} : Answers s (execMvTdescLoad n i t) := by
  unfold execMvTdescLoad
  dsimp only
  split
  · exact h.stutter
  · refine Answers.ite ?_ ?_
    · exact h.stutter
    · refine Answers.ite ?_ ?_
      · exact h.stutter
      · refine Intact.next ?_
        exact (Intact.askReads (by split; exacts [h.endStopped h.loadRuns.setIslet, h.loadRuns.setIslet.endWork]))

protected theorem Intact.execMvGatherReq (h : Intact s t) {n i : Nat} : Answers s (execMvGatherReq n i t) := by
  unfold execMvGatherReq
  dsimp only
  split
  · exact h.stutter
  · exact h.freshXfer.sendFlit.setXfer.setRun.next

/-! ### Vector -/

protected theorem Intact.loadRefs (h : Intact s t) {p n : Nat} {r : Run} {l : List Ref} : Intact s (loadRefs p n r l t).1.s := by
  induction l generalizing t with
  | nil => exact h
  | cons x l ih =>
    unfold loadRefs
    dsimp only
    split
    · exact h.loadRef
    · exact ih h.loadRef

protected theorem Intact.runVector (h : Intact s t) {n : Nat} {w : Work} : Intact s (runVector n w t) := by
  unfold runVector
  dsimp only
  split
  · exact h.engineAhead
  · split
    · exact h.endStopped h.loadRefs
    · exact h.writeOutputs h.loadRefs

protected theorem Intact.execVxAdd (h : Intact s t) {n : Nat} : Answers s (execVxAdd n t) := h.runVector.next

protected theorem Intact.execVxSub (h : Intact s t) {n : Nat} : Answers s (execVxSub n t) := h.runVector.next

protected theorem Intact.execVxMul (h : Intact s t) {n : Nat} : Answers s (execVxMul n t) := h.runVector.next

protected theorem Intact.execVxDiv (h : Intact s t) {n : Nat} : Answers s (execVxDiv n t) := h.runVector.next

protected theorem Intact.execVxAxpy (h : Intact s t) {n : Nat} : Answers s (execVxAxpy n t) := h.runVector.next

protected theorem Intact.execVxMin (h : Intact s t) {n : Nat} : Answers s (execVxMin n t) := h.runVector.next

protected theorem Intact.execVxMax (h : Intact s t) {n : Nat} : Answers s (execVxMax n t) := h.runVector.next

protected theorem Intact.execVxConvert (h : Intact s t) {n : Nat} : Answers s (execVxConvert n t) := h.runVector.next

protected theorem Intact.execVxFunc (h : Intact s t) {n : Nat} : Answers s (execVxFunc n t) := h.runVector.next

protected theorem Intact.execVxReduce (h : Intact s t) {n : Nat} : Answers s (execVxReduce n t) := h.runVector.next

protected theorem Intact.execVxTree (h : Intact s t) {n : Nat} : Answers s (execVxTree n t) := h.runVector.next

protected theorem Intact.execVxPackAct (h : Intact s t) {n : Nat} : Answers s (execVxPackAct n t) := h.runVector.next

protected theorem Intact.execVxUnpackAct (h : Intact s t) {n : Nat} : Answers s (execVxUnpackAct n t) := h.runVector.next

protected theorem Intact.execVxDropout (h : Intact s t) {n : Nat} : Answers s (execVxDropout n t) := h.runVector.next

protected theorem Intact.execVxMask (h : Intact s t) {n : Nat} : Answers s (execVxMask n t) := h.runVector.next

protected theorem Intact.execVxNorm (h : Intact s t) {n : Nat} : Answers s (execVxNorm n t) := h.runVector.next

protected theorem Intact.execVxClip (h : Intact s t) {n : Nat} : Answers s (execVxClip n t) := h.runVector.next

protected theorem Intact.execVxOptStep (h : Intact s t) {n : Nat} : Answers s (execVxOptStep n t) := h.runVector.next

/-! ### Exec -/

/-- Every command but a reset pulse and FUSE_BLOW_DONE answers a state that is intact. -/
theorem exec_answers (c : Instr) (s : State) (hp : resetPulse c = false) (hf : ∀ ok, c ≠ .fuseBlowDone ok) : Answers s (exec c s) := by
  have h := Intact.refl s
  cases c with
  | nop => exact h.execNop
  | signal => exact h.execSignal
  | wait => exact h.execWait
  | fence => exact h.execFence
  | tagSet => exact h.execTagSet
  | tagCheck => exact h.execTagCheck
  | mxMatmul => exact h.execMxMatmul
  | vxConvert => exact h.execVxConvert
  | vxAdd => exact h.execVxAdd
  | vxSub => exact h.execVxSub
  | vxMul => exact h.execVxMul
  | vxDiv => exact h.execVxDiv
  | vxAxpy => exact h.execVxAxpy
  | vxMin => exact h.execVxMin
  | vxMax => exact h.execVxMax
  | vxFunc => exact h.execVxFunc
  | vxReduce => exact h.execVxReduce
  | vxTree => exact h.execVxTree
  | vxPackAct => exact h.execVxPackAct
  | vxUnpackAct => exact h.execVxUnpackAct
  | vxDropout => exact h.execVxDropout
  | vxMask => exact h.execVxMask
  | vxNorm => exact h.execVxNorm
  | vxClip => exact h.execVxClip
  | vxOptStep => exact h.execVxOptStep
  | mvCopy => exact h.execMvCopy
  | mvFill => exact h.execMvFill
  | mvTdescLoad => exact h.execMvTdescLoad
  | mvGatherReq => exact h.execMvGatherReq
  | partCreate => exact h.execPartCreate
  | partDestroy => exact h.execPartDestroy
  | tenantBegin => exact h.execTenantBegin
  | tenantEnd => exact h.execTenantEnd
  | domainSet => exact h.execDomainSet
  | wakeArm => exact h.execWakeArm
  | paceSet => exact h.execPaceSet
  | voltSet => exact h.execVoltSet
  | aonLp => exact h.execAonLp
  | attest => exact h.execAttest
  | sessionExchange => exact h.execSessionExchange
  | weightLoad => exact h.execWeightLoad
  | windowOpen => exact h.execWindowOpen
  | windowClose => exact h.execWindowClose
  | selftest => exact h.execSelftest
  | calibrate => exact h.execCalibrate
  | ledgerAudit => exact h.execLedgerAudit
  | debugOpen => exact h.execDebugOpen
  | debugClose => exact h.execDebugClose
  | operatorKeyFuse => exact h.execOperatorKeyFuse
  | gpioOwn => exact h.execGpioOwn
  | fwStage => exact h.execFwStage
  | fwCommit => exact h.execFwCommit
  | randGet => exact h.execRandGet
  | machineJoin => exact h.execMachineJoin
  | scrubConfig => exact h.execScrubConfig
  | exportSeal => exact h.execExportSeal
  | commandStart => exact h.execCommandStart
  | tagWaitPoint => exact h.execTagWaitPoint
  | commandComplete => exact h.execCommandComplete
  | completionPost => exact h.execCompletionPost
  | waitTimeout => exact h.execWaitTimeout
  | refusalComplete => exact h.execRefusalComplete
  | squareStall => exact h.execSquareStall
  | doorbellPoll => exact h.execDoorbellPoll
  | pollReadComplete => exact h.execPollReadComplete
  | queueIdle => exact h.execQueueIdle
  | entryFetchComplete => exact h.execEntryFetchComplete
  | hostReadTimeout => exact h.execHostReadTimeout
  | hostReadError => exact h.execHostReadError
  | hifKick => exact h.execHifKick
  | queueEnable => exact h.execQueueEnable
  | queueDisable => exact h.execQueueDisable
  | queuePark => exact h.execQueuePark
  | queueUnpark => exact h.execQueueUnpark
  | resume => exact h.execResume
  | discard => exact h.execDiscard
  | cqEnable => exact h.execCqEnable
  | cqDisable => exact h.execCqDisable
  | cqHeadWrite => exact h.execCqHeadWrite
  | eqHeadWrite => exact h.execEqHeadWrite
  | islQabort => exact h.execIslQabort
  | ldgReleaseSnapshot => exact h.execLdgReleaseSnapshot
  | ldgReleasePort => exact h.execLdgReleasePort
  | dbgRelease => exact h.execDbgRelease
  | keyRetry => exact h.execKeyRetry
  | trayFanDutyWrite => exact h.execTrayFanDutyWrite
  | gpioOutWrite => exact h.execGpioOutWrite
  | gpioSetWrite => exact h.execGpioSetWrite
  | gpioClrWrite => exact h.execGpioClrWrite
  | gpioTglWrite => exact h.execGpioTglWrite
  | gpioCfgWrite => exact h.execGpioCfgWrite
  | dbgMemAccess => exact h.execDbgMemAccess
  | dbgLogRead => exact h.execDbgLogRead
  | registerWrite => exact h.execRegisterWrite
  | heldRequestTimeout => exact h.execHeldRequestTimeout
  | bar2Forward => exact h.execBar2Forward
  | pcieConfigRequest => exact h.execPcieConfigRequest
  | earlyMemoryRequest => exact h.execEarlyMemoryRequest
  | flitSlot => exact h.execFlitSlot
  | idleReceive => exact h.execIdleReceive
  | probeSend => exact h.execProbeSend
  | probeReceive => exact h.execProbeReceive
  | probeEchoReceive => exact h.execProbeEchoReceive
  | silenceTimeout => exact h.execSilenceTimeout
  | probeTimeout => exact h.execProbeTimeout
  | creditDeadline => exact h.execCreditDeadline
  | nakReceive => exact h.execNakReceive
  | fecLockLoss => exact h.execFecLockLoss
  | partnerTraining => exact h.execPartnerTraining
  | trainingDone => exact h.execTrainingDone
  | holdReceive => exact h.execHoldReceive
  | portEnable => exact h.execPortEnable
  | helloI => exact h.execHelloI
  | helloR => exact h.execHelloR
  | finishI => exact h.execFinishI
  | finishR => exact h.execFinishR
  | keyRefused => exact h.execKeyRefused
  | helloResend => exact h.execHelloResend
  | creditSync => exact h.execCreditSync
  | lostNotice => exact h.execLostNotice
  | grant => exact h.execGrant
  | revoke => exact h.execRevoke
  | revokeAck => exact h.execRevokeAck
  | winDataReceive => exact h.execWinDataReceive
  | winAck => exact h.execWinAck
  | gatherReqReceive => exact h.execGatherReqReceive
  | gatherServiceStart => exact h.execGatherServiceStart
  | xferVerdict => exact h.execXferVerdict
  | fwdReceive => exact h.execFwdReceive
  | sleepReq => exact h.execSleepReq
  | sleepAck => exact h.execSleepAck
  | wakePatternSend => exact h.execWakePatternSend
  | wakePatternDetect => exact h.execWakePatternDetect
  | wakeTimeout => exact h.execWakeTimeout
  | readShared => exact h.execReadShared
  | readOwn => exact h.execReadOwn
  | upgrade => exact h.execUpgrade
  | writeback => exact h.execWriteback
  | evictClean => exact h.execEvictClean
  | invalidate => exact h.execInvalidate
  | recallShare => exact h.execRecallShare
  | recallOwn => exact h.execRecallOwn
  | recallAck => exact h.execRecallAck
  | nonCachingAccess => exact h.execNonCachingAccess
  | invalidationApply => exact h.execInvalidationApply
  | hbmPatrolRead => exact h.execHbmPatrolRead
  | spPatrolRead => exact h.execSpPatrolRead
  | scrubTally => exact h.execScrubTally
  | refusalTally => exact h.execRefusalTally
  | firmwareRebuild => exact h.execFirmwareRebuild
  | fillRunDone => exact h.execFillRunDone
  | weightLoadChunk => exact h.execWeightLoadChunk
  | hbmRefresh => exact h.execHbmRefresh
  | hbmPhyCalibration => exact h.execHbmPhyCalibration
  | quiesceDone => exact h.execQuiesceDone
  | quiesceTimeout => exact h.execQuiesceTimeout
  | domainTransitionDone => exact h.execDomainTransitionDone
  | pinWake => exact h.execPinWake
  | pfD3hot => exact h.execPfD3hot
  | aonLpExitTlp => exact h.execAonLpExitTlp
  | pfD0Return => exact h.execPfD0Return
  | vfFlr => exact h.execVfFlr
  | pfFlr => exact h.execPfFlr
  | ideStreamEnable => exact h.execIdeStreamEnable
  | ideIntegrityFail => exact h.execIdeIntegrityFail
  | getVersion => exact h.execGetVersion
  | getCapabilities => exact h.execGetCapabilities
  | negotiateAlgorithms => exact h.execNegotiateAlgorithms
  | getDigests => exact h.execGetDigests
  | getCertificate => exact h.execGetCertificate
  | challenge => exact h.execChallenge
  | getMeasurements => exact h.execGetMeasurements
  | keyExchange => exact h.execKeyExchange
  | finish => exact h.execFinish
  | endSession => exact h.execEndSession
  | voutPoll => exact h.execVoutPoll
  | voltSetTimeout => exact h.execVoltSetTimeout
  | pmbusTelemetryRead => exact h.execPmbusTelemetryRead
  | pmbusAlert => exact h.execPmbusAlert
  | paceShortfall => exact h.execPaceShortfall
  | powerLimitCheck => exact h.execPowerLimitCheck
  | thermalAlert => exact h.execThermalAlert
  | telemetryUpdate => exact h.execTelemetryUpdate
  | thermalTrip => exact h.execThermalTrip
  | brownout => exact h.execBrownout
  | fanTachUpdate => exact h.execFanTachUpdate
  | fanStall => exact h.execFanStall
  | gpioLevelAccept => exact h.execGpioLevelAccept
  | captureEdge => exact h.execCaptureEdge
  | tachSecond => exact h.execTachSecond
  | syncOutPulse => exact h.execSyncOutPulse
  | pwmPeriodStart => exact h.execPwmPeriodStart
  | trngSample => exact h.execTrngSample
  | trngTestFail => exact h.execTrngTestFail
  | powerOnReset => exact h.execPowerOnReset
  | warmReset => cases hp
  | perstReset => exact h.execPerstReset
  | firmwareVerified => exact h.execFirmwareVerified
  | hbmTrainingDone => exact h.execHbmTrainingDone
  | gooseReady => exact h.execGooseReady
  | bootDeadline => exact h.execBootDeadline
  | porNLow => cases hp
  | perstNRise => exact h.execPerstNRise
  | registerRead => exact h.execRegisterRead
  | flitCrcFailure => exact h.execFlitCrcFailure
  | tachRisingEdge => exact h.execTachRisingEdge
  | jtagInstruction => exact h.execJtagInstruction
  | selftestEnd => exact h.execSelftestEnd
  | calibrationEnd => exact h.execCalibrationEnd
  | auditCreditExchange => exact h.execAuditCreditExchange
  | auditWaitTimeout => exact h.execAuditWaitTimeout
  | hostReadReturn => exact h.execHostReadReturn
  | flashProgramDone => exact h.execFlashProgramDone
  | fuseBlowDone ok => exact absurd rfl (hf ok)

end Sys2Proof.Machine
end

section
/-!
PROOF. O3, O6 and O7: only a short reset pulse stops a run, memories stay canonical, and what blows fuses.
-/

namespace Sys2Proof.Machine

open Sys2Proof.Claims

/-! ### The three commands outside `exec_answers` -/

theorem exec_porNLow_short (us : Nat) (s : State) (h : us < 1000) : exec (.porNLow us) s = .fault .resetTooShort := if_pos h

theorem exec_porNLow_long (us : Nat) (s : State) (h : ¬ us < 1000) : Answers s (exec (.porNLow us) s) := by
  show Answers s (execPorNLow us s)
  rw [execPorNLow, if_neg h]
  exact (Intact.refl s).wiped.fields.next

theorem exec_warmReset_short (us : Nat) (x : Bool) (s : State) (ha : s.alive = true) (h : us < 10) :
    exec (.warmReset us x) s = .fault .resetTooShort := by
  show execWarmReset us x s = _
  simp [execWarmReset, ha, h]

theorem exec_warmReset_long (us : Nat) (x : Bool) (s : State) (h : ¬ us < 10) : Answers s (exec (.warmReset us x) s) := by
  show Answers s (execWarmReset us x s)
  rw [execWarmReset, if_neg h]
  exact Answers.ite (Intact.refl s).stutter (Intact.refl s).warmed.romStart.next

/-- The fuses as OPERATOR_KEY_FUSE asked for them: the hash of a slot, or its revocation (R359). -/
def keyBlown (f : Fuses) (r : Run) : Fuses :=
  if r.aux.headD 0 = 0 then
    { f with slotHash := (List.range 4).map fun k =>
        if k = r.aux.getD 1 0 then f.slotHash.getD k 0 ||| BitVec.ofNat 384 (r.aux.getD 2 0) else f.slotHash.getD k 0 }
  else { f with revoked := setBit f.revoked (r.aux.getD 1 0) true }

theorem exec_fuseBlowDone_key (s : State) (r : Run) (h : s.mgmtBusy 64 0x93 = some r) :
    exec (.fuseBlowDone true) s = .next (({ s with fuses := keyBlown s.fuses r } : State).mgmtDone 64 0) := by
  show execFuseBlowDone true s = _
  unfold execFuseBlowDone
  rw [h]
  rfl

/-- What FUSE_BLOW_DONE makes of the fuses: key fuses or security-version bits are blown for the command that asked for it, or nothing is. -/
inductive Blown (s : State) : Fuses → Prop where
  | unchanged : Blown s s.fuses
  | key (r : Run) (h : s.mgmtBusy 64 0x93 = some r) : Blown s (keyBlown s.fuses r)
  | version (n : Nat) (r : Run) (h : s.mgmtBusy 64 0x96 = some r) : Blown s { s.fuses with secVersion := raiseSv s.fuses.secVersion n }

theorem exec_fuseBlowDone_blown (ok : Bool) (s : State) :
    ∃ f, Blown s f ∧ Answers { s with fuses := f } (exec (.fuseBlowDone ok) s) := by
  show ∃ f, Blown s f ∧ Answers { s with fuses := f } (execFuseBlowDone ok s)
  have idle : ∃ f, Blown s f ∧ Answers { s with fuses := f } (stutter s) := ⟨s.fuses, .unchanged, (Intact.refl s).stutter⟩
  unfold execFuseBlowDone
  dsimp only
  split
  case h_1 r hr => exact ⟨_, .key r hr, (Intact.refl _).mgmtDone.next⟩
  case h_2 r _ hr =>
    split
    · exact idle
    · exact ⟨_, .version _ r hr, (Intact.refl _).fields.commitNext.next⟩
  case h_3 => exact idle

/-! ### Every command -/

/-- A command that answers a next state leaves the fuses and the form of the memories, unless it is FUSE_BLOW_DONE. -/
theorem exec_intact (c : Instr) (s t : State) (e : exec c s = .next t) (hf : ∀ ok, c ≠ .fuseBlowDone ok) : Intact s t := by
  suffices Answers s (exec c s) by
    obtain ⟨u, e', h⟩ := this
    cases e.symm.trans e'
    exact h
  by_cases hp : resetPulse c = false
  · exact exec_answers c s hp hf
  cases c with
  | porNLow us =>
    refine exec_porNLow_long us s fun h => ?_
    cases e.symm.trans (exec_porNLow_short us s h)
  | warmReset us x =>
    cases ha : s.alive with
    | false =>
      show Answers s (execWarmReset us x s)
      rw [execWarmReset, ha]
      exact (Intact.refl s).stutter
    | true =>
      refine exec_warmReset_long us x s fun h => ?_
      cases e.symm.trans (exec_warmReset_short us x s ha h)
  | _ => exact absurd rfl hp

theorem exec_canonical (c : Instr) (s t : State) (e : exec c s = .next t) (hs : MemoryCanonical s) : MemoryCanonical t := by
  by_cases hf : ∃ ok, c = .fuseBlowDone ok
  · obtain ⟨ok, rfl⟩ := hf
    obtain ⟨f, -, u, e', h⟩ := exec_fuseBlowDone_blown ok s
    cases e.symm.trans e'
    exact h.canonical hs
  · exact (exec_intact c s t e (not_exists.mp hf)).canonical hs

/-- The fuses after any command: as before, or as FUSE_BLOW_DONE blew them. -/
theorem exec_blown (c : Instr) (s t : State) (e : exec c s = .next t) :
    Blown s t.fuses ∧ ((∀ ok, c ≠ .fuseBlowDone ok) → t.fuses = s.fuses) := by
  by_cases hf : ∃ ok, c = .fuseBlowDone ok
  · obtain ⟨ok, rfl⟩ := hf
    obtain ⟨f, hb, u, e', h⟩ := exec_fuseBlowDone_blown ok s
    cases e.symm.trans e'
    exact ⟨h.fuses ▸ hb, fun k => absurd rfl (k ok)⟩
  · have h := (exec_intact c s t e (not_exists.mp hf)).fuses
    exact ⟨h ▸ .unchanged, fun _ => h⟩

/-- Settles O3: every command but the reset pulses and FUSE_BLOW_DONE is `exec_answers`, and those three have their own lemmas. -/
theorem onlyShortResetsStop : Obligations.OnlyShortResetsStop := by
  have completes : ∀ {s o}, Answers s o → Completes o := fun ⟨t, e, _⟩ => ⟨t, e⟩
  refine fun c s => ⟨fun hp => ?_, fun us => ⟨exec_porNLow_short us s, fun h => ?_⟩, fun us x h => ?_, (exec_warmReset_short · · s)⟩
  · by_cases hf : ∃ ok, c = .fuseBlowDone ok
    · obtain ⟨ok, rfl⟩ := hf
      obtain ⟨f, -, h⟩ := exec_fuseBlowDone_blown ok s
      exact completes h
    · exact completes (exec_answers c s hp (not_exists.mp hf))
  · exact completes (exec_porNLow_long us s (by omega))
  · exact completes (exec_warmReset_long us x s (by omega))

/-- Settles O6: a step idles or is a command, and the queue of commands is no part of a memory. -/
theorem memoryCanonicalKept : Obligations.MemoryCanonicalKept := by
  intro s t hs e
  unfold step at e
  split at e
  · cases e
    exact (Intact.ite (Intact.refl s).fields (Intact.refl s)).canonical hs
  · next c rest _ => exact exec_canonical c { s with pending := rest } t e hs

/-! ### Fuse bits -/

theorem and_or_of_and_eq {w : Nat} {a b : BitVec w} (h : a &&& b = a) (c : BitVec w) : a &&& (b ||| c) = a := by
  rw [BitVec.and_or_distrib_left, h]
  ext i
  simp only [BitVec.getElem_or, BitVec.getElem_and]
  cases a[i] <;> rfl

theorem and_setBit_of_and_eq {w : Nat} {a b : BitVec w} (h : a &&& b = a) (k : Nat) : a &&& setBit b k true = a :=
  and_or_of_and_eq h _

theorem and_raiseSv (v : BitVec 64) (n : Nat) : v &&& raiseSv v n = v := by
  have keeps : ∀ (l : List Nat) (u : BitVec 64), v &&& u = v →
      v &&& l.foldl (fun u k => if thermometer u < n then setBit u k true else u) u = v := by
    intro l
    induction l with
    | nil => exact fun u h => h
    | cons k l ih =>
      intro u h
      refine ih _ ?_
      dsimp only
      split
      · exact and_setBit_of_and_eq h k
      · exact h
  exact keeps _ v BitVec.and_self

theorem fusesRise_refl (f : Fuses) : FusesRise f f :=
  ⟨BitVec.and_self, BitVec.and_self, fun _ => BitVec.and_self, rfl, rfl, rfl, rfl, rfl, rfl, rfl, rfl⟩

/-- No key fuse lies past those of the four slots (R347). -/
def FourSlots (f : Fuses) : Prop := f.slotHash.length ≤ 4

theorem FourSlots.rises {f : Fuses} (h : FourSlots f) (n : Nat) (v : BitVec 384) (k : Nat) :
    f.slotHash.getD k 0 &&& ((List.range 4).map fun k => if k = n then f.slotHash.getD k 0 ||| v else f.slotHash.getD k 0).getD k 0
      = f.slotHash.getD k 0 := by
  by_cases hk : k < 4
  · rw [List.getD_eq_getElem ((List.range 4).map _) _ (by rw [List.length_map, List.length_range]; exact hk)]
    simp only [List.getElem_map, List.getElem_range]
    split
    · exact and_or_of_and_eq BitVec.and_self v
    · exact BitVec.and_self
  · rw [List.getD_eq_default f.slotHash 0 (Nat.le_trans h (by omega))]
    exact BitVec.zero_and

/-- Where the key fuses are those of the four slots, R348 holds of what is blown, and they stay so. -/
theorem Blown.rises {s : State} {f : Fuses} (hb : Blown s f) (h4 : FourSlots s.fuses) : FusesRise s.fuses f ∧ FourSlots f := by
  obtain ⟨hr, hv, hs, rest⟩ := fusesRise_refl s.fuses
  cases hb with
  | unchanged => exact ⟨⟨hr, hv, hs, rest⟩, h4⟩
  | key r =>
    unfold keyBlown
    split
    · exact ⟨⟨hr, hv, h4.rises _ _, rest⟩, (List.length_map ..).le⟩
    · exact ⟨⟨and_setBit_of_and_eq hr _, hv, hs, rest⟩, h4⟩
  | version n => exact ⟨⟨hr, and_raiseSv _ n, hs, rest⟩, h4⟩

/-- Where nothing asked for fuses, none is blown. -/
theorem Blown.kept {s : State} {f : Fuses} (hb : Blown s f) (hk : s.mgmtBusy 64 0x93 = none) (hc : s.mgmtBusy 64 0x96 = none) :
    f = s.fuses := by
  cases hb with
  | unchanged => rfl
  | key r h => cases hk.symm.trans h
  | version _ r h => cases hc.symm.trans h

/-- R348 as O7 states it, on a die whose key fuses are those of its four slots; every command keeps them so. -/
theorem exec_fusesRise (c : Instr) (s t : State) (h4 : FourSlots s.fuses) (e : exec c s = .next t) :
    (FusesRise s.fuses t.fuses ∧ FourSlots t.fuses) ∧
    ((∀ ok, c ≠ .fuseBlowDone ok) ∨ (s.mgmtBusy 64 0x93 = none ∧ s.mgmtBusy 64 0x96 = none) → t.fuses = s.fuses) := by
  obtain ⟨hb, hc⟩ := exec_blown c s t e
  exact ⟨hb.rises h4, fun h => h.elim hc fun ⟨hk, hf⟩ => hb.kept hk hf⟩

/-- A run of OPERATOR_KEY_FUSE that waits for the fuses of slot 0. -/
def slotRun : Run := { entry := [0x93], start := 0, phase := .busy, aux := [0, 0, 0] }

/-- A state with a fifth key hash, in which that command waits. -/
def fiveSlots : State := ({ State.reset with fuses := { slotHash := [0, 0, 0, 0, 1] } } : State).setQueue 64 { run := [slotRun] }

theorem mgmtBusy_fiveSlots : fiveSlots.mgmtBusy 64 0x93 = some slotRun :=
  (mgmtBusy_iff ..).mpr ⟨rfl, rfl, by decide, by decide⟩

/-- Refutes O7: the statement ranges over states whose fuses hold a fifth key hash, which R347 does not have, and the blowing of a slot
leaves four. Over the fuses of R347 it holds: `exec_fusesRise`. -/
theorem not_fusesOnlyRise : ¬ Obligations.FusesOnlyRise := by
  intro h
  obtain ⟨⟨-, -, hs, -⟩, -⟩ := h _ _ _ (exec_fuseBlowDone_key _ _ mgmtBusy_fiveSlots)
  rw [(Intact.refl _).mgmtDone.fuses] at hs
  exact absurd (congrArg (·.getLsbD 0) (hs 4)) (by decide)

end Sys2Proof.Machine
end

section
/-! PROOF. O1 and O2: what a step is. -/

namespace Sys2Proof.Machine

open Sys2Proof.Claims

/-- Settles O1: this is the step of a queue with a command. -/
theorem stepRunsFront : Obligations.StepRunsFront := by
  intro s c rest h
  simp only [step, h]

/-- Settles O2: the time base runs where POR_N is high and the die has not tripped. -/
theorem emptyQueueIdles : Obligations.EmptyQueueIdles := by
  intro s h
  simp only [step, h, State.idle, State.timeRuns]

end Sys2Proof.Machine
end

section
/-! PROOF. O39, PACE_SET, and O36, TENANT_BEGIN. -/

namespace Sys2Proof.Machine

open Sys2Proof.Claims

section
variable {s : State} {q : Nat} {r : Run}

/-- A command whose field checks fail is MALFORMED with DESC (R219). -/
theorem mgmtDesc_bad {checks : List (Nat × Bool)} {o : Nat} (h : s.runAt q 0 = some r) (bad : firstBad checks = some o) (f : State) :
    s.mgmtDesc q checks f = malformed s q r subDesc o :=
  (mgmtDesc_fail s f q o checks bad).trans (mgmtMal_eq_malformed h _ _)

/-- A row that is a command behind field checks: MALFORMED where one fails. -/
theorem exec_desc_bad {c : Instr} {op o : Nat} {checks : Run → List (Nat × Bool)} {f : Run → State}
    (row : exec c s = mgmt q op s fun r => s.mgmtDesc q (checks r) (f r)) (h : s.mgmtRun q op = some r)
    (bad : firstBad (checks r) = some o) : exec c s = .next (malformed s q r subDesc o) :=
  row.trans ((mgmt_run _ _ _ _ r h).trans (congrArg _ (mgmtDesc_bad (runAt_of_mgmtRun h) bad _)))

/-- Its body where none does. -/
theorem exec_desc_clean {c : Instr} {op : Nat} {checks : Run → List (Nat × Bool)} {f : Run → State}
    (row : exec c s = mgmt q op s fun r => s.mgmtDesc q (checks r) (f r)) (h : s.mgmtRun q op = some r) (clean : Clean (checks r)) :
    exec c s = .next (f r) :=
  row.trans ((mgmt_run _ _ _ _ r h).trans (congrArg _ (mgmtDesc_clean clean _)))

end

/-- Settles O39: the row behind its field checks, and its two ends. -/
theorem paceSet : Obligations.PaceSet := by
  intro s r h
  have front := runAt_of_mgmtRun h
  refine ⟨fun o bad => exec_desc_bad rfl h bad, fun clean low => ?_, fun clean high => ?_⟩
  · refine (exec_desc_clean rfl h clean).trans (congrArg _ ?_)
    rw [if_pos low, mgmtEnd_eq_ended front]
  · refine (exec_desc_clean rfl h clean).trans (congrArg _ ?_)
    rw [if_neg (Nat.not_lt.mpr high)]
    exact mgmtDone_eq_ended (r := r) (by exact front) 0

/-! ### TENANT_BEGIN -/

/-- What a die does for another one's tenant changes its ports only (R379). -/
theorem actElsewhere_ports (s : State) (op p : Nat) (ide : Bool) : ∃ k, s.actElsewhere op p ide = { s with ports := k } :=
  foldl_forward_ports _ _ _ _

/-- A partition with a new tenant. -/
def Part.begun (t : Part) (ide : Bool) : Part := { t with state := .active, ideReq := ide, reportSeq := 0, refTotal := 0 }

theorem beginTenant_ports (s : State) (p : Nat) (ide : Bool) : ∃ k, s.beginTenant p ide =
    { s.setPart p ((s.part p).begun ide) with ports := k } :=
  tellPart_ports _ _ _

theorem beginTenant_part (s : State) (p : Nat) (ide : Bool) (k : Nat) : (s.beginTenant p ide).part k =
    if k = p then (s.part p).begun ide else s.part k := by
  obtain ⟨x, e⟩ := beginTenant_ports s p ide
  rw [e]
  exact State.part_setPart s p k ((s.part p).begun ide)

theorem beginTenant_runAt (s : State) (p : Nat) (ide : Bool) (q i : Nat) : (s.beginTenant p ide).runAt q i = s.runAt q i := by
  obtain ⟨x, e⟩ := beginTenant_ports s p ide
  rw [e]
  rfl

theorem actElsewhere_runAt (s : State) (op p : Nat) (ide : Bool) (q i : Nat) : (s.actElsewhere op p ide).runAt q i = s.runAt q i := by
  obtain ⟨x, e⟩ := actElsewhere_ports s op p ide
  rw [e]
  rfl

theorem endSwitch_none {u : State} {p : Nat} (h : u.switchOf p = none) : u.endSwitch p = u := by
  rw [State.endSwitch, h]

/-- The command completes when the last of the dies that hold the partition has acted (R379). -/
theorem othersDone_begun {u : State} {r : Run} {p : Nat} (h : u.mgmtBusy 64 0x82 = some r) (aux : r.aux = [p])
    (last : (u.part p).othersAre 2 = true) (no : u.switchOf p = none) : u.othersDone p = ended u 64 r stDone 0 := by
  have front := ((mgmtBusy_iff ..).mp h).1
  unfold State.othersDone
  rw [h]
  dsimp only
  rw [if_pos (by simp [aux, last]), mgmtDone_eq_ended front]
  exact endSwitch_none no

/-- Settles O36: the row behind its field checks, and its ends by what the partition is on this die and on the others. -/
theorem tenantBegin : Obligations.TenantBegin := by
  intro s r h e p ide checks t
  have front := runAt_of_mgmtRun h
  refine ⟨fun o bad => exec_desc_bad rfl h bad, fun clean => ?_⟩
  have row := exec_desc_clean (c := .tenantBegin) rfl h clean
  refine ⟨fun f => ?_, fun lead => ⟨fun bad => ?_, fun created others => ?_⟩⟩
  · refine row.trans (congrArg _ ?_)
    rw [if_pos f, mgmtMal_eq_malformed front]
  · refine row.trans (congrArg _ ?_)
    rw [if_neg (by simp [lead]), if_pos (by simpa using bad), mgmtMal_eq_malformed front]
  · have begun := beginTenant_part s p ide
    rw [if_neg (by simp [lead]), if_neg (by simp [p, e, created, others])] at row
    refine ⟨by rw [begun, if_pos rfl]; rfl, by rw [begun, if_pos rfl]; rfl, by rw [begun, if_pos rfl]; rfl, fun k hk => (begun k).trans
      (if_neg hk),
      fun narrow => ?_, fun wide => ⟨?_, fun u hu last no => othersDone_begun hu rfl last no⟩⟩
    · refine row.trans (congrArg _ ?_)
      rw [if_neg (by simp [p, e, narrow])]
      exact mgmtDone_eq_ended ((beginTenant_runAt ..).trans front) 0
    · refine row.trans (congrArg _ ?_)
      rw [if_pos wide]
      exact mgmtWait_eq_waits ((actElsewhere_runAt ..).trans ((beginTenant_runAt ..).trans front)) [p]

end Sys2Proof.Machine
end

section
/-! PROOF. O40: VOLT_SET with its polls, AON_LP and the D states. -/

namespace Sys2Proof.Machine

open Sys2Proof.Claims

/-! ### VOUT_COMMAND is a ceiling (R413) -/

/-- A quotient rounded up. -/
theorem ceil_div_bounds {a d : Nat} (hd : 0 < d) : a ≤ d * ((a + d - 1) / d) ∧ d * ((a + d - 1) / d) < a + d := by
  have whole := Nat.div_add_mod (a + d - 1) d
  have part := Nat.mod_lt (a + d - 1) hd
  omega

theorem voutCommand_neg {mv : Nat} {n : Int} (h : n < 0) :
    mv * 2 ^ (-n).toNat ≤ 1000 * voutCommand mv n ∧ 1000 * voutCommand mv n < mv * 2 ^ (-n).toNat + 1000 := by
  rw [voutCommand, if_pos h]
  exact ceil_div_bounds (by decide)

theorem voutCommand_nonneg {mv : Nat} {n : Int} (h : 0 ≤ n) :
    mv ≤ 1000 * (voutCommand mv n * 2 ^ n.toNat) ∧ 1000 * (voutCommand mv n * 2 ^ n.toNat) < mv + 1000 * 2 ^ n.toNat := by
  have unit : 0 < 1000 * 2 ^ n.toNat := Nat.mul_pos (by decide) (Nat.two_pow_pos _)
  have reorder : 1000 * (voutCommand mv n * 2 ^ n.toNat) = 1000 * 2 ^ n.toNat * voutCommand mv n := by ring
  rw [reorder, voutCommand, if_neg (Int.not_lt.mpr h)]
  exact ceil_div_bounds unit

/-! ### VOLT_SET, its polls and its timeout (R409) -/

theorem advanceTo_power (s : State) (t : Nat) : (s.advanceTo t).power = s.power := by rw [advanceTo_eq]

theorem advanceTo_runAt (s : State) (t q i : Nat) : (s.advanceTo t).runAt q i = s.runAt q i := by
  rw [advanceTo_eq]
  rfl

section
variable {s : State} {r : Run} {goal : Nat}

/-- The command ends MALFORMED, and the rail goes back to what it was. -/
theorem voltFailed_eq {status : BitVec 16} (h : s.runAt 64 0 = some r) : s.voltFailed status =
    malformed (({ s with power := { s.power with voltGoal := none, voltGood := 0 } } : State).emit
      (.pmbus 0x21 (voutCommand s.power.voltPrev s.power.exponent))) 64 r subPmbus status.toNat :=
  mgmtMal_eq_malformed (r := r) (by exact h) _ _

/-- A poll within the 5 ms is the Goose's judgement of the readings, 50 µs on. -/
theorem exec_voutPoll {mv : Nat} {status : BitVec 16} (hg : s.power.voltGoal = some goal) (hb : s.mgmtBusy 64 0x87 = some r)
    (due : s.time + 5000 ≤ s.power.voltStart + 500000) :
    let t := s.advanceTo (s.time + 5000)
    exec (.voutPoll mv status) s = .next (
      if status != 0 then t.voltFailed status
      else if goal ≤ mv + 15 ∧ mv ≤ goal + 15 then
        if 1 ≤ t.power.voltGood then
          ({ t with power := { t.power with voltGoal := none, voltGood := 0, volt := BitVec.ofNat 10 goal } } : State).mgmtDone 64 0
        else { t with power := { t.power with voltGood := 1 } }
      else { t with power := { t.power with voltGood := 0 } }) := by
  intro t
  show execVoutPoll mv status s = _
  unfold execVoutPoll
  rw [hg, hb]
  dsimp only
  rw [if_neg (Nat.not_lt.mpr due)]
  repeat' split
  all_goals rfl

theorem exec_voutPoll_late {mv : Nat} {status : BitVec 16} (late : ¬ s.time + 5000 ≤ s.power.voltStart + 500000) :
    exec (.voutPoll mv status) s = .next s := by
  show execVoutPoll mv status s = _
  unfold execVoutPoll
  split
  · rw [if_pos (Nat.lt_of_not_le late)]
    rfl
  · rfl

theorem exec_voltSetTimeout (hg : s.power.voltGoal = some goal) (hb : s.mgmtBusy 64 0x87 = some r) :
    exec .voltSetTimeout s = .next ((s.advanceTo (s.power.voltStart + 500000)).voltFailed 0) := by
  show execVoltSetTimeout s = _
  rw [execVoltSetTimeout, hg, hb]

end

/-! ### AON_LP and the D states (R429, R430) -/

/-- The lowest domain that is ON or goes there. -/
def State.lowestOn (s : State) : Option Nat := setDomains.find? (fun d => s.settled d == .on || s.domSt d == .on)

section
variable {s : State} {r : Run}

theorem lowestOn_some {d : Nat} (hd : d < 33) (on : s.settled d = .on ∨ s.domSt d = .on)
    (least : ∀ k, k < d → s.settled k ≠ .on ∧ s.domSt k ≠ .on) : s.lowestOn = some d := by
  rw [State.lowestOn, setDomains, List.find?_range_eq_some]
  exact ⟨by simpa using on, List.mem_range.mpr hd, fun k hk => by simpa using least k hk⟩

theorem lowestOn_none (off : ∀ d, d < 33 → s.settled d ≠ .on ∧ s.domSt d ≠ .on) : s.lowestOn = none := by
  rw [State.lowestOn, setDomains, List.find?_eq_none]
  exact fun d hd => by simpa using off d (List.mem_range.mp hd)

theorem exec_aonLp (h : s.mgmtRun 64 0x88 = some r) (rest : (reservedBad r.entry 24 64).2 = false) :
    let load := knownLoad s.power.wakePorts s.power.wakePins
    exec .aonLp s = .next (match s.lowestOn with
      | some d => malformed s 64 r subAonState d
      | none => if 2600 < load then malformed s 64 r subBudget load
                else ended { s with power := { s.power with aonLp := true } } 64 r stDone 0) := by
  have front := runAt_of_mgmtRun h
  refine (exec_desc_clean (c := .aonLp) rfl h (clean_cons.mpr ⟨rest, clean_nil⟩)).trans (congrArg _ ?_)
  show (match s.lowestOn with | some d => _ | none => _) = _
  cases s.lowestOn with
  | some d => exact mgmtMal_eq_malformed front _ _
  | none =>
    dsimp only
    split
    · exact mgmtMal_eq_malformed front _ _
    · exact mgmtDone_eq_ended (r := r) (by exact front) 0

/-- The host interface and the Goose in RET. -/
def State.hostRet (s : State) : State :=
  (s.setDomain 33 { s.domain 33 with st := .ret, target := none, since := s.time }).setDomain 34
    { s.domain 34 with st := .ret, target := none, since := s.time }

theorem hostRet_domain (s : State) (d : Nat) : s.hostRet.domain d =
    if d = 34 then { s.domain 34 with st := .ret, target := none, since := s.time }
    else if d = 33 then { s.domain 33 with st := .ret, target := none, since := s.time } else s.domain d := by
  rw [State.hostRet, State.domain_setDomain, State.domain_setDomain]

theorem exec_pfD3hot (d0 : s.power.d3hot = false) (on : s.domSt 33 = .on) :
    exec .pfD3hot s = .next (if s.power.aonLp then { s.hostRet with power := { s.power with d3hot := true, lp := true } }
      else { s with power := { s.power with d3hot := true } }) := by
  show execPfD3hot s = _
  rw [execPfD3hot, if_neg (by simp [d0, on])]
  dsimp only
  split <;> rfl

end

/-- Settles O40: the arithmetic of VOUT_COMMAND, then each row by its branches. -/
theorem voltageAndLowPower : Obligations.VoltageAndLowPower := by
  refine ⟨fun mv n => ⟨voutCommand_neg, voutCommand_nonneg⟩, fun s r => ⟨?_, ?_⟩, fun s => ⟨?_, fun d0 on => ⟨?_, ?_⟩, ?_, ?_⟩⟩
  · intro h linear mv checks clean
    have front := runAt_of_mgmtRun h
    have row := exec_desc_clean (c := .voltSet) rfl h clean
    refine ⟨fun low => row.trans (congrArg _ ?_), fun high => row.trans (congrArg _ ?_)⟩
    · rw [if_pos low, mgmtEnd_eq_ended front]
    · rw [if_neg (Nat.not_lt.mpr high), if_neg (by simp [linear])]
      exact mgmtWait_eq_waits (r := r) (by exact front) []
  · intro goal hg hb t back due
    have front := ((mgmtBusy_iff ..).mp hb).1
    have power : t.power = s.power := advanceTo_power _ _
    have failed : ∀ time status, (s.advanceTo time).voltFailed status = back (s.advanceTo time) status := by
      intro time status
      simp only [voltFailed_eq ((advanceTo_runAt s time 64 0).trans front), advanceTo_power, back]
    have poll := fun mv status hd => exec_voutPoll (mv := mv) (status := status) hg hb hd
    refine ⟨fun mv status late => exec_voutPoll_late late, fun mv status hd fault => ?_, fun mv hd low high good => ?_,
      fun mv hd low high good => ?_, fun mv hd out => ?_, (exec_voltSetTimeout hg hb).trans (congrArg _ (failed _ _))⟩
    · refine (poll mv status hd).trans (congrArg _ ?_)
      rw [if_pos (by simpa using fault)]
      exact failed _ _
    · refine (poll mv 0 hd).trans (congrArg _ ?_)
      rw [if_neg (by decide), if_pos ⟨low, high⟩, if_pos (power ▸ good), power]
      exact mgmtDone_eq_ended (r := r) (by exact (advanceTo_runAt ..).trans front) 0
    · refine (poll mv 0 hd).trans (congrArg _ ?_)
      rw [if_neg (by decide), if_pos ⟨low, high⟩, if_neg (by rw [power, good]; decide), power]
    · refine (poll mv 0 hd).trans (congrArg _ ?_)
      rw [if_neg (by decide), if_neg (by omega), power]
  · intro r h rest load
    refine ⟨fun d hd on least => ?_, fun off => ⟨fun high => ?_, fun low => ?_⟩⟩
    · rw [exec_aonLp h rest, lowestOn_some hd on least]
    · rw [exec_aonLp h rest, lowestOn_none off]
      exact congrArg _ (if_pos high)
    · rw [exec_aonLp h rest, lowestOn_none off]
      exact congrArg _ (if_neg (Nat.not_lt.mpr low))
  · intro no
    rw [exec_pfD3hot d0 on, if_neg (by simp [no])]
  · intro lp
    rw [exec_pfD3hot d0 on, if_pos lp]
    refine ⟨_, rfl, congrArg Domain.st (hostRet_domain s 33), congrArg Domain.st (hostRet_domain s 34), rfl, fun d h33 h34 => ?_, rfl⟩
    exact (hostRet_domain s d).trans ((if_neg h34).trans (if_neg h33))
  · intro low
    show execAonLpExitTlp s = _
    rw [execAonLpExitTlp, if_pos (by simpa using low)]
    rfl
  · intro d3 on
    show execPfD0Return s = _
    rw [execPfD0Return, if_neg (by simp [d3, on])]

end Sys2Proof.Machine
end

section
/-! PROOF. O43: ATTEST, the SPDM requests, SESSION_EXCHANGE and IDE. -/

namespace Sys2Proof.Machine

open Sys2Proof.Claims

section
variable {s : State} {fn code : Nat} {request : List Byte} {ok : Bool} {others : Sections}

/-! ### What a report and an answer leave of the queues -/

theorem report_runAt (p : Option Nat) (nonce : List Byte) (q i : Nat) : (s.report p nonce others).2.runAt q i = s.runAt q i := by
  cases p <;> rfl

theorem report_session (p : Option Nat) (nonce : List Byte) (f : Nat) : (s.report p nonce others).2.session f = s.session f := by
  cases p <;> rfl

theorem endSession_queues : (s.endSession fn).queues = s.queues := by
  unfold State.endSession
  dsimp only
  split <;> rfl

theorem endSession_session : (s.endSession fn).session fn = {} := by
  unfold State.endSession
  dsimp only
  split
  · exact State.session_setSession_same s fn {}
  · exact (ideInsecure_session _ _ _).trans (State.session_setSession_same s fn {})

theorem report_queues (p : Option Nat) (nonce : List Byte) : (s.report p nonce others).2.queues = s.queues := by
  cases p <;> rfl

/-- An answer leaves the queues alone. -/
theorem answerTo_queues {x : List Byte × State} (h : s.answerTo fn code request ok others = some x) : x.2.queues = s.queues := by
  unfold State.answerTo at h
  dsimp only at h
  split at h
  · split at h <;> cases h
    exact report_queues (others := others) _ (slice request 4 32)
  split at h
  · split at h <;> cases h
    rfl
  split at h
  · split at h
    · cases h
      rfl
    · split at h <;> cases h
      rfl
  split at h
  · cases h
    dsimp only
    split <;> rfl
  split at h
  · cases h
    exact endSession_queues
  split at h <;> cases h <;> rfl

theorem respond_runAt {l : List Byte} {t : State} (h : s.respond fn code request ok others = some (l, t)) (q i : Nat) :
    t.runAt q i = s.runAt q i := by
  obtain ⟨x, hx, e⟩ := Option.map_eq_some_iff.mp h
  cases e
  have same : ∀ u : State, u.queues = s.queues → u.runAt q i = s.runAt q i := fun u e => by
    rw [State.runAt, State.queue, e]
    rfl
  exact same _ (answerTo_queues hx)

/-! ### The requests of a mailbox (R393) -/

/-- The state after function `fn` has answered, its transcript being `old` before the request. -/
def State.told (u : State) (fn : Nat) (request old : List Byte) (x : Session) (answer : List Byte) : State :=
  (u.setSession fn { x with transcript := old ++ request ++ answer }).emit (.spdm fn answer)

/-- A request is served where the Goose runs, no exchange of the ring is served, and the port has the function. -/
theorem doe_served {l : List Byte} {t : State} (hfn : fn ≤ 16) (up : s.gooseUp = true) (free : s.exchanging fn = false)
    (has : s.die = 0 ∨ fn = 0) (h : s.answerTo fn code request ok others = some (l, t)) :
    doe fn code request ok others s = .next (t.told fn request (t.session fn).transcript (t.session fn) l) := by
  unfold doe
  rw [if_neg (by simp [up, free]; omega), State.respond, h]
  rfl

theorem doe_absent (hd : s.die ≠ 0) (hf : fn ≠ 0) : doe fn code request ok others s = .next s :=
  if_pos (.inr (.inl ⟨hd, hf⟩))

/-- Each request of a mailbox is of this form. -/
theorem exec_request {c : Instr} (h : c ∈ [.getVersion fn request, .getCapabilities fn request, .negotiateAlgorithms fn request,
      .getDigests fn request, .getCertificate fn request, .challenge fn request, .getMeasurements fn request others,
      .keyExchange fn request, .finish fn request ok, .endSession fn request]) :
    ∃ code ok others, exec c s = doe fn code request ok others s := by
  simp only [List.mem_cons, List.not_mem_nil, or_false] at h
  rcases h with rfl | rfl | rfl | rfl | rfl | rfl | rfl | rfl | rfl | rfl
  · exact ⟨0x84, true, [], rfl⟩
  · exact ⟨0xE1, true, [], rfl⟩
  · exact ⟨0xE3, true, [], rfl⟩
  · exact ⟨0x81, true, [], rfl⟩
  · exact ⟨0x82, true, [], rfl⟩
  · exact ⟨0x83, true, [], rfl⟩
  · exact ⟨0xE0, true, others, rfl⟩
  · exact ⟨0xE4, true, [], rfl⟩
  · exact ⟨0xE5, ok, [], rfl⟩
  · exact ⟨0xEC, true, [], rfl⟩

/-! ### The answer to each request -/

/-- What the responder says to a request that carries no report. -/
def State.said (s : State) (fn code : Nat) (request : List Byte) : List Byte :=
  Config.spdmResponse fn code (s.session fn).transcript request []

theorem answerTo_version :
    s.answerTo fn 0x84 request ok others = some (s.said fn 0x84 request, s.setSession fn { s.session fn with transcript := [] }) := rfl

theorem answerTo_plain (h : code ∈ [0xE1, 0xE3, 0x81, 0x82]) :
    s.answerTo fn code request ok others = some (s.said fn code request, s) := by
  simp only [List.mem_cons, List.not_mem_nil, or_false] at h
  rcases h with rfl | rfl | rfl | rfl <;> rfl

theorem answerTo_challenge (ready : s.mgt.trngReady = true) :
    s.answerTo fn 0x83 request ok others = some (s.said fn 0x83 request, s) := by
  show (if s.mgt.trngReady = true then _ else _) = _
  rw [if_pos ready]
  rfl

theorem answerTo_measurements (ready : s.mgt.trngReady = true) :
    let x := s.report (if fn = 0 then none else some (fn - 1)) (slice request 4 32) others
    s.answerTo fn 0xE0 request ok others = some (Config.spdmResponse fn 0xE0 (s.session fn).transcript request x.1, x.2) := by
  show (if (!s.mgt.trngReady) = true then _ else _) = _
  rw [if_neg (by simp [ready])]
  rfl

theorem answerTo_keyExchange_limit (h : (s.session fn).opening = true ∨ (s.session fn).live = true) :
    s.answerTo fn 0xE4 request ok others = some ([0x12, 0x7F, 0x0A, 0x00], s) := by
  show (if ((s.session fn).opening || (s.session fn).live) = true then _ else _) = _
  rw [if_pos (by simpa using h)]
  rfl

/-- A function's session while KEY_EXCHANGE opens it. -/
def State.openingSession (s : State) (fn : Nat) (request : List Byte) : Session :=
  { s.session fn with opening := true, secret := Config.spdmSecret fn (s.session fn).transcript request s.freeCtr,
                      keys := Config.spdmKeys fn (s.session fn).transcript request s.freeCtr }

theorem answerTo_keyExchange (hop : (s.session fn).opening = false) (hl : (s.session fn).live = false) (ready : s.mgt.trngReady = true) :
    s.answerTo fn 0xE4 request ok others =
      some (s.said fn 0xE4 request, s.freeTaken.setSession fn (s.openingSession fn request)) := by
  show (if ((s.session fn).opening || (s.session fn).live) = true then _ else if (!s.mgt.trngReady) = true then _ else _) = _
  rw [if_neg (by simp [hop, hl]), if_neg (by simp [ready])]
  rfl

theorem answerTo_finish :
    s.answerTo fn 0xE5 request ok others = some (s.said fn 0xE5 request,
      if (s.session fn).opening then s.setSession fn (if ok then { s.session fn with opening := false, live := true }
        else { transcript := (s.session fn).transcript }) else s) := rfl

theorem answerTo_endSession : s.answerTo fn 0xEC request ok others = some (s.said fn 0xEC request, s.endSession fn) := rfl

end

/-- Settles O43: each service by its row, the requests of a mailbox by the answer to their code. -/
theorem gooseServices : Obligations.GooseServices := by
  intro s
  refine ⟨?_, ?_, ?_, ?_⟩
  · intro q r others h p l t
    have row : exec (.attest q others) s = .next (if (!s.mgt.trngReady) = true then s else
        (t.toHost q (.hostWrite (ringOwnerFn q) (leAt r.entry 24 8) l)).mgmtDone q l.length) := mgmt_run _ _ _ _ r h
    refine ⟨fun no => row.trans (congrArg _ (if_pos (by simp [no]))), fun ready => row.trans (congrArg _ ?_)⟩
    rw [if_neg (by simp [ready])]
    exact mgmtDone_eq_ended ((toHost_runAt ..).trans ((report_runAt ..).trans (runAt_of_mgmtRun h))) _
  · intro fn request hfn up free v said kept
    refine ⟨?_, fun has => ?_⟩
    · intro hd hf ok others c hc
      obtain ⟨code, ok, others, row⟩ := exec_request (s := s) hc
      exact row.trans (doe_absent hd hf)
    · have serve : ∀ {code ok others l t}, s.answerTo fn code request ok others = some (l, t) →
          doe fn code request ok others s = .next (t.told fn request (t.session fn).transcript (t.session fn) l) :=
        fun e => doe_served hfn up free has e
      have set : ∀ (u : State) (w : Session) (l : List Byte),
          (u.setSession fn w).told fn request ((u.setSession fn w).session fn).transcript ((u.setSession fn w).session fn) l =
            kept (u.setSession fn w) w.transcript w l := fun u w l => by
        rw [State.session_setSession_same]
        rfl
      have plain : ∀ code ∈ [0xE1, 0xE3, 0x81, 0x82], doe fn code request true [] s = .next (kept s v.transcript v (said code)) :=
        fun code hc => serve (answerTo_plain hc)
      refine ⟨(serve (ok := true) (others := []) answerTo_version).trans (congrArg _ (set _ _ _)), plain 0xE1 (by simp),
        plain 0xE3 (by simp), plain 0x81 (by simp), plain 0x82 (by simp),
        fun ready => serve (ok := true) (others := []) (answerTo_challenge ready), ?_,
        fun h => serve (ok := true) (others := []) (answerTo_keyExchange_limit h), fun hop hl ready => ?_, fun hop => ⟨?_, ?_⟩,
        fun ok hop => ?_, ?_⟩
      · intro ready others
        refine (serve (ok := true) (answerTo_measurements (others := others) ready)).trans (congrArg _ ?_)
        rw [report_session]
        rfl
      · exact (serve (ok := true) (others := []) (answerTo_keyExchange hop hl ready)).trans (congrArg _ (set _ _ _))
      · refine (serve (ok := true) (others := []) answerTo_finish).trans (congrArg _ ?_)
        rw [if_pos hop]
        exact set _ _ _
      · refine (serve (ok := false) (others := []) answerTo_finish).trans (congrArg _ ?_)
        rw [if_pos hop]
        exact set _ _ _
      · refine (serve (ok := ok) (others := []) answerTo_finish).trans (congrArg _ ?_)
        rw [if_neg (by simpa [v] using hop)]
        rfl
      · refine (serve (ok := true) (others := []) answerTo_endSession).trans (congrArg _ ?_)
        rw [endSession_session]
        rfl
  · intro q r request ok others l t got h e len cap l4 l4096 c4 cmax rest hg hr fits
    refine (exec_desc_clean (c := .sessionExchange q request ok others) rfl h ?_).trans (congrArg _ ?_)
    · refine clean_cons.mpr ⟨?_, clean_cons.mpr ⟨?_, clean_cons.mpr ⟨rest, clean_nil⟩⟩⟩
      · show (decide (len < 4) || decide (4096 < len)) = false
        simp [l4, l4096]
      · show (decide (cap < 4) || decide (16384 < cap)) = false
        simp [c4, cmax]
    · rw [needHost_got hg, hr]
      dsimp only
      rw [if_neg (Nat.not_lt.mpr fits)]
      exact mgmtDone_eq_ended ((toHost_runAt ..).trans ((respond_runAt hr ..).trans (runAt_of_mgmtRun h))) _
  · intro k h1 h16 t u
    have here : ¬ (k = 0 ∨ 16 < k) := by omega
    refine ⟨fun live => ?_, fun dead => ?_, s.ideInsecure k, if_neg here, ?_, ?_, rfl⟩
    · refine (if_neg here).trans ?_
      exact if_pos live
    · refine (if_neg here).trans ?_
      exact if_neg (show ¬ (s.session k).live = true by simp [dead])
    · rw [ideInsecure_part, if_pos rfl]
    · exact Table.get_set_same [] s.ideKeys k []

end Sys2Proof.Machine
end

section
/-! PROOF. O37, PART_CREATE. -/

namespace Sys2Proof.Machine

open Sys2Proof.Claims

/-- The first stack that granules lie in and that is OFF or goes there. -/
def State.stackOff (s : State) (gs : List Nat) : Option Nat :=
  [20, 21].find? (fun d => gs.any (fun g => decide (20 + g / 96 = d)) && s.settled d == .off)

section
variable {s : State} {gs : List Nat}

theorem stackOff_20 (low : ∃ g, g ∈ gs ∧ g < 96) (off : s.settled 20 = .off) : s.stackOff gs = some 20 := by
  obtain ⟨g, hg, small⟩ := low
  have some20 : gs.any (fun g => decide (20 + g / 96 = 20)) = true := List.any_eq_true.mpr ⟨g, hg, by simpa using small⟩
  rw [State.stackOff, List.find?_cons, some20, off]
  rfl

theorem stackOff_21 (bound : ∀ g, g ∈ gs → g < 191) (high : ∃ g, g ∈ gs ∧ 96 ≤ g) (off : s.settled 21 = .off)
    (not20 : (∃ g, g ∈ gs ∧ g < 96) → s.settled 20 ≠ .off) : s.stackOff gs = some 21 := by
  obtain ⟨g, hg, large⟩ := high
  have some21 : gs.any (fun g => decide (20 + g / 96 = 21)) = true :=
    List.any_eq_true.mpr ⟨g, hg, by have := bound g hg; simp only [decide_eq_true_eq]; omega⟩
  have none20 : (gs.any (fun g => decide (20 + g / 96 = 20)) && s.settled 20 == .off) = false := by
    rw [Bool.and_eq_false_iff]
    by_cases low : ∃ g, g ∈ gs ∧ g < 96
    · exact .inr (by simpa using not20 low)
    · refine .inl (List.any_eq_false.mpr fun k hk => ?_)
      have : ¬ k < 96 := fun small => low ⟨k, hk, small⟩
      simp only [decide_eq_true_eq]
      omega
  rw [State.stackOff, List.find?_cons, none20, List.find?_cons, some21, off]
  rfl

theorem stackOff_none (on : ∀ g, g ∈ gs → s.settled (20 + g / 96) ≠ .off) : s.stackOff gs = none := by
  rw [State.stackOff, List.find?_eq_none]
  intro d _ bad
  obtain ⟨some_, off⟩ := Bool.and_eq_true_iff.mp bad
  obtain ⟨g, hg, e⟩ := List.any_eq_true.mp some_
  obtain rfl := of_decide_eq_true e
  exact on g hg (by simpa using off)

end

/-- Settles O37: the row behind its field checks, and its branches in order. -/
theorem partCreate : Obligations.PartCreate := by
  intro s r h boot e p isl gm ns gs checks answer leadHas
  have front := runAt_of_mgmtRun h
  have bound : ∀ g, g ∈ gs → g < 191 := fun g hg => List.mem_range.mp (List.mem_of_mem_filter hg)
  have booted : ¬ (!s.mgt.bootDone) = true := by simp [boot]
  refine ⟨fun o bad => exec_desc_bad (c := .partCreate) (if_neg booted) h bad, fun clean => ?_⟩
  have row := exec_desc_clean (c := .partCreate) (if_neg booted) h clean
  have mal := fun sub detail => mgmtMal_eq_malformed front sub detail
  have fresh : (s.part p).state = .none → ¬ ((s.part p).state != .none) = true := fun new => by simp [new]
  have cold : (∀ n, n ∈ ns → s.isletOwner n = none) → ¬ ns.any (fun n => (s.isletOwner n).isSome) = true := fun free => by
    rw [List.any_eq_true]
    rintro ⟨n, hn, owned⟩
    simp [free n hn] at owned
  have coldG : (∀ g, g ∈ gs → s.owner g = 0xFF) → ¬ gs.any (fun g => decide (s.owner g ≠ 0xFF)) = true := fun free => by
    rw [List.any_eq_true]
    rintro ⟨g, hg, owned⟩
    simp [free g hg] at owned
  refine ⟨fun taken => ?_, fun new hot => ?_, fun new free => ⟨fun hot => ?_, fun freeG => ⟨fun f no => ?_, fun lead => ?_⟩⟩⟩
  · exact row.trans (congrArg _ ((if_pos (by simpa using taken)).trans (mal _ _)))
  · exact row.trans (congrArg _ ((if_neg (fresh new)).trans ((if_pos (List.any_eq_true.mpr hot)).trans (mal _ _))))
  · refine row.trans (congrArg _ ((if_neg (fresh new)).trans ((if_neg (cold free)).trans ((if_pos ?_).trans (mal _ _)))))
    obtain ⟨g, hg, owned⟩ := hot
    exact List.any_eq_true.mpr ⟨g, hg, by simpa using owned⟩
  · refine row.trans (congrArg _ ((if_neg (fresh new)).trans ((if_neg (cold free)).trans ((if_neg (coldG freeG)).trans
      ((if_pos ?_).trans (mal _ _))))))
    simpa [leadHas, f] using no
  · have passed : exec .partCreate s = .next (match s.stackOff gs with
        | some d => malformed s 64 r subDomainOrder d
        | none =>
          if !s.mgt.trngReady then s
          else
            let t0 := s.setPart p { s.part p with islets := BitVec.ofNat 16 isl, localRoute := bit (leAt e 25 1) 0 }
            let t1 := gs.foldl (fun u g => u.setOwner g p) (t0.newAtRest p)
            let t2 := ns.foldl (fun u n => u.clearIslet n none) t1
            let t3 := (t2.mgmtWait 64 [p]).tellPart p 4
            if gs.isEmpty then t3.endCreate p r.start else t3.queueFill gs 1 p (16 + p)) := by
      refine row.trans (congrArg _ ((if_neg (fresh new)).trans ((if_neg (cold free)).trans ((if_neg (coldG freeG)).trans
        ((if_neg ?_).trans ?_)))))
      · rcases lead with f | l | l
        · simp [f]
        · simp [p, e, l]
        · simp [p, e, l]
      · show (match s.stackOff gs with | some d => _ | none => _) = _
        cases s.stackOff gs with
        | some d => exact mal _ _
        | none => rfl
    refine ⟨fun low off => ?_, fun high off not20 => ?_, fun on no => ?_, fun on ready => ⟨rfl, fun g hg => ?_, ?_⟩⟩
    · rw [stackOff_20 low off] at passed
      exact passed
    · rw [stackOff_21 bound high off not20] at passed
      exact passed
    · rw [stackOff_none on] at passed
      exact passed.trans (congrArg _ (if_pos (by simp [no])))
    · exact (owner_foldl_setOwner gs p _ g).trans (if_pos hg)
    · rw [stackOff_none on] at passed
      exact passed.trans (congrArg _ (if_neg (by simp [ready])))

end Sys2Proof.Machine
end

section
/-! PROOF. O45: what blows fuses and writes the flash, and DEBUG_CLOSE. -/

namespace Sys2Proof.Machine

open Sys2Proof.Claims

/-! ### The security-version fuses (R347) -/

theorem thermometer_card (v : BitVec 64) : thermometer v = ((Finset.range 64).filter fun k => v.getLsbD k = true).card := by
  show _ = ((List.range 64).filter fun k => decide (v.getLsbD k = true)).length
  simp only [Bool.decide_eq_true]
  rfl

theorem thermometer_le (v : BitVec 64) : thermometer v ≤ 64 := by
  rw [thermometer_card]
  exact (Finset.card_filter_le _ _).trans (Finset.card_range 64).le

theorem thermometer_setBit_le (v : BitVec 64) {k : Nat} (hk : k < 64) : thermometer (setBit v k true) ≤ thermometer v + 1 := by
  rw [thermometer_card, thermometer_card]
  refine (Finset.card_le_card fun j hj => ?_).trans (Finset.card_insert_le k _)
  obtain ⟨hj, on⟩ := Finset.mem_filter.mp hj
  rw [getLsbD_setBit _ hk] at on
  by_cases e : j = k
  · exact e ▸ Finset.mem_insert_self _ _
  · exact Finset.mem_insert_of_mem (Finset.mem_filter.mpr ⟨hj, by simpa [e] using on⟩)

theorem le_thermometer_setBit (v : BitVec 64) {k : Nat} (hk : k < 64) : thermometer v ≤ thermometer (setBit v k true) := by
  rw [thermometer_card, thermometer_card]
  refine Finset.card_le_card fun j hj => ?_
  obtain ⟨hj, on⟩ := Finset.mem_filter.mp hj
  refine Finset.mem_filter.mpr ⟨hj, ?_⟩
  rw [getLsbD_setBit _ hk, on]
  simp

theorem thermometer_full {v : BitVec 64} (h : ∀ k, k < 64 → v.getLsbD k = true) : thermometer v = 64 := by
  rw [thermometer_card, Finset.filter_true_of_mem fun k hk => h k (Finset.mem_range.mp hk), Finset.card_range]

/-- The first `k` fuses as `raiseSv` leaves them. -/
def raiseFirst (v : BitVec 64) (n k : Nat) : BitVec 64 :=
  (List.range k).foldl (fun v k => if thermometer v < n then setBit v k true else v) v

theorem raiseFirst_succ (v : BitVec 64) (n k : Nat) :
    raiseFirst v n (k + 1) = if thermometer (raiseFirst v n k) < n then setBit (raiseFirst v n k) k true else raiseFirst v n k := by
  rw [raiseFirst, List.range_succ, List.foldl_append]
  rfl

/-- It blows no more than it must, and as long as it has not blown enough, every fuse that it passed is blown. -/
theorem raiseFirst_thermometer (v : BitVec 64) (n k : Nat) (hk : k ≤ 64) :
    thermometer v ≤ thermometer (raiseFirst v n k) ∧ thermometer (raiseFirst v n k) ≤ Nat.max (thermometer v) n ∧
    (thermometer (raiseFirst v n k) < n → ∀ j, j < k → (raiseFirst v n k).getLsbD j = true) := by
  induction k with
  | zero => exact ⟨Nat.le_refl _, Nat.le_max_left _ _, fun _ j hj => absurd hj (Nat.not_lt_zero j)⟩
  | succ k ih =>
    obtain ⟨low, high, passed⟩ := ih (by omega)
    rw [raiseFirst_succ]
    split
    · next short =>
      have grows := le_thermometer_setBit (raiseFirst v n k) hk
      have byOne := thermometer_setBit_le (raiseFirst v n k) hk
      refine ⟨low.trans grows, (byOne.trans short).trans (Nat.le_max_right _ _), fun _ j hj => ?_⟩
      rw [getLsbD_setBit _ hk]
      by_cases e : j = k
      · simp [e]
      · simp [e, passed short j (by omega)]
    · next enough => exact ⟨low, high, fun short => absurd short enough⟩

/-- The fused version becomes the larger of what it was and what is asked for (R361). -/
theorem thermometer_raiseSv (v : BitVec 64) {n : Nat} (hn : n ≤ 64) : thermometer (raiseSv v n) = Nat.max (thermometer v) n := by
  obtain ⟨low, high, passed⟩ := raiseFirst_thermometer v n 64 (Nat.le_refl _)
  have enough : n ≤ thermometer (raiseFirst v n 64) := by
    by_contra short
    have := thermometer_full (passed (Nat.lt_of_not_le short))
    omega
  exact Nat.le_antisymm high (Nat.max_le.mpr ⟨low, enough⟩)

/-! ### The rows (R359 to R361) -/

section
variable {s : State} {r : Run}

theorem keyBlown_revoke (f : Fuses) {slot : Nat}
    (h : r.aux = [1, slot]) : keyBlown f r = { f with revoked := setBit f.revoked slot true } := by
  rw [keyBlown, h]
  rfl

theorem keyBlown_install (f : Fuses) {slot v : Nat} (h : r.aux = [0, slot, v]) : keyBlown f r =
    { f with slotHash := (List.range 4).map fun k =>
        if k = slot then f.slotHash.getD k 0 ||| BitVec.ofNat 384 v else f.slotHash.getD k 0 } := by
  rw [keyBlown, h]
  rfl

/-- Fuses that a waiting OPERATOR_KEY_FUSE asked for are blown, and it is DONE. -/
theorem exec_fuseBlowDone_ended (h : s.mgmtBusy 64 0x93 = some r) :
    exec (.fuseBlowDone true) s = .next (ended { s with fuses := keyBlown s.fuses r } 64 r stDone 0) :=
  (exec_fuseBlowDone_key s r h).trans (congrArg _ (mgmtDone_eq_ended (r := r) (by exact ((mgmtBusy_iff ..).mp h).1) 0))

/-- Security-version fuses are blown for a waiting FW_COMMIT, which goes on. -/
theorem exec_fuseBlowDone_version (hk : s.mgmtBusy 64 0x93 = none) (h : s.mgmtBusy 64 0x96 = some r) (aux : r.aux = [0]) :
    let v := raiseSv s.fuses.secVersion s.mgt.runningSv.toNat
    let t : State := { s with fuses := { s.fuses with secVersion := v }, mgt := { s.mgt with fusedSv := BitVec.ofNat 7 (thermometer v) } }
    exec (.fuseBlowDone true) s = .next (if bit (leAt r.entry 24 1) 0 then waits t 64 r [2] else ended t 64 r stDone (thermometer v)) := by
  intro v t
  have front : t.runAt 64 0 = some r := ((mgmtBusy_iff ..).mp h).1
  have small : thermometer v % 128 = thermometer v := Nat.mod_eq_of_lt (by have := thermometer_le v; omega)
  have row : exec (.fuseBlowDone true) s = .next (t.commitNext r) := by
    show execFuseBlowDone true s = _
    unfold execFuseBlowDone
    rw [hk, h]
    exact if_neg (by simp [aux])
  rw [row, State.commitNext, mgmtWait_eq_waits front, mgmtDone_eq_ended front]
  show _ = Host.Outcome.next (if _ then _ else ended t 64 r stDone (thermometer v))
  rw [← small]
  rfl

theorem exec_fwStage_checked (h : s.mgmtRun 64 0x95 = some r) (rest : (reservedBad r.entry 36 64).2 = false) {l : List Byte}
    (hl : hostGot r (leAt r.entry 24 8) 256 = some l) :
    exec .fwStage s = .next (if !imageHeaderOk l (256 + leAt l 8 4) then malformed s 64 r subFwImage 24
      else if leAt r.entry 32 4 ≠ 256 + leAt l 8 4 then malformed s 64 r subFwImage 32
      else s.needHost 64 r 1 (leAt r.entry 24 8 + 256) (leAt r.entry 32 4 - 256) 24 (fun _ => s.mgmtWait 64 [0])) := by
  have front := runAt_of_mgmtRun h
  refine (exec_desc_clean (c := .fwStage) rfl h (clean_cons.mpr ⟨rest, clean_nil⟩)).trans (congrArg _ ?_)
  rw [needHost_got hl]
  simp only [mgmtMal_eq_malformed front]

/-- What a waiting FW_STAGE does once the flash is programmed: first the image, then the record. -/
theorem exec_flashProgramDone_stage (h : s.mgmtBusy 64 0x95 = some r) : exec .flashProgramDone s =
    if r.aux = [0] then
      match hostGot r (leAt r.entry 24 8) (leAt r.entry 32 4) with
      | none => .next s
      | some l => .next (({ s with flash := Memory.write s.flash (slotBase (!s.mgt.slotRunning)) l } : State).mgmtWait 64 [1])
    else
      let t := s.writeRecord s.mgt.activeSlot (if (!s.mgt.slotRunning) = true then 2 else 1)
      if t.imageValid (!s.mgt.slotRunning) then
        .next (t.mgmtDone 64 (b2n (!s.mgt.slotRunning) + t.imageSv (!s.mgt.slotRunning) * 256))
      else .next (t.refuseStage r) := by
  show execFlashProgramDone s = _
  unfold execFlashProgramDone
  rw [h]
  rfl

theorem exec_flashProgramDone_commit (hk : s.mgmtBusy 64 0x95 = none) (h : s.mgmtBusy 64 0x96 = some r) (aux : r.aux = [2]) :
    exec .flashProgramDone s = .next ((s.writeRecord (s.mgt.staged == 2) 0).mgmtDone 64 s.mgt.fusedSv.toNat) := by
  show execFlashProgramDone s = _
  unfold execFlashProgramDone
  rw [hk, h]
  exact if_pos aux

/-- The debug path closed, and the masters that it held released. -/
def State.debugClosed (s : State) : State :=
  ({ s with bus := { s.bus with dbgOpen := false, dbgJtag := false, dbgMask := 0, hold := 0 } } : State).releaseMasters 0x1F

theorem exec_debugClose (h : s.mgmtRun 64 0x92 = some r) (rest : (reservedBad r.entry 24 64).2 = false) :
    let t := s.debugClosed
    exec .debugClose s = .next (State.mgmtDone
      (if (t.bus.jtag == .extest || t.bus.jtag == .highz || t.bus.jtag == .clamp) && !t.jtagMay then
        { t with bus := { t.bus with jtag := .bypass } } else t) 64 0) :=
  exec_desc_clean (c := .debugClose) rfl h (clean_cons.mpr ⟨rest, clean_nil⟩)

end

/-- JTAG leaves an instruction that drives pins where it may drive them no more (R402). -/
theorem jtag_leaves_iff (t : State) :
    ((t.bus.jtag == .extest || t.bus.jtag == .highz || t.bus.jtag == .clamp) && !t.jtagMay) = true ↔
      (t.bus.jtag = .extest ∨ t.bus.jtag = .highz ∨ t.bus.jtag = .clamp) ∧ t.jtagMay = false := by
  simp only [Bool.and_eq_true, Bool.or_eq_true, beq_iff_eq, Bool.not_eq_true', or_assoc]

/-- Settles O45: each row by its branch. -/
theorem fusesAndFlash : Obligations.FusesAndFlash := by
  intro s r e
  refine ⟨fun h => ⟨fun slot aux _ => ?_, fun slot v aux _ => ?_⟩, ?_, ?_, ?_, ?_, rfl, ?_⟩
  · exact ⟨_, exec_fuseBlowDone_ended h, keyBlown_revoke _ aux⟩
  · have blown := keyBlown_install s.fuses aux
    refine ⟨_, exec_fuseBlowDone_ended h, by rw [blown], fun k hk => ?_⟩
    rw [blown, List.getD_eq_getElem _ _ (by rw [List.length_map, List.length_range]; exact hk)]
    simp only [List.getElem_map, List.getElem_range]
  · intro hk h aux v t
    exact ⟨(BitVec.and_comm _ _).trans (and_raiseSv _ _), thermometer_raiseSv _, exec_fuseBlowDone_version hk h aux⟩
  · intro h rest l body hl hbody
    have row := exec_fwStage_checked h rest hl
    refine ⟨fun bad => ?_, fun good other => ?_, fun good same => ?_⟩
    · exact row.trans (congrArg _ (if_pos (by simp [bad])))
    · exact row.trans (congrArg _ ((if_neg (by simp [good])).trans (if_pos other)))
    · refine row.trans (congrArg _ ((if_neg (by simp [good])).trans ((if_neg (not_not.mpr same)).trans ?_)))
      exact (needHost_got hbody).trans (mgmtWait_eq_waits (runAt_of_mgmtRun h) _)
  · intro h other
    have front := ((mgmtBusy_iff ..).mp h).1
    have row := exec_flashProgramDone_stage h
    refine ⟨fun l aux hl => ?_, ?_⟩
    · rw [row, if_pos aux, hl]
      exact congrArg _ (mgmtWait_eq_waits (r := r) (by exact front) _)
    · intro aux t
      rw [row, if_neg (by simp [aux])]
      refine ⟨fun good => ?_, fun bad => if_neg (by exact Bool.eq_false_iff.mp bad)⟩
      exact (if_pos good).trans (congrArg _ (mgmtDone_eq_ended (r := r) (by exact front) _))
  · intro hk h aux
    exact (exec_flashProgramDone_commit hk h aux).trans
      (congrArg _ (mgmtDone_eq_ended (r := r) (by exact ((mgmtBusy_iff ..).mp h).1) _))
  · intro h rest t moves
    have row := exec_debugClose h rest
    have done : ∀ {u v : State}, u = v → (.next (u.mgmtDone 64 0) : Outcome) = .next (v.mgmtDone 64 0) := fun e => e ▸ rfl
    refine ⟨fun moved no => row.trans (done (if_pos ((jtag_leaves_iff t).mpr ⟨moved, no⟩))), fun still => row.trans (done
      (if_neg fun c => ?_))⟩
    obtain ⟨moved, no⟩ := (jtag_leaves_iff t).mp c
    rcases still with still | may
    · exact still moved
    · exact Bool.false_ne_true (no.symm.trans may)

end Sys2Proof.Machine
end

section
/-! PROOF. O41: DOMAIN_SET, WAKE_ARM, and what ends them. -/

namespace Sys2Proof.Machine

open Sys2Proof.Claims

/-! ### What leaves the states of the domains and the time base alone -/

/-- Every domain is in the state it was in, on its way to where it was, and no time has passed. -/
def DomainsHeld (s t : State) : Prop :=
  (∀ d, (t.domain d).st = (s.domain d).st ∧ (t.domain d).target = (s.domain d).target) ∧ t.time = s.time

namespace DomainsHeld

variable {s t u : State}

theorem of_eq (domains : t.domains = s.domains) (time : t.time = s.time) : DomainsHeld s t :=
  ⟨fun d => by simp only [State.domain, domains, and_self], time⟩

theorem refl (s : State) : DomainsHeld s s := of_eq rfl rfl

theorem trans (h : DomainsHeld s t) (k : DomainsHeld t u) : DomainsHeld s u :=
  ⟨fun d => ⟨(k.1 d).1.trans (h.1 d).1, (k.1 d).2.trans (h.1 d).2⟩, k.2.trans h.2⟩

theorem ite {c : Prop} [Decidable c] (h : DomainsHeld s t) (k : DomainsHeld s u) : DomainsHeld s (if c then t else u) := by
  split
  · exact h
  · exact k

theorem foldl {α : Type} {f : State → α → State} (h : ∀ s x, DomainsHeld s (f s x)) (l : List α) (s : State) : DomainsHeld s
    (l.foldl f s) :=
  List.foldlRecOn (motive := fun t => DomainsHeld s t) l f (refl s) fun _ e x _ => e.trans (h _ x)

theorem of_evt (h : Evt s t) : DomainsHeld s t := by
  obtain ⟨_, _, _, _, _, _, _, _, _, _, _, _, rfl⟩ := h
  exact of_eq rfl rfl

theorem of_hbmOnly (h : HbmOnly s t) : DomainsHeld s t := by
  obtain ⟨_, _, _, _, _, _, _, _, _, _, _, rfl⟩ := h
  exact of_eq rfl rfl

end DomainsHeld

theorem hbmOnly_dropLine (s : State) (a l : Nat) : HbmOnly s (s.dropLine a l) := (hbmOnly_takeData s a l).trans .fields

theorem hbmOnly_flushCache (s : State) (n : Nat) : HbmOnly s (s.flushCache n) :=
  .trans (.trans (.foldl (fun _ _ => hbmOnly_drainLine _ _ _) _ s) (.foldl (fun _ _ => hbmOnly_applyInv _ _ _) _ _))
    (.foldl (fun _ _ => hbmOnly_dropLine _ _ _) _ _)

theorem hbmOnly_sliceLost (s : State) (k : Nat) : HbmOnly s (s.sliceLost k) :=
  .foldl (fun _ _ => (hbmOnly_evictLag _ _).trans .fields) _ s

theorem held_setPin (s : State) (k : Nat) (v : Pin) : DomainsHeld s (s.setPin k v) := .of_eq rfl rfl

theorem held_freeTaken (s : State) : DomainsHeld s s.freeTaken := .of_eq rfl rfl

theorem held_mainIoLost (s : State) : DomainsHeld s s.mainIoLost := by
  unfold State.mainIoLost
  refine .trans ?_ (.foldl (fun _ _ => .ite (held_setPin _ _ _) (.refl _)) _ _)
  exact .of_eq rfl rfl

theorem held_mainIoSleep (s : State) : DomainsHeld s s.mainIoSleep := by
  unfold State.mainIoSleep
  refine .trans (.foldl (fun u k => ?_) _ s) (held_freeTaken _)
  dsimp only
  exact .ite (held_setPin _ _ _) (.refl u)

theorem held_setIslet (s : State) (n : Nat) (v : Islet) : DomainsHeld s (s.setIslet n v) := .of_eq rfl rfl
theorem held_setNum (s : State) (q : Nat) (v : Num) : DomainsHeld s (s.setNum q v) := .of_eq rfl rfl

theorem held_isletLost (s : State) (n : Nat) : DomainsHeld s (s.isletLost n) := by
  have cleared : DomainsHeld s (s.clearSp n) := .trans (.of_eq rfl rfl) (held_setIslet _ _ _)
  exact cleared.trans ((held_setIslet _ _ _).trans (((held_setNum _ _ _).trans (held_setNum _ _ _)).trans (held_setNum _ _ _)))

/-- A domain that reaches a state changes its own record only. -/
theorem held_enterState (s : State) (d : Nat) (dest : DomState) :
    DomainsHeld (s.setDomain d { s.domain d with st := dest, since := s.time }) (s.enterState d dest) := by
  unfold State.enterState
  dsimp only
  generalize s.setDomain d { s.domain d with st := dest, since := s.time } = t
  split
  · refine .trans (t := if s.domSt d == .on then t.flushCache d else t) (.ite (.of_hbmOnly (hbmOnly_flushCache t d)) (.refl t)) ?_
    exact .ite (held_isletLost _ _) (held_setIslet _ _ _)
  split
  · exact .ite (.of_hbmOnly (hbmOnly_sliceLost _ _)) (.refl _)
  split
  · exact .ite (.of_eq rfl rfl) (.ite (.of_eq rfl rfl) (.refl _))
  split
  · refine .trans (t := if s.domSt d == .off then t.portReset (d - 22) else t) (.ite (.of_eq rfl rfl) (.refl _)) ?_
    exact .ite (.of_eq rfl rfl) (.refl _)
  split
  · refine .trans (t := if s.domSt d == .off then t.mainIoLost else t) (.ite (held_mainIoLost _) (.refl _)) ?_
    exact .ite (held_mainIoLost _) (.ite (held_mainIoSleep _) (.of_eq rfl rfl))
  · exact .ite (.of_eq rfl rfl) (.refl _)

theorem mgmtEnd_queues (s : State) (q : Nat) (st : BitVec 8) (info : Nat) : ∃ v, s.mgmtEnd q st info = { s with queues := v } := by
  unfold State.mgmtEnd
  split
  · exact ⟨s.queues, rfl⟩
  · unfold State.setRun
    exact ⟨_, rfl⟩

theorem held_domainSetDone (s : State) : DomainsHeld s s.domainSetDone := by
  unfold State.domainSetDone
  split
  · exact .refl s
  · obtain ⟨v, e⟩ := mgmtEnd_queues s 64 stDone 0
    rw [State.mgmtDone, e]
    exact .ite (.of_eq rfl rfl) (.refl s)

theorem wakeDomain_time (s : State) (d cause : Nat) : (s.wakeDomain d cause).time = s.time := by
  unfold State.wakeDomain
  have raises : (s.beginMove d .on false cause).time = s.time := by
    obtain ⟨u, x, k, e⟩ := beginMove_eq s d .on false cause
    rw [e]
  dsimp only
  split
  · rfl
  split
  · split
    · rfl
    · exact raises
  · split
    · rfl
    · split <;> rfl

/-! ### A transition that may finish (R416, R421) -/

section
variable {s : State} {d : Nat} {x : DomState}

/-- Domain `d` in its new state: the time base has passed its restore delay, and it goes nowhere. -/
def State.arrived (s : State) (d : Nat) (x : DomState) : State :=
  let u := (s.advanceTo ((s.domain d).began + restoreDelay d (s.domSt d) x)).enterState d x
  u.setDomain d { u.domain d with target := none, wake := none, told := false }

/-- Domains whose transitions could not begin in `s` and can in `t` begin them now. -/
def State.beginWaiting (s t : State) : State :=
  (List.range 35).foldl (fun
    (t : State) k => if !s.mayMove k && t.mayMove k then t.setDomain k { t.domain k with began := t.time } else t) t

theorem held_beginWaiting (s t : State) : DomainsHeld t (s.beginWaiting t) := by
  refine .foldl (fun u k => ?_) _ t
  refine .ite ⟨fun j => ?_, rfl⟩ (.refl u)
  rw [State.domain_setDomain]
  split
  · next e => exact e ▸ ⟨rfl, rfl⟩
  · exact ⟨rfl, rfl⟩

theorem arrived_facts (s : State) (d : Nat) (x : DomState) :
    ((s.arrived d x).domain d).st = x ∧ ((s.arrived d x).domain d).target = none ∧
    (s.arrived d x).time = max s.time ((s.domain d).began + restoreDelay d (s.domSt d) x) := by
  unfold State.arrived
  rw [advanceTo_eq]
  dsimp only
  rw [State.domain_setDomain_same]
  have held := held_enterState { s with time := max s.time ((s.domain d).began + restoreDelay d (s.domSt d) x) } d x
  refine ⟨(held.1 d).1.trans ?_, rfl, held.2⟩
  rw [State.domain_setDomain_same]

/-- Who hears of it, what begins, and a wake that came in between. -/
def State.arrivalTold (s : State) (d : Nat) (x : DomState) : State :=
  let c := s.domain d
  let t := s.beginWaiting (if c.told then s.arrived d x else (s.arrived d x).reachedEvent d x c.cause noQueue 0)
  match c.wake with
  | some cause => t.wakeDomain d cause
  | none => t

/-- The end of the step: PME where the host interface woke for it, the DOMAIN_SET that this completes, and what waits. -/
def State.arrivalDone (s : State) (d : Nat) (x : DomState) : State :=
  let u := s.arrivalTold d x
  (if d = 33 ∧ x = .on ∧ ((s.domain d).cause = 1 ∨ (s.domain d).cause = 2) ∧ (u.config 0).pmeOn then u.emit .pme
    else u).domainSetDone.reevaluate

theorem arrivalDone_held (s : State) (d : Nat) (x : DomState) : DomainsHeld (s.arrivalTold d x) (s.arrivalDone d x) := by
  unfold State.arrivalDone
  dsimp only
  refine .trans (.trans ?_ (held_domainSetDone _)) (.of_evt (evt_reevaluate _))
  exact .ite (.of_eq rfl rfl) (.refl _)

theorem exec_domainTransitionDone (target : (s.domain d).target = some x) (may : s.mayMove d = true)
    (trained : d = 20 ∨ d = 21 → s.mgt.bootDone = true) :
    exec (.domainTransitionDone d) s = .next (s.arrivalDone d x) := by
  have boots : ((d == 20 || d == 21) && !s.mgt.bootDone) = false := by
    rw [Bool.and_eq_false_iff]
    by_cases stack : d = 20 ∨ d = 21
    · exact .inr (by simp [trained stack])
    · exact .inl (by simpa using not_or.mp stack)
  show execDomainTransitionDone d s = _
  unfold execDomainTransitionDone
  dsimp only
  rw [target]
  dsimp only
  rw [if_neg (by simp [may, boots])]
  rfl

theorem arrivalTold_held (s : State) (d : Nat) (x : DomState) (asleep : (s.domain d).wake = none) :
    DomainsHeld (s.arrived d x) (s.arrivalTold d x) := by
  unfold State.arrivalTold
  dsimp only
  rw [asleep]
  exact .trans (.ite (.refl _) (.of_evt (evt_raiseEvent ..))) (held_beginWaiting _ _)

theorem arrivalTold_time (s : State) (d : Nat) (x : DomState) : (s.arrivalTold d x).time = (s.arrived d x).time := by
  have told : DomainsHeld (s.arrived d x) (s.beginWaiting (if (s.domain d).told then s.arrived d x
      else (s.arrived d x).reachedEvent d x (s.domain d).cause noQueue 0)) :=
    .trans (.ite (.refl _) (.of_evt (evt_raiseEvent ..))) (held_beginWaiting _ _)
  unfold State.arrivalTold
  dsimp only
  split
  · rw [wakeDomain_time, told.2]
  · exact told.2

end

/-! ### DOMAIN_SET and quiescing (R418 to R420) -/

section
variable {s : State} {r : Run}

theorem exec_quiesceDone_domainSet (h : s.mgmtBusy 64 0x84 = some r) (aux : r.aux.headD 0 = 1) (noTest : s.mgmtBusy 64 0x8E = none)
    (ready : s.loweringReady r.entry = true) : exec (.quiesceDone 64) s = .next (s.startTransitions r.entry) := by
  show execQuiesceDone 64 s = _
  unfold execQuiesceDone State.tryQuiesced
  rw [noTest, h]
  dsimp only
  rw [if_pos rfl, if_pos ⟨aux, ready⟩]

theorem exec_quiesceTimeout_domainSet (h : s.mgmtBusy 64 0x84 = some r) (aux : r.aux.headD 0 = 1) (noTest : s.mgmtBusy 64 0x8E = none) :
    let t := s.advanceTo (r.start + leAt r.entry 30 2 * 100000)
    exec (.quiesceTimeout 64) s = .next (if t.loweringReady r.entry then t.startTransitions r.entry else t.quiesceFailed r.entry) := by
  show execQuiesceTimeout 64 s = _
  unfold execQuiesceTimeout
  rw [noTest]
  dsimp only
  rw [if_pos rfl, h]
  exact if_neg (not_not.mpr aux)

theorem exec_quiesceDone_test {q : Nat} (h : s.mgmtBusy q 0x8E = some r) (ready : s.testReady r = true) :
    exec (.quiesceDone q) s = .next (s.startTest q r) := by
  show execQuiesceDone q s = _
  unfold execQuiesceDone
  rw [h]
  exact if_pos ready

theorem startTest_eq {q : Nat} (h : s.mgmtBusy q 0x8E = some r) :
    let n := r.aux.getD 0 16
    s.startTest q r = waits (s.setIslet n { s.islet n with testing := true }) q r [n, r.aux.getD 1 0, 1] :=
  mgmtWait_eq_waits (r := r) (by exact ((mgmtBusy_iff ..).mp h).1) _

/-- WAIT_MS is over for a SELFTEST that has not begun: what is ready begins, and what is not ends BUSY (R474). -/
theorem exec_quiesceTimeout_test {q : Nat} (h : s.mgmtBusy q 0x8E = some r) (waiting : r.aux.getD 2 0 ≠ 1) :
    let n := r.aux.getD 0 16
    let u := s.advanceTo (r.start + leAt r.entry 28 4 * 100000)
    let t := ended u q r stBusy 0
    exec (.quiesceTimeout q) s =
      .next (if u.testReady r then u.startTest q r else (t.setIslet n { t.islet n with quiesce := t.keepsQuiet n }).reevaluate) := by
  intro n u t
  have front : u.runAt q 0 = some r := (advanceTo_runAt ..).trans ((mgmtBusy_iff ..).mp h).1
  show execQuiesceTimeout q s = _
  unfold execQuiesceTimeout
  rw [h]
  dsimp only
  rw [if_neg waiting]
  show (if u.testReady r then (.next (u.startTest q r) : Outcome) else .next (((u.mgmtEnd q stBusy 0).setIslet n
    { (u.mgmtEnd q stBusy 0).islet n with quiesce := (u.mgmtEnd q stBusy 0).keepsQuiet n }).reevaluate)) = _
  rw [mgmtEnd_eq_ended front]
  split <;> rfl

theorem advanceTo_testReady (s : State) (time : Nat) (r : Run) : (s.advanceTo time).testReady r = s.testReady r := by
  rw [advanceTo_eq]
  rfl

end

/-! ### WAKE_ARM (R426) -/

/-- The first target of a WAKE_ARM that R417 closes. -/
def State.wakeClosed (s : State) (e : List Byte) : Option Nat :=
  setDomains.find? (fun d =>
    targetCode e 40 d == 1 && (if d < 16 then !([16, 17, 18, 19].any (fun k => s.wouldBe e 40 k == .on))
      else if d < 20 then s.wouldBe e 40 (20 + (d - 16) / 2) == .off else false))

section
variable {s : State} {r : Run}

theorem wakeClosed_none {e : List Byte} (islets : ∀ d, d < 16 → targetCode e 40 d = 1 → ∃ k, 16 ≤ k ∧ k < 20 ∧ s.wouldBe e 40 k = .on)
    (slices : ∀ k, k < 4 → targetCode e 40 (16 + k) = 1 → s.wouldBe e 40 (20 + k / 2) ≠ .off) : s.wakeClosed e = none := by
  rw [State.wakeClosed, List.find?_eq_none]
  intro d _ bad
  obtain ⟨raise, closed⟩ := Bool.and_eq_true_iff.mp bad
  have raise := beq_iff_eq.mp raise
  split at closed
  · next islet =>
    obtain ⟨k, low, high, on⟩ := islets d islet raise
    have mem : k ∈ [16, 17, 18, 19] := by simp only [List.mem_cons, List.not_mem_nil, or_false]; omega
    have : [16, 17, 18, 19].any (fun k => s.wouldBe e 40 k == .on) = true := List.any_eq_true.mpr ⟨k, mem, by simp [on]⟩
    simp [this] at closed
  split at closed
  · next islet slice =>
    have known := slices (d - 16) (by omega)
    rw [show 16 + (d - 16) = d by omega] at known
    exact known raise (beq_iff_eq.mp closed)
  · exact Bool.false_ne_true closed

end

section
variable {s : State} {r : Run}

/-- A WAKE_ARM that passes its checks, with the sources that it names. -/
def wakeChecks (s : State) (e : List Byte) : List (Nat × Bool) :=
  let src := leAt e 24 1
  let arm := bit (leAt e 25 1) 0
  let port := decide (src < 10)
  let pin := decide (16 ≤ src ∧ src < 24)
  let low := setDomains.filter (fun d => decide (1 < targetCode e 40 d))
  let at_ : Nat → Nat := fun d => if d < 16 then 40 + d / 4 else if d < 20 then 44 else if d < 22 ∨ d = 32 then 45 else 48 + (d - 22) / 4
  let p := s.pin (src - 16)
  let pinOk := p.configured && p.func == 0 && !p.oe && p.irq != 0
  [ (24, !(port || pin) || (arm && port && !s.mgt.portWired.getLsbD src) || (arm && pin && !pinOk)),
    (25, decide (leAt e 25 1 / 2 ≠ 0)), reservedBad e 26 40,
    (at_ (low.headD 0), arm && !low.isEmpty), (45, decide (leAt e 45 1 / 64 ≠ 0)), reservedBad e 46 48,
    (48 + (if port then src / 4 else 0), arm && port && targetCode e 40 (22 + src) != 1), (50, decide (leAt e 50 1 / 16 ≠ 0)),
    reservedBad e 51 64 ]

/-- The domains that a WAKE_ARM raises. -/
def wakeTargets (e : List Byte) : List Nat := setDomains.filter (fun d => decide (targetCode e 40 d = 1))

theorem exec_wakeArm (h : s.mgmtRun 64 0x85 = some r) (clean : Clean (wakeChecks s r.entry)) :
    let src := leAt r.entry 24 1
    let arm := bit (leAt r.entry 25 1) 0
    exec .wakeArm s = .next (match (if arm then s.wakeClosed r.entry else none) with
      | some d => s.mgmtMal 64 subDomainOrder d
      | none =>
        let t := s.setArm src arm (wakeTargets r.entry)
        (if decide (16 ≤ src ∧ src < 24) then t.setPin (src - 16) { t.pin (src - 16) with fired := false } else t).mgmtDone 64 0) :=
  exec_desc_clean (c := .wakeArm) rfl h clean

section
variable {e : List Byte} (word : leAt e 25 1 / 2 = 0) (rest : (reservedBad e 26 40).2 = false) (rest45 : leAt e 45 1 / 64 = 0)
  (rest46 : (reservedBad e 46 48).2 = false) (rest50 : leAt e 50 1 / 16 = 0) (rest51 : (reservedBad e 51 64).2 = false)
include word rest rest45 rest46 rest50 rest51

/-- The checks of a WAKE_ARM of which those of its source pass. -/
theorem wakeChecks_clean
    (source : ∀ c, c = (wakeChecks s e)[0]! ∨ c = (wakeChecks s e)[3]! ∨ c = (wakeChecks s e)[6]! → c.2 = false) :
    Clean (wakeChecks s e) := by
  have own := fun c hc => source c hc
  unfold wakeChecks at own ⊢
  dsimp only at own ⊢
  simp only [clean_cons]
  exact ⟨own _ (.inl rfl), by simp [word], rest, own _ (.inr (.inl rfl)), by simp [rest45], rest46, own _ (.inr
    (.inr rfl)), by simp [rest50],
    rest51, clean_nil⟩

/-- An input pin with an interrupt may be armed for raises. -/
theorem wakeChecks_pin (low : 16 ≤ leAt e 24 1) (high : leAt e 24 1 < 24)
    (cfg : (s.pin (leAt e 24 1 - 16)).configured = true) (func : (s.pin (leAt e 24 1 - 16)).func = 0)
    (input : (s.pin (leAt e 24 1 - 16)).oe = false) (irq : (s.pin (leAt e 24 1 - 16)).irq ≠ 0)
    (raises : ∀ d, d < 33 → targetCode e 40 d ≤ 1) : Clean (wakeChecks s e) := by
  have lowers : setDomains.filter (fun d => decide (1 < targetCode e 40 d)) = [] := by
    rw [List.filter_eq_nil_iff]
    intro d hd
    have := raises d (List.mem_range.mp hd)
    simpa using this
  have port : ¬ leAt e 24 1 < 10 := by omega
  refine wakeChecks_clean word rest rest45 rest46 rest50 rest51 ?_
  rintro c (rfl | rfl | rfl)
  · have enabled : (s.pin (leAt e 24 1 - 16)).irq != 0 := bne_iff_ne.mpr irq
    simp only [wakeChecks, List.getElem!_cons_zero, port, low, high, cfg, func, input, enabled]
    simp
  · simp [wakeChecks, lowers]
  · simp [wakeChecks, port]

/-- Any port may be disarmed. -/
theorem wakeChecks_disarm (disarm : bit (leAt e 25 1) 0 = false) (port : leAt e 24 1 < 10) : Clean (wakeChecks s e) := by
  refine wakeChecks_clean word rest rest45 rest46 rest50 rest51 ?_
  rintro c (rfl | rfl | rfl)
  · simp [wakeChecks, port, disarm]
  · simp [wakeChecks, disarm]
  · simp [wakeChecks, disarm]

end

end

section
variable {s : State} {r : Run}

theorem exec_wakeArm_pin (h : s.mgmtRun 64 0x85 = some r) (clean : Clean (wakeChecks s r.entry)) (arm : bit (leAt r.entry 25 1) 0 = true)
    (low : 16 ≤ leAt r.entry 24 1) (high : leAt r.entry 24 1 < 24)
    (islets : ∀ d, d < 16 → targetCode r.entry 40 d = 1 → ∃ k, 16 ≤ k ∧ k < 20 ∧ s.wouldBe r.entry 40 k = .on)
    (slices : ∀ k, k < 4 → targetCode r.entry 40 (16 + k) = 1 → s.wouldBe r.entry 40 (20 + k / 2) ≠ .off) :
    let src := leAt r.entry 24 1
    let t := s.setArm src true (wakeTargets r.entry)
    exec .wakeArm s = .next (ended (t.setPin (src - 16) { t.pin (src - 16) with fired := false }) 64 r stDone 0) := by
  rw [exec_wakeArm h clean, if_pos arm, wakeClosed_none islets slices]
  dsimp only
  rw [if_pos (by simp [low, high]), arm]
  exact congrArg _ (mgmtDone_eq_ended (r := r) (by exact runAt_of_mgmtRun h) 0)

theorem exec_wakeArm_disarm (h : s.mgmtRun 64 0x85 = some r) (clean : Clean (wakeChecks s r.entry))
    (disarm : bit (leAt r.entry 25 1) 0 = false) (port : leAt r.entry 24 1 < 10) :
    exec .wakeArm s = .next (ended (s.setArm (leAt r.entry 24 1) false (wakeTargets r.entry)) 64 r stDone 0) := by
  rw [exec_wakeArm h clean, if_neg (by simp [disarm])]
  dsimp only
  rw [if_neg (by simp; omega), disarm]
  exact congrArg _ (mgmtDone_eq_ended (r := r) (by exact runAt_of_mgmtRun h) 0)

end

/-! ### DOMAIN_SET (R418, R420) -/

section
variable {s : State} {r : Run}

/-- A DOMAIN_SET quiesces an Islet that it lowers from ON, and asks a port that is UP to sleep. -/
def State.prepare (e : List Byte) (u : State) (d : Nat) : State :=
  match targetState (targetCode e 24 d) with
  | none => u
  | some x =>
    if (u.domSt d).rank ≤ x.rank then u
    else if d < 16 ∧ u.domSt d = .on then u.setIslet d { u.islet d with quiesce := true }
    else if 22 ≤ d ∧ d < 32 ∧ (u.port (d - 22)).st = .up then
      (u.setPort (d - 22) { u.port (d - 22) with sleepTo := some x, sleepAcked := false }).sleepNote (d - 22) .sleepReq (x == .off)
    else u

/-- The first domain that would break R417, the first Islet under a window, and the first stack that is owned (R417, R419). -/
def State.orderBroken (s : State) (e : List Byte) : Option Nat := setDomains.find? (fun d => s.breaksOrder e 24 d)
def State.windowLost (s : State) (e : List Byte) : Option Nat := (List.range 16).find? (fun d => targetCode e 24 d == 3 && s.windowOn d)
def State.ownedLost (s : State) (e : List Byte) : Option Nat := [20, 21].find? (fun d => targetCode e 24 d == 3 && s.stackOwned (d - 20))

theorem orderBroken_some {e : List Byte} {d : Nat} (hd : d < 33) (broken : s.breaksOrder e 24 d = true)
    (least : ∀ k, k < d → s.breaksOrder e 24 k = false) : s.orderBroken e = some d := by
  rw [State.orderBroken, setDomains, List.find?_range_eq_some]
  exact ⟨broken, List.mem_range.mpr hd, fun k hk => by simp [least k hk]⟩

theorem orderBroken_none {e : List Byte} (kept : ∀ d, d < 33 → s.breaksOrder e 24 d = false) : s.orderBroken e = none := by
  rw [State.orderBroken, setDomains, List.find?_eq_none]
  exact fun d hd => by simp [kept d (List.mem_range.mp hd)]

theorem windowLost_none {e : List Byte} (free : ∀ d, d < 16 → targetCode e 24 d = 3 → s.windowOn d = false) : s.windowLost e = none := by
  rw [State.windowLost, List.find?_eq_none]
  intro d hd bad
  obtain ⟨off, target⟩ := Bool.and_eq_true_iff.mp bad
  exact Bool.false_ne_true ((free d (List.mem_range.mp hd) (beq_iff_eq.mp off)).symm.trans target)

theorem ownedLost_none {e : List Byte} (free : ∀ k, k < 2 → targetCode e 24 (20 + k) = 3 → s.stackOwned k = false) :
    s.ownedLost e = none := by
  rw [State.ownedLost, List.find?_eq_none]
  intro d hd bad
  obtain ⟨off, owned⟩ := Bool.and_eq_true_iff.mp bad
  have stack : d = 20 ∨ d = 21 := by simpa using hd
  have here := free (d - 20) (by omega)
  rw [show 20 + (d - 20) = d by omega] at here
  exact Bool.false_ne_true ((here (beq_iff_eq.mp off)).symm.trans owned)

theorem exec_domainSet_bad {o : Nat} {checks : List (Nat × Bool)} (h : s.mgmtRun 64 0x84 = some r) (boot : s.mgt.bootDone = true)
    (hc : checks = [(24, setDomains.all (fun d => targetCode r.entry 24 d == 0)), (29, decide (leAt r.entry 29 1 / 64 ≠ 0)),
      (30, decide (1000 < leAt r.entry 30 2)), (34, decide (leAt r.entry 34 1 / 16 ≠ 0)), reservedBad r.entry 35 64])
    (bad : firstBad checks = some o) : exec .domainSet s = .next (malformed s 64 r subDesc o) := by
  subst hc
  exact exec_desc_bad (c := .domainSet) (if_neg (by simp [boot])) h bad

theorem exec_domainSet (h : s.mgmtRun 64 0x84 = some r) (boot : s.mgt.bootDone = true)
    (clean : Clean [(24, setDomains.all (fun d => targetCode r.entry 24 d == 0)), (29, decide (leAt r.entry 29 1 / 64 ≠ 0)),
      (30, decide (1000 < leAt r.entry 30 2)), (34, decide (leAt r.entry 34 1 / 16 ≠ 0)), reservedBad r.entry 35 64]) :
    exec .domainSet s = .next (match s.orderBroken r.entry, s.windowLost r.entry, s.ownedLost r.entry with
      | some d, _, _ => malformed s 64 r subDomainOrder d
      | none, some d, _ => malformed s 64 r subDomainWindow d
      | none, none, some d => malformed s 64 r subDomainOwned d
      | none, none, none => (setDomains.foldl (State.prepare r.entry) s).mgmtWait 64 [1]) := by
  have front := runAt_of_mgmtRun h
  refine (exec_desc_clean (c := .domainSet) (if_neg (by simp [boot])) h clean).trans (congrArg _ ?_)
  show (match s.orderBroken r.entry with
    | some d => _
    | none => match s.windowLost r.entry with
      | some d => _
      | none => match s.ownedLost r.entry with
        | some d => _
        | none => _) = _
  cases s.orderBroken r.entry with
  | some d => exact mgmtMal_eq_malformed front _ _
  | none =>
    cases s.windowLost r.entry with
    | some d => exact mgmtMal_eq_malformed front _ _
    | none =>
      cases s.ownedLost r.entry with
      | some d => exact mgmtMal_eq_malformed front _ _
      | none => rfl

end

/-- Settles O41: each row by its branch. -/
theorem domainCommands : Obligations.DomainCommands := by
  intro s
  refine ⟨?_, ?_, ?_, ?_, ?_, ?_⟩
  · intro r h boot e checks
    refine ⟨fun o => exec_domainSet_bad h boot rfl, fun d hd clean broken least => ?_, ?_⟩
    · rw [exec_domainSet h boot clean, orderBroken_some hd broken least]
    · intro clean kept windows owned t
      rw [exec_domainSet h boot clean, orderBroken_none kept, windowLost_none windows, ownedLost_none owned]
      rfl
  · intro r h aux noTest
    exact ⟨exec_quiesceDone_domainSet h aux noTest, exec_quiesceTimeout_domainSet h aux noTest⟩
  · intro q r h n
    refine ⟨fun idle quiet free on => ?_, fun waiting no => ?_⟩
    · have ready : s.testReady r = true := by
        unfold State.testReady
        dsimp only
        rw [idle, show s.quiet (r.aux.getD 0 16) = true from quiet, show (s.islet (r.aux.getD 0 16)).testing = false from free,
          show s.on (r.aux.getD 0 16) = true from on]
        rfl
      exact (exec_quiesceDone_test h ready).trans (congrArg _ (startTest_eq h))
    · exact (exec_quiesceTimeout_test h waiting).trans (congrArg _ (if_neg (by rw [advanceTo_testReady, no]; decide)))
  · intro d x target may trained
    obtain ⟨st, idle, time⟩ := arrived_facts s d x
    have last := arrivalDone_held s d x
    refine ⟨_, exec_domainTransitionDone target may trained, fun _ asleep => ?_, ?_⟩
    · obtain ⟨st', target'⟩ := ((arrivalTold_held s d x asleep).trans last).1 d
      exact ⟨st'.trans st, target'.trans idle⟩
    · rw [last.2, arrivalTold_time, time]
      exact ⟨Nat.le_max_left _ _, Nat.le_max_right _ _⟩
  · intro r h e src p
    refine ⟨?_, ?_⟩
    · intro arm low high cfg func input irq word rest raises rest45 rest46 rest50 rest51 islets slices t
      exact exec_wakeArm_pin h (wakeChecks_pin word rest rest45 rest46 rest50 rest51 low high cfg func input irq raises) arm low high
        islets slices
    · intro disarm port word rest rest45 rest46 rest50 rest51
      exact exec_wakeArm_disarm h (wakeChecks_disarm word rest rest45 rest46 rest50 rest51 disarm port) disarm port
  · intro k hk fired armed
    exact if_pos ⟨hk, fired, armed⟩

end Sys2Proof.Machine
end

section
/-! PROOF. O47: SELFTEST, its quiescing and its end. -/

namespace Sys2Proof.Machine

open Sys2Proof.Claims

section
variable {s : State} {q n kind : Nat} {r : Run}

/-- A tenant is active on Islet `n`. -/
def State.isletActive (s : State) (n : Nat) : Bool :=
  match s.isletOwner n with
  | some p => (s.part p).state == .active
  | none => false

theorem isletActive_iff (s : State) (n : Nat) : s.isletActive n = true ↔ ∃ p, s.isletOwner n = some p ∧ (s.part p).state = .active := by
  unfold State.isletActive
  cases s.isletOwner n <;> simp

/-- A SELFTEST that passes its field checks: whose Islet it is, whether a tenant is active there, and whether it is ON. -/
theorem exec_selftest (h : s.mgmtRun q 0x8E = some r) (islet : leAt r.entry 24 1 < 16) (code : leAt r.entry 25 1 < 2)
    (rest26 : (reservedBad r.entry 26 28).2 = false) (wait : leAt r.entry 28 4 ≤ 1000) (rest32 : (reservedBad r.entry 32 64).2 = false) :
    let n := leAt r.entry 24 1
    exec (.selftest q) s = .next
      (if q ≠ 64 ∧ s.isletOwner n ≠ some (q - 48) then s.mgmtRefuse q 0x01
       else if q = 64 ∧ s.isletActive n then ended s q r stBusy 0
       else if !s.on n then malformed s q r subTargetState 24
       else waits (s.setIslet n { s.islet n with quiesce := true }) q r [n, leAt r.entry 25 1, 0]) := by
  intro n
  have front := runAt_of_mgmtRun h
  have clean : Clean [(24, decide (16 ≤ n)), (25, decide (2 ≤ leAt r.entry 25 1)), reservedBad r.entry 26 28,
      (28, decide (1000 < leAt r.entry 28 4)), reservedBad r.entry 32 64] :=
    clean_cons.mpr ⟨by simpa using islet, clean_cons.mpr ⟨by simpa using code, clean_cons.mpr ⟨rest26,
      clean_cons.mpr ⟨by simpa using wait, clean_cons.mpr ⟨rest32, clean_nil⟩⟩⟩⟩⟩
  rw [← mgmtEnd_eq_ended front, ← mgmtMal_eq_malformed front]
  refine (exec_desc_clean (c := .selftest q) rfl h clean).trans (congrArg _ ?_)
  have waits_ := mgmtWait_eq_waits (s := s.setIslet n { s.islet n with quiesce := true }) (r := r)
    (by exact front) [n, leAt r.entry 25 1, 0]
  rw [← waits_]
  rfl

/-- The lowest ring whose SELFTEST tests Islet `n`. -/
def State.testRing (s : State) (n : Nat) : Option Nat :=
  (List.range 17).find? (fun i => match s.mgmtBusy (48 + i) 0x8E with
    | some r => decide (r.aux.take 1 = [n]) && decide (r.aux.getD 2 0 = 1)
    | none => false)

theorem testRing_eq (h : s.mgmtBusy q 0x8E = some r) (aux : r.aux = [n, kind, 1]) (hq : q ≤ 64)
    (least : ∀ c x, 48 ≤ c → c < q → s.mgmtBusy c 0x8E = some x → x.aux.take 1 = [n] → x.aux.getD 2 0 ≠ 1) :
    s.testRing n = some (q - 48) := by
  obtain ⟨-, -, -, ring⟩ := (mgmtBusy_iff ..).mp h
  rw [State.testRing, List.find?_range_eq_some]
  refine ⟨?_, List.mem_range.mpr (by omega), fun i hi => ?_⟩
  · rw [show 48 + (q - 48) = q by omega, h]
    simp [aux]
  · cases busy : s.mgmtBusy (48 + i) 0x8E with
    | none => rfl
    | some x =>
      have other := least (48 + i) x (by omega) (by omega) busy
      simp only [Bool.not_and, Bool.or_eq_true, Bool.not_eq_true', decide_eq_false_iff_not]
      by_cases same : x.aux.take 1 = [n]
      · exact .inr (other same)
      · exact .inl same

end

/-! ### A cleared scratchpad (R474) -/

theorem Table.get_clear {α : Type} (d : α) (t : Table α) (lo hi k : Nat) :
    Table.get d (Table.clear t lo hi) k = if lo ≤ k ∧ k < hi then d else Table.get d t k := by
  induction t with
  | nil => simp [Table.clear, Table.get]
  | cons e t ih =>
    obtain ⟨j, v⟩ := e
    simp only [Table.clear, List.filter_cons, Table.get] at ih ⊢
    by_cases hk : k = j
    · subst hk
      by_cases inside : lo ≤ k ∧ k < hi
      · have out : (decide (k < lo) || decide (hi ≤ k)) = false := by simpa [Nat.not_lt, Nat.not_le] using inside
        rw [if_neg (by simp [out]), ih, if_pos inside, if_pos inside]
      · have kept : (decide (k < lo) || decide (hi ≤ k)) = true := by
          rw [Bool.or_eq_true, decide_eq_true_iff, decide_eq_true_iff]
          omega
        rw [if_pos kept, Table.get, if_pos rfl, if_neg inside]
        simp
    · by_cases kept : (decide (j < lo) || decide (hi ≤ j)) = true
      · rw [if_pos kept, Table.get, if_neg hk, ih]
        simp [hk]
      · rw [if_neg kept, ih]
        simp [hk]

theorem clearSp_byte (s : State) (n a : Nat) :
    Memory.byte (s.clearSp n).scratch a = if n * spSize ≤ a ∧ a < n * spSize + spSize then 0 else Memory.byte s.scratch a :=
  Table.get_clear 0 s.scratch _ _ a

theorem clearSp_islet (s : State) (n : Nat) : (s.clearSp n).islet n = { (s.islet n).clearTags with sealed := 0 } :=
  State.islet_setIslet_same _ _ _

theorem clearSp_runAt (s : State) (n q i : Nat) : (s.clearSp n).runAt q i = s.runAt q i := rfl

/-! ### The end of the test -/

/-- The Islet after its test: it is tested no more, and the die has counted the test and shows a failure. -/
def State.testedIslet (s : State) (n : Nat) (passed : Bool) : State :=
  let t := s.setIslet n { s.islet n with testing := false, quiesce := s.keepsQuiet n }
  { t with up := { t.up with recSelftest := satInc t.up.recSelftest }, mgt := { t.mgt with islFail := setBit t.mgt.islFail n (!passed) } }

/-- The event that tells of a test, to the partition that asked for it and to the operator. -/
def State.testTold (s : State) (q : Nat) (seq : Word) (data : List Byte) : State :=
  ((if q = 64 then s else s.raiseEvent (q - 48) 0x0701 q seq data).raiseEvent 16 0x0701 q seq data).reevaluate

theorem exec_selftestEnd {s : State} {q n kind : Nat} {r : Run} (h : s.mgmtBusy q 0x8E = some r) (aux : r.aux = [n, kind, 1])
    (ring : s.testRing n = some (q - 48)) (passed : Bool) (failing : Nat) :
    let info := selftestInfo kind passed failing
    let data := leBytes 1 n ++ leBytes 1 kind ++ leBytes 1 (b2n passed) ++ leBytes 1 0 ++ leBytes 4 info
    exec (.selftestEnd n passed failing) s =
      .next (((((ended (s.clearSp n) q r stDone info).testedIslet n passed).complete q 0).testTold q (eSeq r.entry) data)) := by
  intro info data
  obtain ⟨front, -, -, low⟩ := (mgmtBusy_iff ..).mp h
  have q48 : 48 + (q - 48) = q := by omega
  rw [← mgmtDone_eq_ended ((clearSp_runAt s n q 0).trans front)]
  show execSelftestEnd n passed failing s = _
  unfold execSelftestEnd
  show (match s.testRing n with
    | none => _
    | some i => _) = _
  rw [ring]
  dsimp only
  rw [q48, h]
  dsimp only
  rw [aux]
  rfl

theorem testReady_iff {s : State} {r : Run} {n kind : Nat} (aux : r.aux = [n, kind, 0]) :
    s.testReady r = true ↔ s.quiet n = true ∧ (s.islet n).testing = false ∧ s.on n = true := by
  unfold State.testReady
  rw [aux]
  simp [and_assoc]

theorem advanceTo_mgmtBusy (s : State) (time q op : Nat) : (s.advanceTo time).mgmtBusy q op = s.mgmtBusy q op := by
  rw [advanceTo_eq]
  rfl

/-- Settles O47: each row by its branch, and what a cleared scratchpad holds. -/
theorem selfTest : Obligations.SelfTest := by
  refine ⟨?_, ?_, ?_⟩
  · intro q s r h e n active islet code rest26 wait rest32
    have row := exec_selftest h islet code rest26 wait rest32
    refine ⟨fun tenant other => ?_, fun op busy => ?_, fun own idle => ?_⟩
    · exact row.trans (congrArg _ (if_pos ⟨tenant, other⟩))
    · refine row.trans (congrArg _ ((if_neg fun c => c.1 op).trans (if_pos ⟨op, (isletActive_iff s n).mpr busy⟩)))
    · have mine : ¬ (q ≠ 64 ∧ s.isletOwner n ≠ some (q - 48)) := fun c => c.2 (own c.1)
      have free : ¬ (q = 64 ∧ s.isletActive n = true) := fun c => idle c.1 ((isletActive_iff s n).mp c.2)
      refine ⟨fun off => ?_, fun on => ?_⟩
      · exact row.trans (congrArg _ ((if_neg mine).trans ((if_neg free).trans (if_pos (by simpa using off)))))
      · exact row.trans (congrArg _ ((if_neg mine).trans ((if_neg free).trans (if_neg (by simpa using on)))))
  · intro q n kind s r h
    refine ⟨?_, ?_, ?_⟩
    · intro aux quiet free on
      refine (exec_quiesceDone_test h ((testReady_iff aux).mpr ⟨quiet, free, on⟩)).trans (congrArg _ ?_)
      rw [startTest_eq h, aux]
      rfl
    · intro aux u t
      have row := exec_quiesceTimeout_test h (by simp [aux])
      dsimp only at row
      rw [advanceTo_testReady] at row
      refine ⟨fun ready => ?_, fun no => ?_⟩
      · rw [row, if_pos ((testReady_iff aux).mpr ready), startTest_eq ((advanceTo_mgmtBusy ..).trans h), aux]
        rfl
      · refine row.trans (congrArg _ ((if_neg fun c => ?_).trans ?_))
        · obtain ⟨quiet, free, on⟩ := (testReady_iff aux).mp c
          simp [quiet, free, on] at no
        · rw [aux]
          rfl
    · intro aux hq least passed failing
      exact exec_selftestEnd h aux (testRing_eq h aux hq least) passed failing
  · intro s n hn
    have size : spSize = 2 ^ 22 := rfl
    have islet := clearSp_islet s n
    refine ⟨fun off hoff => ?_, fun m off other hoff => ?_, ?_, ?_, ?_, ?_, ?_⟩
    · rw [clearSp_byte, if_pos]
      unfold spKey
      omega
    · rw [clearSp_byte, if_neg]
      unfold spKey
      rcases Nat.lt_or_gt_of_ne other with low | high
      · have := Nat.mul_le_mul_right spSize (Nat.succ_le_of_lt low)
        rw [Nat.succ_mul] at this
        omega
      · have := Nat.mul_le_mul_right spSize (Nat.succ_le_of_lt high)
        rw [Nat.succ_mul] at this
        omega
    all_goals rw [islet]
    all_goals rfl

end Sys2Proof.Machine
end

section
/-! PROOF. O48: CALIBRATE and LEDGER_AUDIT with what ends them. -/

namespace Sys2Proof.Machine

open Sys2Proof.Claims

/-! ### Field checks by their first failure (R219) -/

theorem firstBad_cons_clean {c : Nat × Bool} {l : List (Nat × Bool)} (h : c.2 = false) : firstBad (c :: l) = firstBad l := by
  obtain ⟨o, b⟩ := c
  obtain rfl : b = false := h
  rw [firstBad]
  cases firstBad l <;> rfl

theorem firstBad_cons_low {o : Nat} {l : List (Nat × Bool)} (least : ∀ c, c ∈ l → o ≤ c.1) : firstBad ((o, true) :: l) = some o := by
  rw [firstBad]
  cases h : firstBad l with
  | none => rfl
  | some m =>
    have := least (m, true) (firstBad_some l m h).1
    simp [this]

/-! ### CALIBRATE (R475) -/

section
variable {s : State} {r : Run}

/-- What a calibration needs of its target. -/
def State.calibrates (s : State) (kind target : Nat) : Bool :=
  if kind = 1 then s.on (20 + target) else if kind = 2 then (s.port target).st == .up else true

theorem calibrates_iff (s : State) (kind target : Nat) :
    s.calibrates kind target = true ↔ (kind = 1 → s.on (20 + target) = true) ∧ (kind = 2 → (s.port target).st = .up) := by
  unfold State.calibrates
  split
  · next one => simp [one]
  split
  · next two => simp [two]
  · next one two => simp [one, two]

theorem exec_calibrate (h : s.mgmtRun 64 0x8F = some r) (code : leAt r.entry 24 1 < 3)
    (target : leAt r.entry 25 1 ≤ (if leAt r.entry 24 1 = 0 then 0 else if leAt r.entry 24 1 = 1 then 1 else 9))
    (rest : (reservedBad r.entry 26 64).2 = false) :
    exec .calibrate s = .next (if s.calibrates (leAt r.entry 24 1)
      (leAt r.entry 25 1) then waits s 64 r [leAt r.entry 24 1, leAt r.entry 25 1]
      else malformed s 64 r subTargetState 25) := by
  have front := runAt_of_mgmtRun h
  rw [← mgmtWait_eq_waits front, ← mgmtMal_eq_malformed front]
  refine exec_desc_clean (c := .calibrate) rfl h ?_
  exact clean_cons.mpr ⟨by simpa using code, clean_cons.mpr ⟨decide_eq_false (Nat.not_lt.mpr target), clean_cons.mpr ⟨rest, clean_nil⟩⟩⟩

theorem exec_calibrationEnd (h : s.mgmtBusy 64 0x8F = some r) : exec .calibrationEnd s =
    .next (((ended s 64 r stDone 0).complete 64 0).raiseEvent 16 0x0702 64 (eSeq r.entry) (r.aux.map (BitVec.ofNat 8))) := by
  rw [← mgmtDone_eq_ended ((mgmtBusy_iff ..).mp h).1]
  show execCalibrationEnd s = _
  rw [execCalibrationEnd, h]

end

/-! ### LEDGER_AUDIT (R472) -/

section
variable {s : State} {q : Nat} {r : Run}

/-- The field checks of a LEDGER_AUDIT. -/
def auditChecks (q : Nat) (e : List Byte) : List (Nat × Bool) :=
  let kinds := leAt e 24 1
  let part := leAt e 25 1
  [ (24, decide (kinds = 0) || decide (32 ≤ kinds) || (q != 64 && bit kinds 0)),
    (25, if q = 64 then (decide (16 ≤ part) && part != 0xFF) || (bit kinds 0 && part != 0xFF) else part != ringPart q),
    reservedBad e 26 28, (28, decide (1000 < leAt e 28 4)), reservedBad e 32 64 ]

theorem exec_ledgerAudit_bad {o : Nat} (h : s.mgmtRun q 0x90 = some r) (bad : firstBad (auditChecks q r.entry) = some o) :
    exec (.ledgerAudit q) s = .next (malformed s q r subDesc o) :=
  exec_desc_bad (c := .ledgerAudit q) (checks := fun r => auditChecks q r.entry) rfl h bad

theorem exec_ledgerAudit (h : s.mgmtRun q 0x90 = some r) (clean : Clean (auditChecks q r.entry)) :
    let codes := (s.auditedPorts r.entry).map codePort ++ (s.auditedWindows r.entry).map (fun x => codeWindow x.1 x.2)
    exec (.ledgerAudit q) s = .next ((s.askOthers r.entry).mgmtWait q (0 :: 0 :: codes)).tryAudits := by
  intro codes
  exact exec_desc_clean (c := .ledgerAudit q) (checks := fun r => auditChecks q r.entry)
    (f := fun r => ((s.askOthers r.entry).mgmtWait q
      (0 :: 0 :: ((s.auditedPorts r.entry).map codePort ++ (s.auditedWindows r.entry).map fun x => codeWindow x.1 x.2))).tryAudits)
    rfl h clean

section
variable {e : List Byte} (some_ : 1 ≤ leAt e 24 1) (known : leAt e 24 1 < 32) (rest26 : (reservedBad e 26 28).2 = false)
  (wait : leAt e 28 4 ≤ 1000) (rest32 : (reservedBad e 32 64).2 = false)

theorem auditChecks_24 (tenant : q ≠ 64) (credits : bit (leAt e 24 1) 0 = true) : firstBad (auditChecks q e) = some 24 := by
  have fails : (decide (leAt e 24 1 = 0) || decide (32 ≤ leAt e 24 1) || (q != 64 && bit (leAt e 24 1) 0)) = true := by
    simp [tenant, credits]
  rw [auditChecks]
  rw [fails]
  refine firstBad_cons_low fun c hc => ?_
  simp only [List.mem_cons, List.not_mem_nil, or_false] at hc
  rcases hc with rfl | rfl | rfl | rfl <;> simp [reservedBad]

include some_ known rest26 wait rest32

/-- Where the kinds are allowed and the rest is clean, the checks are that of the partition. -/
theorem auditChecks_25 (kinds : q = 64 ∨ bit (leAt e 24 1) 0 = false) :
    firstBad (auditChecks q e) = firstBad [(25, if q = 64 then
      (decide (16 ≤ leAt e 25 1) && leAt e 25 1 != 0xFF) || (bit
        (leAt e 24 1) 0 && leAt e 25 1 != 0xFF) else leAt e 25 1 != ringPart q)] := by
  have allowed : (decide (leAt e 24 1 = 0) || decide (32 ≤ leAt e 24 1) || (q != 64 && bit (leAt e 24 1) 0)) = false := by
    rcases kinds with op | none_
    · simp [op]; omega
    · simp [none_]; omega
  have others : firstBad [reservedBad e 26 28, (28, decide (1000 < leAt e 28 4)), reservedBad e 32 64] = none :=
    (firstBad_none_iff _).mpr (clean_cons.mpr ⟨rest26, clean_cons.mpr ⟨by simpa using wait, clean_cons.mpr ⟨rest32, clean_nil⟩⟩⟩)
  rw [auditChecks]
  rw [firstBad_cons_clean allowed, firstBad, others, firstBad, firstBad]

end

/-- Nothing is off exactly where the totals go on and what is held and under way fits what was granted (R467). -/
theorem creditOff_none_iff (c : Credit) (returned : Nat) :
    creditOff c returned = none ↔ c.retSeen ≤ returned ∧ c.held + (returned - c.retSeen) ≤ c.granted := by
  unfold creditOff
  split
  · next back => simpa using fun on => absurd back (Nat.not_lt.mpr on)
  split
  · next more => simpa using fun _ => more
  · next on fits => exact ⟨fun _ => ⟨Nat.not_lt.mp on, Nat.not_lt.mp fits⟩, fun _ => rfl⟩

theorem auditEnd_waits (h : s.mgmtBusy q 0x90 = some r) {c : Nat} (hc : c ∈ r.aux.drop 2)
    (waiting : codeWaits c = true) : s.auditEnd q = s := by
  rw [State.auditEnd, h]
  exact if_pos (List.any_eq_true.mpr ⟨c, hc, waiting⟩)

theorem auditEnd_done (h : s.mgmtBusy q 0x90 = some r) (nothing : r.aux.drop 2 = []) :
    let o := s.auditObjects r.entry
    let checked := r.aux.getD 0 0 + o.count
    let skipped := r.aux.getD 1 0
    let t := (ended s q r stDone (checked % 2 ^ 16 + skipped * 2 ^ 16 + o.found.length * 2 ^ 32)).complete q 0
    let t := t.raiseEvent (s.queueEvent q) 0x0402 q (eSeq r.entry) (leBytes 2 checked ++ leBytes 2 skipped ++ leBytes 2 o.found.length)
    s.auditEnd q = o.found.foldl (fun u x => u.judge (some x)) t := by
  intro o checked skipped t1 t
  have front := ((mgmtBusy_iff ..).mp h).1
  rw [State.auditEnd, h]
  dsimp only
  rw [nothing]
  simp only [List.any_nil, List.length_nil, Nat.zero_add, List.foldl_nil, mgmtDone_eq_ended front]
  rfl

theorem exec_auditWaitTimeout (h : s.mgmtBusy q 0x90 = some r) :
    let t := s.advanceTo (r.start + leAt r.entry 28 4 * msTicks)
    exec (.auditWaitTimeout q) s =
      .next (((r.aux.drop 2).filter (fun c => codeWaits c && (decide (0x200 ≤ c) || (t.port (c - 0x100)).st != .up))).foldl
        (fun u c => u.auditStep q c [] true) t).tryAudits := by
  show execAuditWaitTimeout q s = _
  rw [execAuditWaitTimeout, h]

end

/-- Settles O48: each row by its branch. -/
theorem calibrationAndAudit : Obligations.CalibrationAndAudit := by
  refine ⟨fun s r h => ?_, fun s r => exec_calibrationEnd, fun q s r h => ?_, ?_, creditOff_none_iff, fun q s r h => ?_⟩
  · intro kind target ready code most rest
    have row := exec_calibrate h code most rest
    have iff := calibrates_iff s kind target
    exact ⟨fun on => row.trans (congrArg _ (if_pos (iff.mpr on))), fun off => row.trans (congrArg _ (if_neg fun c => off (iff.mp c)))⟩
  · intro e kinds part some_ known rest26 wait rest32
    have own := auditChecks_25 (q := q) some_ known rest26 wait rest32
    refine ⟨fun ⟨tenant, credits⟩ => exec_ledgerAudit_bad h (auditChecks_24 tenant credits), fun tenant none_ other => ?_, fun op bad => ?_,
      fun ok => ?_⟩
    · refine exec_ledgerAudit_bad h ((own (.inr none_)).trans ?_)
      rw [if_neg tenant, show (leAt r.entry 25 1 != ringPart q) = true from bne_iff_ne.mpr other]
      rfl
    · refine exec_ledgerAudit_bad h ((own (.inl op)).trans ?_)
      rw [if_pos op, show ((decide (16 ≤ leAt r.entry 25 1) && leAt r.entry 25 1 != 0xFF) ||
        (bit (leAt r.entry 24 1) 0 && leAt r.entry 25 1 != 0xFF)) = true by simpa using bad]
      rfl
    · refine exec_ledgerAudit h ((firstBad_none_iff _).mp ((own ?_).trans ?_))
      · exact ok.elim (fun ten => .inr ten.2.1) (fun op => .inl op.1)
      rcases ok with ⟨tenant, -, same⟩ | ⟨op, free⟩
      · rw [if_neg tenant, show (leAt r.entry 25 1 != ringPart q) = false from bne_eq_false_iff_eq.mpr same]
        rfl
      · rw [if_pos op, show ((decide (16 ≤ leAt r.entry 25 1) && leAt r.entry 25 1 != 0xFF) ||
          (bit (leAt r.entry 24 1) 0 && leAt r.entry 25 1 != 0xFF)) = false by 
          rcases free with all | ⟨low, none_⟩
          · simp [show leAt r.entry 25 1 = 0xFF from all]
          · simp [show bit (leAt r.entry 24 1) 0 = false from none_, show leAt r.entry 25 1 < 16 from low]]
        rfl
  · exact fun p raw f returned s taken => linkReceive_acts taken rfl
  · exact ⟨exec_auditWaitTimeout h, fun c => auditEnd_waits h, auditEnd_done h⟩

end Sys2Proof.Machine
end

section
/-! PROOF. O31: the pin output registers change only owned pins. -/

namespace Sys2Proof.Machine

open Sys2Proof.Claims

/-! ### The pins of a writer (R481, R482) -/

/-- Bits set one by one from a rule: those of the list are the rule's. -/
theorem getLsbD_foldl_setBit {w : Nat} (f : Nat → Bool) (l : List Nat) (inside : ∀ i, i ∈ l → i < w) (v : BitVec w) (k : Nat) :
    (l.foldl (fun m i => setBit m i (f i)) v).getLsbD k = if k ∈ l then f k else v.getLsbD k := by
  induction l using List.reverseRecOn with
  | nil => rfl
  | append_singleton l x ih =>
    rw [List.foldl_append, List.foldl_cons, List.foldl_nil, getLsbD_setBit _ (inside x (by simp)),
      ih fun i hi => inside i (List.mem_append_left _ hi)]
    by_cases h : k = x
    · simp [h]
    · simp [h]

theorem getLsbD_ownedPins (s : State) (w : Writer) {k : Nat} (hk : k < 24) : (s.ownedPins w).getLsbD k = s.ownsPin w k :=
  (getLsbD_foldl_setBit _ _ (fun _ h => List.mem_range.mp h) _ _).trans (if_pos (List.mem_range.mpr hk))

theorem ownsPin_iff (s : State) (w : Writer) (k : Nat) :
    let o := (s.pin k).owner
    let n := o.toNat - 0x10
    (s.ownsPin w k = true ↔ match w with
      | .host => o = 0
      | .goose => o = 1 ∨ (0x10 ≤ o.toNat ∧ s.isletOwner n = none)
      | .part p => 0x10 ≤ o.toNat ∧ s.isletOwner n = some p
      | .nobody => False) := by
  cases w <;> simp [State.ownsPin, ownHost, ownGoose]

/-! ### A write of an output register (R486, R498) -/

/-- The bits of a shared pin register that are kept now. -/
def State.liveMask (s : State) : BitVec 24 := if s.on 32 then 0xFFFFFF else 0xFF

/-- The output registers after a write that would change the pins of `w`. -/
def State.turnOut (s : State) (own w : BitVec 24) : State :=
  { s with gpio := { s.gpio with out := s.gpio.out ^^^ (w &&& own),
                                 deny := if w &&& ~~~own = 0 then s.gpio.deny else satInc s.gpio.deny } }

theorem changeOut_eq (s : State) (w : Writer) (want : BitVec 24) : s.changeOut w want = s.turnOut (s.ownedPins w) want := by
  unfold State.changeOut State.turnOut State.deny
  by_cases mine : want &&& ~~~s.ownedPins w = 0
  · simp only [if_pos mine]
  · simp only [if_neg mine]

section
variable {s : State} {m : Master} {fn o : Nat}

/-- What is discarded with the pins of main I/O makes no difference to what a write would change of the others. -/
theorem writeOut_eq (a : Acc) (v : BitVec 24) (want : BitVec 24 → BitVec 24)
    (local_ : ∀ l : BitVec 24, want (v &&& l) &&& l = want v &&& l) :
    s.writeOut a v.toNat want =
      (let t := s.turnOut (s.ownedPins (writerOf a)) (want v &&& s.liveMask)
       if s.on 32 = false ∧ v >>> 8 ≠ 0 then t.logAccess causeState a true else t) := by
  have same : BitVec.ofNat 24 v.toNat = v := by simp
  cases on : s.on 32
  · simp [State.writeOut, State.livePins, State.liveMask, on, same, changeOut_eq, local_, State.logIf]
  · simp [State.writeOut, State.livePins, State.liveMask, on, same, changeOut_eq, State.logIf]

/-- GOOSE has no meaning of its own for a register of the outputs. -/
theorem writeOutReg_of_gpio {a : Acc} {r : Reg} {v : Nat}
    (row : s.writeOutReg a r v = (if a.master = .goose then s else s).writeGpio a r v) : s.writeOutReg a r v = s.writeGpio a r v :=
  row.trans (by rw [ite_self])

/-- A write of an output register, by what its value would change. -/
theorem exec_outputWrite {c : Instr} {r : Reg} {v : BitVec 24} {want : BitVec 24 → BitVec 24} (row : exec c s = s.put m fn o v.toNat)
    (h : Reaches s m fn o true r) (low : 0x50000 ≤ o) (high : o < 0x51000)
    (reg : s.writeOutReg (accOf m fn o) r v.toNat = s.writeGpio (accOf m fn o) r v.toNat)
    (out : s.writeGpio (accOf m fn o) r v.toNat = s.writeOut (accOf m fn o) v.toNat want)
    (local_ : ∀ l : BitVec 24, want (v &&& l) &&& l = want v &&& l) :
    exec c s = .next
      (let t := s.turnOut (s.ownedPins (onBehalf m fn)) (want v &&& s.liveMask)
       if s.on 32 = false ∧ v >>> 8 ≠ 0 then t.logAccess causeState (accOf m fn o) true else t) := by
  have fits : v.toNat < 2 ^ 32 := lt_trans v.isLt (by decide)
  rw [row, put_of_reaches h (accOf_off_pins m fn low high) fits, reg, out, writeOut_eq _ _ _ local_]
  rfl

end

/-! ### What a value would change, bit by bit -/

section
variable (v l x : BitVec 24)

theorem xor_and_local : ((v &&& l) ^^^ x) &&& l = (v ^^^ x) &&& l := by
  ext i hi
  simp only [BitVec.getElem_and, BitVec.getElem_xor]
  cases l[i] <;> simp

theorem and_and_local : ((v &&& l) &&& x) &&& l = (v &&& x) &&& l := by
  ext i hi
  simp only [BitVec.getElem_and]
  cases l[i] <;> simp

end

/-- Settles O31: each register's rule, and the pins of each writer. -/
theorem pinOutputs : Obligations.PinOutputs := by
  refine ⟨fun m fn v s => ?_, fun s w k hk => ?_⟩
  · intro own out live turned
    exact ⟨fun h => exec_outputWrite (want := fun x => x ^^^ s.gpio.out) rfl h (by decide) (by decide) (writeOutReg_of_gpio rfl) rfl
        fun l => xor_and_local v l _,
      fun h => exec_outputWrite (want := fun x => x &&& ~~~s.gpio.out) rfl h (by decide) (by decide) (writeOutReg_of_gpio rfl) rfl
        fun l => and_and_local v l _,
      fun h => exec_outputWrite (want := fun x => x &&& s.gpio.out) rfl h (by decide) (by decide) (writeOutReg_of_gpio rfl) rfl
        fun l => and_and_local v l _,
      fun h => exec_outputWrite (want := id) rfl h (by decide) (by decide) (writeOutReg_of_gpio rfl) rfl
        fun l => by rw [id, id, BitVec.and_assoc, BitVec.and_self]⟩
  · exact (getLsbD_ownedPins s w hk).symm ▸ ownsPin_iff s w k

end Sys2Proof.Machine
end
